-- ==== Sys2Proof/Word.lean ====
section
/-! DEFINITION. The machine's word types and the type of sparse maps (plain lists). -/

namespace Sys2Proof

/-- A byte (00 R8). -/
abbrev Byte := BitVec 8
/-- A 32-bit word: a tile lane or an accumulator element (07 R181, 05 R154). -/
abbrev W32 := BitVec 32
/-- A 64-bit word: an s-register, a C-space register, an instruction word (03 R68, R77, 00 R12). -/
abbrev W64 := BitVec 64

/-- A sparse map from numbers to values: keys strictly rising, no entry holding the default value.
`Machine/Ops.lean` reads and writes it. -/
abbrev SMap (α : Type) := List (Nat × α)

end Sys2Proof
end

