-- ==== Sys2Proof/Syntax.lean ====
section
/-! DEFINITION. The commands: one constructor per row of spec/opcode_table.json, with their operands.
A Rowyn instruction names the core that issues it and carries the fields of its word (03 R77, Table 3-11);
every other command carries what arrives from outside the module or which unit reaches the event. -/

namespace Sys2Proof

/-- Predicate fields of an instruction word, bits 51:48 (03 R77). -/
structure Head where
  pn   : BitVec 1
  pred : BitVec 3
  deriving DecidableEq, Repr

/-- Operand fields of format S (03 R80, Table 3-11). -/
structure FmtS where
  sd  : BitVec 5
  sa  : BitVec 5
  sb  : BitVec 5
  i   : BitVec 1
  imm : BitVec 32
  deriving DecidableEq, Repr

/-- Operand fields of format B (03 R80, Table 3-11). -/
structure FmtB where
  ka     : BitVec 1
  ra     : BitVec 5
  kb     : BitVec 1
  rb     : BitVec 5
  cond   : BitVec 4
  offset : BitVec 32
  deriving DecidableEq, Repr

/-- Operand fields of format M (03 R80, Table 3-11); `rsv` is bits 5:0. -/
structure FmtM where
  fa  : BitVec 4
  fb  : BitVec 4
  sma : BitVec 2
  smb : BitVec 2
  acc : BitVec 1
  clr : BitVec 1
  ta  : BitVec 1
  tb  : BitVec 1
  pr  : BitVec 1
  sa  : BitVec 5
  sb  : BitVec 5
  sc  : BitVec 5
  k   : BitVec 10
  rsv : BitVec 6
  deriving DecidableEq, Repr

/-- Operand fields of format V (03 R80, Table 3-11). -/
structure FmtV where
  td   : BitVec 3
  ta   : BitVec 3
  tb   : BitVec 3
  tc   : BitVec 3
  fmt  : BitVec 4
  sm   : BitVec 2
  sr   : BitVec 5
  md   : BitVec 3
  row0 : BitVec 5
  nrow : BitVec 5
  imm  : BitVec 12
  deriving DecidableEq, Repr

/-- Operand fields of format D (03 R80, Table 3-11); `rsv` is bits 33:0. -/
structure FmtD where
  ch    : BitVec 3
  sdesc : BitVec 5
  ndesc : BitVec 6
  rsv   : BitVec 34
  deriving DecidableEq, Repr

/-- Operand fields of format Y (03 R80, Table 3-11); `rsv` is bits 26:0. -/
structure FmtY where
  sem  : BitVec 6
  sv   : BitVec 5
  core : BitVec 7
  cond : BitVec 3
  rsv  : BitVec 27
  deriving DecidableEq, Repr

/-- The three instruction queues of a core (04 R100). -/
inductive IQueue where
  | matrix | vector | dma
  deriving DecidableEq, Repr

/-- The three pipes that hold a running operation (04 R103, 07 R184). -/
inductive Pipe where
  | array | port | vector
  deriving DecidableEq, Repr

/-- The tiers of a fold (14 R390). -/
inductive Tier where
  | t1 | t2 | t3
  deriving DecidableEq, Repr

/-- Bakener ports in the order of 16 R454: N = 0, E = 1, S = 2, W = 3. -/
inductive BPort where
  | n | e | s | w
  deriving DecidableEq, Repr

/-- Host ports H0 to H3 (00 R4). -/
inductive HPort where
  | h0 | h1 | h2 | h3
  deriving DecidableEq, Repr

/-- What a drain of 200 us closes (13 R377). -/
inductive DrainTarget where
  | teardown (part : BitVec 4)
  | release (part : BitVec 4)
  | window (win : BitVec 6)
  | qp (q : BitVec 12)
  | port (p : BPort)
  | quad (q : Nat)
  deriving DecidableEq, Repr

/-- What a training or a retrain of a Bakener port found (16 Table 16-9): the steps passed, the failing lanes, of
which lane 16 is the spare, the peer's identifier and the measured path delay in ns. -/
structure TrainResult where
  ok      : Bool
  failing : List Nat
  peer    : BitVec 10
  pdelay  : BitVec 16
  deriving DecidableEq, Repr

/-- A RoCEv2 packet as the host edge sees it before its QP takes it (17 R456, R466). -/
structure RocePacket where
  qp     : BitVec 12
  fcsOk  : Bool
  ipOk   : Bool
  icrcOk : Bool
  ce     : Bool
  len    : Nat
  deriving DecidableEq, Repr

/-- An ARP frame (17 R457). -/
structure ArpFrame where
  request   : Bool
  targetIp  : W32
  senderIp  : W32
  senderMac : BitVec 48
  deriving DecidableEq, Repr

/-- An IPv6 Neighbor Discovery frame (17 R457). -/
structure NdFrame where
  solicit   : Bool
  targetIp  : BitVec 128
  senderIp  : BitVec 128
  senderMac : BitVec 48
  deriving DecidableEq, Repr

/-- Why a frame is dropped (17 R456): of no supported kind, bad FCS, bad IP header checksum, bad invariant CRC, or lost to a codeword that
the FEC cannot correct (17 R477). -/
inductive DropReason where
  | kind | fcs | ipChecksum | icrc | codeword
  deriving DecidableEq, Repr

/-- A connection request: its private data, path MTU code (1 to 5), the peer's QP number and its address, an IPv4 address in bits 31:0
(17 R457, R459). -/
structure CmReq where
  priv : List Byte
  mtu  : BitVec 3
  rqpn : BitVec 24
  peer : BitVec 128
  deriving DecidableEq, Repr

/-- What bring-up finds in the unit (19 Table 19-5, R518): failing bonds of each slice, quads that fail self-test, whether the flash
subsystem passes, and how the board ties the SMBus address straps, SMB_A0 in bit 0 and SMB_A1 in bit 1 (21 R547). -/
structure BringUp where
  badBonds : List (Nat × List Nat)
  badQuads : List Nat
  flashOk  : Bool
  straps   : BitVec 2
  deriving DecidableEq, Repr

/-- The slot whose descriptor ends, and the bits that its bytes lose on their way: byte of the descriptor and nine bits, bit 8 the
parity bit (08 R217, 09 R239). -/
structure DescEnd where
  slot  : Nat
  flips : List (Nat × BitVec 9)
  deriving DecidableEq, Repr

/-- The commands, one per row of spec/opcode_table.json, in its order. -/
inductive Instr where
  | add (core : Nat) (h : Head) (o : FmtS)
  | sub (core : Nat) (h : Head) (o : FmtS)
  | mul (core : Nat) (h : Head) (o : FmtS)
  | mulh (core : Nat) (h : Head) (o : FmtS)
  | mulhu (core : Nat) (h : Head) (o : FmtS)
  | and (core : Nat) (h : Head) (o : FmtS)
  | or (core : Nat) (h : Head) (o : FmtS)
  | xor (core : Nat) (h : Head) (o : FmtS)
  | shl (core : Nat) (h : Head) (o : FmtS)
  | shr (core : Nat) (h : Head) (o : FmtS)
  | sra (core : Nat) (h : Head) (o : FmtS)
  | min (core : Nat) (h : Head) (o : FmtS)
  | max (core : Nat) (h : Head) (o : FmtS)
  | minu (core : Nat) (h : Head) (o : FmtS)
  | maxu (core : Nat) (h : Head) (o : FmtS)
  | pcmpEq (core : Nat) (h : Head) (o : FmtS)
  | pcmpNe (core : Nat) (h : Head) (o : FmtS)
  | pcmpLt (core : Nat) (h : Head) (o : FmtS)
  | pcmpGe (core : Nat) (h : Head) (o : FmtS)
  | pcmpLtu (core : Nat) (h : Head) (o : FmtS)
  | pcmpGeu (core : Nat) (h : Head) (o : FmtS)
  | pand (core : Nat) (h : Head) (o : FmtS)
  | por (core : Nat) (h : Head) (o : FmtS)
  | pxor (core : Nat) (h : Head) (o : FmtS)
  | pnot (core : Nat) (h : Head) (o : FmtS)
  | ldB (core : Nat) (h : Head) (o : FmtS)
  | ldBu (core : Nat) (h : Head) (o : FmtS)
  | ldH (core : Nat) (h : Head) (o : FmtS)
  | ldHu (core : Nat) (h : Head) (o : FmtS)
  | ldW (core : Nat) (h : Head) (o : FmtS)
  | ldWu (core : Nat) (h : Head) (o : FmtS)
  | ldD (core : Nat) (h : Head) (o : FmtS)
  | stB (core : Nat) (h : Head) (o : FmtS)
  | stH (core : Nat) (h : Head) (o : FmtS)
  | stW (core : Nat) (h : Head) (o : FmtS)
  | stD (core : Nat) (h : Head) (o : FmtS)
  | crd (core : Nat) (h : Head) (o : FmtS)
  | cwr (core : Nat) (h : Head) (o : FmtS)
  | mvm (core : Nat) (h : Head) (o : FmtS)
  | rdclk (core : Nat) (h : Head) (o : FmtS)
  | rdtick (core : Nat) (h : Head) (o : FmtS)
  | li64 (core : Nat) (h : Head) (o : FmtS) (imm64 : W64)
  | brCond (core : Nat) (h : Head) (o : FmtB)
  | call (core : Nat) (h : Head) (o : FmtB)
  | jr (core : Nat) (h : Head) (o : FmtB)
  | bdnz (core : Nat) (h : Head) (o : FmtB)
  | ssigAdd (core : Nat) (h : Head) (o : FmtY)
  | ssigSet (core : Nat) (h : Head) (o : FmtY)
  | swait (core : Nat) (h : Head) (o : FmtY)
  | swaitRelease (core : Nat)
  | lfence (core : Nat) (h : Head) (o : FmtY)
  | lfenceRelease (core : Nat)
  | halt (core : Nat) (h : Head) (o : FmtY)
  | strap (core : Nat) (h : Head) (o : FmtY)
  | mmac (core : Nat) (h : Head) (o : FmtM)
  | mdrain (core : Nat) (h : Head) (o : FmtM)
  | mload (core : Nat) (h : Head) (o : FmtM)
  | mzero (core : Nat) (h : Head) (o : FmtM)
  | vadd (core : Nat) (h : Head) (o : FmtV)
  | vsub (core : Nat) (h : Head) (o : FmtV)
  | vmul (core : Nat) (h : Head) (o : FmtV)
  | vmulh (core : Nat) (h : Head) (o : FmtV)
  | vand (core : Nat) (h : Head) (o : FmtV)
  | vor (core : Nat) (h : Head) (o : FmtV)
  | vxor (core : Nat) (h : Head) (o : FmtV)
  | vandn (core : Nat) (h : Head) (o : FmtV)
  | vnot (core : Nat) (h : Head) (o : FmtV)
  | vshl (core : Nat) (h : Head) (o : FmtV)
  | vshr (core : Nat) (h : Head) (o : FmtV)
  | vsra (core : Nat) (h : Head) (o : FmtV)
  | vrotl (core : Nat) (h : Head) (o : FmtV)
  | vimin (core : Nat) (h : Head) (o : FmtV)
  | vimax (core : Nat) (h : Head) (o : FmtV)
  | vfadd (core : Nat) (h : Head) (o : FmtV)
  | vfsub (core : Nat) (h : Head) (o : FmtV)
  | vfmul (core : Nat) (h : Head) (o : FmtV)
  | vfma (core : Nat) (h : Head) (o : FmtV)
  | vfmin (core : Nat) (h : Head) (o : FmtV)
  | vfmax (core : Nat) (h : Head) (o : FmtV)
  | vfcmp (core : Nat) (h : Head) (o : FmtV)
  | vsel (core : Nat) (h : Head) (o : FmtV)
  | vneg (core : Nat) (h : Head) (o : FmtV)
  | vabs (core : Nat) (h : Head) (o : FmtV)
  | vcpsgn (core : Nat) (h : Head) (o : FmtV)
  | vexp2 (core : Nat) (h : Head) (o : FmtV)
  | vlog2 (core : Nat) (h : Head) (o : FmtV)
  | vrcp (core : Nat) (h : Head) (o : FmtV)
  | vrsqrt (core : Nat) (h : Head) (o : FmtV)
  | vtanh (core : Nat) (h : Head) (o : FmtV)
  | vld (core : Nat) (h : Head) (o : FmtV)
  | vst (core : Nat) (h : Head) (o : FmtV)
  | vcvti (core : Nat) (h : Head) (o : FmtV)
  | vcvtf (core : Nat) (h : Head) (o : FmtV)
  | vredRow (core : Nat) (h : Head) (o : FmtV)
  | vredCol (core : Nat) (h : Head) (o : FmtV)
  | vredall (core : Nat) (h : Head) (o : FmtV)
  | vcmpcnt (core : Nat) (h : Head) (o : FmtV)
  | vqapp (core : Nat) (h : Head) (o : FmtV)
  | vsmstat (core : Nat) (h : Head) (o : FmtV)
  | vsmexp (core : Nat) (h : Head) (o : FmtV)
  | vrng (core : Nat) (h : Head) (o : FmtV)
  | vmov (core : Nat) (h : Head) (o : FmtV)
  | vbcast (core : Nat) (h : Head) (o : FmtV)
  | vzero (core : Nat) (h : Head) (o : FmtV)
  | vtopk (core : Nat) (h : Head) (o : FmtV)
  | rgsum (core : Nat) (h : Head) (o : FmtV)
  | rdisp (core : Nat) (h : Head) (o : FmtY)
  | rcomb (core : Nat) (h : Head) (o : FmtY)
  | dma (core : Nat) (h : Head) (o : FmtD)
  | dwait (core : Nat) (h : Head) (o : FmtD)
  | dwaitall (core : Nat) (h : Head) (o : FmtD)
  | dwaitRelease (core : Nat)
  | issueStallEnd (core : Nat)
  | queuedInstrStart (core : Nat) (q : IQueue)
  | instrComplete (core : Nat) (u : Pipe)
  | mangleBlockDecode (core : Nat)
  | dmaDescriptorStart (core : Nat) (ch : BitVec 3)
  | dmaDescriptorComplete (core : Nat) (slot : DescEnd)
  | dmaDescriptorTimeout (core : Nat) (slot : Nat)
  | networkRequestTimeout (core : Nat) (slot : Nat)
  | remoteCompletionTimeout (uid : Nat)
  | dispatchTimeout (req : Nat)
  | rowRemapDone (slice : Nat)
  | sliceRetrain (slice : Nat)
  | sliceRetrainRelease (slice : Nat)
  | refreshHold (slice : Nat)
  | stackTempSample (slice : Nat) (l0 l7 : Int)
  | patrolScrub (slice : Nat) (granule : Nat) (upset : List (Nat × BitVec 9))
  | junctionSample (quad : Nat) (temp : Int)
  | thermalCut (quad : Nat) (temp : Int)
  | tickOpen
  | storeComplete (part : BitVec 4)
  | tstLoopEnd (errors : Nat)
  | planFetch
  | planArrival (bytes : List Byte)
  | close
  | statusSeal
  | warmReset
  | foldSegmentStream (part : BitVec 4)
  | foldSegmentComplete (part : BitVec 4) (tier : Tier)
  | logRecordWrite (part : BitVec 4)
  | commitDigestCompute (part : BitVec 4)
  | restorePage (seqid : Nat)
  | digestHash
  | poisonPageRefill (page : Nat)
  | attributeWriteComplete (granule : Nat)
  | granuleScrubComplete (granule : Nat)
  | drainExpiry (target : DrainTarget)
  | pendingKeyExpire (part : BitVec 4)
  | routeAdmit (layer : Nat)
  | sourceDonePoll (layer : Nat)
  | combineCollectDone (req : Nat)
  | tickMarker (port : BPort) (flit : List Byte)
  | markLost
  | flitData (port : BPort) (flit : List Byte)
  | flitNak (port : BPort) (flit : List Byte)
  | flitCtrl (port : BPort) (flit : List Byte)
  | flitIdle (port : BPort) (flit : List Byte)
  | replayTimeout (port : BPort)
  | txnWrite
  | txnAdd
  | txnRead
  | txnReadrsp
  | txnAcks
  | txnRefuse
  | acksFlush (chip : BitVec 10)
  | portTraining (port : BPort)
  | portTrainingComplete (port : BPort) (res : TrainResult)
  | portDownRetry (port : BPort)
  | portRetrain (port : BPort)
  | portRetrainComplete (port : BPort) (res : TrainResult)
  | fecErrorWindow (port : BPort) (lane : Nat) (errors : Nat)
  | laneLockLoss (port : BPort) (lane : Nat)
  | rocePacket (port : HPort) (pkt : RocePacket)
  | arpFrame (port : HPort) (arp : ArpFrame)
  | ndFrame (port : HPort) (nd : NdFrame)
  | icmpEchoRequest (port : HPort) (v6 : Bool) (dst : BitVec 128) (payload : List Byte)
  | pfcFrame (port : HPort) (prio : BitVec 3) (quanta : BitVec 16)
  | unsupportedFrame (port : HPort) (why : DropReason)
  | cmReq (port : HPort) (req : CmReq)
  | cmRtu (qp : BitVec 12)
  | cmDreq (qp : BitVec 12)
  | cmDrep (qp : BitVec 12)
  | qpDreqTimeout (qp : BitVec 12)
  | cspaceRdmaRead (qp : BitVec 12) (va : W64) (len : Nat)
  | hostRdmaWrite (qp : BitVec 12) (rkey : W32) (va : W64) (data : List Byte)
  | hostRdmaRead (qp : BitVec 12) (rkey : W32) (va : W64) (len : Nat)
  | unsupportedRdmaOp (qp : BitVec 12)
  | rdmaReadResponse (qp : BitVec 12) (data : List Byte)
  | roceAck (qp : BitVec 12)
  | roceNak (qp : BitVec 12) (seqErr : Bool)
  | roceAckTimeout (qp : BitVec 12)
  | cnpReceive (qp : BitVec 12)
  | cnpRateRaise (qp : BitVec 12)
  | hostPortTrained (port : HPort)
  | hostLinkLoss (port : HPort)
  | ownerHelloPoll (hello : List Byte)
  | ownerHelloTimeout
  | eventRecordWrite
  | smbIdentity
  | smbDieTemp
  | smbStackTemp
  | smbThermalStatus
  | smbPortState
  | smbOtherNack
  | jtagBypass
  | jtagIdcode
  | jtagSamplePreload
  | jtagExtest (drive : BitVec 13)
  | powerOn (input : BitVec 16) (unit : BringUp)
  | moduleReset (lowNs : Nat)
  | inputUndervoltage (input : BitVec 16) (lowUs : Nat)
  | belfryWatchdog
  | quadRampComplete (quad : Nat)
  | quadCycleOffEnd (quad : Nat)
  | regulatorRefill
  | pfcPauseExpiry (port : HPort) (prio : BitVec 3)
  | hostPortTrainingFailed (port : HPort)
  | mrstNRelease (unit : BringUp)
  | inputLeavesRange (input : BitVec 16)
  | flashWearLevelling
  | firmwareUpdateComplete
  | attestationReportSigned
  deriving DecidableEq, Repr

end Sys2Proof
end

