-- ==== Sys2Proof/Config.lean ====
section
/-! DEFINITION. What one part fixes and what the spec leaves open: free values are opaque constants of this file,
so that no proof can see them (log 7, 8, 15). -/

namespace Sys2Proof.Config

/-- The k-th free 64-bit value (log 7). -/
opaque freeWord : Nat → BitVec 64
/-- The k-th free count (log 7, 12). -/
opaque freeNat : Nat → Nat
/-- The value a transcendental picks within its error bound (07 R188; log 8): function, input bits, FLUSH. -/
opaque transPick : Nat → BitVec 32 → Bool → Nat
/-- The bond that carries a byte's bits in its slice (09 R251; log 26). -/
opaque bondOf : Nat → Nat
/-- The part's device identity secret DIK (18 R486; log 15). -/
opaque dik : List Byte
/-- ML-KEM-1024 key generation from 64 bytes of randomness: decapsulation key, encapsulation key (log 15). -/
opaque kemKeyGen : List Byte → List Byte × List Byte
/-- ML-KEM-1024 decapsulation: key, ciphertext, shared secret (log 15). -/
opaque kemDecaps : List Byte → List Byte → List Byte
/-- SLH-DSA public key of a secret key (log 15). -/
opaque slhPublic : List Byte → List Byte
/-- SLH-DSA signature of a message under a secret key (log 15). -/
opaque slhSign : List Byte → List Byte → List Byte
/-- SLH-DSA verification: public key, message, signature (log 15). -/
opaque slhVerify : List Byte → List Byte → List Byte → Bool
/-- The Sallaoth firmware key fused into the part (18 R489; log 15). -/
opaque fwKey : List Byte
/-- The k-th block of random bytes of the belfry's source (log 7, 15). -/
opaque freeBytes : Nat → Nat → List Byte

/-- The R_Key that a descriptor's host access carries on a queue pair, which no field gives (17; log 34). -/
opaque hostRkey : Nat → BitVec 32

/-- The draw of domain d (30: the input) at a clk, in the register's unit (19 R520; log 39). -/
opaque draw : Nat → Nat → Nat

/-- A field of a job status entry that the spec gives no meaning for the entry's outcome: tick, entry, field (13 Table
13-10; log 59). -/
opaque openField : Nat → Nat → Nat → Nat

/-- The check of the belfry's SRAM finds a parity error in the state of a sequence (14 R403; log 99): free index, SEQID. -/
opaque sramUpset : Nat → Nat → Bool

/-- The bytes of the factory image in both boot-flash slots (18 R489; log 20). -/
opaque factoryImage : List (BitVec 8)

/-- The i-th character of the part's serial number (17 R476; log 21). -/
opaque serial : Nat → BitVec 8

end Sys2Proof.Config
end

