-- ==== Sys2Proof/Machine/State.lean ====
section
/-! DEFINITION. The state of the module as plain data, the stops, and the state right after reset.
Registers the manual numbers are held by their fields; `Machine/CSpace.lean` puts them together for a read.
Sparse maps hold 0 (or the default named at the field) at every key they do not list. -/

namespace Sys2Proof.Machine

open Sys2Proof

/-! ### A core -/

/-- One registered range: granule-aligned, in S-space (`sp` = 0) or B-space (`sp` = 2) (08 R224, R228). -/
structure Range where
  wr    : Bool
  sp    : Nat
  first : Nat
  last  : Nat
  deriving DecidableEq, Repr

/-- A range-tracker entry: the instruction that owns it (issue number), which of its descriptors, its ranges (08 R223). -/
structure TrkEntry where
  seq : Nat
  sub : Nat
  r1  : Option Range
  r2  : Option Range
  deriving DecidableEq, Repr

/-- An instruction that has issued and waits in a queue or runs in a pipe: issue number, address, word, the
values of ACR, SRSEED and SRSTREAM taken at issue (04 R110), its counter base, the s-register operands read at
its start (07 R185), the rows or steps already done (03 R93) and the clk of its start. -/
structure Uop where
  seq     : Nat
  pc      : W64
  word    : W64
  acr     : W64
  seed    : W64
  stream  : W64
  ctr     : W64
  sv      : List W64
  done    : Nat
  startAt : Nat
  deriving DecidableEq, Repr

/-- How far an outstanding descriptor has come (08 R215, Table 8-8): not started; started, with the bytes it has moved in the
order of R218; an edge read whose response data is still to be written here; its accesses here finished, with
acknowledgements to come; complete. -/
inductive DescSt where
  | queued
  | moving (done : Nat)
  | landing
  | await
  | complete
  deriving DecidableEq, Repr

/-- An outstanding descriptor: the `dma` that queued it, its place in that list, its channel, its eight words
as read (08 R216), how far it is, when it started and when its last request was served, its position among the float-add descriptors of
the tick, and the source bytes that its last turn left over (10 Table 10-5; log 18). -/
structure Desc where
  seq     : Nat
  sub     : Nat
  pc      : W64
  ch      : Nat
  words   : List W64
  st      : DescSt
  startAt : Nat
  turnAt  : Nat
  heldFor : Nat
  addPos  : Nat
  uid     : Nat
  buf     : List Byte
  deriving DecidableEq, Repr

/-- A `dma` waiting in the DMA queue with the descriptors read at its issue, of which the first `read` are queued (08 R229). -/
structure DmaWait where
  op    : Uop
  ch    : Nat
  descs : List (List W64)
  read  : Nat
  deriving DecidableEq, Repr

/-- A routing request that has issued and whose record the belfry has not read yet (12 R317, R332): its instruction, whether it is
a combine request, its semaphore, the record's place and length in S-space, and the clk of its issue. -/
structure HandOff where
  seq  : Nat
  pc   : W64
  comb : Bool
  sem  : Nat
  addr : Nat
  len  : Nat
  at'  : Nat
  deriving DecidableEq, Repr

/-- Why issue is held; the PC stays at the held instruction (04 R101, R113, R132). A held `swait` carries the values its semaphore
has taken since (10 R269). -/
inductive Hold where
  | none
  | stall (word ext : W64)
  | swait (word : W64) (seen : List W64)
  | lfence
  | dwait (ch : Nat)
  | dwaitall
  deriving DecidableEq, Repr

/-- The mangle: the code table and the block position of the decoder (its `mmac` word and issue number, the address and
index of the next block, whether the rest is NaN, whether PRESSED_FORMAT has been raised for it), the lowest issue number whose
stream has not begun, and the decoded blocks
in the elastic queue, each of 256 16-bit weights, head first (06 Table 6-5, R173); of the running `mmac` the blocks of the current
rounding group that the array has taken, and whether it has taken the first row of the head block (R176, R180); and the 32-byte granule
that the stream has read last, where the next block begins in it (R175, 10 R266). -/
structure Mangle where
  table : List Byte
  word  : W64
  seq   : Nat
  addr  : Nat
  index : Nat
  dead  : Bool
  told  : Bool
  begun : Nat
  queue : List (Nat × List (BitVec 16))
  taken : List (List (BitVec 16))
  half  : Bool
  last  : List Byte
  deriving DecidableEq, Repr

/-- A fault of the job on a core (03 R87): the issue number of its instruction, its code, trap code, fault PC, stop PC, later faults (R88). -/
structure FaultRec where
  seq  : Nat
  code : Nat
  trap : Nat
  fpc  : W64
  spc  : W64
  more : Nat
  deriving DecidableEq, Repr

/-- What has become of the job placed on a core in this tick (13 Table 13-10). -/
inductive RunSt where
  | running | halted | faulted | rolledBack | saved
  deriving DecidableEq, Repr

/-- The job a core holds in the current tick (10 R267): its index in the plan, partition, identifier, state, the
clk of its start and end, and SRSEED, SRSTREAM, SRCTR at its first instruction of the tick (02 R52). -/
structure CoreJob where
  index   : Nat
  part    : Nat
  jobid   : Nat
  st      : RunSt
  startAt : Nat
  endAt   : Nat
  seed0   : W64
  stream0 : W64
  ctr0    : W64
  deriving DecidableEq, Repr

/-- What an accumulator's products are, for 02 R63: none yet, CH, another mode, or a sum that R63 or R119 leaves undefined. -/
inductive AccMix where
  | fresh | ch | other | undef
  deriving DecidableEq, Repr

/-- A core tile (03 R68; 08; 10 R267). `rot` is the channel whose turn is next (08 R215). -/
structure Core where
  job     : Option CoreJob
  pc      : W64
  sreg    : SMap W64
  preg    : BitVec 8
  mreg    : SMap W64
  tile    : SMap W32
  acc     : SMap W32
  kind    : BitVec 2
  mix0    : AccMix
  mix1    : AccMix
  acr     : W64
  asr     : W64
  seed    : W64
  stream  : W64
  ctr     : W64
  spad    : SMap Byte
  spadBad : SMap Bool
  sems    : SMap W64
  mq      : List Uop
  vq      : List Uop
  dq      : List DmaWait
  array   : Option Uop
  port    : Option Uop
  vector  : Option Uop
  trk     : List TrkEntry
  descs   : List Desc
  rot     : Nat
  hands   : List HandOff
  hold    : Hold
  nseq    : Nat
  mangle  : Mangle
  fault   : Option FaultRec
  p0mask  : BitVec 100
  addPos  : Nat
  spadArb : BitVec 1
  frozen  : Bool
  deriving DecidableEq, Repr

/-! ### Counters, events and output -/

/-- An event counter: COUNT in 32 bits and OVF (20 R525, R526). -/
structure EvCtr where
  count : BitVec 32
  ovf   : Bool
  deriving DecidableEq, Repr

/-- An event record (20 R533). -/
structure EvRec where
  seq  : W64
  tick : W64
  unit : BitVec 16
  inj  : Bool
  pv   : Bool
  part : BitVec 4
  code : BitVec 16
  arg  : W64
  deriving DecidableEq, Repr

/-- The event stream (20 R535 to R537). -/
structure Events where
  next       : W64
  queue      : List EvRec
  dropped    : EvCtr
  suppressed : EvCtr
  perCode    : SMap Nat
  lost       : Nat
  first      : W64
  last       : W64
  deriving DecidableEq, Repr

/-- What a frame of a host port carries (17 R456): messages of a queue pair, connection messages, requests and answers of ARP and
neighbour discovery, and the answers to echo requests. -/
inductive HostMsg where
  | hostWrite (qp : Nat) (va : W64) (rkey : W32) (bytes : List Byte)
  | hostRead (qp : Nat) (va : W64) (rkey : W32) (len : Nat)
  | resend (qp : Nat)
  | readReply (qp : Nat) (bytes : List Byte)
  | ack (qp : Nat)
  | nakAccess (qp : Nat)
  | nakInvalid (qp : Nat)
  | cnp (qp : Nat)
  | rep (qp : Nat) (mtu : Nat)
  | rej (code : Nat)
  | dreq (qp : Nat)
  | drep (qp : Nat)
  | arpReply (ip : W32) (mac : BitVec 48)
  | arpRequest (ip : W32) (mac : BitVec 48)
  | ndAdvert (ip : BitVec 128) (mac : BitVec 48)
  | ndSolicit (ip : BitVec 128) (mac : BitVec 48)
  | echoReply (payload : List Byte)
  deriving DecidableEq, Repr

/-- What the module puts on its wires and pins (log 17). The frames of a host message carry the 802.1Q priority and identifier of a
tagged port and, where they are RoCEv2 packets, their DSCP and whether they are marked ECN-capable (17 R465). -/
inductive Output where
  | flit (port : BPort) (bytes : List Byte)
  | host (port : HPort) (vlan : Option (BitVec 3 × BitVec 12)) (mark : Option (BitVec 6 × Bool)) (msg : HostMsg)
  | smb (addr : BitVec 7) (bytes : List Byte) (pec : BitVec 8)
  | smbNack (addr : BitVec 7)
  | tdo (bits : BitVec 32)
  | boundary (pins : BitVec 13)
  | drive (pins : BitVec 13)
  deriving DecidableEq, Repr

/-! ### Transfers that leave the module -/

/-- An edge descriptor that runs on after its job's save (03 R93, R95): the job and the core it ran on, the descriptor's channel and
queue slot, the address of its `dma`, and its SEMEN: the core signalled, the job with its tick that this core ran at the save (none
where it ran no job of the partition, 10 R271), and the semaphore. -/
structure ImgDesc where
  part  : Nat
  jobid : Nat
  core  : Nat
  ch    : Nat
  slot  : Nat
  fpc   : W64
  semen : Bool
  tcore : Nat
  tgt   : Option (Nat × Nat)
  sem   : Nat
  deriving DecidableEq, Repr

/-- On whose behalf a transfer outside the module runs, and so what its end causes; `note` causes nothing (the SEAL word, event
records). -/
inductive XOwner where
  | desc (core seq sub : Nat)
  | image (d : ImgDesc)
  | dispatch (layer chip : Nat) (slot : Option (Nat × Nat))
  | sourceDone (layer chip : Nat)
  | combine (layer exp src row : Nat) (core sem : Nat)
  | combineDone (layer exp src : Nat) (core sem : Nat)
  | pull (layer idx tick : Nat)
  | fold (part : Nat)
  | log (part : Nat)
  | tier3 (part : Nat)
  | foldDone (part : Nat)
  | tier3Done (part : Nat)
  | log3 (part upto off len : Nat)
  | refill (page : Nat)
  | status (sealTick : Nat)
  | note
  | report (slot : Nat)
  deriving DecidableEq, Repr

/-- The way a transfer takes. -/
inductive Via where
  | link (chip : Nat)
  | qp (q : Nat)
  deriving DecidableEq, Repr

/-- A transfer that awaits acknowledgement or response data from outside the module (16 R435, R436; 17 R463): `total` counts
flits or messages, or for a read bytes; `startAt` is its descriptor's start; `msg` is the length of a host read's messages,
`sent` how many messages have gone out, `todo` those of a host read still to be asked for (17 R458); `bytes` holds part of a sealed chunk. -/
structure Xfer where
  uid     : Nat
  owner   : XOwner
  via     : Via
  read    : Bool
  part    : Nat
  tag     : BitVec 24
  total   : Nat
  acked   : Nat
  startAt : Nat
  lastAt  : Nat
  heldFor : Nat
  dst     : Nat
  len     : Nat
  msg     : Nat
  sent    : Nat
  todo    : List (Nat × Nat)
  bytes   : List Byte
  deriving DecidableEq, Repr

/-! ### Bonded memory -/

/-- A failing-row log entry (09 Table 9-9). -/
structure FailRow where
  ticklo  : BitVec 16
  die     : BitVec 3
  bank    : BitVec 4
  row     : BitVec 13
  spare   : BitVec 6
  outcome : BitVec 2
  deriving DecidableEq, Repr

/-- A logged float add (10 R278): key parts 1 to 4, operation, B-space address, source bytes, partition, and the `dma` that issued
it, by issue number and address. -/
structure AddEntry where
  chip  : Nat
  core  : Nat
  pos   : Nat
  order : Nat
  op    : Nat
  addr  : Nat
  src   : List Byte
  part  : Nat
  seq   : Nat
  pc    : W64
  deriving DecidableEq, Repr

/-- `SLC_STATUS.STATE` (09 Table 9-7). -/
inductive SliceSt where
  | ok | retrain | degraded | failed
  deriving DecidableEq, Repr

/-- A slice controller (09 R247 to R255; 10 R278): `above82`, `above92` and `above102` are the last clk at which the stack
temperature lay above the 85, 95 and 105 degree thresholds less 3 (R252), `refAt` the clk of the last refresh hold (15 R412); a pending remap is its
die × 16 + bank, row, spare and the clk at which it is done (R247, R248); `heldQ` the descriptors that wait for a hold, in their
order of arrival (R251): core, issue number, place in the list. -/
structure Slice where
  st         : SliceSt
  temp       : Int
  refStep    : BitVec 2
  above82    : Nat
  above92    : Nat
  above102   : Nat
  spareBonds : Nat
  scrubpm    : BitVec 8
  perr       : EvCtr
  rdBytes    : W64
  wrBytes    : W64
  adds       : W64
  failHead   : BitVec 4
  failRows   : SMap (Option FailRow)
  spares     : SMap Nat
  retired    : List (Nat × Nat)
  remaps     : List (Nat × Nat × Nat × Nat)
  reserveBad : List (Nat × Nat)
  bondErrs   : List (Nat × Nat × Nat)
  retrainReq : Bool
  holdAt     : Option Nat
  heldQ      : List (Nat × Nat × Nat)
  degraded   : Bool
  refAt      : Nat
  addLog     : List AddEntry
  looped     : Bool
  deriving DecidableEq, Repr

/-- Ownership of a 2 MiB granule: bits A, RO and TAG of each of its pages (09 R244, 13 R366). -/
structure GranAttr where
  a   : Bool
  ro  : Bool
  tag : BitVec 4
  deriving DecidableEq, Repr

/-- The stack: bytes, bytes whose parity bit is wrong (1 by upset, 2 by injection, 20 R543), attributes, attribute
entries whose parity bit is wrong (09 R239, R244, R245), the belfry's poison list, the pages of it whose way back has been
chosen (R243), the failing rows that await the remap list in module flash (R249; `flashRows` of the state). -/
structure Bonded where
  mem      : SMap Byte
  bad      : SMap Nat
  gran     : SMap GranAttr
  poison   : SMap Bool
  wp       : SMap Bool
  attrBad  : SMap Nat
  poisoned : SMap Bool
  wayDone  : SMap Bool
  slices   : SMap Slice
  remapList : List (Nat × FailRow)
  deriving DecidableEq, Repr

/-! ### Partitions, windows, pools, sequences -/

/-- The states of a partition (13 R364). -/
inductive PartSt where
  | free | active | teardown | scrub
  deriving DecidableEq, Repr

/-- The shares of a partition in units of 1/1024 (13 R364, R367). -/
structure Shares where
  bm   : Nat
  noc  : Nat
  host : Nat
  pn   : Nat
  pe   : Nat
  ps   : Nat
  pw   : Nat
  deriving DecidableEq, Repr

/-- A host key (18 R486, R498). -/
structure HostKey where
  keyid   : BitVec 32
  material : List Byte
  counter : Nat
  sealing : Bool
  deriving DecidableEq, Repr

/-- A partition's part of the key store (18 R486). -/
structure Keys where
  host    : List HostKey
  flashId : BitVec 32
  flash   : Option (List Byte)
  pending : Option (List Byte)
  pendAt  : Nat
  pendRd  : List Byte
  tenant  : List Byte
  progs   : List (List Byte)
  deriving DecidableEq, Repr

/-- A TIERS record in effect (14 Table 14-2). -/
structure Tiers where
  t3every : Nat
  t2every : Nat
  fwin    : Nat
  partner : Nat
  ringOff : Nat
  ringLen : Nat
  logOff  : Nat
  logLen  : Nat
  flOff   : Nat
  flLen   : Nat
  t3qp    : Nat
  t3addr  : Nat
  t3len   : Nat
  tokBase : Nat
  tokLen  : Nat
  deriving DecidableEq, Repr

/-- A STORE record being carried out (14 R389). -/
structure Store where
  bbase : Nat
  len   : Nat
  dst   : Nat
  deriving DecidableEq, Repr

/-- A protected page: its page number, and where it lies in its sequence: SEQID, list entry, page within the group, pool
(14 Table 14-4); `old` where it stands for an older version that a segment carries forward (R394), which has no page of its own. -/
structure FoldPage where
  pg    : Nat
  seqid : Nat
  entry : Nat
  page  : Nat
  pool  : Nat
  old   : Bool
  deriving DecidableEq, Repr

/-- A fold segment being streamed or written to a tier (14 R390 to R394): its ticks, its pages (each with the touch copy or,
for tiers 2 and 3, the content taken for it), the offset it is written at, its bytes, and whether all of them have been sent. -/
structure Segment where
  first : Nat
  last  : Nat
  pages : List (FoldPage × Option (List Byte))
  off   : Nat
  bytes : Nat
  sent  : Bool
  deriving DecidableEq, Repr

/-- A complete page version held by a tier (14 R390, R400): tick, sequence, list entry, page within the group, LOST, PDIG and its
content; a tier-2 version's content lies in module flash at `place`; its segment lies at `segOff` of its area, `segLen` bytes long. -/
structure Version where
  tier  : Tier
  last  : Nat
  seqid : Nat
  entry : Nat
  page  : Nat
  pool  : Nat
  lost  : Bool
  pdig  : List Byte
  bytes : List Byte
  place : Nat
  segOff : Nat
  segLen : Nat
  deriving DecidableEq, Repr

/-- A job-table entry of a log record (14 Table 14-5). -/
structure LogJob where
  jobid  : Nat
  seed   : W64
  stream : W64
  ctr    : W64
  deriving DecidableEq, Repr

/-- A sequence entry of a log record (14 Table 14-5). -/
structure LogSeq where
  seqid  : Nat
  a      : Nat
  jidx   : Nat
  join   : Bool
  done   : Bool
  starch : Bool
  left   : Bool
  lbase  : Nat
  tokens : List Nat
  deriving DecidableEq, Repr

/-- A sealed log record (14 R396): its tick, tables, digests, its bytes, where it lies in the log areas and the space skipped before
it, whether flash and the partner have acknowledged it, whether these two have lost it again (R398), and the run of the tier-3 log
area that holds its copy. -/
structure LogRec where
  tick    : Nat
  jobs    : List LogJob
  seqs    : List LogSeq
  digs    : List (List Byte)
  digTick : Nat
  bytes   : List Byte
  off     : Nat
  flashOk : Bool
  skip    : Option Nat
  linkOk  : Bool
  gone    : Bool
  t3      : Option (Nat × Nat)
  deriving DecidableEq, Repr

/-- Fold state of a partition (14); `touchUsed` lists the touch pages that hold a copy, each with the page copied, `heldPgs` the pages
whose held first touch has been counted (R386, R405); `done1` and
`done3` are the segments whose COMPLETE word is on its way (R390); `since2` and `since3` list the pages due in the next segment of tiers
2 and 3, with the content of versions carried forward (R394). -/
structure Fold where
  tiers     : Option Tiers
  touch     : List Nat
  touchUsed : List (Nat × Nat)
  refill    : List (Nat × Nat × Nat × W64)
  flash     : List (Nat × Nat)
  stores    : List Store
  storeDone : Nat
  storeFail : Nat
  seg1      : Option Segment
  seg2      : Option Segment
  seg3      : Option Segment
  done1     : Option Segment
  done3     : Option Segment
  since2    : List (FoldPage × Option (List Byte))
  since3    : List (FoldPage × Option (List Byte))
  due2      : Bool
  due3      : Bool
  t1State   : Nat
  t1Last    : Nat
  t2Last    : Nat
  t3Last    : Nat
  digLast   : Nat
  logLast   : Nat
  ringPos   : Nat
  flPos     : Nat
  t3Pos     : Nat
  logPos    : Nat
  t3Log     : Nat
  logTick   : Option Nat
  nPage     : Nat
  touches   : Nat
  heldTouch : Nat
  heldPgs   : List Nat
  mendPos   : Nat
  versions  : List Version
  logs      : List LogRec
  pendDig   : List (Nat × Option (List Byte))
  pendTick  : Nat
  haveDig   : List (List Byte)
  haveTick  : Nat
  deriving DecidableEq, Repr

/-- A partition (13 R364 to R366, R379; 18 R492). -/
structure Part where
  st      : PartSt
  mode    : BitVec 2
  fold    : Bool
  load    : Bool
  exts    : List (Nat × Nat)
  shares  : Shares
  pend    : List Nat
  scrub   : List Nat
  drainAt : Option Nat
  release : List (Nat × Nat)
  overrun : Nat
  aborted : Nat
  tabort  : Bool
  record  : List Byte
  chgcnt  : Nat
  keys    : Keys
  foldSt  : Fold
  dig     : W64
  lost    : Bool
  deriving DecidableEq, Repr

/-- A remote or host window (16 R442, Table 16-16). -/
structure Window where
  openW   : Bool
  closing : Option Nat
  part    : BitVec 4
  r       : Bool
  w       : Bool
  a       : Bool
  host    : Bool
  any     : Bool
  base    : Nat
  len     : Nat
  src     : List Nat
  record  : List Byte
  evented : Bool
  deriving DecidableEq, Repr

/-- A pool record of the tick (11 Table 11-3) and whether it failed its check (R285). -/
structure Pool where
  pool    : Nat
  part    : Nat
  fmt     : Nat
  hdim    : Nat
  layers  : Nat
  kvheads : Nat
  pbase   : Nat
  groups  : Nat
  freeG   : Nat
  nsl     : Nat
  off     : Bool
  noFold  : Bool
  deriving DecidableEq, Repr

/-- The ranges whose digests a rebuild still has to check once its pages are written: those of written pages, or every one (14 R401,
R403). -/
inductive RangeCheck where
  | none
  | written
  | all
  deriving DecidableEq, Repr

/-- The rebuild of a sequence (14 R399 to R402): Lc, LI, the pages still to restore (list entry, page, first
tier to try), those restored (with their tier), the tokens area, and whether a RESTORE record asked for it. -/
structure Rebuild where
  lc      : Nat
  li      : Nat
  floor   : Nat
  pages   : List (Nat × Nat × Nat)
  wrote   : List (Nat × Nat × Nat)
  mtok    : Nat
  mtokLen : Nat
  asked   : Bool
  opened  : Bool
  check   : RangeCheck
  deriving DecidableEq, Repr

/-- The protected state of a sequence (13 R358). -/
structure Seq where
  seqid  : Nat
  pool   : Nat
  part   : Nat
  len    : Nat
  done   : Bool
  tok    : BitVec 32
  approx : Bool
  rebuild : Option Rebuild
  kvlost : Bool
  mended : Bool
  joinAt : Nat
  deriving DecidableEq, Repr

/-- A sequence record of the tick with its verdict (11 R286, R288; 13 R363). -/
structure SeqRec where
  seqid   : Nat
  pool    : Nat
  a       : Nat
  ng      : Nat
  list    : List Nat
  join    : Bool
  refused : Bool
  short   : Bool
  joined  : Bool
  len0    : Nat
  committed : Bool
  offset  : Nat
  deriving DecidableEq, Repr

/-! ### Jobs of the tick -/

/-- A job entry of the plan (13 Table 13-6). -/
structure JobEnt where
  jobid   : Nat
  ringEn  : Bool
  kind    : Bool
  part    : Nat
  imgLen  : Nat
  entry   : Nat
  image   : Nat
  save    : Nat
  args    : Nat
  nseq    : Nat
  sloff   : Nat
  result  : Nat
  view    : Nat
  seed    : W64
  stream  : W64
  ctr     : W64
  ring    : Nat
  ringv   : Nat
  deriving DecidableEq, Repr

/-- The outcomes of 13 Table 13-10. -/
inductive JobOutcome where
  | complete | faulted | rolledBack | preempted | deferred | notPlaced | refused | aborted | none
  deriving DecidableEq, Repr

/-- A job's first start: the generator values of its entry and the digest of the plan (15 R417). -/
structure JobFirst where
  seed    : W64
  stream  : W64
  ctr     : W64
  plandig : List Byte
  deriving DecidableEq, Repr

/-- A job of the tick: its entry, its sequence list (SEQID, APPEND), core, outcome and status values, once its core has lost
its state the slices whose P0 data it read (14 R404), and what its first start fixed (15 R417). -/
structure Job where
  ent     : JobEnt
  seqs    : List (Nat × Bool)
  core    : Option Nat
  out     : JobOutcome
  imgDrop : Bool
  fault   : FaultRec
  runUs   : Nat
  asr     : W64
  seed0   : W64
  stream0 : W64
  ctr0    : W64
  prog    : List Byte
  p0mask  : BitVec 100
  start   : JobFirst
  deriving DecidableEq, Repr

/-- A kept save image (13 R355): whose it is, where it lies, the PROG digest and generator values of its first
start (15 R417), its plan digest, and what the saved instructions hold that Table 3-16 has no place for: the recorded
instructions with their places in program order, the outstanding descriptors, the next issue number, and the mangle
as it stood (log 13); `ticks` lists the ticks in which the job was pre-empted on its way here (10 R271). -/
structure Image where
  part   : Nat
  jobid  : Nat
  save   : Nat
  core   : Nat
  prog   : List Byte
  seed   : W64
  stream : W64
  ctr    : W64
  plandig : List Byte
  mix0   : AccMix
  mix1   : AccMix
  uops   : List (Nat × Uop)
  descs  : List Desc
  nseq   : Nat
  mangle : Mangle
  ticks  : List Nat
  deriving DecidableEq, Repr

/-- A ring record of the plan (13 R357) and whether it is disabled. -/
structure Ring where
  ring  : Nat
  part  : Nat
  bytes : List Byte
  off   : Bool
  deriving DecidableEq, Repr

/-! ### Routing -/

/-- An expert entry (12 Table 12-4) with its load and counters (Table 12-7). -/
structure Expert where
  cap      : Nat
  pulled   : Bool
  home     : Nat
  rowoff   : Nat
  quota    : Nat
  loff     : Nat
  load     : Nat
  routed   : Nat
  admitted : Nat
  ovfin    : Nat
  ovfout   : Nat
  spilled  : Nat
  deriving DecidableEq, Repr

/-- A pull entry (12 Table 12-5) and its state: 0 not started, 1 running, 2 complete, 3 failed. -/
structure Pull where
  wsrc : W64
  wdst : Nat
  len  : Nat
  exp  : Nat
  st   : Nat
  deriving DecidableEq, Repr

/-- Outcome of a slot (12 Table 12-6). -/
inductive SlotSt where
  | undecided | admitted | overflow | spilled | empty | aborted
  deriving DecidableEq, Repr

/-- One chosen rank of one token (12 R323). -/
structure Slot where
  token  : Nat
  rank   : Nat
  order  : Nat
  score  : W32
  chosen : Option Nat
  st     : SlotSt
  exp    : Nat
  row    : Nat
  acked  : Bool
  deriving DecidableEq, Repr

/-- A token record taken for admission (12 R322): token, candidates (empty or expert and score), read order. -/
structure Token where
  token : Nat
  order : Nat
  cands : List (Option (Nat × W32))
  deriving DecidableEq, Repr

/-- The life of a layer in a tick (12 R319 to R334). -/
inductive LayerSt where
  | open | admitted | disabled
  deriving DecidableEq, Repr

/-- A layer record of the tick (12 Table 12-3) with what the belfry holds for it: `todo` the homes whose transfers have not begun
(starch mode, R339), `setNo` the place of its request set in the order of completion (R321), `combined` its combine complete. -/
structure Layer where
  index   : Nat
  part    : Nat
  sidx    : Nat
  nsrc    : Nat
  nreq    : Nat
  lsem    : Nat
  c       : Nat
  k       : Nat
  nexp    : Nat
  rb      : Nat
  act     : Nat
  orb     : Nat
  cmb     : Nat
  outc    : Nat
  wait    : BitVec 100
  lwin    : Nat
  doneOff : Nat
  cwin    : Nat
  cdone   : Nat
  experts : List Expert
  pulls   : List Pull
  st      : LayerSt
  tokens  : List Token
  reqs    : List Nat
  slots   : List Slot
  homes   : List Nat
  toAck   : List Nat
  toDone  : List Nat
  todo    : List Nat
  dispatched : Bool
  lsemSent   : Bool
  nEmpty  : Nat
  nDisp   : Nat
  nAbort  : Nat
  build   : Nat
  readAt  : Nat
  setNo   : Nat
  combined : Bool
  imbalance : Bool
  deriving DecidableEq, Repr

/-- A pending `rdisp` or `rcomb` (12 R321, R332): core, its instruction, semaphore, layer, what it waits for, and the sources whose
copies have begun (R339). -/
structure RouteReq where
  core    : Nat
  jobid   : Nat
  part    : Nat
  seq     : Nat
  pc      : W64
  sem     : Nat
  layer   : Nat
  kind    : Nat
  exp     : Nat
  issued  : Nat
  heldFor : Nat
  srcs    : List Nat
  got     : List Nat
  begun   : List Nat
  deriving DecidableEq, Repr

/-! ### Bakener links -/

/-- The states of a Bakener port (16 Table 16-10). -/
inductive PortSt where
  | disabled | training | up | retrain | down | failed | miswired | loop
  deriving DecidableEq, Repr

/-- A transaction (16 Table 16-4). -/
structure Txn where
  dest  : W64
  opc   : BitVec 4
  aop   : BitVec 4
  spart : BitVec 4
  src   : BitVec 10
  ng    : BitVec 3
  foff  : BitVec 5
  lend  : BitVec 5
  rlen  : BitVec 13
  tag   : BitVec 24
  data  : List Byte
  deriving DecidableEq, Repr

/-- A DATA flit waiting to be sent: its virtual channel, transaction, and the port and channel whose receive
buffer it still occupies (16 R428). -/
structure TxFlit where
  vc    : Nat
  txn   : Txn
  inbuf : Option (Nat × Nat)
  deriving DecidableEq, Repr

/-- A received transaction for this module, with the port and channel whose receive buffer it occupies (16 R428). -/
structure RxTxn where
  txn   : Txn
  inbuf : Option (Nat × Nat)
  deriving DecidableEq, Repr

/-- A Bakener port (16 R428 to R433, R454); `regq` holds the flits of this module that wait for their partition's tokens (R429), `badLanes`
the lanes found failing since the last training. -/
structure BkPort where
  en       : Bool
  loop     : BitVec 3
  farResp  : Bool
  serth    : BitVec 16
  st       : PortSt
  peer     : BitVec 10
  subst    : BitVec 5
  tries    : BitVec 2
  pdelay   : BitVec 16
  crcerr   : EvCtr
  retry    : EvCtr
  fecunc   : EvCtr
  fecCorr  : W64
  txFlits  : W64
  rxFlits  : W64
  loopErr  : EvCtr
  txSeq    : BitVec 12
  rxSeq    : BitVec 12
  nakSent  : Bool
  replay   : List (BitVec 12 × TxFlit)
  regq     : List TxFlit
  txq      : List TxFlit
  rot      : Nat
  turn     : SMap Nat
  credits  : SMap Nat
  ret      : SMap Nat
  crrec    : SMap Nat
  crret    : SMap Nat
  sent     : SMap Nat
  rcvd     : SMap Nat
  replays  : Nat
  lastAck  : Nat
  since    : Nat
  badLanes : List Nat
  retrainReq  : Bool
  resetCred   : Bool
  injLane  : Bool
  ackDue   : Bool
  parts    : SMap Bool
  drainAt  : Option Nat
  deriving DecidableEq, Repr

/-- A transaction that has passed its arrival checks and waits for its slice or a touch page: the B-space address and the partition it
was accepted for (16 R443, R444), and the receive buffer it occupies. -/
structure HeldTxn where
  txn   : Txn
  addr  : Nat
  part  : Nat
  inbuf : Option (Nat × Nat)
  deriving DecidableEq, Repr

/-- Acknowledgement records ready for one source (16 R436): TAG and flits, and the clk of the oldest. -/
structure AckGather where
  chip : Nat
  recs : List (BitVec 24 × Nat)
  since : Nat
  deriving DecidableEq, Repr

/-- The peer edge (16). -/
structure Links where
  chip    : BitVec 10
  xdim    : BitVec 6
  ydim    : BitVec 6
  refused : EvCtr
  portN   : BkPort
  portE   : BkPort
  portS   : BkPort
  portW   : BkPort
  rx      : List RxTxn
  held    : List HeldTxn
  acks    : List AckGather
  deriving DecidableEq, Repr

/-! ### Host edge -/

/-- The states of a host port (17 Table 17-10). -/
inductive HPortSt where
  | disabled | training | up | down | loop
  deriving DecidableEq, Repr

/-- A host port (17 R455, R466, R477); `txq` holds the messages, each with its frames, that a pause keeps back. -/
structure HoPort where
  en     : Bool
  loop   : BitVec 3
  pfcen  : BitVec 8
  pcp    : BitVec 3
  vid    : BitVec 12
  st     : HPortSt
  mac    : BitVec 48
  ip4    : W32
  ip6    : BitVec 128
  rx     : W64
  tx     : W64
  drop   : EvCtr
  icrc   : EvCtr
  fecunc : EvCtr
  cnp    : W64
  pauses : SMap Nat
  txq    : List (Nat × HostMsg)
  peers  : List (BitVec 128 × BitVec 48)
  since  : Nat
  deriving DecidableEq, Repr

/-- The states of a queue pair (17 Table 17-11). -/
inductive QpSt where
  | free | connecting | rts | error | closing
  deriving DecidableEq, Repr

/-- A queue pair context (17 R459, R463, R466): `rate` in kB/s, `nextAt` the clk from which the rate lets the next message go, `peer` the
address of the other side. -/
structure Qp where
  st      : QpSt
  part    : BitVec 4
  owner   : Bool
  plain   : Bool
  port    : HPort
  mtu     : BitVec 3
  rqpn    : BitVec 24
  outmsg  : Nat
  rate    : Nat
  nextAt  : Nat
  peer    : BitVec 128
  cnpAt   : Option Nat
  cnpSent : Option Nat
  raiseAt : Nat
  dreqAt  : Option Nat
  closeAt : Option Nat
  waitAt  : Nat
  retries : Nat
  deriving DecidableEq, Repr

/-- The owner session's areas (17 Table 17-2) and the state of its handshake (R460, 18 R494). -/
structure Owner where
  qp       : Nat
  planVa   : W64
  planRkey : W32
  planSlot : Nat
  statVa   : W64
  statRkey : W32
  statSlot : Nat
  hsVa     : W64
  hsRkey   : W32
  evVa     : W64
  evRkey   : W32
  evLen    : Nat
  rtuAt    : Option Nat
  pollAt   : Nat
  hello    : Bool
  done     : Bool
  deriving DecidableEq, Repr

/-- The host edge (17). -/
structure HostEdge where
  dscp    : BitVec 6
  cnpDscp : BitVec 6
  ackto   : BitVec 4
  retry   : BitVec 3
  ecn     : Bool
  tagFail : EvCtr
  owner   : Option Owner
  maxqp   : SMap Nat
  port0   : HoPort
  port1   : HoPort
  port2   : HoPort
  port3   : HoPort
  qps     : SMap Qp
  deriving DecidableEq, Repr

/-! ### Tick, power and the rest -/

/-- The plan for the next tick (13 R345 to R348); `inj` where an injection made its digest fail. -/
inductive NextPlan where
  | none
  | fetching
  | invalid (case : Nat) (inj : Bool)
  | valid (bytes : List Byte)
  deriving DecidableEq, Repr

/-- Where the tick stands (13 Table 13-1). -/
inductive TickPhase where
  | before | run | closing | closed
  deriving DecidableEq, Repr

/-- The plan header in effect (13 Table 13-3). -/
structure PlanHdr where
  seq    : W64
  digest : List Byte
  wrst   : Bool
  deriving DecidableEq, Repr

/-- Ticks and plans (13); `openAt` is the clk the tick opened at, for a follower its marker's arrival less the path delay (R350), `runAt` the
clk at which the open was made; `marked` is the PERIOD of a marker that came during the close (R350); `status` lists the status records not
yet sealed, each with whether its body has been acknowledged (R362). -/
structure Tick where
  now      : W64
  first    : Bool
  bellen   : Bool
  mode     : BitVec 2
  pleadUs  : Nat
  closewUs : Nat
  periodUs : Nat
  bell     : BitVec 10
  missed   : Nat
  idleRun  : Nat
  bellLost : Bool
  aligned  : Bool
  orphaned : Bool
  isBell   : Bool
  lastSeq  : W64
  anySeq   : Bool
  idle     : EvCtr
  overrun  : EvCtr
  late     : EvCtr
  openAt   : Nat
  runAt    : Nat
  refillAt : Nat
  dueAt    : Nat
  nextAt   : Nat
  phase    : TickPhase
  isLate   : Bool
  lateUs   : Nat
  lateNext : Nat
  isIdle   : Bool
  plan     : Option PlanHdr
  next     : NextPlan
  fetchSeq : W64
  markTick : Option W64
  marked   : Option Nat
  status   : List (List Byte × Bool)
  preempted : Bool
  retrained : Bool
  deriving DecidableEq, Repr

/-- Power state of a domain (19 Table 19-8). -/
inductive DomSt where
  | off | ramp | on | held | failed
  deriving DecidableEq, Repr

/-- Thermal step of a quad (19 Table 19-3). -/
inductive Therm where
  | normal | warn | hold | emerg
  deriving DecidableEq, Repr

/-- A quad's power and temperature (19 R507 to R513). -/
structure Quad where
  st      : DomSt
  temp    : Int
  step    : Therm
  coolAt  : Option Nat
  rampAt  : Nat
  cycleAt : Option Nat
  wantOff : Bool
  deriving DecidableEq, Repr

/-- Power, reset and pins (19, 21); `tripInj` tells that an injected temperature tripped the module (20 R543); `boundary` is the boundary register of pins D1 to D13 (21 R560); `preSlot` and `prePend` are the
active slot and PENDING as step 3 of a bring-up in progress found them (19 R517). -/
structure Power where
  quadEn   : BitVec 25
  links    : Bool
  flash    : Bool
  linksSt  : DomSt
  hostSt   : DomSt
  memSt    : DomSt
  flashSt  : DomSt
  belfrySt : DomSt
  trip     : Bool
  tripped  : Bool
  tripCool : Option Nat
  input    : BitVec 16
  cause    : BitVec 3
  quads    : SMap Quad
  mrstn    : Bool
  strap0   : Bool
  strap1   : Bool
  boundary : BitVec 13
  tripInj  : Bool
  preSlot  : BitVec 1
  prePend  : Bool
  deriving DecidableEq, Repr

/-- Where bring-up stands (19 Table 19-5): off, in step 1 and later since a clk, or stuck in reset (R489). -/
inductive Boot where
  | off
  | up (since : Nat) (noImage : Bool)
  deriving DecidableEq, Repr

/-- A boot-flash slot (18 R488): the bytes of the image in it, whether it is valid but for MINSVN, its SVN and its BODYLEN. -/
structure FwSlot where
  valid   : Bool
  svn     : BitVec 16
  bodyLen : Nat
  image   : List Byte
  deriving DecidableEq, Repr

/-- Firmware and reports (18 R488 to R494). -/
structure Secure where
  minSvn   : BitVec 16
  svn      : BitVec 16
  pending  : Bool
  fallback : Bool
  slot     : BitVec 1
  slotA    : FwSlot
  slotB    : FwSlot
  update   : Option Nat
  chgcnt   : Nat
  reports  : List (Nat × List Byte)
  imgMemo  : List (Nat × Nat × List Byte)
  deriving DecidableEq, Repr

/-- A result digest request taken at a close (15 R418), with its record as it then was. -/
structure DigReq where
  part   : Nat
  addr   : Nat
  rec'   : List Byte
  tick   : Nat
  core   : Nat
  prog   : List Byte
  seed   : W64
  stream : W64
  ctr    : W64
  plandig : List Byte
  starch : Bool
  lost   : Bool
  deriving DecidableEq, Repr

/-- Timeouts, injection and test (20 R531 to R542). -/
structure Test where
  disp    : BitVec 16
  rem     : BitVec 16
  dma     : BitVec 16
  net     : BitVec 10
  wdcnt   : EvCtr
  wdTicks : List Nat
  wdDead  : Bool
  liveAt  : Nat
  wdUntil : Nat
  arm     : Bool
  armAt   : Nat
  count   : BitVec 8
  unit    : BitVec 16
  done    : BitVec 8
  det     : BitVec 8
  injAddr : W64
  loop    : W64
  loopAt  : Option Nat
  loopErr : EvCtr
  onfiLoop : Option Nat
  deriving DecidableEq, Repr

/-- Configuration lists (13 R369): base and the four overlays, (ADDR, VALUE) in order. -/
structure Conf where
  base   : List (BitVec 32 × W64)
  serve  : List (BitVec 32 × W64)
  starch : List (BitVec 32 × W64)
  train  : List (BitVec 32 × W64)
  maint  : List (BitVec 32 × W64)
  deriving DecidableEq, Repr

/-- The TAP's instruction (21 R559). -/
inductive Tap where
  | bypass | idcode | sample | extest
  deriving DecidableEq, Repr

/-- A request that waits for regulator tokens, in order (13 R367): partition, unit, and the descriptor it belongs to. -/
structure Waiter where
  part : Nat
  unit : Nat
  core : Nat
  seq  : Nat
  sub  : Nat
  deriving DecidableEq, Repr

/-- What the tiers of a partition held when the module was last reset (14 R399, R400): the TIERS record, the complete versions and the
log records. Module flash, the partner and the shared store keep them; `seals` are
fingerprints of the host keys of the partition then. -/
structure TierMem where
  part     : Nat
  tiers    : Tiers
  versions : List Version
  logs     : List LogRec
  seals    : List (List Byte)
  deriving DecidableEq, Repr

/-- The state of the module; `kvPools` are the pool records of the last plan, which tell KV pages from others in an idle tick (09 R243). -/
structure State where
  pending  : List Instr
  clk      : Nat
  free     : Nat
  nuid     : Nat
  outbox   : List Output
  boot     : Boot
  fuseLo   : W64
  fuseHi   : BitVec 36
  cores    : SMap Core
  bonded   : Bonded
  parts    : SMap Part
  windows  : SMap Window
  tick     : Tick
  conf     : Conf
  jobs     : List Job
  images   : List Image
  pools    : List Pool
  kvPools  : List Pool
  seqs     : List Seq
  seqRecs  : List SeqRec
  leaves   : List (Nat × Option Seq)
  rings    : List Ring
  layers   : List Layer
  routes   : List RouteReq
  xfers    : List Xfer
  buckets  : SMap Int
  waiters  : List Waiter
  links    : Links
  host     : HostEdge
  power    : Power
  secure   : Secure
  events   : Events
  test     : Test
  digReqs  : List DigReq
  memos    : List (List Nat × List Byte)
  flash    : SMap Byte
  flashRows : List (Nat × FailRow)
  tierMem  : List TierMem
  tap      : Tap
  deriving DecidableEq, Repr

/-! ### Stops -/

/-- Faults: the model stops. -/
inductive Fault where
  /-- Raised by a command that names a core, slice, quad, granule or page number the spec says does not exist
  (00 R4, 09 R233): no such event can reach the module. Safe. -/
  | noSuchUnit
  deriving DecidableEq, Repr

/-- Refusals: the model gives the command no meaning. -/
inductive Refusal where
  /-- Raised by an arm of `exec` whose command has no meaning yet, by the command's mnemonic. Safe. -/
  | notModelled (mnemonic : String)
  deriving DecidableEq, Repr

/-! ### The state right after reset -/

/-- An event counter at reset (20 R525). -/
def EvCtr.reset : EvCtr := ⟨0, false⟩

/-- The mangle when idle (06 R180). -/
def Mangle.idle : Mangle := ⟨[], 0, 0, 0, 0, false, false, 0, [], [], false, []⟩

/-- A core before any job: the first-start values of Table 3-6 where no job gives one (DESIGN CHOICE, log 5). -/
def Core.reset : Core :=
  { job := none, pc := 0, sreg := [], preg := 1, mreg := [], tile := [], acc := [], kind := 0, mix0 := .fresh,
    mix1 := .fresh, acr := 2, asr := 0, seed := 0, stream := 0, ctr := 0, spad := [], spadBad := [], sems := [],
    mq := [], vq := [], dq := [], array := none, port := none, vector := none, trk := [], descs := [],
    rot := 0, hands := [], hold := .none, nseq := 0, mangle := Mangle.idle, fault := none, p0mask := 0, addPos := 0, spadArb := 0,
    frozen := false }

/-- A slice at reset (09 R255; temperature and spares DESIGN CHOICE, log 20). -/
def Slice.reset : Slice :=
  { st := .ok, temp := 25, refStep := 0, above82 := 0, above92 := 0, above102 := 0, spareBonds := 0, scrubpm := 10,
    perr := EvCtr.reset, rdBytes := 0, wrBytes := 0, adds := 0, failHead := 0, failRows := [], spares := [],
    retired := [], remaps := [], reserveBad := [], bondErrs := [], retrainReq := false,
    holdAt := none, heldQ := [], degraded := false, refAt := 0, addLog := [], looped := false }

/-- No owner (09 R244 at reset: attribute stores are cleared, 19 R517). -/
def GranAttr.reset : GranAttr := ⟨false, false, 0⟩

/-- The stack after reset: zero everywhere, parity good (19 R517 step 6). -/
def Bonded.reset : Bonded := ⟨[], [], [], [], [], [], [], [], [], []⟩

/-- No shares (13 R364). -/
def Shares.reset : Shares := ⟨0, 0, 0, 0, 0, 0, 0⟩

/-- No keys (18 R487). -/
def Keys.reset : Keys := ⟨[], 0, none, none, 0, [], [], []⟩

/-- No fold state (14). -/
def Fold.reset : Fold :=
  { tiers := none, touch := [], touchUsed := [], refill := [], flash := [], stores := [], storeDone := 0,
    storeFail := 0, seg1 := none, seg2 := none, seg3 := none, done1 := none, done3 := none, since2 := [], since3 := [], due2 := false, due3 := false, t1State := 0,
    t1Last := 0, t2Last := 0, t3Last := 0, digLast := 0, logLast := 0, ringPos := 0, flPos := 0, t3Pos := 0,
    logPos := 0, t3Log := 0, logTick := none, nPage := 0, touches := 0, heldTouch := 0, heldPgs := [], mendPos := 0, versions := [], logs := [],
    pendDig := [], pendTick := 0, haveDig := [], haveTick := 0 }

/-- P1 to P15 at reset: FREE (13 R364). -/
def Part.reset : Part :=
  { st := .free, mode := 0, fold := false, load := false, exts := [], shares := Shares.reset, pend := [],
    scrub := [], drainAt := none, release := [], overrun := 0, aborted := 0, tabort := false,
    record := [], chgcnt := 0, keys := Keys.reset, foldSt := Fold.reset, dig := 0, lost := false }

/-- P0 at reset: ACTIVE with no extents (13 R364). -/
def Part.reset0 : Part := { Part.reset with st := .active }

/-- A closed window (16 Table 16-16). -/
def Window.reset : Window :=
  { openW := false, closing := none, part := 0, r := false, w := false, a := false, host := false, any := false,
    base := 0, len := 0, src := [], record := [], evented := false }

/-- A Bakener port at reset (16 Tables 16-14, 16-15). -/
def BkPort.reset : BkPort :=
  { en := false, loop := 0, farResp := false, serth := 4096, st := .disabled, peer := 0, subst := 31, tries := 0,
    pdelay := 0, crcerr := EvCtr.reset, retry := EvCtr.reset, fecunc := EvCtr.reset, fecCorr := 0, txFlits := 0,
    rxFlits := 0, loopErr := EvCtr.reset, txSeq := 0, rxSeq := 0, nakSent := false, replay := [],
    regq := [], txq := [], rot := 0, turn := [], credits := [], ret := [], crrec := [], crret := [], sent := [], rcvd := [], replays := 0,
    lastAck := 0, since := 0, badLanes := [], retrainReq := false, resetCred := false, injLane := false, ackDue := false,
    parts := [], drainAt := none }

/-- The peer edge at reset (16 Table 16-13). -/
def Links.reset : Links :=
  { chip := 0, xdim := 0, ydim := 0, refused := EvCtr.reset, portN := BkPort.reset, portE := BkPort.reset,
    portS := BkPort.reset, portW := BkPort.reset, rx := [], held := [], acks := [] }

/-- A host port at reset (17 Tables 17-9, 17-10); the fused MAC base is 0 (DESIGN CHOICE, log 21). -/
def HoPort.reset (n : Nat) : HoPort :=
  { en := true, loop := 0, pfcen := 0, pcp := 3, vid := 0, st := .training, mac := BitVec.ofNat 48 n, ip4 := 0,
    ip6 := 0, rx := 0, tx := 0, drop := EvCtr.reset, icrc := EvCtr.reset, fecunc := EvCtr.reset, cnp := 0,
    pauses := [], txq := [], peers := [], since := 0 }

/-- A FREE queue pair (17 Table 17-11); a new QP sends at 50 GB/s (R466). -/
def Qp.reset : Qp :=
  { st := .free, part := 0, owner := false, plain := false, port := .h0, mtu := 0, rqpn := 0, outmsg := 0,
    rate := 50000000, nextAt := 0, peer := 0, cnpAt := none, cnpSent := none, raiseAt := 0, dreqAt := none, closeAt := none, waitAt := 0,
    retries := 0 }

/-- The host edge at reset (17 Table 17-7). -/
def HostEdge.reset : HostEdge :=
  { dscp := 26, cnpDscp := 48, ackto := 6, retry := 3, ecn := true, tagFail := EvCtr.reset, owner := none,
    maxqp := [], port0 := HoPort.reset 0, port1 := HoPort.reset 1, port2 := HoPort.reset 2,
    port3 := HoPort.reset 3, qps := [] }

/-- Ticks at reset (13 R341, Tables 13-14, 13-15). -/
def Tick.reset : Tick :=
  { now := 0, first := true, bellen := false, mode := 0, pleadUs := 200, closewUs := 20, periodUs := 1000,
    bell := 0, missed := 0, idleRun := 0, bellLost := false, aligned := false, orphaned := false, isBell := false,
    lastSeq := 0, anySeq := false, idle := EvCtr.reset, overrun := EvCtr.reset, late := EvCtr.reset, openAt := 0, runAt := 0, refillAt := 0,
    dueAt := 0, nextAt := 0, phase := .before, isLate := false, lateUs := 0, lateNext := 0, isIdle := true, plan := none,
    next := .none, fetchSeq := 0, markTick := none, marked := none, status := [],
    preempted := false, retrained := false }

/-- A quad before bring-up: OFF (19 Table 19-8); its junction DESIGN CHOICE (log 20). -/
def Quad.reset : Quad :=
  { st := .off, temp := 25, step := .normal, coolAt := none, rampAt := 0, cycleAt := none, wantOff := false }

/-- Power at reset (19 R520). -/
def Power.reset : Power :=
  { quadEn := 0x1FFFFFF, links := true, flash := true, linksSt := .off, hostSt := .off, memSt := .off,
    flashSt := .off, belfrySt := .off, trip := false, tripped := false, tripCool := none, input := 0,
    cause := 0, quads := [], mrstn := true, strap0 := true, strap1 := true,
    boundary := 0, tripInj := false, preSlot := 0, prePend := false }

/-- The factory image (18 R489): its bytes are the part's own; its SVN is DESIGN CHOICE 1 and its length DESIGN CHOICE (log 20). -/
def FwSlot.factory : FwSlot := ⟨true, 1, 8388608, Config.factoryImage⟩

/-- Firmware at reset (18 R489, R491). -/
def Secure.reset : Secure :=
  { minSvn := 1, svn := 1, pending := false, fallback := false, slot := 0, slotA := FwSlot.factory,
    slotB := FwSlot.factory, update := none, chgcnt := 0, reports := [], imgMemo := [] }

/-- The event stream at reset (20 R533, R537). -/
def Events.reset : Events :=
  { next := 1, queue := [], dropped := EvCtr.reset, suppressed := EvCtr.reset, perCode := [], lost := 0,
    first := 0, last := 0 }

/-- Timeouts, injection and test at reset (20 Tables 20-5, 20-10). -/
def Test.reset : Test :=
  { disp := 500, rem := 200, dma := 500, net := 50, wdcnt := EvCtr.reset, wdTicks := [], wdDead := false,
    liveAt := 0, wdUntil := 0, arm := false, armAt := 0, count := 0, unit := 0, done := 0, det := 0, injAddr := 0, loop := 0,
    loopAt := none, loopErr := EvCtr.reset, onfiLoop := none }

/-- The module right after reset, before its input has risen: every register at the value the spec gives, every
other one at the value the log names (log 5, 6, 10, 20, 21). Bring-up is the command POWER_ON (log 4). -/
def State.reset : State :=
  { pending := [], clk := 0, free := 0, nuid := 0, outbox := [], boot := .off,
    fuseLo := 0xFBFFFFFDFFFFFF7F, fuseHi := 0xFF7FFFFFF, cores := [], bonded := Bonded.reset,
    parts := [(0, Part.reset0)], windows := [], tick := Tick.reset, conf := ⟨[], [], [], [], []⟩, jobs := [],
    images := [], pools := [], kvPools := [], seqs := [], seqRecs := [], leaves := [], rings := [], layers := [], routes := [],
    xfers := [], buckets := [], waiters := [], links := Links.reset, host := HostEdge.reset, power := Power.reset,
    secure := Secure.reset, events := Events.reset, test := Test.reset, digReqs := [], memos := [], flash := [],
    flashRows := [], tierMem := [], tap := .idcode }

end Sys2Proof.Machine
end

