-- ==== Sys2Proof/Machine/Ops.lean ====
section
/-! DEFINITION. The named operations: sparse maps, bit fields, bytes, time, cores, counters and events. -/

namespace Sys2Proof.Machine

open Sys2Proof

/-- The answer of a meaning. -/
abbrev Res := Host.Outcome State Fault Refusal

/-! ### Sparse maps -/

/-- The value at `n`; `d` where nothing is listed. -/
def smapGet {α : Type} (d : α) : SMap α → Nat → α
  | [], _ => d
  | (k, v) :: t, n => if n = k then v else if n < k then d else smapGet d t n

/-- Write `v` at `n`, keeping the canonical form. -/
def smapSet {α : Type} [DecidableEq α] (d : α) : SMap α → Nat → α → SMap α
  | [], n, v => if v = d then [] else [(n, v)]
  | (k, w) :: t, n, v =>
    if n < k then (if v = d then (k, w) :: t else (n, v) :: (k, w) :: t)
    else if n = k then (if v = d then t else (n, v) :: t)
    else (k, w) :: smapSet d t n v

/-- The entries of `m` below `n`. -/
def smapBelow {α : Type} (m : SMap α) (n : Nat) : SMap α := m.filter (fun e => e.1 < n)

/-- The entries of `m` at or above `n`. -/
def smapFrom {α : Type} (m : SMap α) (n : Nat) : SMap α := m.filter (fun e => n ≤ e.1)

/-- The values `vs` listed from `base`, defaults left out. -/
def smapOf {α : Type} [DecidableEq α] (d : α) : Nat → List α → SMap α
  | _, [] => []
  | b, v :: vs => if v = d then smapOf d (b + 1) vs else (b, v) :: smapOf d (b + 1) vs

/-- Write the run `vs` from `base`. -/
def smapPut {α : Type} [DecidableEq α] (d : α) (m : SMap α) (base : Nat) (vs : List α) : SMap α :=
  smapBelow m base ++ smapOf d base vs ++ smapFrom m (base + vs.length)

/-- Everything in [lo, hi) at the default. -/
def smapClear {α : Type} (m : SMap α) (lo hi : Nat) : SMap α := smapBelow m lo ++ smapFrom m hi

/-- `len` values from address `a` of a map whose entries below `a` are dropped. -/
def smapWalk {α : Type} (d : α) : SMap α → Nat → Nat → List α
  | _, _, 0 => []
  | [], a, len + 1 => d :: smapWalk d [] (a + 1) len
  | (k, v) :: t, a, len + 1 =>
    if k = a then v :: smapWalk d t (a + 1) len else d :: smapWalk d ((k, v) :: t) (a + 1) len

/-- The run of `len` values from `base`. -/
def smapRun {α : Type} (d : α) (m : SMap α) (base len : Nat) : List α := smapWalk d (smapFrom m base) base len

/-- Is some key of [lo, hi) listed? -/
def smapAny {α : Type} (m : SMap α) (lo hi : Nat) : Bool := m.any (fun e => decide (lo ≤ e.1) && decide (e.1 < hi))

/-- The canonical form: keys strictly rising, no default listed. -/
def smapWf {α : Type} [DecidableEq α] (d : α) : SMap α → Bool
  | [] => true
  | [(_, v)] => decide (v ≠ d)
  | (k, v) :: (k', v') :: t => decide (v ≠ d) && decide (k < k') && smapWf d ((k', v') :: t)

/-! ### Bits and bytes (00 R8: little-endian) -/

/-- Bits [hi:lo] of a number. -/
def bits (w hi lo : Nat) : Nat := (w / 2 ^ lo) % 2 ^ (hi + 1 - lo)

/-- Bit n of a number. -/
def bit (w n : Nat) : Bool := decide ((w / 2 ^ n) % 2 = 1)

/-- 1 for true. -/
def b2n (b : Bool) : Nat := if b then 1 else 0

/-- The number that little-endian bytes spell. -/
def leNat : List Byte → Nat
  | [] => 0
  | b :: t => b.toNat + 256 * leNat t

/-- `k` little-endian bytes of a number. -/
def natLe : Nat → Nat → List Byte
  | 0, _ => []
  | k + 1, n => BitVec.ofNat 8 n :: natLe k (n / 256)

/-- The number of `k` bytes at `off` of a record. -/
def rdN (bs : List Byte) (off k : Nat) : Nat := leNat ((bs.drop off).take k)

/-- `k` bytes at `off` of a record. -/
def rdB (bs : List Byte) (off k : Nat) : List Byte := (bs.drop off).take k

/-- A record with bytes written at `off`. -/
def wrB (bs : List Byte) (off : Nat) (v : List Byte) : List Byte := bs.take off ++ v ++ bs.drop (off + v.length)

/-- `n` zero bytes. -/
def zeros (n : Nat) : List Byte := List.replicate n 0

/-- Bytes padded with zeros to length `n`. -/
def padTo (n : Nat) (bs : List Byte) : List Byte := bs ++ zeros (n - bs.length)

/-- A `w`-bit number read as signed. -/
def sgn (w n : Nat) : Int := if n % 2 ^ w < 2 ^ (w - 1) then (n % 2 ^ w : Nat) else (n % 2 ^ w : Nat) - (2 ^ w : Nat)

/-- A signed number as `w` bits. -/
def unsgn (w : Nat) (i : Int) : Nat := (i % ((2 ^ w : Nat) : Int)).toNat

/-- Runs of `k` elements. -/
def chunksOf {α : Type} (k : Nat) : Nat → List α → List (List α)
  | 0, _ => []
  | f + 1, l => if l.isEmpty then [] else l.take k :: chunksOf k f (l.drop k)

/-- The 64-bit words of a record. -/
def leWords (bs : List Byte) : List W64 := (chunksOf 8 bs.length bs).map (fun b => BitVec.ofNat 64 (leNat b))

/-- The bytes of 64-bit words. -/
def wordBytes (ws : List W64) : List Byte := (ws.map (fun w => natLe 8 w.toNat)).flatten

/-- The n-th word of a list, 0 beyond its end. -/
def nthW (ws : List W64) (n : Nat) : Nat := (ws.getD n 0).toNat

/-- Remove the first element that satisfies p. -/
def dropFirst {α : Type} (p : α → Bool) : List α → List α
  | [] => []
  | a :: t => if p a then t else a :: dropFirst p t

/-! ### Time (00 R10; log 1) -/

/-- 1 µs in clk (00 R10). -/
def us (n : Nat) : Nat := 1200 * n

/-- The time up to `t` has passed: a command that stands for the end of a time limit says so (log 1). -/
def passTo (t : Nat) (s : State) : State := { s with clk := max s.clk t }

/-- The effective network limit in us (20 R531). -/
def tmoNet (s : State) : Nat := max 5 s.test.net.toNat
/-- The effective DMA limit in us: never below twice the network limit. -/
def tmoDma (s : State) : Nat := max (max 10 s.test.dma.toNat) (2 * tmoNet s)
/-- The effective remote completion limit in us. -/
def tmoRem (s : State) : Nat := 10 * max 10 s.test.rem.toNat
/-- The effective dispatch limit in us: never below the two it encloses. -/
def tmoDisp (s : State) : Nat := max (10 * max 10 s.test.disp.toNat) (max (tmoRem s) (tmoDma s))

/-- The deadline of the tick. -/
def deadline (t : Tick) : Nat := t.dueAt + us (t.periodUs - t.closewUs)

/-- Take a fresh index for a free value (log 7). -/
def takeFree (s : State) : Nat × State := (s.free, { s with free := s.free + 1 })

/-- Take a fresh transfer number. -/
def takeUid (s : State) : Nat × State := (s.nuid, { s with nuid := s.nuid + 1 })

/-- Put something on the wires (log 17). -/
def emit (o : Output) (s : State) : State := { s with outbox := s.outbox ++ [o] }

/-- The 802.1Q tag of a port's frames: none where VID is 0 (17 Table 17-9). -/
def vlanOf (v : HoPort) : Option (BitVec 3 × BitVec 12) := if v.vid = 0 then none else some (v.pcp, v.vid)

/-- DSCP and ECN of a message's packets, none where they are no RoCEv2 packets (17 R465): a congestion notification has a DSCP of its
own, every other RoCEv2 packet that of data packets (DESIGN CHOICE, log 108). -/
def markOf (h : HostEdge) : HostMsg → Option (BitVec 6 × Bool)
  | .cnp _ => some (h.cnpDscp, h.ecn)
  | .arpReply _ _ => none
  | .arpRequest _ _ => none
  | .ndAdvert _ _ => none
  | .ndSolicit _ _ => none
  | .echoReply _ => none
  | _ => some (h.dscp, h.ecn)

/-! ### Units -/

/-- Core n. -/
def getCore (s : State) (n : Nat) : Core := smapGet Core.reset s.cores n
/-- Put core n. -/
def setCore (n : Nat) (c : Core) (s : State) : State := { s with cores := smapSet Core.reset s.cores n c }
/-- Change core n. -/
def modCore (n : Nat) (f : Core → Core) (s : State) : State := setCore n (f (getCore s n)) s

/-- Slice n. -/
def getSlice (s : State) (n : Nat) : Slice := smapGet Slice.reset s.bonded.slices n
/-- Put slice n. -/
def setSlice (n : Nat) (v : Slice) (s : State) : State :=
  { s with bonded := { s.bonded with slices := smapSet Slice.reset s.bonded.slices n v } }
/-- Change slice n. -/
def modSlice (n : Nat) (f : Slice → Slice) (s : State) : State := setSlice n (f (getSlice s n)) s

/-- Partition n (P0 is ACTIVE where unlisted would be FREE, so P0 is always listed). -/
def getPart (s : State) (n : Nat) : Part := smapGet Part.reset s.parts n
/-- Put partition n. -/
def setPart (n : Nat) (p : Part) (s : State) : State := { s with parts := smapSet Part.reset s.parts n p }
/-- Change partition n. -/
def modPart (n : Nat) (f : Part → Part) (s : State) : State := setPart n (f (getPart s n)) s

/-- Window n. -/
def getWin (s : State) (n : Nat) : Window := smapGet Window.reset s.windows n
/-- Put window n. -/
def setWin (n : Nat) (w : Window) (s : State) : State := { s with windows := smapSet Window.reset s.windows n w }

/-- Quad n. -/
def getQuad (s : State) (n : Nat) : Quad := smapGet Quad.reset s.power.quads n
/-- Put quad n. -/
def setQuad (n : Nat) (q : Quad) (s : State) : State :=
  { s with power := { s.power with quads := smapSet Quad.reset s.power.quads n q } }
/-- Change quad n. -/
def modQuad (n : Nat) (f : Quad → Quad) (s : State) : State := setQuad n (f (getQuad s n)) s

/-- QP n. -/
def getQp (s : State) (n : Nat) : Qp := smapGet Qp.reset s.host.qps n
/-- Put QP n. -/
def setQp (n : Nat) (q : Qp) (s : State) : State :=
  { s with host := { s.host with qps := smapSet Qp.reset s.host.qps n q } }
/-- Change QP n. -/
def modQp (n : Nat) (f : Qp → Qp) (s : State) : State := setQp n (f (getQp s n)) s

/-- A Bakener port by name. -/
def getPort (s : State) : BPort → BkPort
  | .n => s.links.portN
  | .e => s.links.portE
  | .s => s.links.portS
  | .w => s.links.portW
/-- Put a Bakener port. -/
def setPort (p : BPort) (v : BkPort) (s : State) : State :=
  match p with
  | .n => { s with links := { s.links with portN := v } }
  | .e => { s with links := { s.links with portE := v } }
  | .s => { s with links := { s.links with portS := v } }
  | .w => { s with links := { s.links with portW := v } }
/-- Change a Bakener port. -/
def modPort (p : BPort) (f : BkPort → BkPort) (s : State) : State := setPort p (f (getPort s p)) s
/-- The number of a Bakener port: N 0, E 1, S 2, W 3 (16 R454). -/
def portNo : BPort → Nat
  | .n => 0
  | .e => 1
  | .s => 2
  | .w => 3
/-- The four Bakener ports. -/
def allPorts : List BPort := [.n, .e, .s, .w]

/-- A host port by name. -/
def getHport (s : State) : HPort → HoPort
  | .h0 => s.host.port0
  | .h1 => s.host.port1
  | .h2 => s.host.port2
  | .h3 => s.host.port3
/-- Put a host port. -/
def setHport (p : HPort) (v : HoPort) (s : State) : State :=
  match p with
  | .h0 => { s with host := { s.host with port0 := v } }
  | .h1 => { s with host := { s.host with port1 := v } }
  | .h2 => { s with host := { s.host with port2 := v } }
  | .h3 => { s with host := { s.host with port3 := v } }
/-- Change a host port. -/
def modHport (p : HPort) (f : HoPort → HoPort) (s : State) : State := setHport p (f (getHport s p)) s
/-- The number of a host port. -/
def hportNo : HPort → Nat
  | .h0 => 0
  | .h1 => 1
  | .h2 => 2
  | .h3 => 3
/-- Put a number of frames with a message on a host port's wire (17 R465, R477: HE_TXFRAMES). -/
def putFrames (p : HPort) (frames : Nat) (m : HostMsg) (s : State) : State :=
  modHport p (fun v => { v with tx := v.tx + BitVec.ofNat 64 frames }) (emit (.host p (vlanOf (getHport s p)) (markOf s.host m) m) s)

/-- The port's priority is paused (17 R466). -/
def portPaused (s : State) (p : HPort) : Bool := decide (s.clk < smapGet 0 (getHport s p).pauses (getHport s p).pcp.toNat)

/-- What a pause kept back goes out, once it is over. -/
def flushFrames (p : HPort) (s : State) : State :=
  let q := (getHport s p).txq
  if q.isEmpty || portPaused s p then s
  else q.foldl (fun s x => putFrames p x.1 x.2 s) (modHport p (fun v => { v with txq := [] }) s)

/-- Send a number of frames with a message on a host port; while its priority is paused they wait (17 R466). -/
def sendFrames (p : HPort) (frames : Nat) (m : HostMsg) (s : State) : State :=
  if portPaused s p then modHport p (fun v => { v with txq := v.txq ++ [(frames, m)] }) s else putFrames p frames m (flushFrames p s)
/-- The four host ports. -/
def allHports : List HPort := [.h0, .h1, .h2, .h3]

/-- Core n is enabled by fuse (00 R5, R6). -/
def coreEnabled (s : State) (n : Nat) : Bool :=
  if n < 64 then bit s.fuseLo.toNat n else bit s.fuseHi.toNat (n - 64)

/-- The quad of core n (00 Table 0-2). -/
def quadOf (n : Nat) : Nat := 5 * (n / 10 / 2) + n % 10 / 2

/-- The cores of quad q. -/
def quadCores (q : Nat) : List Nat := (List.range 100).filter (fun n => quadOf n = q)

/-- The module is past bring-up's first step: its logic runs. -/
def isUp (s : State) : Bool :=
  match s.boot with
  | .off => false
  | .up _ _ => true

/-- Step 1 of a bring-up runs: the input settles for 10 ms (19 Table 19-5). -/
def inStep1 (s : State) : Bool :=
  match s.boot with
  | .up t _ => decide (s.clk < t + us 10000)
  | .off => false

/-- Answer an error for a number that names no unit; else the meaning. -/
def unitRes (ok : Bool) (r : State) : Res := if ok then .next r else .fault .noSuchUnit

/-! ### Events (20 R533 to R538) -/

/-- A UNIT field (20 R534). -/
def unitCode (kind idx : Nat) : BitVec 16 := BitVec.ofNat 16 (kind * 4096 + idx % 4096)

/-- The owner session's handshake has completed (20 R536). -/
def ownerDone (s : State) : Bool :=
  match s.host.owner with
  | some o => o.done
  | none => false

/-- The belfry runs: no watchdog reset is in progress (20 R532). -/
def belfryRuns (s : State) : Bool := !s.test.wdDead && decide (s.test.wdUntil ≤ s.clk)

/-- An event counter after one increment, and whether it raises CTR_OVF (20 R525, R526). -/
def ctrInc (c : EvCtr) : EvCtr × Bool :=
  if c.count = BitVec.allOnes 32 then ({ c with ovf := true }, !c.ovf) else ({ c with count := c.count + 1 }, false)

/-- One more occurrence of a code in the tick (20 R536). -/
def countCode (code : Nat) (e : Events) : Events := { e with perCode := smapSet 0 e.perCode code (smapGet 0 e.perCode code + 1) }

/-- Put a record into the event queue, or count it as dropped (20 R535, R536). The CTR_OVF of a full EVT_DROPPED finds the queue full
itself. -/
def pushEvent (kind idx : Nat) (part : Option Nat) (code : Nat) (arg : Nat) (inj : Bool) (s : State) : State :=
  let e := s.events
  if ¬ ownerDone s then { s with events := { e with next := e.next + 1 } }
  else if 4096 ≤ e.queue.length then
    let d := ctrInc e.dropped
    let e := { e with lost := e.lost + 1, dropped := d.1 }
    if !d.2 then { s with events := e }
    else
      let e := countCode 1 e
      { s with events := if 256 < smapGet 0 e.perCode 1 then { e with suppressed := (ctrInc e.suppressed).1 } else { e with lost := e.lost + 1 } }
  else
    let r : EvRec := { seq := e.next, tick := s.tick.now, unit := unitCode kind idx, inj := inj, pv := part.isSome,
                       part := BitVec.ofNat 4 (part.getD 0), code := BitVec.ofNat 16 code, arg := BitVec.ofNat 64 arg }
    { s with events := { e with
        queue := e.queue ++ [r]
        next := e.next + 1
        first := if e.first = 0 then e.next else e.first
        last := e.next } }

/-- Raise an event (20 R536): from the 257th occurrence of a code in a tick it is counted, not recorded. -/
def raiseI (inj : Bool) (kind idx : Nat) (part : Option Nat) (code arg : Nat) (s : State) : State :=
  let s := { s with events := countCode code s.events }
  if 256 < smapGet 0 s.events.perCode code then
    let d := ctrInc s.events.suppressed
    let s := { s with events := { s.events with suppressed := d.1 } }
    if !d.2 then s
    else
      let s := { s with events := countCode 1 s.events }
      if 256 < smapGet 0 s.events.perCode 1 then s else pushEvent 0 0 none 0x0001 0x00070010 false s
  else pushEvent kind idx part code arg inj s

/-- Raise an event that no injection caused. -/
def raise (kind idx : Nat) (part : Option Nat) (code arg : Nat) (s : State) : State :=
  raiseI false kind idx part code arg s

/-- An event counter after n increments (20 R525). -/
def ctrPlus (c : EvCtr) (n : Nat) : EvCtr × Bool :=
  if c.count.toNat + n < 2 ^ 32 then ({ c with count := c.count + BitVec.ofNat 32 n }, false)
  else ({ count := BitVec.allOnes 32, ovf := true }, !c.ovf)

/-- Raise CTR_OVF for the counter at a C-space address, when asked (20 R525). -/
def ovfEvent (b : Bool) (addr : Nat) (s : State) : State := if b then raise 0 0 none 0x0001 addr s else s

/-- Increment an event counter `n` times. -/
def ctrAdd : Nat → EvCtr → EvCtr × Bool
  | 0, c => (c, false)
  | n + 1, c => let r := ctrInc c; let q := ctrAdd n r.1; (q.1, r.2 || q.2)

/-- An event counter after a W1C write (20 R526). -/
def ctrWrite (c : EvCtr) (v : Nat) : EvCtr :=
  { count := c.count &&& ~~~ BitVec.ofNat 32 v, ovf := c.ovf && !bit v 63 }

/-- An event counter as a 64-bit register (20 R526). -/
def ctrWord (c : EvCtr) : Nat := c.count.toNat + (if c.ovf then 2 ^ 63 else 0)

end Sys2Proof.Machine
end

