-- ==== Sys2Proof/Machine/Crypto.lean ====
section
/-! DEFINITION. The cryptographic functions that the manual takes from published standards: SHAKE256, AES-256 in GCM
and XTS modes (14 R395, 15 R417, 17 R469, 18; log 14). -/

namespace Sys2Proof.Machine

open Sys2Proof

/-! ### SHAKE256 -/

/-- Round constants of Keccak-f[1600]. -/
def keccakRC : List Nat :=
  [0x0000000000000001, 0x0000000000008082, 0x800000000000808A, 0x8000000080008000, 0x000000000000808B, 0x0000000080000001] ++
  [0x8000000080008081, 0x8000000000008009, 0x000000000000008A, 0x0000000000000088, 0x0000000080008009, 0x000000008000000A] ++
  [0x000000008000808B, 0x800000000000008B, 0x8000000000008089, 0x8000000000008003, 0x8000000000008002, 0x8000000000000080] ++
  [0x000000000000800A, 0x800000008000000A, 0x8000000080008081, 0x8000000000008080, 0x0000000080000001, 0x8000000080008008]

/-- Rotation of lane x + 5y. -/
def keccakRot : List Nat :=
  [0, 1, 62, 28, 27, 36, 44, 6, 55, 20, 3, 10, 43, 25, 39, 41, 45, 15, 21, 8, 18, 2, 61, 56, 14]

/-- Rotate a 64-bit lane left. -/
def rotl64 (a n : Nat) : Nat := a * 2 ^ n % 2 ^ 64 + a / 2 ^ (64 - n)

/-- One round of Keccak-f on 25 lanes. -/
def keccakRound (rc : Nat) (a : Array Nat) : Array Nat :=
  let g (a : Array Nat) (i : Nat) : Nat := a.getD i 0
  let c := ((List.range 5).map (fun x => g a x ^^^ g a (x + 5) ^^^ g a (x + 10) ^^^ g a (x + 15) ^^^ g a (x + 20))).toArray
  let d := ((List.range 5).map (fun x => g c ((x + 4) % 5) ^^^ rotl64 (g c ((x + 1) % 5)) 1)).toArray
  let b := ((List.range 25).map (fun i =>
    -- lane (x, y) of the result of rho and pi comes from lane (x + 3y, x)
    let x := i % 5
    let y := i / 5
    let j := (x + 3 * y) % 5 + 5 * x
    rotl64 (g a j ^^^ g d (j % 5)) (keccakRot.getD j 0))).toArray
  ((List.range 25).map (fun i =>
    let x := i % 5
    let y := i / 5
    let v := g b i ^^^ ((2 ^ 64 - 1 - g b ((x + 1) % 5 + 5 * y)) &&& g b ((x + 2) % 5 + 5 * y))
    if i = 0 then v ^^^ rc else v)).toArray

/-- Keccak-f[1600]. -/
def keccakF (a : Array Nat) : Array Nat := keccakRC.foldl (fun a rc => keccakRound rc a) a

/-- Absorb one 136-byte block. -/
def absorb (a : Array Nat) (blk : List Byte) : Array Nat :=
  let ws := (chunksOf 8 17 blk).map leNat
  keccakF (((List.range 25).map (fun i => a.getD i 0 ^^^ ws.getD i 0)).toArray)

/-- Squeeze n bytes. -/
def squeeze : Nat → Array Nat → Nat → List Byte
  | 0, _, _ => []
  | f + 1, a, n =>
    let out := (((List.range 17).map (fun i => natLe 8 (a.getD i 0))).flatten).take n
    if n ≤ 136 then out else out ++ squeeze f (keccakF a) (n - 136)

/-- SHAKE256 of a message, n bytes. -/
def shake256 (n : Nat) (msg : List Byte) : List Byte :=
  let last := msg.drop (msg.length / 136 * 136)
  let pad : List Byte :=
    if last.length = 135 then last ++ [0x9F] else last ++ [0x1F] ++ zeros (134 - last.length) ++ [0x80]
  let blocks := chunksOf 136 (msg.length / 136) (msg.take (msg.length / 136 * 136)) ++ [pad]
  squeeze (n / 136 + 1) (blocks.foldl absorb ((List.replicate 25 0).toArray)) n

/-! ### AES-256 -/

/-- The AES S-box. -/
def aesSbox : List Nat :=
  [0x63, 0x7C, 0x77, 0x7B, 0xF2, 0x6B, 0x6F, 0xC5, 0x30, 0x01, 0x67, 0x2B, 0xFE, 0xD7, 0xAB, 0x76, 0xCA, 0x82, 0xC9, 0x7D, 0xFA, 0x59, 0x47, 0xF0, 0xAD, 0xD4, 0xA2, 0xAF, 0x9C, 0xA4, 0x72, 0xC0] ++
  [0xB7, 0xFD, 0x93, 0x26, 0x36, 0x3F, 0xF7, 0xCC, 0x34, 0xA5, 0xE5, 0xF1, 0x71, 0xD8, 0x31, 0x15, 0x04, 0xC7, 0x23, 0xC3, 0x18, 0x96, 0x05, 0x9A, 0x07, 0x12, 0x80, 0xE2, 0xEB, 0x27, 0xB2, 0x75] ++
  [0x09, 0x83, 0x2C, 0x1A, 0x1B, 0x6E, 0x5A, 0xA0, 0x52, 0x3B, 0xD6, 0xB3, 0x29, 0xE3, 0x2F, 0x84, 0x53, 0xD1, 0x00, 0xED, 0x20, 0xFC, 0xB1, 0x5B, 0x6A, 0xCB, 0xBE, 0x39, 0x4A, 0x4C, 0x58, 0xCF] ++
  [0xD0, 0xEF, 0xAA, 0xFB, 0x43, 0x4D, 0x33, 0x85, 0x45, 0xF9, 0x02, 0x7F, 0x50, 0x3C, 0x9F, 0xA8, 0x51, 0xA3, 0x40, 0x8F, 0x92, 0x9D, 0x38, 0xF5, 0xBC, 0xB6, 0xDA, 0x21, 0x10, 0xFF, 0xF3, 0xD2] ++
  [0xCD, 0x0C, 0x13, 0xEC, 0x5F, 0x97, 0x44, 0x17, 0xC4, 0xA7, 0x7E, 0x3D, 0x64, 0x5D, 0x19, 0x73, 0x60, 0x81, 0x4F, 0xDC, 0x22, 0x2A, 0x90, 0x88, 0x46, 0xEE, 0xB8, 0x14, 0xDE, 0x5E, 0x0B, 0xDB] ++
  [0xE0, 0x32, 0x3A, 0x0A, 0x49, 0x06, 0x24, 0x5C, 0xC2, 0xD3, 0xAC, 0x62, 0x91, 0x95, 0xE4, 0x79, 0xE7, 0xC8, 0x37, 0x6D, 0x8D, 0xD5, 0x4E, 0xA9, 0x6C, 0x56, 0xF4, 0xEA, 0x65, 0x7A, 0xAE, 0x08] ++
  [0xBA, 0x78, 0x25, 0x2E, 0x1C, 0xA6, 0xB4, 0xC6, 0xE8, 0xDD, 0x74, 0x1F, 0x4B, 0xBD, 0x8B, 0x8A, 0x70, 0x3E, 0xB5, 0x66, 0x48, 0x03, 0xF6, 0x0E, 0x61, 0x35, 0x57, 0xB9, 0x86, 0xC1, 0x1D, 0x9E] ++
  [0xE1, 0xF8, 0x98, 0x11, 0x69, 0xD9, 0x8E, 0x94, 0x9B, 0x1E, 0x87, 0xE9, 0xCE, 0x55, 0x28, 0xDF, 0x8C, 0xA1, 0x89, 0x0D, 0xBF, 0xE6, 0x42, 0x68, 0x41, 0x99, 0x2D, 0x0F, 0xB0, 0x54, 0xBB, 0x16]

/-- SubBytes of one byte. -/
def subByte (b : Nat) : Nat := aesSbox.getD b 0
/-- InvSubBytes of one byte. -/
def invSub (b : Nat) : Nat := aesSbox.findIdx (fun x => x = b)
/-- Multiply by x in GF(2^8). -/
def xtime (b : Nat) : Nat := if b < 128 then 2 * b else (2 * b - 256) ^^^ 0x1B
/-- Multiply in GF(2^8) by a constant below 16. -/
def gmul (b k : Nat) : Nat :=
  let b2 := xtime b
  let b4 := xtime b2
  let b8 := xtime b4
  (if k % 2 = 1 then b else 0) ^^^ (if k / 2 % 2 = 1 then b2 else 0) ^^^ (if k / 4 % 2 = 1 then b4 else 0)
    ^^^ (if k / 8 % 2 = 1 then b8 else 0)
/-- Bytes combined by exclusive or. -/
def xorL (a b : List Nat) : List Nat := List.zipWith (· ^^^ ·) a b

/-- The key schedule of AES-256: words of four bytes, newest first. -/
def keyWords : Nat → Nat → Nat → List (List Nat) → List (List Nat)
  | 0, _, _, ws => ws
  | f + 1, i, rc, ws =>
    let t := ws.headD []
    let t' := if i % 8 = 0 then xorL ((t.drop 1 ++ t.take 1).map subByte) [rc, 0, 0, 0]
              else if i % 8 = 4 then t.map subByte else t
    keyWords f (i + 1) (if i % 8 = 0 then xtime rc else rc) (xorL (ws.getD 7 []) t' :: ws)

/-- The fifteen round keys. -/
def roundKeys (key : List Byte) : List (List Nat) :=
  let k := chunksOf 4 8 (key.map BitVec.toNat)
  (chunksOf 4 15 ((keyWords 52 8 1 k.reverse).reverse)).map List.flatten

/-- ShiftRows on 16 bytes in column order. -/
def shiftRows (s : List Nat) : List Nat := (List.range 16).map (fun i => s.getD ((i + 4 * (i % 4)) % 16) 0)
/-- InvShiftRows. -/
def invShift (s : List Nat) : List Nat := (List.range 16).map (fun i => s.getD ((i + 12 * (i % 4)) % 16) 0)
/-- MixColumns with the circulant matrix of a first row. -/
def mixCols (row : List Nat) (s : List Nat) : List Nat :=
  (List.range 16).map (fun i =>
    (List.range 4).foldl (fun a j => a ^^^ gmul (s.getD (i / 4 * 4 + j) 0) (row.getD ((j + 4 - i % 4) % 4) 0)) 0)

/-- AES-256 encryption of one block under its round keys. -/
def aesEnc (ks : List (List Nat)) (blk : List Nat) : List Nat :=
  let s := xorL blk (ks.headD [])
  let s := ((ks.drop 1).take 13).foldl (fun s k => xorL (mixCols [2, 3, 1, 1] (shiftRows (s.map subByte))) k) s
  xorL (shiftRows (s.map subByte)) (ks.getD 14 [])

/-- AES-256 decryption of one block. -/
def aesDec (ks : List (List Nat)) (blk : List Nat) : List Nat :=
  let s := (invShift (xorL blk (ks.getD 14 []))).map invSub
  let s := (((ks.drop 1).take 13).reverse).foldl (fun s k => (invShift (mixCols [14, 11, 13, 9] (xorL s k))).map invSub) s
  xorL s (ks.headD [])

/-! ### GCM -/

/-- A big-endian number of bytes. -/
def beNat (bs : List Nat) : Nat := bs.foldl (fun a b => a * 256 + b) 0
/-- k big-endian bytes. -/
def natBe (k n : Nat) : List Nat := ((natLe k n).map BitVec.toNat).reverse

/-- Multiplication in GF(2^128) as GCM orders its bits. -/
def gf128 : Nat → Nat → Nat → Nat → Nat
  | 0, _, _, z => z
  | f + 1, x, v, z =>
    let z := if x / 2 ^ f % 2 = 1 then z ^^^ v else z
    gf128 f x (if v % 2 = 1 then v / 2 ^^^ (0xE1 * 2 ^ 120) else v / 2) z

/-- GHASH of whole blocks. -/
def ghash (h : Nat) (blks : List (List Nat)) : Nat := blks.foldl (fun y b => gf128 128 (y ^^^ beNat b) h 0) 0

/-- Bytes padded to whole blocks of 16. -/
def gcmBlocks (bs : List Nat) : List (List Nat) :=
  chunksOf 16 (bs.length / 16 + 1) (bs ++ List.replicate ((16 - bs.length % 16) % 16) 0)

/-- Counter mode from counter i. -/
def ctrMode (ks : List (List Nat)) (iv : List Nat) : Nat → Nat → List Nat → List Nat
  | 0, _, _ => []
  | f + 1, i, bs =>
    if bs.isEmpty then []
    else xorL (bs.take 16) (aesEnc ks (iv ++ natBe 4 i)) ++ ctrMode ks iv f (i + 1) (bs.drop 16)

/-- The GCM tag of a ciphertext. -/
def gcmTag (ks : List (List Nat)) (iv aad ct : List Nat) : List Nat :=
  let h := beNat (aesEnc ks (List.replicate 16 0))
  let s := ghash h (gcmBlocks aad ++ gcmBlocks ct ++ [natBe 8 (8 * aad.length) ++ natBe 8 (8 * ct.length)])
  xorL (natBe 16 s) (aesEnc ks (iv ++ natBe 4 1))

/-- Bytes as numbers. -/
def toNats (bs : List Byte) : List Nat := bs.map BitVec.toNat
/-- Numbers as bytes. -/
def ofNats (bs : List Nat) : List Byte := bs.map (BitVec.ofNat 8)

/-- AES-256-GCM sealing: ciphertext and tag. -/
def gcmSeal (key iv aad pt : List Byte) : List Byte × List Byte :=
  let ks := roundKeys key
  let ct := ctrMode ks (toNats iv) (pt.length / 16 + 1) 2 (toNats pt)
  (ofNats ct, ofNats (gcmTag ks (toNats iv) (toNats aad) ct))

/-- AES-256-GCM opening: the plaintext where the tag verifies. -/
def gcmOpen (key iv aad ct tag : List Byte) : Option (List Byte) :=
  let ks := roundKeys key
  if ofNats (gcmTag ks (toNats iv) (toNats aad) (toNats ct)) = tag then
    some (ofNats (ctrMode ks (toNats iv) (ct.length / 16 + 1) 2 (toNats ct)))
  else none

/-! ### XTS -/

/-- Multiply an XTS tweak by x. -/
def xtsDouble (t : Nat) : Nat := if t < 2 ^ 127 then 2 * t else (2 * t - 2 ^ 128) ^^^ 0x87

/-- XTS over whole blocks. -/
def xtsBlocks (f : List Nat → List Nat) : Nat → Nat → List Nat → List Nat
  | 0, _, _ => []
  | n + 1, t, bs =>
    if bs.isEmpty then []
    else
      let tb := toNats (natLe 16 t)
      xorL (f (xorL (bs.take 16) tb)) tb ++ xtsBlocks f n (xtsDouble t) (bs.drop 16)

/-- AES-256-XTS of a sector under a 64-byte key; true encrypts. -/
def aesXts (enc : Bool) (key : List Byte) (sector : Nat) (bs : List Byte) : List Byte :=
  let k1 := roundKeys (key.take 32)
  let k2 := roundKeys (key.drop 32)
  let t := leNat (ofNats (aesEnc k2 (toNats (natLe 16 sector))))
  ofNats (xtsBlocks (if enc then aesEnc k1 else aesDec k1) (bs.length / 16 + 1) t (toNats bs))

end Sys2Proof.Machine
end

