-- ==== Sys2Proof/Machine/Flags.lean ====
section
/-! DEFINITION. The flags of ASR and the fields of ACR (02 R46 to R48). -/

namespace Sys2Proof.Machine

open Sys2Proof

/-- A set of ASR flags, bit for bit as in 02 Table 2-7. -/
abbrev Fl := BitVec 7

/-- Invalid operation. -/
def flINV : Fl := 1
/-- Reciprocal or log2 of zero. -/
def flDZ : Fl := 2
/-- Overflow. -/
def flOF : Fl := 4
/-- Underflow. -/
def flUF : Fl := 8
/-- Inexact. -/
def flNX : Fl := 16
/-- Integer saturation. -/
def flSAT : Fl := 32
/-- Flushed. -/
def flFZ : Fl := 64

/-- `f` where the condition holds. -/
def flIf (b : Bool) (f : Fl) : Fl := if b then f else 0

/-- The union of flag sets. -/
def flAll (l : List Fl) : Fl := l.foldl (· ||| ·) 0

/-- The fields of ACR (02 Table 2-6). -/
structure Ctl where
  rnd   : Nat
  ovsat : Bool
  flush : Bool
  deriving DecidableEq, Repr

/-- ACR as its fields; RND 0b11 acts as 0b00 (02 Table 2-6). -/
def ctlOf (acr : W64) : Ctl :=
  let r := bits acr.toNat 3 2
  { rnd := if r = 3 then 0 else r, ovsat := bit acr.toNat 1, flush := bit acr.toNat 0 }

/-- Round to nearest even with the FLUSH of a control (02 R49). -/
def ctlNear (c : Ctl) : Ctl := { c with rnd := 0 }

/-- ASR after an instruction sets flags: sticky (02 R47). -/
def asrSet (asr : W64) (f : Fl) : W64 := asr ||| f.setWidth 64

/-- ASR after a `cwr`: a flag written 1 is cleared (02 R47, 03 R72). -/
def asrClear (asr v : W64) : W64 := asr &&& ~~~ v

end Sys2Proof.Machine
end

