-- ==== Sys2Proof/Machine/Float.lean ====
section
/-! DEFINITION. Number formats, exact values, rounding and conversion (02), and f32 arithmetic (07 R187). -/

namespace Sys2Proof.Machine

open Sys2Proof

/-- The eleven formats, in the order of their codes (02 Table 2-1, 03 Table 3-10). -/
inductive Fm where
  | f32 | bf16 | f16 | e4m3 | e5m2 | e3m2 | e2m3 | e2m1 | i8 | i4 | i32
  deriving DecidableEq, Repr

/-- The format of a 4-bit code (03 R79). -/
def fmOf (n : Nat) : Option Fm := [Fm.f32, .bf16, .f16, .e4m3, .e5m2, .e3m2, .e2m3, .e2m1, .i8, .i4, .i32][n]?

/-- The format of a code that decode has accepted. -/
def fmAt (n : Nat) : Fm := (fmOf n).getD .f32

/-- Bits of an element (02 Table 2-1). -/
def fmBits : Fm → Nat
  | .f32 => 32 | .bf16 => 16 | .f16 => 16 | .e4m3 => 8 | .e5m2 => 8 | .e3m2 => 6 | .e2m3 => 6 | .e2m1 => 4
  | .i8 => 8 | .i4 => 4 | .i32 => 32

/-- Exponent width, mantissa width, bias of a float format (02 Table 2-1). -/
def fmPar : Fm → Nat × Nat × Int
  | .f32 => (8, 23, 127) | .bf16 => (8, 7, 127) | .f16 => (5, 10, 15) | .e4m3 => (4, 3, 7) | .e5m2 => (5, 2, 15)
  | .e3m2 => (3, 2, 3) | .e2m3 => (2, 3, 1) | .e2m1 => (2, 1, 1) | _ => (0, 0, 0)

/-- An integer format. -/
def fmInt : Fm → Bool
  | .i8 => true | .i4 => true | .i32 => true | _ => false

/-- A format with infinities (02 Table 2-1). -/
def fmInf : Fm → Bool
  | .f32 => true | .bf16 => true | .f16 => true | .e5m2 => true | _ => false

/-- A format that ACR.FLUSH acts on (02 R53). -/
def fmFlush : Fm → Bool
  | .f32 => true | .bf16 => true | .f16 => true | _ => false

/-- An exact value: NaN, an infinity, or sign, numerator, denominator (not 0) and power of two. -/
inductive XV where
  | nan
  | inf (s : Bool)
  | fin (s : Bool) (num den : Nat) (e : Int)
  deriving DecidableEq, Repr

/-- The value of an element code (02 R36, R37; integers two's complement). -/
def xvOf (f : Fm) (code : Nat) : XV :=
  if fmInt f then
    let i := sgn (fmBits f) code
    .fin (decide (i < 0)) i.natAbs 1 0
  else
    let (eb, mb, bias) := fmPar f
    let s := bit code (eb + mb)
    let ex := (code / 2 ^ mb) % 2 ^ eb
    let m := code % 2 ^ mb
    let top := ex + 1 = 2 ^ eb
    if top ∧ fmInf f then (if m = 0 then .inf s else .nan)
    else if f = .e4m3 ∧ top ∧ m = 7 then .nan
    else if ex = 0 then .fin s m 1 (1 - bias - mb)
    else .fin s (2 ^ mb + m) 1 (ex - bias - mb)

/-- The code is a nonzero subnormal of its float format. -/
def isSubn (f : Fm) (code : Nat) : Bool :=
  let (eb, mb, _) := fmPar f
  !fmInt f && decide ((code / 2 ^ mb) % 2 ^ eb = 0) && decide (code % 2 ^ mb ≠ 0)

/-- The sign bit of a code. -/
def signOf (f : Fm) (code : Nat) : Bool := bit code (fmBits f - 1)

/-- A code whose subnormals are flushed where FLUSH acts (02 R53): the code read and the flag. -/
def flushIn (flush : Bool) (f : Fm) (code : Nat) : Nat × Fl :=
  if flush && fmFlush f && isSubn f code then (2 ^ (fmBits f - 1) * b2n (signOf f code), flFZ) else (code, 0)

/-- The value of an operand element under FLUSH (02 R53). -/
def xvIn (flush : Bool) (f : Fm) (code : Nat) : XV × Fl :=
  let r := flushIn flush f code
  (xvOf f r.1, r.2)

/-! ### Exact arithmetic -/

/-- Floor of log2 of num/den, both not 0. -/
def flog2 (num den : Nat) : Int :=
  let d : Int := (Nat.log2 num : Int) - (Nat.log2 den : Int)
  if 0 ≤ d then (if den * 2 ^ d.toNat ≤ num then d else d - 1)
  else (if den ≤ num * 2 ^ (-d).toNat then d else d - 1)

/-- num/den × 2^e as a fraction of naturals. -/
def scale2 (num den : Nat) (e : Int) : Nat × Nat :=
  if 0 ≤ e then (num * 2 ^ e.toNat, den) else (num, den * 2 ^ (-e).toNat)

/-- Compare two magnitudes num/den × 2^e: is a < b, is a = b. -/
def magCmp (n1 d1 : Nat) (e1 : Int) (n2 d2 : Nat) (e2 : Int) : Ordering :=
  let m := min e1 e2
  compare (n1 * d2 * 2 ^ (e1 - m).toNat) (n2 * d1 * 2 ^ (e2 - m).toNat)

/-- The zero of a sign. -/
def xZero (s : Bool) : XV := .fin s 0 1 0

/-- Negation. -/
def xNeg : XV → XV
  | .nan => .nan
  | .inf s => .inf (!s)
  | .fin s n d e => .fin (!s) n d e

/-- The magnitude. -/
def xAbs : XV → XV
  | .nan => .nan
  | .inf _ => .inf false
  | .fin _ n d e => .fin false n d e

/-- The sign of a value. -/
def xSign : XV → Bool
  | .nan => false
  | .inf s => s
  | .fin s _ _ _ => s

/-- A value is zero. -/
def xIsZero : XV → Bool
  | .fin _ n _ _ => decide (n = 0)
  | _ => false

/-- Exact product (02 R41, R48). -/
def xMul : XV → XV → XV × Fl
  | .nan, _ => (.nan, 0)
  | _, .nan => (.nan, 0)
  | .inf s, .inf t => (.inf (s != t), 0)
  | .inf s, .fin t n _ _ => if n = 0 then (.nan, flINV) else (.inf (s != t), 0)
  | .fin t n _ _, .inf s => if n = 0 then (.nan, flINV) else (.inf (s != t), 0)
  | .fin s n d e, .fin t m c g => (.fin (s != t) (n * m) (d * c) (e + g), 0)

/-- Exact sum; an exact zero sum of opposite signs is +0 (02 R41; IEEE 754-2019 under nearest even). -/
def xAdd : XV → XV → XV × Fl
  | .nan, _ => (.nan, 0)
  | _, .nan => (.nan, 0)
  | .inf s, .inf t => if s = t then (.inf s, 0) else (.nan, flINV)
  | .inf s, .fin _ _ _ _ => (.inf s, 0)
  | .fin _ _ _ _, .inf t => (.inf t, 0)
  | .fin s n d e, .fin t m c g =>
    if n = 0 ∧ m = 0 then (xZero (s && t), 0)
    else
      let k := min e g
      let a : Int := (n * c * 2 ^ (e - k).toNat : Nat)
      let b : Int := (m * d * 2 ^ (g - k).toNat : Nat)
      let r : Int := (if s then -a else a) + (if t then -b else b)
      (.fin (decide (r < 0)) r.natAbs (d * c) k, 0)

/-- Exact quotient under IEEE 754-2019 (zero divisors give infinities, 0/0 and ∞/∞ NaN; no flag: log 27). -/
def xDiv : XV → XV → XV
  | .nan, _ => .nan
  | _, .nan => .nan
  | .inf _, .inf _ => .nan
  | .inf s, .fin t _ _ _ => .inf (s != t)
  | .fin s _ _ _, .inf t => xZero (s != t)
  | .fin s n d e, .fin t m c g =>
    if m = 0 then (if n = 0 then .nan else .inf (s != t)) else .fin (s != t) (n * c) (d * m) (e - g)

/-- Order of two values that are not NaN, -0 equal to +0 (02 R44). -/
def xCmp : XV → XV → Ordering
  | .inf s, .inf t => if s = t then .eq else if s then .lt else .gt
  | .inf s, _ => if s then .lt else .gt
  | _, .inf t => if t then .gt else .lt
  | .fin s n d e, .fin t m c g =>
    if n = 0 ∧ m = 0 then .eq
    else if n = 0 then (if t then .gt else .lt)
    else if m = 0 then (if s then .lt else .gt)
    else if s ≠ t then (if s then .lt else .gt)
    else if s then magCmp m c g n d e else magCmp n d e m c g
  | _, _ => .eq

/-! ### Rounding (02 R49, R51, R54, R55) -/

/-- Does an inexact magnitude with remainder r/d (of one unit) and even floor bit round away? -/
def roundUp (rnd draw n r d : Nat) : Bool :=
  if rnd = 1 then false
  else if rnd = 2 then decide (65536 ≤ r * 65536 / d + draw)
  else decide (d < 2 * r) || (decide (2 * r = d) && decide (n % 2 = 1))

/-- Round num/den × 2^e to a multiple of 2^q: the multiple and whether it is inexact. -/
def roundAt (rnd draw num den : Nat) (e q : Int) : Nat × Bool :=
  let (a, b) := scale2 num den (e - q)
  let n := a / b
  let r := a % b
  (if roundUp rnd draw n r b then n + 1 else n, decide (r ≠ 0))

/-- The largest finite value of a float format as a multiple of a power of two (02 Table 2-1). -/
def fmMax (f : Fm) : Nat × Int :=
  let (eb, mb, bias) := fmPar f
  let top : Int := if fmInf f then 2 ^ eb - 2 else 2 ^ eb - 1
  let m := if f = .e4m3 then 14 else 2 ^ (mb + 1) - 1
  (m, top - bias - mb)

/-- The code of the value n × 2^q, in range, q at least the subnormal spacing (02 R36). -/
def fmPack (f : Fm) (s : Bool) (n : Nat) (q : Int) : Nat :=
  let (eb, mb, bias) := fmPar f
  let (n, q) := if 2 ^ (mb + 1) ≤ n then (n / 2, q + 1) else (n, q)
  let body := if n < 2 ^ mb then n else ((q + bias + mb).toNat) * 2 ^ mb + (n - 2 ^ mb)
  b2n s * 2 ^ (eb + mb) + body

/-- The canonical NaN (02 R42). -/
def fmNan : Fm → Nat
  | .f32 => 0x7FC00000 | .bf16 => 0x7FC0 | .f16 => 0x7E00 | .e5m2 => 0x7E | .e4m3 => 0x7F | _ => 0

/-- The infinity of a sign. -/
def fmInfCode (f : Fm) (s : Bool) : Nat :=
  let (eb, mb, _) := fmPar f
  b2n s * 2 ^ (eb + mb) + (2 ^ eb - 1) * 2 ^ mb

/-- The largest finite code of a sign. -/
def fmMaxCode (f : Fm) (s : Bool) : Nat :=
  let m := fmMax f
  fmPack f s m.1 m.2

/-- A finite value rounded to a float format (02 R54, R55, Table 2-8). -/
def toFloat (c : Ctl) (draw : Nat) (f : Fm) (s : Bool) (num den : Nat) (e : Int) : Nat × Fl :=
  let (eb, mb, bias) := fmPar f
  if num = 0 then (b2n s * 2 ^ (eb + mb), 0)
  else
    let lg := flog2 num den + e
    let qmin : Int := 1 - bias - mb
    let q := max (lg - mb) qmin
    let (n, nx) := roundAt c.rnd draw num den e q
    let (mx, mq) := fmMax f
    if magCmp n 1 q mx 1 mq = .gt then
      let code :=
        if f = .e4m3 then (if c.ovsat then fmMaxCode f s else b2n s * 0x80 + 0x7F)
        else if fmInf f then (if c.rnd = 1 then fmMaxCode f s else fmInfCode f s)
        else fmMaxCode f s
      (code, flOF ||| flNX)
    else
      let (un, _) := roundAt c.rnd draw num den e (lg - mb)
      let tiny := decide (magCmp un 1 (lg - mb) 1 1 (1 - bias) = .lt)
      let subn := decide (n ≠ 0) && decide (n < 2 ^ mb)
      if c.flush && fmFlush f && subn then (b2n s * 2 ^ (eb + mb), flFZ ||| flUF ||| flNX)
      else (fmPack f s n q, flIf nx flNX ||| flIf (nx && tiny) flUF)

/-- A finite value rounded to an integer format (02 R55, Table 2-8). -/
def toInt (c : Ctl) (draw : Nat) (f : Fm) (s : Bool) (num den : Nat) (e : Int) : Nat × Fl :=
  let w := fmBits f
  let (n, nx) := roundAt c.rnd draw num den e 0
  let i : Int := if s then -(n : Int) else n
  let lo : Int := -((2 ^ (w - 1) : Nat) : Int)
  let hi : Int := ((2 ^ (w - 1) : Nat) : Int) - 1
  if i < lo then (unsgn w lo, flSAT ||| flNX)
  else if hi < i then (unsgn w hi, flSAT ||| flNX)
  else (unsgn w i, flIf nx flNX)

/-- Convert an exact value to a format (02 R49 to R55, Table 2-8). -/
def xvTo (c : Ctl) (draw : Nat) (f : Fm) : XV → Nat × Fl
  | .nan => if fmInt f then (0, flINV) else if fmNan f = 0 then (0, flINV) else (fmNan f, 0)
  | .inf s =>
    if fmInt f then (unsgn (fmBits f) (if s then -((2 ^ (fmBits f - 1) : Nat) : Int) else ((2 ^ (fmBits f - 1) : Nat) : Int) - 1), flINV)
    else if fmInf f then (fmInfCode f s, 0) else (fmMaxCode f s, flOF)
  | .fin s n d e => if fmInt f then toInt c draw f s n d e else toFloat c draw f s n d e

/-- Round to f32, to nearest even (02 R49). -/
def toF32 (flush : Bool) (v : XV) : Nat × Fl := xvTo { rnd := 0, ovsat := true, flush := flush } 0 .f32 v

/-! ### f32 arithmetic on bit patterns -/

/-- One f32 operation of two operands through exact values. -/
def f32Op2 (g : XV → XV → XV × Fl) (flush : Bool) (a b : Nat) : Nat × Fl :=
  let x := xvIn flush .f32 a
  let y := xvIn flush .f32 b
  let v := g x.1 y.1
  let r := toF32 flush v.1
  (r.1, x.2 ||| y.2 ||| v.2 ||| r.2)

/-- f32 addition. -/
def fAdd (flush : Bool) (a b : Nat) : Nat × Fl := f32Op2 xAdd flush a b
/-- f32 subtraction. -/
def fSub (flush : Bool) (a b : Nat) : Nat × Fl := f32Op2 (fun x y => xAdd x (xNeg y)) flush a b
/-- f32 multiplication. -/
def fMul (flush : Bool) (a b : Nat) : Nat × Fl := f32Op2 xMul flush a b

/-- f32 fused multiply-add: 0 × ∞ sets INV whatever the addend holds (07 R187). -/
def fFma (flush : Bool) (a b c : Nat) : Nat × Fl :=
  let x := xvIn flush .f32 a
  let y := xvIn flush .f32 b
  let z := xvIn flush .f32 c
  let p := xMul x.1 y.1
  let v := xAdd p.1 z.1
  let r := toF32 flush v.1
  (r.1, x.2 ||| y.2 ||| z.2 ||| p.2 ||| v.2 ||| r.2)

/-- A bit pattern is an f32 NaN. -/
def isNan32 (a : Nat) : Bool := decide (xvOf .f32 a = .nan)

/-- f32 order with -0 below +0 (02 R45); operands not NaN. -/
def fLess (a b : Nat) : Bool :=
  match xCmp (xvOf .f32 a) (xvOf .f32 b) with
  | .lt => true
  | .gt => false
  | .eq => bit a 31 && !bit b 31

/-- Minimum (02 R45). -/
def fMin (a b : Nat) : Nat := if isNan32 a || isNan32 b then fmNan .f32 else if fLess b a then b else a
/-- Maximum (02 R45). -/
def fMax (a b : Nat) : Nat := if isNan32 a || isNan32 b then fmNan .f32 else if fLess a b then b else a

/-- A quiet comparison by the codes of 04 R124: eq ne lt le gt ge unordered (02 R44). -/
def fCond (cond a b : Nat) : Bool :=
  let un := isNan32 a || isNan32 b
  let o := xCmp (xvOf .f32 a) (xvOf .f32 b)
  match cond with
  | 0 => !un && o = .eq
  | 1 => un || o ≠ .eq
  | 2 => !un && o = .lt
  | 3 => !un && o ≠ .gt
  | 4 => !un && o = .gt
  | 5 => !un && o ≠ .lt
  | _ => un

/-! ### Packing (02 R38) -/

/-- The elements of a packed run: a byte, a nibble pair, a three-byte group, or whole words. -/
def unpackAll (f : Fm) : Nat → List Byte → List Nat
  | 0, _ => []
  | fuel + 1, bs =>
    if bs.isEmpty then []
    else if fmBits f = 4 then
      let b := leNat (bs.take 1)
      b % 16 :: b / 16 :: unpackAll f fuel (bs.drop 1)
    else if fmBits f = 6 then
      let g := leNat (bs.take 3)
      [g % 64, g / 64 % 64, g / 4096 % 64, g / 262144] ++ unpackAll f fuel (bs.drop 3)
    else leNat (bs.take (fmBits f / 8)) :: unpackAll f fuel (bs.drop (fmBits f / 8))

/-- The elements packed in bytes. -/
def unpack (f : Fm) (bs : List Byte) : List Nat := unpackAll f bs.length bs

/-- Pack elements; unused bits of the last byte or group are 0. -/
def packAll (f : Fm) : Nat → List Nat → List Byte
  | 0, _ => []
  | fuel + 1, es =>
    if es.isEmpty then []
    else if fmBits f = 4 then natLe 1 (es.getD 0 0 + 16 * es.getD 1 0) ++ packAll f fuel (es.drop 2)
    else if fmBits f = 6 then
      natLe 3 (es.getD 0 0 + 64 * es.getD 1 0 + 4096 * es.getD 2 0 + 262144 * es.getD 3 0) ++ packAll f fuel (es.drop 4)
    else natLe (fmBits f / 8) (es.getD 0 0) ++ packAll f fuel (es.drop 1)

/-- The bytes of packed elements. -/
def pack (f : Fm) (es : List Nat) : List Byte := packAll f es.length es

/-- Bytes of n packed elements. -/
def packedLen (f : Fm) (n : Nat) : Nat := if fmBits f = 6 then (n + 3) / 4 * 3 else (n * fmBits f + 7) / 8

/-! ### The counter generator G (07 R198) -/

/-- Rotate left in 32 bits. -/
def rotl32 (v n : Nat) : Nat := ((v * 2 ^ n) ||| (v / 2 ^ (32 - n))) % 2 ^ 32

/-- Ten rounds of G from round r. -/
def genRounds (k0 k1 : Nat) : List (Nat × Nat × Nat) → Nat × Nat × Nat × Nat → Nat × Nat × Nat × Nat
  | [], x => x
  | (r, ra, rb) :: t, (x0, x1, x2, x3) =>
    let x0 := (x0 + x1) % 2 ^ 32
    let x1 := rotl32 x1 ra ^^^ x0
    let x2 := (x2 + x3) % 2 ^ 32
    let x3 := rotl32 x3 rb ^^^ x2
    let (x1, x3) := (x3, x1)
    if r = 4 ∨ r = 9 then genRounds k0 k1 t ((x0 + k1) % 2 ^ 32, (x1 + k0) % 2 ^ 32, x2, (x3 + r + 1) % 2 ^ 32)
    else genRounds k0 k1 t (x0, x1, x2, x3)

/-- The generator word G(seed, stream, ctr) (07 R198, R199). -/
def gen (seed stream ctr : Nat) : Nat :=
  let ctr := ctr % 2 ^ 64
  let k0 := seed % 2 ^ 32
  let k1 := seed / 2 ^ 32 % 2 ^ 32
  let x0 := (ctr % 2 ^ 32 + k0) % 2 ^ 32
  let x1 := (ctr / 2 ^ 32 + k1) % 2 ^ 32
  let x2 := (stream % 2 ^ 32) ^^^ 0xB5A31C6D
  let x3 := k0 ^^^ k1 ^^^ 0x5C1E37A9
  let (y0, _, y2, y3) := genRounds k0 k1 [(0, 13, 21), (1, 17, 7), (2, 5, 27), (3, 24, 11), (4, 9, 19), (5, 19, 9),
    (6, 11, 24), (7, 27, 5), (8, 7, 17), (9, 21, 13)] (x0, x1, x2, x3)
  ((y0 + y3) % 2 ^ 32) ^^^ y2

end Sys2Proof.Machine
end

