-- ==== Sys2Proof/Machine/Scale.lean ====
section
/-! DEFINITION. Scale modes, fine scales and block quantisation (02 R56 to R62, R561). -/

namespace Sys2Proof.Machine

open Sys2Proof

/-- The scale modes (02 Table 2-9). -/
inductive Sm where
  | none | b16 | mx32 | ch
  deriving DecidableEq, Repr

/-- The scale mode of a 2-bit field. -/
def smOf (n : Nat) : Sm := if n = 1 then .b16 else if n = 2 then .mx32 else if n = 3 then .ch else .none

/-- Elements of a block; 1 where there is no fine scale (02 Table 2-9). -/
def smBlock : Sm → Nat
  | .b16 => 16
  | .mx32 => 32
  | _ => 1

/-- A block scale mode. -/
def smIsBlock : Sm → Bool
  | .b16 => true
  | .mx32 => true
  | _ => false

/-- The pairings that 02 Table 2-9 permits. -/
def smPermits (m : Sm) (f : Fm) : Bool :=
  match m with
  | .none => true
  | .b16 => f = .e4m3 || f = .e5m2 || f = .e3m2 || f = .e2m3 || f = .e2m1 || f = .i4
  | .mx32 => f = .e4m3 || f = .e5m2 || f = .e3m2 || f = .e2m3 || f = .e2m1
  | .ch => f = .i8

/-- The value of a ue5m3 code (02 R57). -/
def ue5m3 (c : Nat) : XV :=
  if c = 0xFF then .nan
  else if c / 8 = 0 then .fin false (c % 8) 1 (-17) else .fin false (8 + c % 8) 1 ((c / 8 : Nat) - 18)

/-- The value of a fine-scale code (02 R57, R58). -/
def fineVal (m : Sm) (c : Nat) : XV :=
  match m with
  | .b16 => ue5m3 c
  | .mx32 => if c = 0xFF then .nan else .fin false 1 1 ((c : Int) - 127)
  | _ => .fin false 1 1 0

/-- The exact q × f of one element under a fine scale (02 R57, R59): a NaN scale gives NaN with INV, a zero scale
zero of the element's sign bit `neg`, a NaN element included. -/
def fineMul (m : Sm) (neg : Bool) (q : XV) (code : Nat) : XV × Fl :=
  match fineVal m code with
  | .nan => (.nan, flINV)
  | f => if xIsZero f then (xZero neg, 0) else ((xMul q f).1, 0)

/-- A decoded element as an f32 pattern (02 R59): a float format or a block mode multiplies by the coarse scale with
one rounding; an integer under NONE is itself (the caller keeps it as i32). -/
def decodeElem (flush : Bool) (f : Fm) (m : Sm) (code sc : Nat) (coarse : Nat) : Nat × Fl :=
  let q := xvIn flush f code
  let c := xvIn flush .f32 coarse
  let p := if smIsBlock m then fineMul m (signOf f code) q.1 sc else (q.1, 0)
  let v := xMul p.1 c.1
  let r := toF32 flush v.1
  (r.1, q.2 ||| c.2 ||| p.2 ||| v.2 ||| r.2)

/-- F of 02 R61 step 2 as twice its value. -/
def blockF2 : Fm → Nat
  | .e4m3 => 896 | .e5m2 => 114688 | .e3m2 => 56 | .e2m3 => 15 | .e2m1 => 12 | _ => 14

/-- E of 02 R61 step 3. -/
def blockE : Fm → Int
  | .e4m3 => 8 | .e5m2 => 15 | .e3m2 => 4 | _ => 2

/-- Is the magnitude at most that of the ue5m3 code? -/
def ueGe (n d : Nat) (e : Int) (code : Nat) : Bool :=
  match ue5m3 code with
  | .fin _ a b g => decide (magCmp n d e a b g ≠ .gt)
  | _ => true

/-- The smallest ue5m3 code from `c` on that is not below the magnitude, capped at 0xFE (02 R61 step 2). -/
def ueCeil (n d : Nat) (e : Int) : Nat → Nat → Nat
  | 0, c => min c 0xFE
  | fuel + 1, c => if ueGe n d e c then c else ueCeil n d e fuel (c + 1)

/-- The larger of two magnitudes, NaN not counting (02 R61 step 1). -/
def amax2 (a b : XV) : XV :=
  match a, b with
  | .nan, y => y
  | x, .nan => x
  | x, y => if xCmp x y = .lt then y else x

/-- The largest magnitude of a block (02 R61 step 1); 0 where all are NaN. -/
def amaxOf (xs : List XV) : XV := xs.foldl (fun m x => amax2 m (xAbs x)) (xZero false)

/-- The fine scale of a block (02 R61 steps 2 to 4, R561). -/
def fineScale (m : Sm) (f : Fm) (amax c : XV) : Nat :=
  match c with
  | .nan => 0xFF
  | .inf _ => 0
  | .fin _ cn cd ce =>
    if xIsZero amax then 0
    else if cn = 0 then 0xFE
    else match amax with
      | .fin _ n d e =>
        if m = .mx32 then
          let k := flog2 (n * cd) (d * cn) + (e - ce) - blockE f + 127
          if k < 0 then 0 else min k.toNat 0xFE
        else ueCeil (2 * n * cd) (d * cn * blockF2 f) (e - ce) 254 1
      | _ => 0xFE

/-- The f32 reciprocal of f × c, rounded to nearest even (02 R61 step 5): it sets no flag and keeps a subnormal
value under FLUSH too (log 27). -/
def recipOf (f c : XV) : XV :=
  let p := (xMul f c).1
  xvOf .f32 (toF32 false (xDiv (.fin false 1 1 0) p)).1

/-- The value an element is encoded from (02 R61 step 5, R561): x × r with its flags, or the named cases. `neg` is the
element's sign bit. Where the scale is 0x00 under B16 every element, a NaN too, is a zero with the sign of x × c
(R61 step 5, R561; log 64). r may be 0 or infinite for a finite c, and then x × r is what R48 says it is (log 28). -/
def encodeVal (m : Sm) (code : Nat) (neg : Bool) (x c : XV) : XV × Fl :=
  let flat := decide (m = .b16) && decide (code = 0)
  match x, c with
  | _, .nan => (.nan, 0)
  | .nan, .inf _ => (.nan, 0)
  | .nan, .fin s _ _ _ => if flat then (xZero (neg != s), 0) else (.nan, 0)
  | x, .inf s => (xZero (xSign x != s), 0)
  | x, .fin s cn cd ce =>
    if cn = 0 then (if xIsZero x then xZero (xSign x != s) else .inf (xSign x != s), 0)
    else if flat then (xZero (neg != s), 0)
    else xMul x (recipOf (fineVal m code) (.fin s cn cd ce))

/-- Encode the elements of one block under its scale; element i takes draw i (02 R52, R61 steps 5 and 6). -/
def encodeBlock (k : Ctl) (m : Sm) (f : Fm) (code : Nat) (c : XV) (draws : Nat → Nat) :
    Nat → List (Bool × XV) → List Nat × Fl
  | _, [] => ([], 0)
  | i, x :: xs =>
    let v := encodeVal m code x.1 x.2 c
    let r := xvTo k (draws i) f v.1
    let t := encodeBlock k m f code c draws (i + 1) xs
    (r.1 :: t.1, v.2 ||| r.2 ||| t.2)

/-- Quantise whole blocks (02 R61): element codes, scale codes, flags. `given` holds the scales of the Q = 0 form of
04 R126, none where they are computed. -/
def quantBlocks (k : Ctl) (m : Sm) (f : Fm) (c : XV) (draws : Nat → Nat) (given : Option (List Nat)) :
    Nat → Nat → List (List (Bool × XV)) → List Nat × List Nat × Fl
  | _, _, [] => ([], [], 0)
  | b, i, blk :: rest =>
    let code := match given with
      | some l => l.getD b 0
      | none => fineScale m f (amaxOf (blk.map Prod.snd)) c
    let e := encodeBlock k m f code c draws i blk
    let t := quantBlocks k m f c draws given (b + 1) (i + blk.length) rest
    (e.1 ++ t.1, code :: t.2.1, e.2 ||| t.2.2 ||| flIf (decide (c = .nan)) flINV)

/-- Operand elements of f32 patterns under FLUSH. -/
def readVals (flush : Bool) : List Nat → List XV × Fl
  | [] => ([], 0)
  | a :: t =>
    let x := xvIn flush .f32 a
    let r := readVals flush t
    (x.1 :: r.1, x.2 ||| r.2)

/-- Quantise a run of values in blocks (02 R61), the first element being output `i0`; each value with the sign bit of
the f32 pattern it was read from. -/
def quantRun (k : Ctl) (m : Sm) (f : Fm) (c : XV) (draws : Nat → Nat) (given : Option (List Nat)) (i0 : Nat)
    (xs : List (Bool × XV)) : List Nat × List Nat × Fl :=
  quantBlocks k m f c draws given 0 i0 (chunksOf (smBlock m) xs.length xs)

/-- Convert each value of a run to a format; element i takes draw i (02 R49, R52). -/
def convRun (k : Ctl) (f : Fm) (draws : Nat → Nat) : Nat → List XV → List Nat × Fl
  | _, [] => ([], 0)
  | i, x :: xs =>
    let r := xvTo k (draws i) f x
    let t := convRun k f draws (i + 1) xs
    (r.1 :: t.1, r.2 ||| t.2)

end Sys2Proof.Machine
end

