-- ==== Sys2Proof/Machine/Isa.lean ====
section
/-! DEFINITION. The Rowyn instruction word: operations, word layout, legality at decode, and the registers each
instruction reads and writes (03 R77 to R82, 04). -/

namespace Sys2Proof.Machine

open Sys2Proof

/-- The instructions of the J9 profile (03 R65, 04). -/
inductive Op where
  | add | sub | mul | mulh | mulhu | and | or | xor | shl | shr | sra | min | max | minu | maxu 
  | pcmpEq | pcmpNe | pcmpLt | pcmpGe | pcmpLtu | pcmpGeu | pand | por | pxor | pnot 
  | ldB | ldBu | ldH | ldHu | ldW | ldWu | ldD | stB | stH | stW | stD 
  | crd | cwr | mvm | rdclk | rdtick 
  | brCond | call | jr 
  | bdnz 
  | ssigAdd | ssigSet | swait | lfence | halt | strap 
  | mmac | mdrain | mload | mzero 
  | vadd | vsub | vmul | vmulh | vand | vor | vxor | vandn | vnot | vshl | vshr | vsra | vrotl | vimin | vimax 
  | vfadd | vfsub | vfmul | vfma | vfmin | vfmax | vfcmp | vsel | vneg | vabs | vcpsgn 
  | vexp2 | vlog2 | vrcp | vrsqrt | vtanh 
  | vld | vst | vcvti | vcvtf 
  | vredRow | vredCol 
  | vqapp | vsmstat | vsmexp | vrng 
  | vmov | vbcast | vzero 
  | vredall | vcmpcnt 
  | dma | dwait | dwaitall 
  | vtopk | rgsum 
  | rdisp | rcomb 
  | li64 
  deriving DecidableEq, Repr

/-- Group and function of an operation (03 Table 3-9, 04 Tables 4-1 to 4-11). -/
def opCode : Op → Nat × Nat
  | .add => (0x00, 0) | .sub => (0x00, 1) | .mul => (0x00, 2) | .mulh => (0x00, 3) | .mulhu => (0x00, 4) | .and => (0x00, 5) | .or => (0x00, 6) | .xor => (0x00, 7) | .shl => (0x00, 8) | .shr => (0x00, 9) | .sra => (0x00, 10) | .min => (0x00, 11) | .max => (0x00, 12) | .minu => (0x00, 13) | .maxu => (0x00, 14)
  | .pcmpEq => (0x01, 0) | .pcmpNe => (0x01, 1) | .pcmpLt => (0x01, 2) | .pcmpGe => (0x01, 3) | .pcmpLtu => (0x01, 4) | .pcmpGeu => (0x01, 5) | .pand => (0x01, 8) | .por => (0x01, 9) | .pxor => (0x01, 10) | .pnot => (0x01, 11)
  | .ldB => (0x02, 0) | .ldBu => (0x02, 1) | .ldH => (0x02, 2) | .ldHu => (0x02, 3) | .ldW => (0x02, 4) | .ldWu => (0x02, 5) | .ldD => (0x02, 6) | .stB => (0x02, 8) | .stH => (0x02, 9) | .stW => (0x02, 10) | .stD => (0x02, 11)
  | .crd => (0x03, 0) | .cwr => (0x03, 1) | .mvm => (0x03, 2) | .rdclk => (0x03, 3) | .rdtick => (0x03, 4)
  | .brCond => (0x08, 0) | .call => (0x08, 1) | .jr => (0x08, 2)
  | .bdnz => (0x09, 0)
  | .ssigAdd => (0x0A, 0) | .ssigSet => (0x0A, 1) | .swait => (0x0A, 2) | .lfence => (0x0A, 3) | .halt => (0x0A, 4) | .strap => (0x0A, 5)
  | .mmac => (0x10, 0) | .mdrain => (0x10, 1) | .mload => (0x10, 2) | .mzero => (0x10, 3)
  | .vadd => (0x18, 0) | .vsub => (0x18, 1) | .vmul => (0x18, 2) | .vmulh => (0x18, 3) | .vand => (0x18, 4) | .vor => (0x18, 5) | .vxor => (0x18, 6) | .vandn => (0x18, 7) | .vnot => (0x18, 8) | .vshl => (0x18, 9) | .vshr => (0x18, 10) | .vsra => (0x18, 11) | .vrotl => (0x18, 12) | .vimin => (0x18, 13) | .vimax => (0x18, 14)
  | .vfadd => (0x19, 0) | .vfsub => (0x19, 1) | .vfmul => (0x19, 2) | .vfma => (0x19, 3) | .vfmin => (0x19, 4) | .vfmax => (0x19, 5) | .vfcmp => (0x19, 6) | .vsel => (0x19, 7) | .vneg => (0x19, 8) | .vabs => (0x19, 9) | .vcpsgn => (0x19, 10)
  | .vexp2 => (0x1A, 0) | .vlog2 => (0x1A, 1) | .vrcp => (0x1A, 2) | .vrsqrt => (0x1A, 3) | .vtanh => (0x1A, 4)
  | .vld => (0x1B, 0) | .vst => (0x1B, 1) | .vcvti => (0x1B, 2) | .vcvtf => (0x1B, 3)
  | .vredRow => (0x1C, 0) | .vredCol => (0x1C, 1)
  | .vqapp => (0x1D, 0) | .vsmstat => (0x1D, 1) | .vsmexp => (0x1D, 2) | .vrng => (0x1D, 3)
  | .vmov => (0x1E, 0) | .vbcast => (0x1E, 1) | .vzero => (0x1E, 2)
  | .vredall => (0x1F, 0) | .vcmpcnt => (0x1F, 1)
  | .dma => (0x20, 0) | .dwait => (0x20, 1) | .dwaitall => (0x20, 2)
  | .vtopk => (0x28, 0) | .rgsum => (0x28, 1)
  | .rdisp => (0x2A, 0) | .rcomb => (0x2A, 1)
  | .li64 => (0x3F, 0)

/-- Every operation. -/
def allOps : List Op :=
  [Op.add, Op.sub, Op.mul, Op.mulh, Op.mulhu, Op.and, Op.or, Op.xor, Op.shl, Op.shr, Op.sra, Op.min, Op.max, Op.minu, Op.maxu] ++
  [Op.pcmpEq, Op.pcmpNe, Op.pcmpLt, Op.pcmpGe, Op.pcmpLtu, Op.pcmpGeu, Op.pand, Op.por, Op.pxor, Op.pnot] ++
  [Op.ldB, Op.ldBu, Op.ldH, Op.ldHu, Op.ldW, Op.ldWu, Op.ldD, Op.stB, Op.stH, Op.stW, Op.stD] ++
  [Op.crd, Op.cwr, Op.mvm, Op.rdclk, Op.rdtick] ++
  [Op.brCond, Op.call, Op.jr] ++
  [Op.bdnz] ++
  [Op.ssigAdd, Op.ssigSet, Op.swait, Op.lfence, Op.halt, Op.strap] ++
  [Op.mmac, Op.mdrain, Op.mload, Op.mzero] ++
  [Op.vadd, Op.vsub, Op.vmul, Op.vmulh, Op.vand, Op.vor, Op.vxor, Op.vandn, Op.vnot, Op.vshl, Op.vshr, Op.vsra, Op.vrotl, Op.vimin, Op.vimax] ++
  [Op.vfadd, Op.vfsub, Op.vfmul, Op.vfma, Op.vfmin, Op.vfmax, Op.vfcmp, Op.vsel, Op.vneg, Op.vabs, Op.vcpsgn] ++
  [Op.vexp2, Op.vlog2, Op.vrcp, Op.vrsqrt, Op.vtanh] ++
  [Op.vld, Op.vst, Op.vcvti, Op.vcvtf] ++
  [Op.vredRow, Op.vredCol] ++
  [Op.vqapp, Op.vsmstat, Op.vsmexp, Op.vrng] ++
  [Op.vmov, Op.vbcast, Op.vzero] ++
  [Op.vredall, Op.vcmpcnt] ++
  [Op.dma, Op.dwait, Op.dwaitall] ++
  [Op.vtopk, Op.rgsum] ++
  [Op.rdisp, Op.rcomb] ++
  [Op.li64]

/-- The operation of a group and function, none where the reference lists none (03 R65, R78). -/
def opAt (g f : Nat) : Option Op := allOps.find? (fun o => decide (opCode o = (g, f)))

/-- The operand formats (03 Table 3-9). -/
inductive OpFmt where
  | S | B | Y | M | V | D | X
  deriving DecidableEq, Repr

/-- The format of a group (03 Table 3-9). -/
def opFmt (o : Op) : OpFmt :=
  let g := (opCode o).1
  if g < 8 then .S else if g < 0x0A then .B else if g < 0x0C then .Y else if g < 0x18 then .M else if g < 0x20 then .V
  else if g < 0x28 then .D else if g < 0x2A then .V else if g < 0x2C then .Y else .X

/-- A group of instructions by class: g is the opcode group. -/
def opGrp (o : Op) : Nat := (opCode o).1

/-! ### Assembling a word (03 Tables 3-8, 3-11) -/

/-- Bits 63:48 of a word. -/
def wordHead (op : Op) (h : Head) : Nat :=
  (opCode op).1 * 2 ^ 58 + (opCode op).2 * 2 ^ 52 + h.pn.toNat * 2 ^ 51 + h.pred.toNat * 2 ^ 48

/-- A word of format S or X. -/
def wordS (op : Op) (h : Head) (o : FmtS) : W64 :=
  BitVec.ofNat 64 (wordHead op h + o.sd.toNat * 2 ^ 43 + o.sa.toNat * 2 ^ 38 + o.sb.toNat * 2 ^ 33
    + o.i.toNat * 2 ^ 32 + o.imm.toNat)
/-- A word of format B. -/
def wordB (op : Op) (h : Head) (o : FmtB) : W64 :=
  BitVec.ofNat 64 (wordHead op h + o.ka.toNat * 2 ^ 47 + o.ra.toNat * 2 ^ 42 + o.kb.toNat * 2 ^ 41
    + o.rb.toNat * 2 ^ 36 + o.cond.toNat * 2 ^ 32 + o.offset.toNat)
/-- A word of format M. -/
def wordM (op : Op) (h : Head) (o : FmtM) : W64 :=
  BitVec.ofNat 64 (wordHead op h + o.fa.toNat * 2 ^ 44 + o.fb.toNat * 2 ^ 40 + o.sma.toNat * 2 ^ 38
    + o.smb.toNat * 2 ^ 36 + o.acc.toNat * 2 ^ 35 + o.clr.toNat * 2 ^ 34 + o.ta.toNat * 2 ^ 33 + o.tb.toNat * 2 ^ 32
    + o.pr.toNat * 2 ^ 31 + o.sa.toNat * 2 ^ 26 + o.sb.toNat * 2 ^ 21 + o.sc.toNat * 2 ^ 16 + o.k.toNat * 2 ^ 6
    + o.rsv.toNat)
/-- A word of format V. -/
def wordV (op : Op) (h : Head) (o : FmtV) : W64 :=
  BitVec.ofNat 64 (wordHead op h + o.td.toNat * 2 ^ 45 + o.ta.toNat * 2 ^ 42 + o.tb.toNat * 2 ^ 39
    + o.tc.toNat * 2 ^ 36 + o.fmt.toNat * 2 ^ 32 + o.sm.toNat * 2 ^ 30 + o.sr.toNat * 2 ^ 25 + o.md.toNat * 2 ^ 22
    + o.row0.toNat * 2 ^ 17 + o.nrow.toNat * 2 ^ 12 + o.imm.toNat)
/-- A word of format D. -/
def wordD (op : Op) (h : Head) (o : FmtD) : W64 :=
  BitVec.ofNat 64 (wordHead op h + o.ch.toNat * 2 ^ 45 + o.sdesc.toNat * 2 ^ 40 + o.ndesc.toNat * 2 ^ 34 + o.rsv.toNat)
/-- A word of format Y. -/
def wordY (op : Op) (h : Head) (o : FmtY) : W64 :=
  BitVec.ofNat 64 (wordHead op h + o.sem.toNat * 2 ^ 42 + o.sv.toNat * 2 ^ 37 + o.core.toNat * 2 ^ 30
    + o.cond.toNat * 2 ^ 27 + o.rsv.toNat)

/-! ### Fields of a word -/

/-- Bits [hi:lo] of a word. -/
def fld (w : W64) (hi lo : Nat) : Nat := bits w.toNat hi lo
/-- The operation of a word (03 R65, R78). -/
def wordOp (w : W64) : Option Op := opAt (fld w 63 58) (fld w 57 52)

/-- SD of formats S and X. -/
def fSD (w : W64) : Nat := fld w 47 43
/-- SA of format S. -/
def fSA (w : W64) : Nat := fld w 42 38
/-- SB of format S. -/
def fSB (w : W64) : Nat := fld w 37 33
/-- I of format S. -/
def fI (w : W64) : Bool := bit w.toNat 32
/-- IMM of format S, raw. -/
def fImm (w : W64) : Nat := fld w 31 0
/-- IMM or OFFSET sign-extended to 64 bits (03 Table 3-11). -/
def fImmX (w : W64) : W64 := (BitVec.ofNat 32 (fImm w)).signExtend 64

/-- FA of format M. -/
def mFA (w : W64) : Nat := fld w 47 44
/-- FB of format M. -/
def mFB (w : W64) : Nat := fld w 43 40
/-- SMA. -/
def mSMA (w : W64) : Sm := smOf (fld w 39 38)
/-- SMB. -/
def mSMB (w : W64) : Sm := smOf (fld w 37 36)
/-- ACC. -/
def mACC (w : W64) : Nat := fld w 35 35
/-- CLR. -/
def mCLR (w : W64) : Bool := bit w.toNat 34
/-- TA of format M. -/
def mTA (w : W64) : Bool := bit w.toNat 33
/-- TB of format M. -/
def mTB (w : W64) : Bool := bit w.toNat 32
/-- PR. -/
def mPR (w : W64) : Bool := bit w.toNat 31
/-- SA of format M. -/
def mSA (w : W64) : Nat := fld w 30 26
/-- SB of format M. -/
def mSB (w : W64) : Nat := fld w 25 21
/-- SC of format M. -/
def mSC (w : W64) : Nat := fld w 20 16
/-- K. -/
def mK (w : W64) : Nat := fld w 15 6

/-- TD. -/
def vTD (w : W64) : Nat := fld w 47 45
/-- TA of format V. -/
def vTA (w : W64) : Nat := fld w 44 42
/-- TB of format V. -/
def vTB (w : W64) : Nat := fld w 41 39
/-- TC. -/
def vTC (w : W64) : Nat := fld w 38 36
/-- FMT. -/
def vFMT (w : W64) : Nat := fld w 35 32
/-- SM. -/
def vSM (w : W64) : Sm := smOf (fld w 31 30)
/-- SR. -/
def vSR (w : W64) : Nat := fld w 29 25
/-- MD. -/
def vMD (w : W64) : Nat := fld w 24 22
/-- ROW0. -/
def vROW0 (w : W64) : Nat := fld w 21 17
/-- Rows processed, NROW + 1 (04 R104). -/
def vN (w : W64) : Nat := fld w 16 12 + 1
/-- IMM of format V. -/
def vIMM (w : W64) : Nat := fld w 11 0
/-- BS (04 R122). -/
def vBS (w : W64) : Bool := bit w.toNat 11

/-! ### Classes -/

/-- The shifts of 04 R123. -/
def opShift (o : Op) : Bool := o = .vshl || o = .vshr || o = .vsra || o = .vrotl
/-- Instructions with a second source TB that BS may replace (04 R122). -/
def opTwo (o : Op) : Bool :=
  (opGrp o = 0x18 && o ≠ .vnot) || (opGrp o = 0x19 && o ≠ .vneg && o ≠ .vabs)
/-- The second source of a word is a tile. -/
def useTB (o : Op) (w : W64) : Bool :=
  (opTwo o && !vBS w && !(opShift o && bit w.toNat 6)) || o = .vqapp || o = .vsmexp
/-- The second source of a word is sSR (BS form). -/
def useBS (o : Op) (w : W64) : Bool := opTwo o && vBS w && !(opShift o && bit w.toNat 6)
/-- Instructions that read TA. -/
def useTA (o : Op) : Bool :=
  opFmt o = .V && !(o = .vld || o = .vrng || o = .vbcast || o = .vzero || o = .vtopk)
/-- Instructions that write TD. -/
def useTD (o : Op) : Bool :=
  opFmt o = .V && !(o = .vst || o = .vqapp || o = .vredall || o = .vcmpcnt || o = .rgsum)
/-- Instructions that read TC. -/
def useTC (o : Op) : Bool := o = .vfma || o = .vsel
/-- Instructions that use FMT and SM. -/
def useFmt (o : Op) : Bool := o = .vld || o = .vst || o = .vqapp
/-- Instructions that use SR. -/
def useSR (o : Op) (w : W64) : Bool :=
  useBS o w || useFmt o || o = .vbcast || o = .vcmpcnt || o = .vtopk || o = .rgsum
/-- Instructions that use MD. -/
def useMD (o : Op) : Bool := o = .vredall || o = .vcmpcnt
/-- IMM bits a vector function uses (04 R122 to R130, 12 R316). BS is no bit of `vqapp`, `vsmexp` and the other functions whose TB is
no lane-by-lane second source (DEDUCED, log 111). -/
def immMask (o : Op) : Nat :=
  match o with
  | .vadd | .vsub | .vmul | .vmulh => 0x803
  | .vshl | .vshr | .vsra | .vrotl => 0x85F
  | .vfcmp => 0x807
  | .vld => 0x3FF
  | .vst => 0x7FF
  | .vredRow | .vredCol | .vredall | .vcmpcnt => 0xF
  | .vqapp => 0x1FF
  | .vtopk => 0xFFF
  | .rgsum => 0xFF
  | _ => if opTwo o then 0x800 else 0

/-- Runs in the sequencer (04 R100). -/
def opSeq (o : Op) : Bool :=
  !(opFmt o = .M || opFmt o = .V || o = .dma)
/-- The queue an instruction waits in (04 R100). -/
def opQueue (o : Op) : IQueue := if opFmt o = .M then .matrix else if opFmt o = .V then .vector else .dma

/-- Bytes of 128 packed elements (02 R38). -/
def rowLen (f : Fm) : Nat := 16 * fmBits f

/-! ### Legality at decode (03 R80, R81, R85; 04) -/

/-- Formats S and X. -/
def legalS (o : Op) (w : W64) : Bool :=
  let sd := fSD w
  let sa := fSA w
  let sb := fSB w
  let i := fI w
  let imm := fImm w
  let bz := if i then decide (sb = 0) else decide (imm = 0)
  if opGrp o = 0 then bz
  else if opGrp o = 1 then
    if (opCode o).2 < 6 then decide (sd < 8) && bz
    else !i && decide (imm = 0) && decide (sd < 8) && decide (sa < 8) && (if o = .pnot then decide (sb = 0) else decide (sb < 8))
  else if opGrp o = 2 then i && decide (sb = 0)
  else match o with
    | .crd => i && decide (sa = 0) && decide (sb = 0) && (decide (imm < 5) || (decide (16 ≤ imm) && decide (imm < 21)))
    | .cwr => i && decide (sd = 0) && decide (sb = 0) && decide (imm < 5)
    | .mvm => !i && decide (imm = 0) && decide (sb = 0) && decide (sa < 8)
    | _ => !i && decide (imm = 0) && decide (sa = 0) && decide (sb = 0)

/-- Format B (03 R82, 04 R112). -/
def legalB (o : Op) (w : W64) : Bool :=
  if o = .brCond then
    decide (fld w 35 32 < 12) && (!bit w.toNat 47 || decide (fld w 46 42 < 8)) && (!bit w.toNat 41 || decide (fld w 40 36 < 8))
  else decide (fld w 47 47 = 0) && decide (fld w 41 32 = 0) && (o ≠ .jr || decide (fImm w = 0))

/-- Format Y (04 R113, R115, R131). -/
def legalY (o : Op) (w : W64) : Bool :=
  let core := fld w 36 30
  let cond := fld w 29 27
  decide (fld w 26 0 = 0) &&
  match o with
  | .ssigAdd | .ssigSet => decide (cond = 0) && (decide (core < 100) || decide (core = 127))
  | .swait => decide (core = 127) && decide (cond ≤ 1)
  | .rdisp | .rcomb => decide (core = 127) && decide (cond = 0)
  | .strap => decide (fld w 47 42 = 0) && decide (core = 0) && decide (cond = 0)
  | _ => decide (fld w 47 27 = 0)

/-- K of an `mmac` (03 R81). -/
def legalK (w : W64) : Bool :=
  let k := mK w
  let b := if mSMA w = .mx32 || mSMB w = .mx32 then 32 else 16
  decide (k ≠ 0) && decide (k ≤ 512) && decide (k % b = 0)

/-- Format M (03 R81; 04 R118, R120, R121). -/
def legalM (o : Op) (w : W64) : Bool :=
  decide (fld w 5 0 = 0) &&
  match fmOf (mFA w), fmOf (mFB w) with
  | some fa, some fb =>
    match o with
    | .mmac =>
      smPermits (mSMA w) fa && smPermits (mSMB w) fb && fa ≠ .i32 && fb ≠ .i32 && (fmInt fa == fmInt fb)
        && (decide (mSMA w = .ch) == decide (mSMB w = .ch)) && legalK w
        && !(smIsBlock (mSMA w) && decide (mSA w = 31)) && !(smIsBlock (mSMB w) && decide (mSB w = 31))
        && (!mPR w || ((fb = .bf16 || fb = .f16) && decide (mSMB w = .none) && !mTB w && decide (mSB w ≠ 31)))
    | .mdrain =>
      decide (mFB w = 0) && decide (mSMB w = .none) && !mTA w && !mTB w && !mPR w && decide (mK w = 0)
        && (decide (mSMA w = .ch) || smPermits (mSMA w) fa) && !(smIsBlock (mSMA w) && decide (mSA w = 31))
        && (if mSMA w = .ch then decide (mSB w ≠ 31) else decide (mSB w = 0))
    | .mload =>
      (fa = .f32 || fa = .i32) && decide (mFB w = 0) && decide (mSMA w = .none) && decide (mSMB w = .none) && !mCLR w
        && !mTA w && !mTB w && !mPR w && decide (mSB w = 0) && decide (mSC w = 0) && decide (mK w = 0)
    | _ => decide (fld w 47 36 = 0) && decide (fld w 34 0 = 0)
  | _, _ => false

/-- `n` with no bit outside the mask. -/
def within (n mask : Nat) : Bool := decide (n &&& (4095 - mask) = 0)

/-- Function-specific conditions of format V (04 R123 to R130, 07 R183, 12 R316). -/
def legalVf (o : Op) (w : W64) : Bool :=
  let imm := vIMM w
  let fit := match fmOf (vFMT w) with
    | some f => vSM w ≠ .ch && smPermits (vSM w) f
    | none => false
  match o with
  | .vshl | .vshr | .vsra | .vrotl => if bit imm 6 then !bit imm 11 else decide (imm % 32 = 0)
  | .vld | .vst =>
    fit && decide (vSR w ≤ 29) && (!bit imm 10 || smIsBlock (vSM w))
      && (decide (imm % 1024 = 0) || decide (rowLen (fmAt (vFMT w)) ≤ imm % 1024 * 32))
  | .vqapp =>
    (decide (vFMT w = 3) || decide (vFMT w = 9)) && decide (vSM w = .b16) && decide (vSR w ≤ 29)
      && decide (imm % 16 = 0) && decide (16 ≤ imm) && decide (imm ≤ 256) && (decide (imm ≤ 128) || decide (vN w % 2 = 0))
  | .vredRow | .vredCol | .vredall => decide (imm % 8 ≠ 7) && (!bit imm 3 || decide (imm % 8 < 4))
  | .vfcmp => decide (imm % 8 ≠ 7)
  | .vcmpcnt => decide (imm % 8 ≠ 7) && !(bit imm 3 && decide (imm % 8 = 6))
  | .vsmexp => decide (vTB w ≠ vTA w) && decide (vTB w ≠ vTD w)
  | .vtopk => decide (1 ≤ imm / 16) && decide (imm / 16 ≤ 128) && decide (1 ≤ imm % 16) && decide (imm % 16 ≤ 8)
  | .rgsum =>
    let k := imm % 16
    let c := imm / 16
    decide (1 ≤ k) && decide (k ≤ 8) && (decide (c = 0) || (decide (k ≤ c) && decide (c ≤ 8))) && decide (vSR w ≠ 31)
  | _ => true

/-- Format V. -/
def legalV (o : Op) (w : W64) : Bool :=
  decide (vROW0 w + vN w ≤ 32) && within (vIMM w) (immMask o)
    && (useTD o || decide (vTD w = 0)) && (useTA o || decide (vTA w = 0)) && (useTB o w || decide (vTB w = 0))
    && (useTC o || decide (vTC w = 0)) && (useFmt o || (decide (vFMT w = 0) && decide (vSM w = .none)))
    && (useSR o w || decide (vSR w = 0)) && (useMD o || decide (vMD w = 0)) && legalVf o w

/-- Format D (04 R132, 08 R227). -/
def legalD (o : Op) (w : W64) : Bool :=
  decide (fld w 33 0 = 0) &&
  match o with
  | .dma => decide (fld w 39 34 < 48)
  | .dwait => decide (fld w 44 34 = 0)
  | _ => decide (fld w 47 34 = 0)

/-- An instruction word raises no ILLEGAL at decode (03 R85). -/
def legal (o : Op) (w : W64) : Bool :=
  match opFmt o with
  | .S => legalS o w
  | .X => legalS o w
  | .B => legalB o w
  | .Y => legalY o w
  | .M => legalM o w
  | .V => legalV o w
  | .D => legalD o w

/-! ### Registers of an instruction, for the scoreboard (03 R73): s0-s31 as 0-31, p as 100-107, m as 200-207, t as
300-307, a as 400-401; s0 and p0 are constants and take no part. -/

/-- Does the word's `mmac` read the coarse scales (05 R150)? -/
def mmacFloat (w : W64) : Bool :=
  !fmInt (fmAt (mFA w)) || (fmAt (mFA w) = .i4 && mSMA w = .b16) || (fmAt (mFB w) = .i4 && mSMB w = .b16)

/-- Keep the registers that can carry a dependence. -/
def realRegs (l : List Nat) : List Nat := l.filter (fun r => r ≠ 0 && r ≠ 100)

/-- Registers read. -/
def regsRead (o : Op) (w : W64) : List Nat :=
  let p := [100 + fld w 50 48]
  let l := match opFmt o with
    | .S | .X =>
      if opGrp o = 0 || (opGrp o = 1 && decide ((opCode o).2 < 6)) then
        fSA w :: (if fI w then [] else [fSB w])
      else if opGrp o = 1 then [100 + fSA w, 100 + fSB w]
      else if opGrp o = 2 then (if (opCode o).2 < 8 then [fSA w] else [fSA w, fSD w])
      else if o = .cwr then [fSA w]
      else if o = .mvm then [200 + fSA w]
      else []
    | .B =>
      if o = .brCond then
        [if bit w.toNat 47 then 200 + fld w 46 42 else fld w 46 42, if bit w.toNat 41 then 200 + fld w 40 36 else fld w 40 36]
      else if o = .call then [] else [fld w 46 42]
    | .Y => if o = .lfence || o = .halt then [] else [fld w 41 37]
    | .M =>
      let acc := 400 + mACC w
      match o with
      | .mmac =>
        [mSA w, mSB w] ++ (if smIsBlock (mSMA w) then [mSA w + 1] else [])
          ++ (if smIsBlock (mSMB w) || mPR w then [mSB w + 1] else []) ++ (if mmacFloat w then [mSC w] else [])
          ++ (if mCLR w then [] else [acc])
      | .mdrain =>
        [acc, mSA w, mSC w] ++ (if smIsBlock (mSMA w) then [mSA w + 1] else [])
          ++ (if mSMA w = .ch then [mSB w, mSB w + 1] else [])
      | .mload => [mSA w]
      | _ => []
    | .V =>
      (if useTA o then [300 + vTA w] else []) ++ (if useTB o w then [300 + vTB w] else [])
        ++ (if useTC o then [300 + vTC w] else []) ++ (if o = .vsmstat then [300 + vTD w] else [])
        ++ (if useSR o w then [vSR w] else [])
        ++ (if useFmt o then (if smIsBlock (vSM w) then [vSR w + 1] else [])
              ++ (if (o = .vld || o = .vst) && fmInt (fmAt (vFMT w)) && vSM w = .none then [] else [vSR w + 2]) else [])
        ++ (if o = .rgsum then [vSR w + 1] else [])
    | .D => if o = .dma then [fld w 44 40] else []
  realRegs (p ++ l)

/-- Registers written. -/
def regsWritten (o : Op) (w : W64) : List Nat :=
  let l := match opFmt o with
    | .S | .X =>
      if opGrp o = 1 then [100 + fSD w]
      else if opGrp o = 2 then (if (opCode o).2 < 8 then [fSD w] else [])
      else if o = .cwr then [] else [fSD w]
    | .B => if o = .call || o = .bdnz then [fld w 46 42] else []
    | .Y => []
    | .M =>
      if o = .mdrain then (if mCLR w then [400 + mACC w] else []) else [400 + mACC w]
    | .V =>
      (if useTD o then [300 + vTD w] else []) ++ (if o = .vsmexp then [300 + vTB w] else [])
        ++ (if useMD o then [200 + vMD w] else [])
    | .D => []
  realRegs l

/-- Generator words that an instruction takes under a rounding mode (02 R52, 04 R128, 05 R160, 07 R197). -/
def drawsOf (o : Op) (w : W64) (rnd : Nat) : Nat :=
  match o with
  | .vrng => 128 * vN w
  | .mdrain => if rnd = 2 && decide (mFA w ≠ 0) then 16384 else 0
  | .vst => if rnd = 2 && decide (vFMT w ≠ 0) then 128 * vN w else 0
  | .vcvti | .vcvtf => if rnd = 2 then 128 * vN w else 0
  | .vqapp => if rnd = 2 then 2 * vIMM w * (if vIMM w ≤ 128 then vN w else vN w / 2) else 0
  | _ => 0

end Sys2Proof.Machine
end

