-- ==== Sys2Proof/Machine/Fault.lean ====
section
/-! DEFINITION. Faults of a job (03 R86 to R90, R98, R99). -/

namespace Sys2Proof.Machine

open Sys2Proof

/-- Fault codes of 03 Table 3-15. -/
def cILLEGAL : Nat := 1
/-- SADDR. -/
def cSADDR : Nat := 2
/-- BADDR. -/
def cBADDR : Nat := 3
/-- PROT. -/
def cPROT : Nat := 4
/-- PARITY. -/
def cPARITY : Nat := 5
/-- TIMEOUT. -/
def cTIMEOUT : Nat := 6
/-- TRAP. -/
def cTRAP : Nat := 7
/-- REMOTE. -/
def cREMOTE : Nat := 8

/-- A job that can still take a fault: running, or complete and draining (03 R99). -/
def canFault (st : RunSt) : Bool := st = .running || st = .halted

/-- The core's job takes a fault against the instruction of issue number `seq` at `fpc` (03 R87): the first ends the
job FAULTED, or rolls it back for PARITY; of several in one clk the earliest in program order is reported; the
others are counted (R88), those of the same clk too (DESIGN CHOICE, log 104). -/
def takeFault (n seq code trap : Nat) (fpc : W64) (s : State) : State :=
  let c := getCore s n
  match c.job with
  | none => s
  | some j =>
    let r : FaultRec := { seq := seq, code := code, trap := trap, fpc := fpc, spc := c.pc, more := 0 }
    let st : RunSt := if code = 5 then .rolledBack else .faulted
    match c.fault with
    | some f =>
      let more := min (f.more + 1) 65535
      if j.endAt = s.clk ∧ seq < f.seq then
        setCore n { c with fault := some { r with more := more, spc := f.spc }, job := some { j with st := st } } s
      else setCore n { c with fault := some { f with more := more } } s
    | none =>
      if canFault j.st then
        setCore n { c with fault := some r, hold := .none, job := some { j with st := st, endAt := s.clk } } s
      else s

/-- The partition of the job of core n; P0 where it holds none. -/
def partOfCore (s : State) (n : Nat) : Nat :=
  match (getCore s n).job with
  | some j => j.part
  | none => 0

/-- Core n runs (or has ended in this tick) a job of partition p (10 R267). -/
def runsPart (s : State) (n p : Nat) : Bool :=
  match (getCore s n).job with
  | some j => j.part = p && j.st ≠ .saved
  | none => false

/-- The JOBID of the job of partition p that was placed on core n in this tick, one that has left the core since too (10 R267). -/
def placedJob (s : State) (n p : Nat) : Option Nat :=
  match (getCore s n).job.filter (fun j => decide (j.part = p)) with
  | some j => some j.jobid
  | none => (s.jobs.find? (fun b => decide (b.core = some n) && decide (b.ent.part = p))).map (fun b => b.ent.jobid)

/-- The core's quad is powered and the core is enabled. -/
def coreOn (s : State) (n : Nat) : Bool := coreEnabled s n && decide ((getQuad s (quadOf n)).st = .on ∨ (getQuad s (quadOf n)).st = .held)

/-- A semaphore has taken a value: a `swait` held for it remembers the value (04 R113, 10 R269). -/
def swaitSees (sem : Nat) (v : W64) (c : Core) : Core :=
  match c.hold with
  | .swait w seen => if bits w.toNat 47 42 = sem then { c with hold := .swait w (seen ++ [v]) } else c
  | _ => c

/-- Set semaphore `sem` of core `n` (04 R113). -/
def semSet (n sem : Nat) (v : W64) (s : State) : State :=
  modCore n (fun c => swaitSees sem v { c with sems := smapSet 0 c.sems sem v }) s

/-- Signal `v` to semaphore `sem` of core `n` by addition (10 R267; modulo 2^64). -/
def semAdd (n sem v : Nat) (s : State) : State := semSet n sem (smapGet 0 (getCore s n).sems sem + BitVec.ofNat 64 v) s

end Sys2Proof.Machine
end

