-- ==== Sys2Proof/Machine/Mem.lean ====
section
/-! DEFINITION. Scratchpads and bonded memory: addresses, reads and writes with their checks, parity, first touch,
row repair and memory-side adders (08 R204 to R206, 09, 10 R276 to R280, 14 R386, R404). -/

namespace Sys2Proof.Machine

open Sys2Proof

/-! ### Scratchpad -/

/-- Bytes of S-space (08 R204). -/
def spadSize : Nat := 0x60000

/-- Bytes of the scratchpad as they stand. -/
def spadBytes (c : Core) (a n : Nat) : List Byte := smapRun 0 c.spad a n

/-- A wrong parity bit among the bytes (08 R206: each byte carries one). -/
def spadParity (c : Core) (a n : Nat) : Bool := smapAny c.spadBad a (a + n)

/-- Write bytes with good parity. -/
def spadPut (a : Nat) (bs : List Byte) (c : Core) : Core :=
  { c with spad := smapPut 0 c.spad a bs, spadBad := smapClear c.spadBad a (a + bs.length) }

/-- An armed injection of detector `det` at a unit and address (20 R542). -/
def injHit (s : State) (det kind idx a n : Nat) : Bool :=
  s.test.arm && decide (s.test.det.toNat = det) && decide (s.test.unit = unitCode kind idx)
    && decide (a ≤ s.test.injAddr.toNat) && decide (s.test.injAddr.toNat < a + n)

/-- The next operation of a unit at a level of the timeout ladder expires at once (20 Table 20-11, DET 10). -/
def tmoInj (s : State) (level kind idx : Nat) : Bool :=
  s.test.arm && decide (s.test.det.toNat = 10) && decide (s.test.unit = unitCode kind idx) && decide (s.test.injAddr.toNat = level)

/-- An injection has acted (20 R542): ARM clears after COUNT of them, 0 acting as 1. -/
def injDone (s : State) : State :=
  let t := s.test
  let d := t.done + 1
  { s with test := { t with done := d, arm := decide (d.toNat < max 1 t.count.toNat) } }

/-- Bytes of core n's scratchpad have been written: an armed injection at one of them inverts its parity bit (20 Table 20-11, DET 2). -/
def spadWrote (n : Nat) (rs : List (Nat × Nat)) (s : State) : State :=
  if rs.any (fun r => injHit s 2 1 n r.1 r.2) then
    injDone (modCore n (fun c => { c with spadBad := smapSet false c.spadBad s.test.injAddr.toNat true }) s)
  else s

/-- Write bytes into core n's scratchpad. -/
def spadWrite (n a : Nat) (bs : List Byte) (s : State) : State := spadWrote n [(a, bs.length)] (modCore n (spadPut a bs) s)

/-! ### Regulator buckets (13 R367): one of tokens, in 1/1024 B, for each partition and unit. Units 0 to 99 are slice channels, 100 to
199 router ports, 200 to 203 Bakener ports, 204 the host edge -/

/-- The key of a bucket. -/
def bucketKey (p unit : Nat) : Nat := p * 1000 + unit

/-- The tokens of a bucket. -/
def tokens (s : State) (p unit : Nat) : Int := smapGet 0 s.buckets (bucketKey p unit)
/-- Put tokens. -/
def setTokens (p unit : Nat) (v : Int) (s : State) : State := { s with buckets := smapSet 0 s.buckets (bucketKey p unit) v }
/-- Take the debit of n bytes, without a wait. -/
def debit (p unit n : Nat) (s : State) : State := setTokens p unit (tokens s p unit - ((1024 * n : Nat) : Int)) s
/-- A bucket holds the debit of n bytes. -/
def canDebit (s : State) (p unit n : Nat) : Bool := decide (((1024 * n : Nat) : Int) ≤ tokens s p unit)

/-! ### Bonded memory: addresses (09 R233, R235) -/

/-- End of B-space. -/
def bEnd : Nat := 0x3000000000
/-- Bytes of a granule of ownership. -/
def granSize : Nat := 0x200000
/-- Bytes of a page. -/
def pageSize : Nat := 4096
/-- The page of an address. -/
def pageOf (a : Nat) : Nat := a / pageSize
/-- The 2 MiB granule of an address. -/
def granOf (a : Nat) : Nat := a / granSize

/-- The slice of a granule (09 R233). -/
def sliceOfGran (g : Nat) : Nat := if g < 98300 then g / 983 else [0, 9, 90, 99].getD (g - 98300) 0
/-- The local granule (09 R233). -/
def localGran (g : Nat) : Nat := if g < 98300 then g % 983 else 983
/-- The slice of an address. -/
def sliceOf (a : Nat) : Nat := sliceOfGran (granOf a)
/-- The local offset of an address (09 R233). -/
def localOff (a : Nat) : Nat := localGran (granOf a) * granSize + a % granSize
/-- The B-space address of a local offset of a slice, none in the device reserve (09 R233, R234). -/
def addrOfLocal (sl o : Nat) : Option Nat :=
  let l := o / granSize
  if l < 983 then some ((sl * 983 + l) * granSize + o % granSize)
  else match [0, 9, 90, 99].findIdx? (fun x => x = sl) with
    | some i => some ((98300 + i) * granSize + o % granSize)
    | none => none
/-- Row, bank and die of a local offset (09 Table 9-2). -/
def rowOf (o : Nat) : Nat := o / 2 ^ 18
/-- Bank. -/
def bankOf (o : Nat) : Nat := o / 2 ^ 14 % 16
/-- Die. -/
def dieOf (o : Nat) : Nat := o / 2 ^ 11 % 8

/-- A granule listed by extents. -/
def inExts (exts : List (Nat × Nat)) (g : Nat) : Bool := exts.any (fun e => decide (e.1 ≤ g) && decide (g < e.1 + e.2))

/-- A byte range lies within the extents of a partition. -/
def rangeIn (exts : List (Nat × Nat)) (a n : Nat) : Bool :=
  decide (a + n ≤ bEnd) && (n = 0 || (List.range (granOf (a + n - 1) - granOf a + 1)).all (fun i => inExts exts (granOf a + i)))

/-- Bytes of bonded memory as they stand. -/
def bBytes (s : State) (a n : Nat) : List Byte := smapRun 0 s.bonded.mem a n

/-- Store bytes with good parity, without a check (belfry and controller). -/
def bPut (a : Nat) (bs : List Byte) (s : State) : State :=
  let b := s.bonded
  { s with bonded := { b with mem := smapPut 0 b.mem a bs, bad := smapClear b.bad a (a + bs.length) } }

/-- The slice of a page, one of the device reserve's pages among them (09 R234; log 102). -/
def pageSlice (pg : Nat) : Nat := if pg < bEnd / pageSize then sliceOf (pg * pageSize) else (pg - bEnd / pageSize) / 512
/-- The local offset of a page in its slice; the device reserve lies at the end (09 R234). -/
def pageLocal (pg : Nat) : Nat :=
  if pg < bEnd / pageSize then localOff (pg * pageSize) else 983 * granSize + (pg - bEnd / pageSize) % 512 * pageSize

/-- POISON of a page: its bit, its entry's own parity wrong, or its slice FAILED (09 R242, R245, R251). -/
def isPoison (s : State) (pg : Nat) : Bool :=
  smapGet false s.bonded.poison pg || decide (smapGet 0 s.bonded.attrBad pg ≠ 0)
    || decide ((getSlice s (pageSlice pg)).st = .failed)

/-- The number of a page of a slice's device reserve, from a local offset: those pages have no B-space address and stand behind
B-space in the attribute store (09 R234, R244; log 102). -/
def reservePage (sl o : Nat) : Nat := bEnd / pageSize + sl * 512 + o % granSize / pageSize

/-- Mark a page POISON. -/
def setPoison (pg : Nat) (s : State) : State :=
  { s with bonded := { s.bonded with poison := smapSet false s.bonded.poison pg true } }

/-- Put a page on the belfry's poison list (09 R245). -/
def listPoison (pg : Nat) (s : State) : State :=
  { s with bonded := { s.bonded with poisoned := smapSet false s.bonded.poisoned pg true } }

/-- The page's row was retired without a spare (09 R242, R248). -/
def rowRetired (s : State) (pg : Nat) : Bool :=
  let o := pageLocal pg
  let sl := getSlice s (pageSlice pg)
  sl.retired.any (fun r => decide (r.2 = rowOf o) && decide (r.1 % 16 = bankOf o) && decide (r.1 / 16 / 2 = dieOf o / 2))

/-- Clear POISON after a rewrite of the whole page, unless its row is retired (09 R242). -/
def clearPoison (pg : Nat) (s : State) : State :=
  if rowRetired s pg then s
  else { s with bonded := { s.bonded with
           poison := smapSet false s.bonded.poison pg false
           wayDone := smapSet false s.bonded.wayDone pg false
           poisoned := smapSet false s.bonded.poisoned pg false } }

/-! ### Parity errors (09 R240, R245, R247 to R251; 14 R404) -/

/-- A slice counts a parity error (09 R255). -/
def perrInc (sl : Nat) (s : State) : State :=
  let r := ctrInc (getSlice s sl).perr
  ovfEvent r.2 (0x01000000 + sl * 0x10000 + 0x10) (modSlice sl (fun v => { v with perr := r.1 }) s)

/-- Replace or retire a failing row (09 R247, R248) and log it (R240, R249). `bk` is die × 16 + bank; a remap of a bank follows the
one before it. -/
def rowRepair (sl die bank row : Nat) (s : State) : State :=
  let v := getSlice s sl
  let bk := die * 16 + bank
  let used := smapGet 0 v.spares bk
  let reserve := decide (7864 ≤ row) && !(sl = 0 || sl = 9 || sl = 90 || sl = 99)
  let out := if reserve then 1 else if used < 64 then 0 else 2
  let ent : FailRow := { ticklo := BitVec.ofNat 16 s.tick.now.toNat, die := BitVec.ofNat 3 die, bank := BitVec.ofNat 4 bank,
                         row := BitVec.ofNat 13 row, spare := if out = 0 then BitVec.ofNat 6 used else 0, outcome := BitVec.ofNat 2 out }
  let v1 : Slice := { v with failRows := smapSet none v.failRows v.failHead.toNat (some ent), failHead := v.failHead + 1 }
  -- a remap asked for during a retrain begins when the slice is released (20 Table 20-2)
  let from' := match v.holdAt with
    | some t => max s.clk (t + us 40)
    | none => s.clk
  let start := (v.remaps.filter (fun r => decide (r.1 = bk))).foldl (fun t r => max t r.2.2.2) from'
  let v2 : Slice :=
    if out = 0 then { v1 with spares := smapSet 0 v1.spares bk (used + 1), remaps := v1.remaps ++ [(bk, row, used, start + us 2)] }
    else if out = 1 then { v1 with reserveBad := v1.reserveBad ++ [(bk, row)] }
    else { v1 with retired := v1.retired ++ [(bk, row)], degraded := true, st := if v1.st = .ok then .degraded else v1.st }
  let s1 := setSlice sl v2 s
  let s2 := { s1 with bonded := { s1.bonded with remapList := s1.bonded.remapList ++ [(sl, ent)] } }
  if out = 2 then raise 2 sl none 0x3002 (bank + 16 * die) s2 else s2

/-- Attribute an error to its bond; four in different rows within 1 ms request a retrain (09 R251). -/
def bondError (sl a row : Nat) (s : State) : State :=
  let v := getSlice s sl
  let b := Config.bondOf a
  let recent := v.bondErrs.filter (fun e => decide (s.clk ≤ e.2.2 + us 1000))
  let errs := if recent.any (fun e => decide (e.1 = b ∧ e.2.1 = row)) then recent else recent ++ [(b, row, s.clk)]
  let hits := (errs.filter (fun e => decide (e.1 = b))).length
  setSlice sl { v with bondErrs := errs, retrainReq := v.retrainReq || decide (4 ≤ hits) } s

/-- Change a job of the tick. -/
def modJob (idx : Nat) (f : Job → Job) (s : State) : State :=
  match s.jobs[idx]? with
  | some j => { s with jobs := s.jobs.set idx (f j) }
  | none => s

/-- The job of core n takes a fault, whatever has become of it in the tick: a saved one loses its image, one that has faulted already
counts the error and ends in state `st`. -/
def endJob (n seq code : Nat) (st : RunSt) (pc : W64) (s : State) : State :=
  let c := getCore s n
  match c.job with
  | none => s
  | some j =>
    if canFault j.st then takeFault n seq code 0 pc s
    else match c.fault with
      | some _ => modCore n (fun c => { c with job := c.job.map (fun j => { j with st := st }) }) (takeFault n seq code 0 pc s)
      | none =>
        let r : FaultRec := { seq := seq, code := code, trap := 0, fpc := pc, spc := c.pc, more := 0 }
        setCore n { c with fault := some r, job := some { j with st := st } }
          { s with images := s.images.filter (fun i => !(decide (i.part = j.part) && decide (i.jobid = j.jobid))) }

/-- The job of core n is rolled back for PARITY (03 R90). -/
def rollJob (n seq : Nat) (pc : W64) (s : State) : State := endJob n seq cPARITY .rolledBack pc s

/-- A job whose core has lost its state is rolled back where it read P0 data of slice `sl`. -/
def rollSettled (sl : Nat) (s : State) : State :=
  { s with jobs := s.jobs.map (fun j => if j.p0mask.getLsbD sl then
      { j with out := .rolledBack, fault := if j.fault.code = 0 then { j.fault with code := cPARITY, fpc := j.fault.spc } else j.fault } else j) }

/-- Every job of the tick that read P0 data of slice `sl` is rolled back (03 R86, 14 R404), but for the reader `who`, which takes a
fault of its own. No instruction of theirs failed: the fault PC is where each has come to (DESIGN CHOICE, log 103). -/
def rollP0 (sl : Nat) (who : Option Nat) (s : State) : State :=
  rollSettled sl ((List.range 100).foldl (fun s n =>
    let c := getCore s n
    if c.p0mask.getLsbD sl && decide (who ≠ some n) then rollJob n c.nseq c.pc s else s) s)

/-- The TAG of a page's granule. -/
def tagOf (s : State) (a : Nat) : Nat := (smapGet GranAttr.reset s.bonded.gran (granOf a)).tag.toNat

/-- The partition that the granule of an address is assigned to, for the PART of an event (20 R533). -/
def partOfAddr (s : State) (a : Nat) : Option Nat :=
  let g := smapGet GranAttr.reset s.bonded.gran (granOf a)
  if g.a then some g.tag.toNat else none

/-- A read of the slice, for a job on core `who` or for none, has found a parity error at byte `a` (09 R240): `inj` where injection
made it (20 R543). -/
def parityFound (a : Nat) (inj : Bool) (who : Option Nat) (s : State) : State :=
  let sl := sliceOf a
  let o := localOff a
  let s := listPoison (pageOf a) (setPoison (pageOf a) s)
  let s := perrInc sl s
  let s := raiseI inj 2 sl (partOfAddr s a) 0x3001 (pageOf a * pageSize) s
  let s := if inj then s else bondError sl a (rowOf o) (rowRepair sl (dieOf o) (bankOf o) (rowOf o) s)
  if tagOf s a = 0 && (smapGet GranAttr.reset s.bonded.gran (granOf a)).a then rollP0 sl who s else s

/-- The first byte of [a, a+n) whose parity bit is wrong, and whether injection made it. -/
def badByte (s : State) (a n : Nat) : Option (Nat × Bool) :=
  match s.bonded.bad.find? (fun e => decide (a ≤ e.1) && decide (e.1 < a + n)) with
  | some e => some (e.1, decide (e.2 = 2))
  | none => none

/-- The first byte of [a, a+n) with a wrong parity bit that injection made, or did not. -/
def badOf (s : State) (a n : Nat) (inj : Bool) : Option Nat :=
  (s.bonded.bad.find? (fun e => decide (a ≤ e.1) && decide (e.1 < a + n) && (decide (e.2 = 2) == inj))).map Prod.fst

/-- What the controller does with the wrong parity bits of [a, a+n): a real error and one that injection made are each handled (20 R543). -/
def errorsFound (a n : Nat) (who : Option Nat) (s : State) : State :=
  let real := badOf s a n false
  let made := badOf s a n true
  let s := match real with
    | some b => parityFound b false who s
    | none => s
  match made with
  | some b => parityFound b true who s
  | none => s

/-- The aligned 32-byte granule around an address (09 R237). -/
def gran32 (a : Nat) : Nat := a / 32 * 32

/-- A read of one granule by the controller, whatever the reason: true where a parity error was found. -/
def ctlRead (a : Nat) (who : Option Nat) (s : State) : Bool × State :=
  match badByte s (gran32 a) 32 with
  | some _ => (true, errorsFound (gran32 a) 32 who s)
  | none => (false, s)

/-! ### Checked accesses -/

/-- P0 pages are writable in a tick whose plan sets LOAD (13 R364, R371). -/
def roNow (s : State) (g : GranAttr) : Bool := g.ro && !(getPart s 0).load

/-- The fault code of a job's access of partition `p` to a byte of B-space (03 Table 3-15; 13 R366, R371), 0 for none. -/
def bCheck (s : State) (p a : Nat) (write : Bool) : Nat :=
  let g := granOf a
  if bEnd ≤ a then cBADDR
  else
    let own := inExts (getPart s p).exts g
    let p0 := inExts (getPart s 0).exts g
    if !own && !p0 then cBADDR
    else
      let t := smapGet GranAttr.reset s.bonded.gran g
      if smapGet 0 s.bonded.attrBad (pageOf a) ≠ 0 then cPROT
      else if !t.a then cPROT
      else if t.tag.toNat ≠ p && (write || t.tag ≠ 0 || (getPart s 0).load) then cPROT
      else if write && roNow s t then cPROT
      else 0

/-- Count bytes read by a slice (09 R255). -/
def cntRead (sl n : Nat) (s : State) : State := modSlice sl (fun v => { v with rdBytes := v.rdBytes + BitVec.ofNat 64 n }) s
/-- Count bytes written. -/
def cntWrite (sl n : Nat) (s : State) : State := modSlice sl (fun v => { v with wrBytes := v.wrBytes + BitVec.ofNat 64 n }) s

/-- Record the touch copy of a page in each segment that still holds the page (14 R386). -/
def touchSeg (pg : Nat) (bs : List Byte) (g : Option Segment) : Option Segment :=
  g.map (fun g => { g with pages := g.pages.map (fun e => if e.1.pg = pg then (e.1, some bs) else e) })

/-- A first touch of a page is held for lack of a touch page, counted once (14 R386, R405). -/
def noteHeld (a : Nat) (s : State) : State :=
  let pg := pageOf a
  modPart (tagOf s a) (fun v => if v.foldSt.heldPgs.contains pg then v else { v with foldSt := { v.foldSt with
    heldTouch := v.foldSt.heldTouch + 1
    heldPgs := v.foldSt.heldPgs ++ [pg] } }) s

/-- The belfry streams a page of an unsent fold before an access that waits for it, charged to its partition (14 R386, 09 R245, 13 R368).
The segment holds the page as it was; a page with a parity error goes in as LOST. -/
def streamNow (a : Nat) (s : State) : State :=
  let pg := pageOf a
  let p := tagOf s a
  let s := debit p (sliceOf a) pageSize (debit p (100 + sliceOf a) pageSize s)
  let s := { s with bonded := { s.bonded with wp := smapSet false s.bonded.wp pg false } }
  match badByte s (pg * pageSize) pageSize with
  | some _ => errorsFound (pg * pageSize) pageSize none s
  | none =>
    let bs := bBytes s (pg * pageSize) pageSize
    modPart p (fun v => { v with foldSt := { v.foldSt with seg1 := touchSeg pg bs v.foldSt.seg1 } }) (cntRead (sliceOf a) pageSize s)

/-- A first touch without a free touch page is held until the belfry has streamed the page (14 R386). -/
def touchHeld (a : Nat) (s : State) : State := streamNow a (noteHeld a s)

/-- An armed injection inverts the parity bit of a page's attribute entry (20 Table 20-11, DET 3): at once, and again after a rewrite
while injections are left. -/
def attrInj (s : State) : State :=
  let t := s.test
  if t.arm && t.det = 3 && decide (t.injAddr.toNat < bEnd) && decide (smapGet 0 s.bonded.attrBad (pageOf t.injAddr.toNat) = 0) then
    injDone { s with bonded := { s.bonded with attrBad := smapSet 0 s.bonded.attrBad (pageOf t.injAddr.toNat) 2 } }
  else s

/-- The attribute entry of a page failed its parity check: the belfry rewrites it (09 R245), a page of an unsent fold being streamed
first. -/
def attrRepair (a : Nat) (s : State) : State :=
  let pg := pageOf a
  let inj := decide (smapGet 0 s.bonded.attrBad pg = 2)
  let s := raiseI inj 2 (sliceOf a) (partOfAddr s a) 0x3001 (2 ^ 63 + pg * pageSize) (perrInc (sliceOf a) s)
  let s := listPoison pg s
  let s := { s with bonded := { s.bonded with
    attrBad := smapSet 0 s.bonded.attrBad pg 0
    poison := smapSet false s.bonded.poison pg (smapGet false s.bonded.poisoned pg) } }
  let s := if smapGet false s.bonded.wp pg then streamNow a s else s
  if pageOf s.test.injAddr.toNat = pg then attrInj s else s

/-- The answer of an access: a fault code (0 for none; 100 where it must wait, 14 R386) and the bytes. -/
structure Acc where
  code  : Nat
  bytes : List Byte
  st    : State

/-- Read within one granule for partition `p` and core `n` (09 R240, R242). -/
def bRead (p : Nat) (n : Option Nat) (a len : Nat) (s : State) : Acc :=
  let c := bCheck s p a false
  if c ≠ 0 then ⟨c, [], if smapGet 0 s.bonded.attrBad (pageOf a) ≠ 0 && c = cPROT then attrRepair a s else s⟩
  else if isPoison s (pageOf a) then ⟨cPARITY, [], s⟩
  else
    let r := ctlRead a n s
    if r.1 then ⟨cPARITY, [], r.2⟩
    else
      let s := cntRead (sliceOf a) len s
      let s := match n with
        | some n => if tagOf s a = 0 then modCore n (fun c => { c with p0mask := c.p0mask ||| BitVec.ofNat 100 (2 ^ sliceOf a) }) s else s
        | none => s
      ⟨0, bBytes s a len, s⟩

/-- A free page of a touch granule of the partition in the slice of `a` (14 R386, R388). -/
def freeTouch (s : State) (p a : Nat) : Option Nat :=
  let f := (getPart s p).foldSt
  let gs := f.touch.filter (fun g => sliceOfGran g = sliceOf a)
  let pages := (gs.map (fun g => (List.range 512).map (fun i => g * 512 + i))).flatten
  pages.find? (fun pg => !f.touchUsed.any (fun e => decide (e.1 = pg)) && !isPoison s pg)

/-- A write into a memo's ranges clears the memo (15 R419, 18 R501). -/
def memoTouch (a n : Nat) (s : State) : State :=
  let hit (b len : Nat) : Bool := decide (a < b + len) && decide (b < a + n)
  { s with
    memos := s.memos.filter (fun m => !(hit (m.1.getD 0 0) (m.1.getD 1 0) || hit (m.1.getD 2 0) (m.1.getD 3 0)))
    secure := { s.secure with imgMemo := s.secure.imgMemo.filter (fun m => !hit m.1 m.2.1) } }

/-- Store bytes, an armed injection inverting one parity bit (20 Table 20-11, DET 1 and 3). -/
def bStore (a : Nat) (bs : List Byte) (s : State) : State :=
  let s' := memoTouch a bs.length (cntWrite (sliceOf a) bs.length (bPut a bs s))
  if injHit s 1 2 (sliceOf a) a bs.length then
    injDone { s' with bonded := { s'.bonded with bad := smapSet 0 s'.bonded.bad s.test.injAddr.toNat 2 } }
  else s'

/-- First touch of a WP page (14 R386, 09 R246): fault code 0, 5 or 100 (wait). -/
def firstTouch (a : Nat) (s : State) : Nat × State :=
  let pg := pageOf a
  if !smapGet false s.bonded.wp pg then (0, s)
  else
    let p := tagOf s a
    match freeTouch s p a with
    | none => (100, s)
    | some t =>
      match badByte s (pg * pageSize) pageSize with
      | some _ => (cPARITY, setPoison t (errorsFound (pg * pageSize) pageSize none s))
      | none =>
        let bs := bBytes s (pg * pageSize) pageSize
        let s := bStore (t * pageSize) bs (cntRead (sliceOf a) pageSize s)
        let s := modPart p (fun v => { v with foldSt := { v.foldSt with
                    touchUsed := v.foldSt.touchUsed ++ [(t, pg)]
                    touches := v.foldSt.touches + 1 } }) s
        (0, { s with bonded := { s.bonded with wp := smapSet false s.bonded.wp pg false } })

/-- A write has come with a parity mismatch in an enabled byte: nothing of its granule is written and the page is POISON; no row is
logged (09 R241). -/
def carriedBad (a : Nat) (s : State) : Nat × State := (cPARITY, setPoison (pageOf a) s)

/-- Write within one granule for partition `p` (09 R241, R242, 14 R386); `mis` where its parity does not match on arrival. -/
def bWrite (p a : Nat) (bs : List Byte) (mis : Bool) (s : State) : Acc :=
  let c := bCheck s p a true
  if c ≠ 0 then ⟨c, [], if smapGet 0 s.bonded.attrBad (pageOf a) ≠ 0 && c = cPROT then attrRepair a s else s⟩
  else if isPoison s (pageOf a) then ⟨cPARITY, [], s⟩
  else if mis then ⟨cPARITY, [], (carriedBad a s).2⟩
  else
    let t := firstTouch a s
    if t.1 ≠ 0 then ⟨t.1, [], t.2⟩ else ⟨0, [], bStore a bs t.2⟩

/-! ### Memory-side adders (09 R253, 10 R276 to R279) -/

/-- Element size of an operation (08 R219). -/
def opSize (op : Nat) : Nat := if op = 2 then 2 else if op = 4 ∨ op = 6 then 8 else 4

/-- Float adds are those that starch mode orders (10 R278). -/
def opFloat (op : Nat) : Bool := op = 1 || op = 2

/-- One element combined (09 R253). -/
def addElem (op a b : Nat) : Nat :=
  match op with
  | 1 => (fAdd false a b).1
  | 2 => (xvTo { rnd := 0, ovsat := true, flush := false } 0 .bf16 (xAdd (xvOf .bf16 a) (xvOf .bf16 b)).1).1
  | 3 => (a + b) % 2 ^ 32
  | 4 => (a + b) % 2 ^ 64
  | 5 => if sgn 32 a < sgn 32 b then b else a
  | _ => if sgn 64 a < sgn 64 b then b else a

/-- Elements combined. -/
def addBytes (op : Nat) : Nat → List Byte → List Byte → List Byte
  | 0, _, _ => []
  | f + 1, old, new =>
    if new.isEmpty then []
    else
      let k := opSize op
      natLe k (addElem op (leNat (old.take k)) (leNat (new.take k))) ++ addBytes op f (old.drop k) (new.drop k)

/-- The slice whose device reserve holds the add log of a slice (10 R279). -/
def logHome (sl : Nat) : Nat := if sl = 0 then 1 else if sl = 9 then 8 else if sl = 90 then 91 else if sl = 99 then 98 else sl

/-- Entries that the add log serves for a slice (10 R279): none where the reserve granule is out of use until the next reset (09
R247). -/
def addLogCap (s : State) (sl : Nat) : Nat :=
  if !(getSlice s (logHome sl)).reserveBad.isEmpty then 0
  else if sl = 0 || sl = 1 || sl = 8 || sl = 9 || sl = 90 || sl = 91 || sl = 98 || sl = 99 then 8192 else 16384

/-- Combine source elements into memory now (09 R253, R254): a parity error on the read half writes nothing; one of the attribute entry
raises PROT (R245). -/
def addNow (op a : Nat) (src : List Byte) (who : Option Nat) (s : State) : Nat × State :=
  if smapGet 0 s.bonded.attrBad (pageOf a) ≠ 0 then (cPROT, attrRepair a s)
  else if isPoison s (pageOf a) then (cPARITY, s)
  else
    let r := ctlRead a who s
    if r.1 then (cPARITY, r.2)
    else
      let t := firstTouch a s
      if t.1 ≠ 0 then t
      else
        let s := t.2
        let sl := sliceOf a
        let new := addBytes op src.length (bBytes s a src.length) src
        let s := cntRead sl src.length (bStore a new s)
        (0, modSlice sl (fun v => { v with adds := v.adds + 1 }) s)

/-- An add whose first touch finds no free touch page waits until the belfry has streamed the page (14 R386). -/
def addWaiting (op a : Nat) (src : List Byte) (who : Option Nat) (s : State) : Nat × State :=
  let r := addNow op a src who s
  if r.1 = 100 then addNow op a src who (touchHeld a r.2) else r

/-- ADD_ORDER_LOST (10 R279): the partition's digest requests of the tick show it (15 R409). -/
def addLost (sl p case : Nat) (s : State) : State :=
  let mark (d : DigReq) : DigReq := if decide (d.part = p) && decide (d.tick = s.tick.now.toNat) then { d with lost := true } else d
  raise 2 sl (some p) 0x3006 case (modPart p (fun v => { v with lost := true }) { s with digReqs := s.digReqs.map mark })

/-- The core of this module on whose behalf an add is made. -/
def addCore (s : State) (e : AddEntry) : Option Nat := if e.chip = s.links.chip.toNat ∧ e.core < 100 then some e.core else none

/-- A memory-side operation on elements within one granule, with its key (10 R278); `mis` where its parity does not match on
arrival (09 R241). A float add of a starch partition is logged; a full log or a late arrival applies it on arrival and raises
ADD_ORDER_LOST (R279). -/
def memAdd (p : Nat) (e : AddEntry) (mis : Bool) (s : State) : Nat × State :=
  let c := bCheck s p e.addr true
  let now (s : State) : Nat × State := addNow e.op e.addr e.src (addCore s e) s
  if c ≠ 0 then (c, if smapGet 0 s.bonded.attrBad (pageOf e.addr) ≠ 0 && c = cPROT then attrRepair e.addr s else s)
  else if isPoison s (pageOf e.addr) then (cPARITY, s)
  else if mis then carriedBad e.addr s
  else
    let sl := sliceOf e.addr
    let v := getSlice s sl
    if opFloat e.op && decide ((getPart s p).mode = 1) then
      if s.tick.phase = .closed then now (addLost sl p 2 s)
      else if 2 ^ 17 ≤ e.pos then now (addLost sl p 4 s)
      else if addLogCap s sl ≤ v.addLog.length then now (addLost sl p 1 s)
      else (0, setSlice sl { v with addLog := v.addLog ++ [e] } s)
    else now s

/-- Key order (10 R278). -/
def addKeyLe (a b : AddEntry) : Bool :=
  decide (a.chip < b.chip) || (a.chip = b.chip && (decide (a.core < b.core) || (a.core = b.core &&
    (decide (a.pos < b.pos) || (a.pos = b.pos && decide (a.order ≤ b.order))))))

/-- Insert into a list in key order, after its equals. -/
def addInsert (e : AddEntry) : List AddEntry → List AddEntry
  | [] => [e]
  | h :: t => if addKeyLe h e then h :: addInsert e t else e :: h :: t

/-- Apply one logged add: a parity error rolls back its job, where that runs on this module (09 R240, R254); an error of the attribute
entry ends it with PROT (R245). -/
def applyAdd (s : State) (e : AddEntry) : State :=
  let r := addWaiting e.op e.addr e.src (addCore s e) s
  match addCore s e with
  | some n =>
    if !(getCore r.2 n).job.any (fun j => decide (j.part = e.part)) then r.2
    else if r.1 = cPARITY then rollJob n e.seq e.pc r.2
    else if r.1 = cPROT then endJob n e.seq cPROT (if ((getCore r.2 n).job.map (fun j => j.st)) = some .rolledBack then .rolledBack else .faulted) e.pc r.2
    else r.2
  | none => r.2

/-- Apply a slice's add log in key order (10 R278, R279) and empty it. -/
def applyAddLog (sl : Nat) (s : State) : State :=
  let v := getSlice s sl
  let l := v.addLog.foldl (fun acc e => addInsert e acc) []
  l.foldl applyAdd (setSlice sl { v with addLog := [] } s)

/-! ### Belfry accesses (no ownership check; parity and POISON still count, 09 R240) -/

/-- The granules of a byte range. -/
def granules (a n : Nat) : List Nat := if n = 0 then [] else (List.range ((a + n - 1) / 32 - a / 32 + 1)).map (fun i => (a / 32 + i) * 32)

/-- An access by the belfry or an edge meets the attribute entry of a page: true where the page is POISON; an entry whose parity is
wrong counts so and is rewritten (09 R242, R245). -/
def pageStops (pg : Nat) (s : State) : Bool × State :=
  (isPoison s pg, if smapGet 0 s.bonded.attrBad pg ≠ 0 then attrRepair (pg * pageSize) s else s)

/-- Split a byte range at page boundaries: address and length. -/
def pageRuns (a : Nat) : Nat → Nat → List (Nat × Nat)
  | 0, _ => []
  | f + 1, n =>
    if n = 0 then []
    else
      let k := min n (pageSize - a % pageSize)
      (a, k) :: pageRuns (a + k) f (n - k)

/-- The bytes of a range are counted as read in the slices that hold them (09 R255). -/
def cntRange (a n : Nat) (s : State) : State :=
  (pageRuns a (n / pageSize + 2) n).foldl (fun s q => cntRead (sliceOf q.1) q.2 s) s

/-- Accesses to a bank of a slice are held: a retrain of the slice, or a pending remap of a row of that bank of that die (09 R247, R251). -/
def bankHeld (v : Slice) (o : Nat) : Bool :=
  v.holdAt.isSome || v.remaps.any (fun r => decide (r.1 % 16 = bankOf o) && decide (r.1 / 16 = dieOf o))

/-- Accesses to an address are held. -/
def sliceHeld (s : State) (a : Nat) : Bool := bankHeld (getSlice s (sliceOf a)) (localOff a)

/-- The clk at which the holds of an address end: 40 us for a retrain, 2 us for each row remap. -/
def heldUntil (s : State) (a : Nat) : Nat :=
  let v := getSlice s (sliceOf a)
  let o := localOff a
  (v.remaps.filter (fun r => decide (r.1 % 16 = bankOf o) && decide (r.1 / 16 = dieOf o))).foldl (fun t r => max t r.2.2.2)
    (match v.holdAt with
      | some t => t + us 40
      | none => 0)

/-- An access of the belfry or of the host edge to a range under a hold waits until the hold is over: that time passes (09 R247, R251;
DESIGN CHOICE, log 18). -/
def waitHold (a n : Nat) (s : State) : State :=
  if n = 0 then s
  else
    let t := ((List.range ((a + n - 1) / 2048 - a / 2048 + 1)).map (fun i => (a / 2048 + i) * 2048)).foldl (fun t x => max t (heldUntil s x)) 0
    passTo t s

/-- A read by the belfry: true where a parity error or a POISON page stopped it. -/
def belRead (a n : Nat) (s : State) : Bool × List Byte × State :=
  let s := waitHold a n s
  let r := (granules a n).foldl (fun (x : Bool × State) g =>
    if x.1 then x
    else
      let q := pageStops (pageOf g) x.2
      if q.1 then q else ctlRead g none q.2) (false, s)
  if r.1 then (true, [], r.2) else (false, bBytes r.2 a n, cntRange a n r.2)

/-- Split a run of bytes at page boundaries. -/
def pagePieces (a : Nat) : Nat → List Byte → List (Nat × List Byte)
  | 0, _ => []
  | f + 1, bs =>
    if bs.isEmpty then []
    else
      let k := pageSize - a % pageSize
      (a, bs.take k) :: pagePieces (a + k) f (bs.drop k)

/-- A write by the belfry or an edge into pages already checked: POISON pages are not written (09 R242); WP pages take
their first touch (14 R386); true where some page refused. -/
def belWrite (a : Nat) (bs : List Byte) (s : State) : Bool × State :=
  let s := waitHold a bs.length s
  (pagePieces a bs.length bs).foldl (fun (x : Bool × State) pb =>
    let q := pageStops (pageOf pb.1) x.2
    if q.1 then (true, q.2)
    else
      let t := firstTouch pb.1 q.2
      if t.1 = cPARITY then (true, t.2)
      else
        let s := if t.1 = 100 then touchHeld pb.1 t.2 else t.2
        -- the page streamed first may have shown an error and be POISON now
        if isPoison s (pageOf pb.1) then (true, s) else (x.1, bStore pb.1 pb.2 s)) (false, s)

/-- Rewrite a whole page, data and parity, clearing POISON (09 R242). -/
def rewritePage (pg : Nat) (bs : List Byte) (s : State) : State := clearPoison pg (bStore (pg * pageSize) bs s)

end Sys2Proof.Machine
end

