-- ==== Sys2Proof/Machine/Trans.lean ====
section
/-! DEFINITION. The transcendental functions (07 R188): the exact cases of Table 7-1, and otherwise a value that the
part fixes within the error bound (log 8). -/

namespace Sys2Proof.Machine

open Sys2Proof

/-- Fractional bits of the fixed-point work below. -/
def fixP : Nat := 192

/-- ln 2 in fixed point. -/
def fixLn2 : Nat := 4350955369971217654477563090224794165364344896676135745069

/-- e^y - the sum so far, by its series, y in fixed point below 1. -/
def expSeries (y : Nat) : Nat → Nat → Nat → Nat
  | 0, _, _ => 0
  | fuel + 1, k, term => term + expSeries y fuel (k + 1) (term * y / 2 ^ fixP / k)

/-- 2^fr in fixed point, 0 <= fr < 1. -/
def exp2Fix (fr : Nat) : Nat := expSeries (fr * fixLn2 / 2 ^ fixP) 60 1 (2 ^ fixP)

/-- A signed fixed-point value of sign, magnitude n × 2^e (exact for every f32). -/
def fixOf (s : Bool) (n : Nat) (e : Int) : Int :=
  let (a, b) := scale2 n 1 (e + fixP)
  let v : Int := (a / b : Nat)
  if s then -v else v

/-- 2^X for a fixed-point X, as mantissa and power of two. -/
def exp2Of (x : Int) : Nat × Int :=
  let m : Int := ((2 ^ fixP : Nat) : Int)
  (exp2Fix (x % m).toNat, x / m - fixP)

/-- Fraction bits of log2 of z in [1,2), by squaring. -/
def log2Bits : Nat → Nat → Nat → Nat
  | 0, _, acc => acc
  | fuel + 1, z, acc =>
    let z2 := z * z / 2 ^ fixP
    if 2 ^ (fixP + 1) ≤ z2 then log2Bits fuel (z2 / 2) (2 * acc + 1) else log2Bits fuel z2 (2 * acc)

/-- Integer square root, bit by bit from bit i. -/
def isqrtFrom (n : Nat) : Nat → Nat → Nat
  | 0, r => r
  | i + 1, r => if (r + 2 ^ i) * (r + 2 ^ i) ≤ n then isqrtFrom n i (r + 2 ^ i) else isqrtFrom n i r

/-- Integer square root. -/
def isqrt (n : Nat) : Nat := isqrtFrom n (Nat.log2 n / 2 + 1) 0

/-- f32 patterns in the order of their values. -/
def ord32 (c : Nat) : Int := if c < 2 ^ 31 then (c : Int) else -((c - 2 ^ 31 : Nat) : Int)

/-- The f32 pattern of an ordinal. -/
def unord32 (i : Int) : Nat := if 0 ≤ i then i.toNat else 2 ^ 31 + i.natAbs

/-- The ordinal of the f32 value next below (up = false) or above a finite value, itself where it is one. -/
def edge32 (up s : Bool) (n d : Nat) (e : Int) : Int :=
  let r := toFloat { rnd := 1, ovsat := true, flush := false } 0 .f32 s n d e
  let o := ord32 r.1
  if r.2 &&& flNX = 0 then o
  else if up then (if s then o else o + 1) else (if s then o - 1 else o)

/-- The part's pick among the f32 values within a bound of a positive or negative exact value (log 8). -/
def pickNear (fn a : Nat) (flush s : Bool) (n d : Nat) (e : Int) (bn : Nat) (be : Int) : Nat :=
  match (xAdd (.fin s n d e) (.fin true bn 1 be)).1, (xAdd (.fin s n d e) (.fin false bn 1 be)).1 with
  | .fin s1 n1 d1 e1, .fin s2 n2 d2 e2 =>
    let lo := edge32 true s1 n1 d1 e1
    let hi := edge32 false s2 n2 d2 e2
    if hi < lo then (toF32 false (.fin s n d e)).1
    else unord32 (lo + ((Config.transPick fn (BitVec.ofNat 32 a) flush % (hi - lo + 1).toNat : Nat) : Int))
  | _, _ => 0

/-- An inexact f32 result with its flags: a subnormal one is flushed under FLUSH and sets UF in any case (02 R53, R54). -/
def subnOut (flush : Bool) (c : Nat) : Nat × Fl :=
  if isSubn .f32 c then (if flush then (c / 2 ^ 31 * 2 ^ 31, flFZ ||| flUF ||| flNX) else (c, flUF ||| flNX)) else (c, flNX)

/-- A pick within k ulp of the correctly rounded result; an overflow is an infinity; a subnormal result, which the table
does not bound, is some subnormal from `lo` to `hi`, flushed under FLUSH. -/
def pickUlp (fn a : Nat) (flush s : Bool) (n d : Nat) (e : Int) (k : Nat) (lo : Nat := 1) (hi : Nat := 2 ^ 23 - 1) : Nat × Fl :=
  let r := toF32 false (.fin s n d e)
  if r.2 &&& flOF ≠ 0 then r
  else if (r.1 / 2 ^ 23) % 256 = 0 then
    subnOut flush (b2n s * 2 ^ 31 + lo + Config.transPick fn (BitVec.ofNat 32 a) flush % (hi + 1 - lo))
  else
    let ex : Int := ((r.1 / 2 ^ 23) % 256 : Nat) - 150
    let c := pickNear fn a flush s n d e k ex
    (if (c / 2 ^ 23) % 256 = 255 then fmMaxCode .f32 s else c, flNX)

/-- 2^x (07 Table 7-1). A subnormal result lies above 2^-134 exactly where x does above -134 (11 R299). -/
def tExp2 (a : Nat) (flush : Bool) (x : XV) : Nat × Fl :=
  match x with
  | .nan => (fmNan .f32, 0)
  | .inf s => (if s then 0 else 0x7F800000, 0)
  | .fin s n d e =>
    let v := fixOf s n e
    let one : Int := ((2 ^ fixP : Nat) : Int)
    if n = 0 then (0x3F800000, 0)
    else if d = 1 ∧ 128 * one ≤ v then (0x7F800000, flOF ||| flNX)
    else if v < -149 * one then (0, flUF ||| flNX)
    else if v % one = 0 then toF32 flush (.fin false 1 1 (v / one))
    else
      let r := exp2Of v
      if -134 * one < v then pickUlp 0 a flush false r.1 1 r.2 1 (2 ^ 15 + 1) else pickUlp 0 a flush false r.1 1 r.2 1 1 (2 ^ 15)

/-- log2 x (07 Table 7-1): 1 ulp outside [0.5, 2], absolute 2^-23 inside. -/
def tLog2 (a : Nat) (flush : Bool) (x : XV) : Nat × Fl :=
  match x with
  | .nan => (fmNan .f32, 0)
  | .inf s => if s then (fmNan .f32, flINV) else (0x7F800000, 0)
  | .fin s n _ e =>
    if n = 0 then (0xFF800000, flDZ)
    else if s then (fmNan .f32, flINV)
    else
      let k := Nat.log2 n
      let ex : Int := e + k
      if n = 2 ^ k then toF32 false (.fin (decide (ex < 0)) ex.natAbs 1 0)
      else
        let fb := log2Bits 100 (n * 2 ^ (fixP - k)) 0
        let l : Int := ex * ((2 ^ 100 : Nat) : Int) + fb
        let neg := decide (l < 0)
        if ex = -1 ∨ ex = 0 then subnOut flush (pickNear 1 a flush neg l.natAbs 1 (-100) 1 (-23))
        else pickUlp 1 a flush neg l.natAbs 1 (-100) 1

/-- 1/x (07 Table 7-1). -/
def tRcp (a : Nat) (flush : Bool) (x : XV) : Nat × Fl :=
  match x with
  | .nan => (fmNan .f32, 0)
  | .inf s => (b2n s * 2 ^ 31, 0)
  | .fin s n _ e =>
    if n = 0 then (b2n s * 2 ^ 31 + 0x7F800000, flDZ)
    else if n = 2 ^ Nat.log2 n then toF32 flush (.fin s 1 n (-e))
    else pickUlp 2 a flush s 1 n (-e) 1

/-- 1/√x (07 Table 7-1). -/
def tRsqrt (a : Nat) (flush : Bool) (x : XV) : Nat × Fl :=
  match x with
  | .nan => (fmNan .f32, 0)
  | .inf s => if s then (fmNan .f32, flINV) else (0, 0)
  | .fin s n _ e =>
    if n = 0 then (b2n s * 2 ^ 31 + 0x7F800000, flDZ)
    else if s then (fmNan .f32, flINV)
    else
      let k := Nat.log2 n
      let ex : Int := e + k
      if n = 2 ^ k ∧ ex % 2 = 0 then toF32 false (.fin false 1 1 (-(ex / 2)))
      else
        let t : Int := -e
        let odd := (t % 2).toNat
        let r := isqrt (2 ^ odd * 2 ^ (2 * fixP) / n)
        pickUlp 3 a flush false r 1 ((t - odd) / 2 - fixP) 2

/-- tanh x (07 Table 7-1): x itself below 2^-12. -/
def tTanh (a : Nat) (flush : Bool) (x : XV) : Nat × Fl :=
  match x with
  | .nan => (fmNan .f32, 0)
  | .inf s => (b2n s * 2 ^ 31 + 0x3F800000, 0)
  | .fin s n d e =>
    if n = 0 then (b2n s * 2 ^ 31, 0)
    else if magCmp n d e 1 1 (-12) = .lt then
      let r := toF32 false (.fin s n d e)
      (r.1, flNX ||| flIf (isSubn .f32 r.1) flUF)
    else if magCmp n d e 64 1 0 ≠ .lt then pickUlp 4 a flush s (2 ^ 180 - 1) 1 (-180) 2
    else
      let m : Int := ((2 ^ fixP : Nat) : Int)
      let v := fixOf false n e * 2 * m / (fixLn2 : Int)
      let r := exp2Of v
      let one := scale2 1 1 (-r.2)
      pickUlp 4 a flush s (r.1 * one.2 - one.1) (r.1 * one.2 + one.1) 0 2

/-- Function fn of 04 Table 4-9 group 0x1A on a lane (07 R188). -/
def transc (fn : Nat) (flush : Bool) (a : Nat) : Nat × Fl :=
  let x := xvIn flush .f32 a
  let r := match fn with
    | 0 => tExp2 a flush x.1
    | 1 => tLog2 a flush x.1
    | 2 => tRcp a flush x.1
    | 3 => tRsqrt a flush x.1
    | _ => tTanh a flush x.1
  (r.1, x.2 ||| r.2)

end Sys2Proof.Machine
end

