-- ==== Sys2Proof/Machine/Operands.lean ====
section
/-! DEFINITION. Registers and operands of a core: s0 and p0 as constants, tile rows, operands in the scratchpad and
the ranges that each instruction registers (03 R69, 04 R135, R136, 08 R223, R224). -/

namespace Sys2Proof.Machine

open Sys2Proof

/-- s-register r; s0 reads 0 (03 R69). -/
def sRead (c : Core) (r : Nat) : W64 := if r = 0 then 0 else smapGet 0 c.sreg r
/-- Write s-register r; a write to s0 is discarded. -/
def sWrite (r : Nat) (v : W64) (c : Core) : Core := if r = 0 then c else { c with sreg := smapSet 0 c.sreg r v }
/-- p-register r; p0 reads 1. -/
def pRead (c : Core) (r : Nat) : Bool := r = 0 || c.preg.getLsbD r
/-- Write p-register r; a write to p0 is discarded. -/
def pWrite (r : Nat) (v : Bool) (c : Core) : Core :=
  if r = 0 then c
  else { c with preg := if v then c.preg ||| BitVec.ofNat 8 (2 ^ r) else c.preg &&& ~~~ BitVec.ofNat 8 (2 ^ r) }
/-- m-register r. -/
def mRead (c : Core) (r : Nat) : W64 := smapGet 0 c.mreg r
/-- Write m-register r. -/
def mWrite (r : Nat) (v : W64) (c : Core) : Core := { c with mreg := smapSet 0 c.mreg r v }

/-- Row r of tile t: 128 lanes (07 R181). -/
def rowRead (c : Core) (t r : Nat) : List Nat := (smapRun 0 c.tile (t * 4096 + r * 128) 128).map BitVec.toNat
/-- Write row r of tile t. -/
def rowWrite (t r : Nat) (vs : List Nat) (c : Core) : Core :=
  { c with tile := smapPut 0 c.tile (t * 4096 + r * 128) (vs.map (BitVec.ofNat 32)) }
/-- Lane j of row r of tile t. -/
def laneRead (c : Core) (t r j : Nat) : Nat := (smapGet 0 c.tile (t * 4096 + r * 128 + j)).toNat
/-- Write one lane. -/
def laneWrite (t r j v : Nat) (c : Core) : Core :=
  { c with tile := smapSet 0 c.tile (t * 4096 + r * 128 + j) (BitVec.ofNat 32 v) }

/-- Row i of an accumulator. -/
def accRow (c : Core) (a i : Nat) : List Nat := (smapRun 0 c.acc (a * 16384 + i * 128) 128).map BitVec.toNat
/-- Write row i of an accumulator. -/
def accWrite (a i : Nat) (vs : List Nat) (c : Core) : Core :=
  { c with acc := smapPut 0 c.acc (a * 16384 + i * 128) (vs.map (BitVec.ofNat 32)) }

/-- The kind of an accumulator is i32 (05 R154). -/
def accInt (c : Core) (a : Nat) : Bool := c.kind.getLsbD a
/-- Set the kind of an accumulator. -/
def setKind (a : Nat) (i : Bool) (c : Core) : Core :=
  { c with kind := if i then c.kind ||| BitVec.ofNat 2 (2 ^ a) else c.kind &&& ~~~ BitVec.ofNat 2 (2 ^ a) }

/-- An operand in S-space: its bytes, none on a parity error (04 R135). -/
def opnd (c : Core) (a n : Nat) : Option (List Byte) := if spadParity c a n then none else some (spadBytes c a n)

/-! ### Ranges (04 Table 4-13) -/

/-- A range of n bytes at a, widened to granules (08 R224); none where misaligned or past S-space (04 R135). -/
def sRange (wr : Bool) (a n align : Nat) : Option Range :=
  if a % align = 0 ∧ a + n ≤ spadSize then
    some { wr := wr, sp := 0, first := a / 32 * 32, last := (a + n - 1) / 32 * 32 + 31 } else none

/-- Two ranges conflict (08 R225). -/
def rangeHit (a b : Range) : Bool :=
  decide (a.sp = b.sp) && (a.wr || b.wr) && decide (a.first ≤ b.last) && decide (b.first ≤ a.last)

/-- An optional range conflicts with an entry. -/
def entHit (r : Option Range) (e : TrkEntry) : Bool :=
  match r with
  | none => false
  | some r =>
    (match e.r1 with | some x => rangeHit r x | none => false) || (match e.r2 with | some x => rangeHit r x | none => false)

/-- A range conflicts with some entry in flight. -/
def trkHit (c : Core) (r : Option Range) : Bool := c.trk.any (entHit r)

/-- The address in a register of the core. -/
def sAddr (c : Core) (r : Nat) : Nat := (sRead c r).toNat

/-- Bytes of n packed elements of an operand. -/
def opLen (f : Fm) (n : Nat) : Nat := packedLen f n

/-- vqapp: head dimension, row bytes hb, rows per token, tokens (04 R128, 11 R281). -/
def qappGeom (w : W64) : Nat × Nat × Nat × Nat :=
  let h := vIMM w
  let hb := if vFMT w = 9 then h / 2 else h
  let rpt := if h ≤ 128 then 1 else 2
  (h, hb, rpt, vN w / rpt)

/-- Row stride of vld and vst (04 R125). -/
def vStride (w : W64) : Nat := if vIMM w % 1024 = 0 then rowLen (fmAt (vFMT w)) else vIMM w % 1024 * 32

/-- The ranges of a queued matrix or vector instruction, entry by entry; none where an operand raises SADDR. -/
def opRanges (o : Op) (w : W64) (c : Core) : Option (List (Option Range × Option Range)) :=
  let one (a : Option Range) : Option (List (Option Range × Option Range)) := a.map (fun r => [(some r, none)])
  let two (a b : Option Range) : Option (Option Range × Option Range) :=
    match a, b with
    | some x, some y => some (some x, some y)
    | _, _ => none
  let operand (f : Fm) (m : Sm) (r : Nat) : Option (Option Range × Option Range) :=
    let n := 128 * mK w
    let d := sRange false (sAddr c r) (opLen f n) 32
    if smIsBlock m then two d (sRange false (sAddr c (r + 1)) (n / smBlock m) 32) else d.map (fun x => (some x, none))
  match o with
  | .mmac =>
    let a := operand (fmAt (mFA w)) (mSMA w) (mSA w)
    let b := if mPR w then two (sRange false (sAddr c (mSB w)) (256 * mK w) 32) (sRange false (sAddr c (mSB w + 1)) 64 32)
             else operand (fmAt (mFB w)) (mSMB w) (mSB w)
    match a, b with
    | some x, some y => some [x, y]
    | _, _ => none
  | .mdrain =>
    let d := sRange true (sAddr c (mSA w)) (opLen (fmAt (mFA w)) 16384) 32
    if mSMA w = .ch then
      match d, two (sRange false (sAddr c (mSB w)) 512 32) (sRange false (sAddr c (mSB w + 1)) 512 32) with
      | some x, some y => some [(some x, none), y]
      | _, _ => none
    else if smIsBlock (mSMA w) then
      (two d (sRange true (sAddr c (mSA w + 1)) (16384 / smBlock (mSMA w)) 32)).map (fun x => [x])
    else one d
  | .mload => one (sRange false (sAddr c (mSA w)) 65536 32)
  | .vld | .vst =>
    let wr := decide (o = .vst)
    let d := sRange wr (sAddr c (vSR w)) ((vN w - 1) * vStride w + rowLen (fmAt (vFMT w))) 32
    if smIsBlock (vSM w) then
      (two d (sRange (wr && bit (vIMM w) 10) (sAddr c (vSR w + 1)) (vN w * 128 / smBlock (vSM w)) 32)).map (fun x => [x])
    else one d
  | .vqapp =>
    let (h, hb, _, nt) := qappGeom w
    (two (sRange true (sAddr c (vSR w)) (32 * hb + nt * hb) hb)
      (sRange true (sAddr c (vSR w + 1)) (2 * h + nt * (h / 16)) (h / 16))).map (fun x => [x])
  | .vtopk => one (sRange false (sAddr c (vSR w)) (vN w * (vIMM w / 16) * 32) 32)
  | .rgsum => one (sRange true (sAddr c (vSR w)) (64 * vN w) 64)
  | _ => some []

/-- The s-registers that a queued instruction reads, with their values (07 R185). -/
def captureS (o : Op) (w : W64) (c : Core) : List W64 :=
  match opFmt o with
  | .M => [sRead c (mSA w), sRead c (mSA w + 1), sRead c (mSB w), sRead c (mSB w + 1), sRead c (mSC w)]
  | .V => [sRead c (vSR w), sRead c (vSR w + 1), sRead c (vSR w + 2)]
  | _ => []

end Sys2Proof.Machine
end

