-- ==== Sys2Proof/Machine/Desc.lean ====
section
/-! DEFINITION. DMA descriptors: fields, the checks of a `dma` at decode and issue, and the ranges they register
(08 R216 to R227, 10 R257, 17 R471). -/

namespace Sys2Proof.Machine

open Sys2Proof

/-! ### Fields (08 Table 8-7) -/

/-- Word k of a descriptor. -/
def dW (d : List W64) (k : Nat) : Nat := nthW d k
/-- QP. -/
def dQP (d : List W64) : Nat := bits (dW d 0) 47 36
/-- SCORE. -/
def dSCORE (d : List W64) : Nat := bits (dW d 0) 33 27
/-- SEM. -/
def dSEM (d : List W64) : Nat := bits (dW d 0) 26 21
/-- SEMEN. -/
def dSEMEN (d : List W64) : Bool := bit (dW d 0) 20
/-- OP. -/
def dOP (d : List W64) : Nat := bits (dW d 0) 11 8
/-- Destination space. -/
def dDSP (d : List W64) : Nat := bits (dW d 0) 7 4
/-- Source space. -/
def dSSP (d : List W64) : Nat := bits (dW d 0) 3 0
/-- SRC. -/
def dSRC (d : List W64) : Nat := dW d 1
/-- DST. -/
def dDST (d : List W64) : Nat := dW d 2
/-- CNT2M + 1. -/
def dN2 (d : List W64) : Nat := bits (dW d 3) 63 48 + 1
/-- CNT1M + 1. -/
def dN1 (d : List W64) : Nat := bits (dW d 3) 47 32 + 1
/-- LEN0. -/
def dLEN (d : List W64) : Nat := bits (dW d 3) 31 0
/-- SSTR1. -/
def dS1 (d : List W64) : Int := sgn 64 (dW d 4)
/-- DSTR1. -/
def dD1 (d : List W64) : Int := sgn 64 (dW d 5)
/-- SSTR2. -/
def dS2 (d : List W64) : Int := sgn 64 (dW d 6)
/-- DSTR2. -/
def dD2 (d : List W64) : Int := sgn 64 (dW d 7)
/-- Bytes moved. -/
def dTotal (d : List W64) : Nat := dN2 d * dN1 d * dLEN d
/-- Source address of the run (i2, i1), modulo 2^64. -/
def dSrcRun (d : List W64) (i2 i1 : Nat) : Nat := unsgn 64 ((dSRC d : Int) + i2 * dS2 d + i1 * dS1 d)
/-- Destination address of the run (i2, i1). -/
def dDstRun (d : List W64) (i2 i1 : Nat) : Nat := unsgn 64 ((dDST d : Int) + i2 * dD2 d + i1 * dD1 d)
/-- A float add (10 R278). -/
def dFloatAdd (d : List W64) : Bool := opFloat (dOP d)
/-- A pairing that crosses the peer or host edge (08 Table 8-8). -/
def dEdge (d : List W64) : Bool := decide (3 ≤ dDSP d) || decide (3 ≤ dSSP d)
/-- A write to a remote window or host memory, which `lfence` awaits (10 Table 10-3). -/
def dEdgeWrite (d : List W64) : Bool := decide (3 ≤ dDSP d)

/-! ### Checks (08 R216 to R220, 04 R133) -/

/-- The pairings of 08 Table 8-8. -/
def dPairs : List (Nat × Nat) := [(0, 2), (2, 0), (0, 1), (1, 0), (2, 3), (3, 2), (2, 4), (4, 2)]

/-- An aperture address names another core's scratchpad (10 R257). -/
def apertureOk (n a : Nat) : Bool :=
  decide (a / 2 ^ 27 = 0) && !bit a 19 && decide (bits a 26 20 < 100) && decide (bits a 26 20 ≠ n)

/-- LEN0, strides and addresses are multiples of the element size (08 R219). -/
def dAligned (d : List W64) : Bool :=
  let k := opSize (dOP d)
  ([dLEN d, dSRC d, dDST d, dW d 4, dW d 5, dW d 6, dW d 7]).all (fun x => decide (x % k = 0))

/-- The host form checks of a QP of P1 to P15 (17 R471). -/
def hostFormOk (s : State) (d : List W64) : Bool :=
  let q := getQp s (dQP d)
  if q.st = .free || q.owner || q.part = 0 then true
  else
    let host := if dDSP d = 4 then dDST d else dSRC d
    let b := if dDSP d = 4 then dSRC d else dDST d
    decide (dN2 d = 1) && decide (dN1 d = 1) && decide (dLEN d % 4096 = 0) && decide (b % 4096 = 0) && decide (host % 8 = 0)

/-- A descriptor raises no ILLEGAL (04 R133, 08 R220). A reserved field that is set raises it, as R133 has it, although 00 R14 says that
its value is ignored (DESIGN CHOICE, log 110). -/
def dLegal (s : State) (n : Nat) (d : List W64) : Bool :=
  let w := dW d 0
  decide (bits w 63 48 = 0) && decide (bits w 35 34 = 0) && decide (bits w 19 12 = 0) && decide (dOP d ≤ 6)
    && decide ((dSSP d, dDSP d) ∈ dPairs) && decide (dLEN d ≠ 0)
    && (decide (dOP d = 0) || ((decide ((dSSP d, dDSP d) = (0, 2)) || decide ((dSSP d, dDSP d) = (2, 3))) && dAligned d))
    && (decide (dQP d = 0) || decide (dSSP d = 4) || decide (dDSP d = 4))
    && (decide (dSCORE d < 100) || decide (dSCORE d = 127))
    && (decide (dN1 d ≠ 1) || (decide (dS1 d = 0) && decide (dD1 d = 0)))
    && (decide (dN2 d ≠ 1) || (decide (dS2 d = 0) && decide (dD2 d = 0)))
    && (decide (dSSP d ≠ 1) || apertureOk n (dSRC d)) && (decide (dDSP d ≠ 1) || apertureOk n (dDST d))
    && ((decide (dSSP d ≠ 4) && decide (dDSP d ≠ 4)) || hostFormOk s d)

/-- Lowest and highest byte of one side (08 R224). -/
def dSpan (base : Nat) (n1 n2 len : Nat) (s1 s2 : Int) : Int × Int :=
  let e1 := ((n1 - 1 : Nat) : Int) * s1
  let e2 := ((n2 - 1 : Nat) : Int) * s2
  ((base : Int) + min 0 e1 + min 0 e2, (base : Int) + max 0 e1 + max 0 e2 + len - 1)

/-- The source side. -/
def dSrcSpan (d : List W64) : Int × Int := dSpan (dSRC d) (dN1 d) (dN2 d) (dLEN d) (dS1 d) (dS2 d)
/-- The destination side. -/
def dDstSpan (d : List W64) : Int × Int := dSpan (dDST d) (dN1 d) (dN2 d) (dLEN d) (dD1 d) (dD2 d)

/-- One side's S-space or aperture bytes lie in a scratchpad (10 R257, 04 R135). -/
def sideOk (sp base : Nat) (x : Int × Int) : Bool :=
  let o : Int := if sp = 1 then ((base / 2 ^ 20 * 2 ^ 20 : Nat) : Int) else 0
  decide (2 ≤ sp) || (decide (o ≤ x.1) && decide (x.2 < o + spadSize))

/-- A descriptor raises no SADDR at issue. -/
def dInSpace (d : List W64) : Bool := sideOk (dSSP d) (dSRC d) (dSrcSpan d) && sideOk (dDSP d) (dDST d) (dDstSpan d)

/-- The range of one side, where its space registers one (08 Table 8-8). -/
def sideRange (wr : Bool) (sp : Nat) (x : Int × Int) : Option Range :=
  if sp = 0 ∨ sp = 2 then
    some { wr := wr, sp := sp, first := x.1.toNat / 32 * 32, last := x.2.toNat / 32 * 32 + 31 }
  else none

/-- The ranges of a descriptor. -/
def dRanges (d : List W64) : Option Range × Option Range :=
  (sideRange false (dSSP d) (dSrcSpan d), sideRange true (dDSP d) (dDstSpan d))

/-- The descriptor list of a `dma` in S-space: n descriptors of eight words. -/
def descList (bs : List Byte) : List (List W64) := (chunksOf 64 bs.length bs).map leWords

end Sys2Proof.Machine
end

