-- ==== Sys2Proof/Machine/Links.lean ====
section
/-! DEFINITION. The peer edge: flits, routing, virtual channels, credits, replay and the sending of transactions
(16 R425 to R441). -/

namespace Sys2Proof.Machine

open Sys2Proof

/-! ### CRC-64 (16 R425; log 14) -/

/-- One bit of the reflected CRC. -/
def crcBit (c : Nat) : Nat := if c % 2 = 1 then c / 2 ^^^ 0xC96C5795D7870F42 else c / 2

/-- Eight bits. -/
def crcByte (c : Nat) (b : Byte) : Nat :=
  crcBit (crcBit (crcBit (crcBit (crcBit (crcBit (crcBit (crcBit (c ^^^ b.toNat))))))))

/-- The CRC of bytes: initial value and final XOR all ones. -/
def crc64 (bs : List Byte) : Nat := (bs.foldl crcByte (2 ^ 64 - 1)) ^^^ (2 ^ 64 - 1)

/-! ### Transactions and flits (16 Tables 16-2, 16-4) -/

/-- Bytes that a transaction with granules carries from its first enabled byte. -/
def txnLen (t : Txn) : Nat := (t.ng.toNat - 1) * 32 + t.lend.toNat + 1 - t.foff.toNat
/-- The destination chip. -/
def txnChip (t : Txn) : Nat := t.dest.toNat / 2 ^ 54
/-- The window named by DEST. -/
def txnWin (t : Txn) : Nat := bits t.dest.toNat 53 48
/-- The byte address in DEST of the first enabled byte. -/
def txnOff (t : Txn) : Nat := bits t.dest.toNat 47 0 / 32 * 32 + t.foff.toNat
/-- The enabled bytes. -/
def txnBytes (t : Txn) : List Byte := (t.data.drop t.foff.toNat).take (txnLen t)

/-- The header's second word. -/
def txnWord (t : Txn) : Nat :=
  t.opc.toNat * 2 ^ 60 + t.aop.toNat * 2 ^ 56 + t.spart.toNat * 2 ^ 52 + t.src.toNat * 2 ^ 42
    + (if t.opc = 2 then t.rlen.toNat * 2 ^ 29 else t.ng.toNat * 2 ^ 39 + t.foff.toNat * 2 ^ 34 + t.lend.toNat * 2 ^ 29)
    + t.tag.toNat

/-- A transaction of 240 payload bytes. -/
def txnPayload (t : Txn) : List Byte := padTo 240 ((natLe 8 t.dest.toNat ++ natLe 8 (txnWord t) ++ t.data).take 240)

/-- A transaction read from a payload. -/
def txnRead (pl : List Byte) : Txn :=
  let w := rdN pl 8 8
  let isRead := decide (bits w 63 60 = 2)
  { dest := BitVec.ofNat 64 (rdN pl 0 8), opc := BitVec.ofNat 4 (bits w 63 60), aop := BitVec.ofNat 4 (bits w 59 56),
    spart := BitVec.ofNat 4 (bits w 55 52), src := BitVec.ofNat 10 (bits w 51 42),
    ng := if isRead then 0 else BitVec.ofNat 3 (bits w 41 39), foff := if isRead then 0 else BitVec.ofNat 5 (bits w 38 34),
    lend := if isRead then 0 else BitVec.ofNat 5 (bits w 33 29), rlen := if isRead then BitVec.ofNat 13 (bits w 41 29) else 0,
    tag := BitVec.ofNat 24 (bits w 23 0), data := pl.drop 16 }

/-- A flit of a type with its ACK, SEQ, VC, credit fields and payload. -/
def flitBytes (ty ack seq vc cvc ccnt : Nat) (pl : List Byte) : List Byte :=
  let b := natLe 8 (ack * 2 ^ 52 + seq * 2 ^ 40 + cvc * 2 ^ 37 + ccnt * 2 ^ 29 + vc * 2 ^ 5 + ty) ++ padTo 240 (pl.take 240)
  b ++ natLe 8 (crc64 b)

/-! ### The torus (16 R438 to R441) -/

/-- This module's chip identifier. -/
def chipNo (s : State) : Nat := s.links.chip.toNat
/-- x of a chip (00 R7). -/
def chipX (c : Nat) : Nat := c % 32
/-- y of a chip. -/
def chipY (c : Nat) : Nat := c / 32
/-- The torus is set and holds the chip (16 R440). -/
def inTorus (s : State) (c : Nat) : Bool :=
  decide (chipX c < s.links.xdim.toNat) && decide (chipY c < s.links.ydim.toNat)
/-- The torus is set and this module lies in it. -/
def torusOk (s : State) : Bool := inTorus s (chipNo s)

/-- Direction in one dimension: none at the target, true for the positive one (16 R438). -/
def dimStep (dim src dst : Nat) : Option Bool :=
  let d := (dst + dim - src) % dim
  if d = 0 then none else some (decide (d ≤ dim - d))

/-- The port towards a chip. -/
def routePort (s : State) (c : Nat) : Option BPort :=
  if !torusOk s || !inTorus s c then none
  else match dimStep s.links.xdim.toNat (chipX (chipNo s)) (chipX c) with
    | some true => some .e
    | some false => some .w
    | none => match dimStep s.links.ydim.toNat (chipY (chipNo s)) (chipY c) with
      | some true => some .s
      | some false => some .n
      | none => none

/-- The chip beyond a port. -/
def neighbour (s : State) (p : BPort) : Nat :=
  let c := chipNo s
  let xd := s.links.xdim.toNat
  let yd := s.links.ydim.toNat
  match p with
  | .e => chipY c * 32 + (chipX c + 1) % xd
  | .w => chipY c * 32 + (chipX c + xd - 1) % xd
  | .s => (chipY c + 1) % yd * 32 + chipX c
  | .n => (chipY c + yd - 1) % yd * 32 + chipX c

/-- Does the hop out of a port cross its dimension's dateline? -/
def crosses (s : State) (p : BPort) : Bool :=
  let c := chipNo s
  match p with
  | .e => decide (chipX c + 1 = s.links.xdim.toNat)
  | .w => decide (chipX c = 0)
  | .s => decide (chipY c + 1 = s.links.ydim.toNat)
  | .n => decide (chipY c = 0)

/-- Ports of the x dimension. -/
def portIsX (p : BPort) : Bool := p = .e || p = .w

/-- The channel of the next hop: class base, arrival port and channel (16 R438). -/
def hopVc (s : State) (cls : Nat) (inp : Option (BPort × Nat)) (out : BPort) : Nat :=
  let stay := match inp with
    | some (p, vc) => portIsX p == portIsX out && decide (vc % 2 = 1)
    | none => false
  2 * cls + b2n (stay || crosses s out)

/-- Ports that carry DATA or hold it back (16 R441, R451). -/
def portLive (st : PortSt) : Bool := st = .up || st = .retrain

/-! ### Sending (16 R428 to R432) -/

/-- The rotation of channels at an egress. -/
def vcOrder : List Nat := [4, 5, 2, 3, 6, 7, 0, 1]

/-- The input of a waiting flit: the port whose buffer it occupies, or 4 for local injection. -/
def txInput (f : TxFlit) : Nat :=
  match f.inbuf with
  | some (p, _) => p
  | none => 4

/-- Of the flits of one channel, the one whose input has its turn after input `last`. -/
def turnPick (q : List TxFlit) (vc last : Nat) : Option TxFlit :=
  ((List.range 5).map (fun i => (last + 1 + i) % 5)).findSome? (fun inp =>
    q.find? (fun f => decide (f.vc = vc) && decide (txInput f = inp)))

/-- The next DATA flit of a port and its place in the rotation. -/
def pickFlit (v : BkPort) : Option (Nat × TxFlit) :=
  ((List.range 8).map (fun i => (v.rot + i) % 8)).findSome? (fun k =>
    let vc := vcOrder.getD k 0
    if smapGet 0 v.credits vc = 0 then none
    else (turnPick v.txq vc (smapGet 4 v.turn vc)).map (fun f => (k, f)))

/-- The first channel with credits to return, and how many a flit can carry. -/
def creditField (v : BkPort) : Nat × Nat :=
  match v.ret.find? (fun e => e.2 ≠ 0) with
  | some (vc, n) => (vc, min n 255)
  | none => (0, 0)

/-- Credits carried by a flit just sent. -/
def creditTaken (v : BkPort) : BkPort :=
  let f := creditField v
  { v with ret := smapSet 0 v.ret f.1 (smapGet 0 v.ret f.1 - f.2), crret := smapSet 0 v.crret f.1 (smapGet 0 v.crret f.1 + f.2) }

/-- An injection armed for a Bakener port (20 Table 20-11, DET 4 and 5). -/
def portInj (s : State) (p : BPort) (det : Nat) : Bool :=
  s.test.arm && decide (s.test.det.toNat = det) && decide (s.test.unit = unitCode 4 (portNo p))

/-- A port that is UP loses a lane to an armed injection (20 Table 20-11, DET 6): at once, or when it comes UP. -/
def laneInj (p : BPort) (s : State) : State :=
  let l := s.test.injAddr.toNat
  if portInj s p 6 && decide ((getPort s p).st = .up) then
    injDone (modPort p (fun v => { v with retrainReq := true, injLane := true
                                          badLanes := if v.badLanes.contains l then v.badLanes else v.badLanes ++ [l] }) s)
  else s

/-- The bytes that leave a port: an injection corrupts a DATA flit's CRC or makes its codeword uncorrectable (no bytes, log 17). -/
def injFlit (p : BPort) (ty : Nat) (bs : List Byte) (s : State) : List Byte × State :=
  if ty = 1 && portInj s p 4 then (bs.take 255 ++ [bs.getD 255 0 ^^^ 1], injDone s)
  else if portInj s p 5 then ([], injDone s)
  else (bs, s)

/-- Send a flit of a type that takes no credit and no number; `seq` and `vc` are those of a DATA flit. -/
def emitFlit (p : BPort) (ty seq vc : Nat) (pl : List Byte) (s : State) : State :=
  let v := getPort s p
  let f := creditField v
  let b := injFlit p ty (flitBytes ty v.rxSeq.toNat seq vc f.1 f.2 pl) s
  setPort p { creditTaken v with ackDue := false } (emit (.flit p b.1) b.2)

/-- A flit leaves the receive buffer it occupied: its port owes a credit (16 R428). -/
def freeBuf (buf : Option (Nat × Nat)) (s : State) : State :=
  match buf with
  | some (p, vc) =>
    match allPorts.find? (fun q => portNo q = p) with
    | some q => modPort q (fun v => { v with ret := smapSet 0 v.ret vc (smapGet 0 v.ret vc + 1) }) s
    | none => s
  | none => s

/-- Send waiting DATA flits while the port is UP, has room in its replay buffer and holds credits (16 R428, R431). -/
def pumpData (p : BPort) : Nat → State → State
  | 0, s => s
  | n + 1, s =>
    let v := getPort s p
    if v.st ≠ .up || decide (2048 ≤ v.replay.length) then s
    else match pickFlit v with
      | none => s
      | some (k, f) =>
        let seq := v.txSeq + 1
        let v := { v with
          txSeq := seq
          rot := (k + 1) % 8
          turn := smapSet 4 v.turn f.vc (txInput f)
          credits := smapSet 0 v.credits f.vc (smapGet 0 v.credits f.vc - 1)
          sent := smapSet 0 v.sent f.vc (smapGet 0 v.sent f.vc + 1)
          txFlits := v.txFlits + 1
          lastAck := if v.replay.isEmpty then s.clk else v.lastAck
          replay := v.replay ++ [(seq, f)]
          txq := dropFirst (fun x => decide (x = f)) v.txq }
        let s := freeBuf f.inbuf (setPort p v s)
        pumpData p n (emitFlit p 1 seq.toNat f.vc (txnPayload f.txn) s)

/-- Return credits and a due ACK by IDLE flits. -/
def pumpIdle (p : BPort) : Nat → State → State
  | 0, s => s
  | n + 1, s =>
    let v := getPort s p
    if !portLive v.st then s
    else if (creditField v).2 = 0 && !v.ackDue then s
    else pumpIdle p n (emitFlit p 0 0 0 [] s)

/-- Flits of this module join the local input in order, those of each partition while its bucket holds a flit's debit of 240 B
(16 R429, 13 R367). -/
def admitFlits (p : BPort) (s : State) : State :=
  let q := (getPort s p).regq
  if q.isEmpty then s
  else
    let r := q.foldl (fun (x : List TxFlit × State) f =>
      let part := f.txn.spart.toNat
      if x.1.any (fun g => decide (g.txn.spart = f.txn.spart)) || !canDebit x.2 part (200 + portNo p) 240 then (x.1 ++ [f], x.2)
      else (x.1, modPort p (fun v => { v with txq := v.txq ++ [f], parts := smapSet false v.parts part true }) (debit part (200 + portNo p) 240 x.2)))
      ([], s)
    modPort p (fun v => { v with regq := r.1 }) r.2

/-- Let every port send what it can. -/
def pump (s : State) : State :=
  let s := allPorts.foldl (fun s p => admitFlits p s) s
  let s := allPorts.foldl (fun s p => pumpData p ((getPort s p).txq.length) s) s
  allPorts.foldl (fun s p => pumpIdle p 64 s) s

/-- A port takes a transaction: while it drains, only what belongs to an operation in flight, a response, an acknowledgement or a
refusal (13 R378). -/
def portTakes (v : BkPort) (t : Txn) : Bool := portLive v.st && (v.drainAt.isNone || decide (3 ≤ t.opc.toNat))

/-- Queue a transaction of this module on a class (0 requests, 1 responses, 2 acknowledgements, 3 belfry requests);
false where it cannot be sent (16 R441: UNREACH). A flit with data or a request waits for its partition's regulator (R429); one that is
`free`, background work, an acknowledgement or a refusal, is charged to no partition (13 R368; log 19). -/
def queueBy (free : Bool) (cls : Nat) (t : Txn) (s : State) : Bool × State :=
  match routePort s (txnChip t) with
  | none => (false, s)
  | some p =>
    let v := getPort s p
    if !portTakes v t then (false, s)
    else
      let f : TxFlit := { vc := hopVc s cls none p, txn := t, inbuf := none }
      (true, setPort p (if free then { v with txq := v.txq ++ [f] } else { v with regq := v.regq ++ [f] }) s)

/-- Queue a transaction on behalf of its partition. -/
def queueTxn (cls : Nat) (t : Txn) (s : State) : Bool × State := queueBy (decide (4 ≤ t.opc.toNat)) cls t s

/-- Queue transactions in order; false where one could not be sent. -/
def queueTxns (cls : Nat) (ts : List Txn) (s : State) : Bool × State :=
  ts.foldl (fun x t => let r := queueTxn cls t x.2; (x.1 && r.1, r.2)) (true, s)

/-- A flit of partition `part` waits for tokens at the port towards a chip. -/
def flitsWait (s : State) (part chip : Nat) : Bool :=
  match routePort s chip with
  | some p => (getPort s p).regq.any (fun f => decide (f.txn.spart.toNat = part))
  | none => false

/-- What still waits for tokens and belongs to a transfer that has ended is withdrawn. -/
def withdraw (chip : Nat) (tag : BitVec 24) (s : State) : State :=
  match routePort s chip with
  | some p => modPort p (fun v => { v with regq := v.regq.filter (fun f => !(decide (f.txn.tag = tag) && decide (txnChip f.txn = chip)
      && decide (f.txn.opc.toNat < 3))) }) s
  | none => s

/-- The TAG of this module's WRITE and READ transactions of transfer `uid`, apart from those of adds (16 R437; log 124). -/
def uidTag (uid : Nat) : Nat := 100 * 2 ^ 17 + uid % (26 * 2 ^ 17)

/-- The TAG of an ADD (16 R437): the issuing core, or 127 for a belfry transfer, and the descriptor's position. A position beyond
131,071, which the field cannot hold, is sent under core number 126 (DESIGN CHOICE, log 124). -/
def addTag (core pos uid : Nat) : Nat := if 131072 ≤ pos then 126 * 2 ^ 17 + uid % 2 ^ 17 else core * 2 ^ 17 + pos

/-! ### Making transactions -/

/-- Runs of up to 7 granules of a byte range: address of the first byte and bytes. -/
def runs7 (a : Nat) : Nat → List Byte → List (Nat × List Byte)
  | 0, _ => []
  | f + 1, bs =>
    if bs.isEmpty then []
    else
      let k := 224 - a % 32
      (a, bs.take k) :: runs7 (a + k) f (bs.drop k)

/-- A WRITE, ADD or READRSP of one run; `hi` is DEST bits 63:48. -/
def runTxn (opc aop part src tag hi : Nat) (r : Nat × List Byte) : Txn :=
  let last := r.1 + r.2.length - 1
  { dest := BitVec.ofNat 64 (hi * 2 ^ 48 + r.1 / 32 * 32), opc := BitVec.ofNat 4 opc, aop := BitVec.ofNat 4 aop,
    spart := BitVec.ofNat 4 part, src := BitVec.ofNat 10 src, ng := BitVec.ofNat 3 (last / 32 - r.1 / 32 + 1),
    foff := BitVec.ofNat 5 (r.1 % 32), lend := BitVec.ofNat 5 (last % 32), rlen := 0, tag := BitVec.ofNat 24 tag,
    data := padTo 224 (zeros (r.1 % 32) ++ r.2) }

/-- WRITE or ADD transactions of bytes to a global address. -/
def writeTxns (opc aop part src tag gaddr : Nat) (bs : List Byte) : List Txn :=
  (runs7 (gaddr % 2 ^ 48) bs.length bs).map (runTxn opc aop part src tag (gaddr / 2 ^ 48))

/-- Pieces of a read of at most 4,096 B within 4 KiB of the target offset: source, destination, length. -/
def readPieces : Nat → Nat → Nat → Nat → List (Nat × Nat × Nat)
  | 0, _, _, _ => []
  | f + 1, src, dst, n =>
    if n = 0 then []
    else
      let k := min n (4096 - src % 4096)
      (src, dst, k) :: readPieces f (src + k) (dst + k) (n - k)

/-- A READ; its data carries the requester's B-space address, which the READRSP returns in DEST (log 32). -/
def readTxn (part src tag : Nat) (x : Nat × Nat × Nat) : Txn :=
  { dest := BitVec.ofNat 64 x.1, opc := 2, aop := 0, spart := BitVec.ofNat 4 part, src := BitVec.ofNat 10 src, ng := 0,
    foff := 0, lend := 0, rlen := BitVec.ofNat 13 x.2.2, tag := BitVec.ofNat 24 tag, data := padTo 224 (natLe 8 x.2.1) }

/-- READ transactions of n bytes. -/
def readTxns (part src tag gaddr dst n : Nat) : List Txn :=
  (readPieces (n / 4096 + 2) gaddr dst n).map (readTxn part src tag)

/-- An ACKS or REFUSE flit of records (TAG word, count). -/
def recsTxn (opc src chip : Nat) (recs : List (Nat × Nat)) : Txn :=
  { dest := BitVec.ofNat 64 (chip * 2 ^ 54), opc := BitVec.ofNat 4 opc, aop := 0, spart := 0, src := BitVec.ofNat 10 src,
    ng := BitVec.ofNat 3 recs.length, foff := 0, lend := 31, rlen := 0, tag := 0,
    data := padTo 224 ((recs.map (fun r => natLe 8 r.1 ++ natLe 8 r.2 ++ zeros 16)).flatten) }

/-- The records of an ACKS or REFUSE. -/
def txnRecs (t : Txn) : List (Nat × Nat) :=
  (List.range t.ng.toNat).map (fun i => (rdN t.data (32 * i) 8, rdN t.data (32 * i + 8) 2))

/-- Refuse one flit of a transaction to its source (16 R444). -/
def sendRefuse (t : Txn) (reason : Nat) (s : State) : State :=
  (queueTxn 2 (recsTxn 5 (chipNo s) t.src.toNat [(t.tag.toNat + reason * 2 ^ 24, 1)]) s).2

/-- Send the acknowledgement records held for a chip (16 R436). -/
def sendAcks (chip : Nat) (s : State) : State :=
  match s.links.acks.find? (fun g => decide (g.chip = chip)) with
  | none => s
  | some g =>
    let s := { s with links := { s.links with acks := dropFirst (fun g => decide (g.chip = chip)) s.links.acks } }
    (queueTxn 2 (recsTxn 4 (chipNo s) chip (g.recs.map (fun r => (r.1.toNat, r.2)))) s).2

/-- One more flit of a TAG acknowledged, records of one TAG gathered together. -/
def addAck (tag : BitVec 24) : List (BitVec 24 × Nat) → List (BitVec 24 × Nat)
  | [] => [(tag, 1)]
  | r :: t => if r.1 = tag then (tag, r.2 + 1) :: t else r :: addAck tag t

/-- Acknowledge one flit (16 R436): an ACKS flit goes at 7 records, or by ACKS_FLUSH. -/
def ackFlit (t : Txn) (s : State) : State :=
  let chip := t.src.toNat
  let old : AckGather := (s.links.acks.find? (fun g => decide (g.chip = chip))).getD { chip := chip, recs := [], since := s.clk }
  let g : AckGather := { old with recs := addAck t.tag old.recs }
  let s := { s with links := { s.links with acks := dropFirst (fun g => decide (g.chip = chip)) s.links.acks ++ [g] } }
  if g.recs.length = 7 then sendAcks chip s else s

/-! ### Receiving (16 R426, R431, R432, R439) -/

/-- Fields of a flit's first word. -/
def flitType (bs : List Byte) : Nat := bits (rdN bs 0 8) 3 0
/-- ACK. -/
def flitAck (bs : List Byte) : Nat := bits (rdN bs 0 8) 63 52
/-- SEQ. -/
def flitSeq (bs : List Byte) : Nat := bits (rdN bs 0 8) 51 40
/-- VC. -/
def flitVc (bs : List Byte) : Nat := bits (rdN bs 0 8) 7 5
/-- A flit passes its CRC and is of a known type. -/
def flitGood (bs : List Byte) : Bool :=
  decide (bs.length = 256) && decide (crc64 (bs.take 248) = rdN bs 248 8) && decide (flitType bs ≤ 4)

/-- C-space address of a port's register. -/
def bklAddr (p : BPort) (off : Nat) : Nat := 0x00030100 + 0x100 * portNo p + off

/-- A flit is discarded (16 R426). An empty byte list stands for a flit of an uncorrectable codeword (log 17). -/
def discardFlit (p : BPort) (bs : List Byte) (s : State) : State :=
  let v := getPort s p
  let r := ctrInc v.crcerr
  let s := ovfEvent r.2 (bklAddr p 0x18) (setPort p { v with crcerr := r.1 } s)
  if bs.isEmpty then
    let v := getPort s p
    let q := ctrInc v.fecunc
    ovfEvent q.2 (bklAddr p 0x28) (setPort p { v with fecunc := q.1 } s)
  else s

/-- What every flit delivers: ACK, CVC and CCNT (16 R426, R431). -/
def flitTake (p : BPort) (bs : List Byte) (s : State) : State :=
  let v := getPort s p
  let w := rdN bs 0 8
  let cvc := bits w 39 37
  let n := bits w 36 29
  let v := { v with credits := smapSet 0 v.credits cvc (smapGet 0 v.credits cvc + n)
                    crrec := smapSet 0 v.crrec cvc (smapGet 0 v.crrec cvc + n) }
  let ack := flitAck bs
  let v := if v.replay.any (fun e => decide (e.1.toNat = ack)) then
      { v with replay := (v.replay.dropWhile (fun e => decide (e.1.toNat ≠ ack))).drop 1, replays := 0, lastAck := s.clk }
    else v
  setPort p v s

/-- A NAK whose ACK holds the last SEQ accepted, once until the expected flit arrives (16 R432). -/
def sendNak (p : BPort) (s : State) : State :=
  let v := getPort s p
  if v.nakSent then s else modPort p (fun v => { v with nakSent := true }) (emitFlit p 3 0 0 [] s)

/-- Resend the replay buffer (16 R432). -/
def replayAll (p : BPort) (s : State) : State :=
  let v := getPort s p
  let r := ctrInc v.retry
  let s := ovfEvent r.2 (bklAddr p 0x20) (setPort p { v with retry := r.1, replays := v.replays + 1, lastAck := s.clk } s)
  v.replay.foldl (fun s e => emitFlit p 1 e.1.toNat e.2.vc (txnPayload e.2.txn) s) s

/-- An accepted flit waits here in its receive buffer, is forwarded, or is refused as UNREACH (16 R428, R439, R441). -/
def routeFlit (p : BPort) (vc : Nat) (t : Txn) (s : State) : State :=
  let free (s : State) : State := modPort p (fun v => { v with ret := smapSet 0 v.ret vc (smapGet 0 v.ret vc + 1) }) s
  if txnChip t = chipNo s then
    -- an OPC that names no transaction has no meaning here: the flit is dropped (log 125)
    if 6 ≤ t.opc.toNat then free s else { s with links := { s.links with rx := s.links.rx ++ [{ txn := t, inbuf := some (portNo p, vc) }] } }
  else
    let refuse (s : State) : State := sendRefuse t 8 s
    match routePort s (txnChip t) with
    | none => refuse (free s)
    | some out =>
      let v := getPort s out
      if !portTakes v t then refuse (free s)
      else setPort out { v with txq := v.txq ++ [{ vc := hopVc s (vc / 2) (some (p, vc)) out, txn := t, inbuf := some (portNo p, vc) }] } s

/-- A DATA flit: accepted only in SEQ order (16 R432). -/
def dataFlit (p : BPort) (bs : List Byte) (s : State) : State :=
  let v := getPort s p
  if BitVec.ofNat 12 (flitSeq bs) = v.rxSeq + 1 then
    let vc := flitVc bs
    let s := setPort p { v with rxSeq := v.rxSeq + 1, nakSent := false, rxFlits := v.rxFlits + 1, ackDue := true,
                                rcvd := smapSet 0 v.rcvd vc (smapGet 0 v.rcvd vc + 1) } s
    routeFlit p vc (txnRead ((bs.drop 8).take 240)) s
  else sendNak p s

/-- The CTRL AUDIT content (16 R430; layout log 33): a word 1, then for each channel SENT and CRREC in 32 bits. -/
def auditPayload (v : BkPort) : List Byte :=
  natLe 8 1 ++ ((List.range 8).map (fun vc => natLe 4 (smapGet 0 v.sent vc) ++ natLe 4 (smapGet 0 v.crrec vc))).flatten

end Sys2Proof.Machine
end

