-- ==== Sys2Proof/Machine/Regulate.lean ====
section
/-! DEFINITION. The bandwidth regulators (13 R367, R368): shares, refills and debits. -/

namespace Sys2Proof.Machine

open Sys2Proof

/-- The share of a partition in a unit. -/
def shareOf (v : Shares) (unit : Nat) : Nat :=
  if unit < 100 then v.bm else if unit < 200 then v.noc
  else match unit with
    | 200 => v.pn
    | 201 => v.pe
    | 202 => v.ps
    | 203 => v.pw
    | _ => v.host

/-- C in bytes per µs (13 Table 13-12). -/
def unitCap (unit : Nat) : Nat :=
  if unit < 100 then 163840 else if unit < 200 then 153600 else if unit < 204 then 750000 else 200000

/-- Tokens received each µs: r × C × 1 µs. -/
def refillOf (v : Shares) (unit : Nat) : Int := ((shareOf v unit * unitCap unit : Nat) : Int)

/-- The units. -/
def allUnits : List Nat := List.range 205

/-- One refill of every bucket of a partition, capped at four refills. -/
def refillPart (s : State) (p : Nat) : State :=
  let v := (getPart s p).shares
  allUnits.foldl (fun s u => setTokens p u (min (tokens s p u + refillOf v u) (4 * refillOf v u)) s) s

/-- New shares: a share that first takes effect fills its bucket; a changed one keeps its tokens up to the new cap. -/
def setShares (p : Nat) (v : Shares) (s : State) : State :=
  let old := (getPart s p).shares
  let s := modPart p (fun x => { x with shares := v }) s
  allUnits.foldl (fun s u =>
    if shareOf old u = 0 then setTokens p u (4 * refillOf v u) s
    else setTokens p u (min (tokens s p u) (4 * refillOf v u)) s) s

/-- Belfry work of a partition reads bonded memory: 32 B for each granule at its slice channel, and at that slice's router, which
injects it into the mesh (13 R367, R368). It does not wait (log 19). -/
def chargeRead (p a n : Nat) (s : State) : State :=
  (pageRuns a (n / pageSize + 2) n).foldl (fun s q =>
    let b := 32 * (granules q.1 q.2).length
    debit p (100 + sliceOf q.1) b (debit p (sliceOf q.1) b s)) s

/-- Belfry work of a partition writes bonded memory: 32 B for each granule at its slice channel. What the belfry and the edges inject
at their attachment routers debits no NOC bucket, of which 13 R367 does not speak (DESIGN CHOICE, log 112). -/
def chargeWrite (p a n : Nat) (s : State) : State :=
  (pageRuns a (n / pageSize + 2) n).foldl (fun s q => debit p (sliceOf q.1) (32 * (granules q.1 q.2).length) s) s

/-- A read by the belfry on behalf of a partition, charged to it. -/
def partRead (p a n : Nat) (s : State) : Bool × List Byte × State :=
  let r := belRead a n s
  (r.1, r.2.1, chargeRead p a n r.2.2)

/-- The bucket of a slice channel cannot yet take an arriving access of n bytes: it holds neither the whole debit nor all that it can hold
(13 R367; log 19). -/
def lacksTokens (s : State) (p a n : Nat) : Bool :=
  (pageRuns a (n / pageSize + 2) n).any (fun q =>
    let u := sliceOf q.1
    let need : Int := ((1024 * 32 * (granules q.1 q.2).length : Nat) : Int)
    let cap := 4 * refillOf (getPart s p).shares u
    decide (tokens s p u < if cap = 0 then need else min need cap))

/-- A write by the belfry on behalf of a partition, charged to it. -/
def partWrite (p a : Nat) (bs : List Byte) (s : State) : Bool × State :=
  let r := belWrite a bs s
  (r.1, chargeWrite p a bs.length r.2)

/-! ### Belfry transfers over the torus -/

/-- The B-space address of a global address of this module, through its window. -/
def localG (s : State) (gaddr n : Nat) : Option Nat :=
  let w := getWin s (bits gaddr 53 48)
  let o := bits gaddr 47 0
  if w.openW && w.closing.isNone && decide (o + n ≤ w.len) then some (w.base + o) else none

/-- A global address. -/
def globalAddr (chip win off : Nat) : Nat := chip * 2 ^ 54 + win * 2 ^ 48 + off

/-- A new transfer record. -/
def newXfer (uid : Nat) (owner : XOwner) (via : Via) (read : Bool) (part total : Nat) (s : State) : Xfer :=
  { uid := uid, owner := owner, via := via, read := read, part := part, tag := BitVec.ofNat 24 (uidTag uid), total := total, acked := 0,
    startAt := s.clk, lastAt := s.clk, heldFor := 0, dst := 0, len := 0, msg := 0, sent := total, todo := [], bytes := [] }

/-- The B-space address of a write (operation 0) or add of partition p to this module's own window, where its checks pass (16 Table 16-6). -/
def localDst (s : State) (p op gaddr n : Nat) : Option Nat :=
  let w := getWin s (bits gaddr 53 48)
  if decide (w.part.toNat = p) && decide ((getPart s p).st = .active) && (if op = 0 then w.w else w.a) then localG s gaddr n else none

/-- Apply one write (operation 0) or memory-side add of partition p here; false where it failed. -/
def localPut (p : Nat) (w : Nat × Nat × List Byte) (s : State) : Bool × State :=
  match localDst s p w.1 w.2.1 w.2.2.length with
  | none => (false, s)
  | some a =>
    if w.1 = 0 then let r := partWrite p a w.2.2 s; (!r.1, r.2)
    else let r := addWaiting w.1 a w.2.2 none (chargeWrite p a w.2.2.length s); (decide (r.1 = 0), r.2)

/-- Send writes and adds (operation, global address, bytes) of a partition to one chip as one transfer of `owner`:
0 done here, 1 on its way, 2 failed (16 R427, R435, R441), at once where an injection at the module says so (20 Table 20-11, DET 10). -/
def gSend (owner : XOwner) (part chip : Nat) (ws : List (Nat × Nat × List Byte)) (s : State) : Nat × State :=
  if chip = chipNo s then
    let r := ws.foldl (fun (x : Bool × State) w => let q := localPut part w x.2; (x.1 && q.1, q.2)) (true, s)
    (if r.1 then 0 else 2, r.2)
  else
    let u := takeUid s
    let ts := (ws.map (fun w => writeTxns (if w.1 = 0 then 0 else 1) w.1 part (chipNo s)
      (if w.1 = 0 then uidTag u.1 else addTag 127 (u.1 % 2 ^ 17) 0) w.2.1 w.2.2)).flatten
    let r := queueTxns 3 ts u.2
    if tmoInj s 3 0 0 then (2, injDone s)
    else if !r.1 then (2, u.2)
    else
      let tag : BitVec 24 := match ts with
        | t :: _ => t.tag
        | [] => 0
      let x := { newXfer u.1 owner (.link chip) false part ts.length s with tag := tag }
      (1, pump { r.2 with xfers := r.2.xfers ++ [x] })

/-- Read n bytes at a global address into B-space as a transfer of `owner`; false where it cannot be sent. Work of the partition is
charged for its flits, and for the bytes as they come; background work is not (13 R368, 20 Table 20-1). -/
def gRead (owner : XOwner) (background : Bool) (part gaddr dst n : Nat) (s : State) : Bool × State :=
  let chip := gaddr / 2 ^ 54
  if chip = chipNo s then (false, s)
  else
    let u := takeUid s
    let ts := readTxns part (chipNo s) (uidTag u.1) gaddr dst n
    let r := ts.foldl (fun (x : Bool × State) t => let r := queueBy background 3 t x.2; (x.1 && r.1, r.2)) (true, u.2)
    if tmoInj s 3 0 0 then (false, injDone s)
    else if !r.1 then (false, u.2)
    else
      let x := { newXfer u.1 owner (.link chip) true part n s with dst := dst, len := n }
      (true, pump { r.2 with xfers := r.2.xfers ++ [x] })

end Sys2Proof.Machine
end

