-- ==== Sys2Proof/Machine/Route.lean ====
section
/-! DEFINITION. Expert routing: requests, admission, dispatch and combine (12 R314 to R339). -/

namespace Sys2Proof.Machine

open Sys2Proof

/-! ### Signals to a job, wherever it is (10 R267, R271) -/

/-- The kept image of a job. -/
def findImage (s : State) (part jobid : Nat) : Option Image :=
  s.images.find? (fun i => decide (i.part = part) && decide (i.jobid = jobid))

/-- Change a semaphore in a save image, charged to its partition (10 R271, 13 R368); an image whose page is POISON or meets a parity
error is not written (09 R242). -/
def imageSem (i : Image) (sem : Nat) (f : Nat → Nat) (s : State) : State :=
  let a := i.save + 0xA1C00 + 8 * sem
  let r := partRead i.part a 8 s
  if r.1 then r.2.2 else (partWrite i.part a (natLe 8 (f (leNat r.2.1) % 2 ^ 64)) r.2.2).2

/-- Add to a semaphore in a save image. -/
def imageSemAdd (i : Image) (sem v : Nat) (s : State) : State := imageSem i sem (· + v) s

/-- A signal of partition p to a core whose job of this tick is no longer there: it reaches the job's image, where it has one, and has
no effect otherwise (10 R267, R271). -/
def signalAway (t p sem : Nat) (f : Nat → Nat) (s : State) : State :=
  match (placedJob s t p).bind (findImage s p) with
  | some i => imageSem i sem f s
  | none => s

/-- A pending request of core n that an injection lets expire at once (20 Table 20-11, DET 10; R337). -/
def routeExpire (n : Nat) (s : State) : State :=
  match s.routes.getLast? with
  | some r =>
    if decide (r.core = n) && tmoInj s 4 1 n then takeFault n r.seq cTIMEOUT 0 r.pc { injDone s with routes := s.routes.dropLast } else s
  | none => s

/-- Add 1 to a semaphore of a job: on its core in this tick, in its image, or late (10 R271). -/
def semSignal (core part jobid sem : Nat) (s : State) : State :=
  let late (s : State) : State := raise 1 core (some part) 0x2006 sem s
  let inImage (s : State) : State :=
    match findImage s part jobid with
    | some i => imageSemAdd i sem 1 s
    | none => late s
  match (getCore s core).job with
  | some j =>
    if j.part = part ∧ j.jobid = jobid then (if j.st = .saved then inImage s else semAdd core sem 1 s) else inImage s
  | none => inImage s

/-! ### Layers -/

/-- The layer record with an index. -/
def layerAt (s : State) (i : Nat) : Option Layer := s.layers.find? (fun l => decide (l.index = i))
/-- Put a layer record. -/
def setLayer (l : Layer) (s : State) : State := { s with layers := s.layers.map (fun x => if x.index = l.index then l else x) }
/-- Word (N mod 2) of a pair of 8-byte words (12 R329). -/
def pairWord (s : State) (a : Nat) : Nat := a + 8 * (s.tick.now.toNat % 2)
/-- Change a layer, where it stands. -/
def modLayer (i : Nat) (f : Layer → Layer) (s : State) : State :=
  { s with layers := s.layers.map (fun l => if l.index = i then f l else l) }
/-- Raise ROUTE_REQ for a layer index (20 Table 20-8). -/
def routeReqEv (i : Nat) (part : Option Nat) (arg : Nat) (s : State) : State := raise 9 i part 0x6001 arg s
/-- RB. -/
def rowBytes (l : Layer) : Nat := l.rb * 32
/-- ORB. -/
def outBytes (l : Layer) : Nat := l.orb * 32
/-- Combine slot (t, r). -/
def cmbSlot (l : Layer) (t r : Nat) : Nat := l.cmb + (t * l.k + r) * outBytes l
/-- Bytes rounded up to 4 KiB. -/
def up4k (n : Nat) : Nat := (n + 4095) / 4096 * 4096
/-- Start of the row map in a landing whose count table has n entries (12 Table 12-9). -/
def landMap (n : Nat) : Nat := up4k (16 * n)
/-- Start of the input rows. -/
def landIn (n cap : Nat) : Nat := landMap n + up4k (8 * cap)
/-- Start of the output rows. -/
def landOut (l : Layer) (n cap : Nat) : Nat := landIn n cap + up4k (cap * rowBytes l)
/-- Count-table entries of an expert's landing. -/
def landEntries (l : Layer) (e : Expert) : Nat := if e.pulled then 1 else l.nsrc
/-- The global address of a B-space address in this module's combine window. -/
def cmbGlobal (s : State) (l : Layer) (a : Nat) : Nat := globalAddr (chipNo s) l.cwin (a - (getWin s l.cwin).base)
/-- The B-space address of a landing on this module, where its expert runs here. -/
def landHere (s : State) (l : Layer) (e : Expert) : Option Nat :=
  if e.pulled then some e.loff
  else if e.home ≠ chipNo s then none
  else localG s (globalAddr (chipNo s) l.lwin e.loff) 1

/-! ### Requests (12 R317, R321, R322, R332) -/

/-- The candidates of a token record: empty where R322 says so; with the news of any bad candidate. -/
def candList (l : Layer) : Nat → List (Nat × Nat) → List Nat → List (Option (Nat × W32)) × Bool
  | _, [], _ => ([], false)
  | r, (idx, sc) :: t, seen =>
    let skip := decide (l.c ≤ r) || decide (idx = 0xFFFF)
    let bad := !skip && (decide (l.nexp ≤ idx) || seen.contains idx || isNan32 sc)
    let q := candList l (r + 1) t (if skip then seen else idx :: seen)
    ((if skip || bad then none else some (idx, BitVec.ofNat 32 sc)) :: q.1, bad || q.2)

/-- The ranges of token t lie within PART's extents (12 R319, R322). -/
def tokenInside (s : State) (l : Layer) (t : Nat) : Bool :=
  let x := (getPart s l.part).exts
  rangeIn x (l.act + t * rowBytes l) (rowBytes l) && rangeIn x (cmbSlot l t 0) (l.k * outBytes l) && rangeIn x (l.outc + 16 * t) 16

/-- A token record taken (12 R322), and whether some case of R322 occurred. -/
def takeToken (s : State) (l : Layer) (order : Nat) (rec : List Byte) : Token × Bool :=
  let pairs := (List.range 8).map (fun r => (rdN rec (2 * r) 2, rdN rec (16 + 4 * r) 4))
  let tok := rdN rec 0x30 4
  let kc := rdN rec 0x34 1
  let ok := decide (kc = l.k + 16 * l.c) && tokenInside s l tok
  let c := candList l 0 pairs []
  ({ token := tok, order := order, cands := if ok then c.1 else List.replicate 8 none }, !ok || c.2)

/-- The belfry takes a dispatch request whose records it has read (12 R319, R321, R322). -/
def takeDispatch (core : Nat) (j : CoreJob) (seq : Nat) (pc : W64) (sem at' : Nat) (req : List Byte) (s : State) : State :=
  let h := rdN req 0 8
  let idx := bits h 15 0
  let rq := bits h 47 32
  let ntok := bits h 31 16
  let sig (s : State) : State := semSignal core j.part j.jobid sem s
  match layerAt s idx with
  | none => sig (routeReqEv idx (some j.part) rq s)
  | some l =>
    if l.st = .disabled then sig s
    else if l.part ≠ j.part ∨ ntok = 0 ∨ 4096 < ntok ∨ l.nreq ≤ rq ∨ l.reqs.contains rq then
      sig (routeReqEv idx (some l.part) rq s)
    else
      let toks := (List.range ntok).map (fun i => takeToken s l (rq * 4096 + i) (rdB req (64 + 64 * i) 64))
      let whole := decide (l.reqs.length + 1 = l.nreq)
      let no := if whole then s.layers.foldl (fun m x => max m x.setNo) 0 + 1 else 0
      let s := setLayer { l with tokens := l.tokens ++ toks.map Prod.fst, reqs := l.reqs ++ [rq], readAt := s.clk, setNo := no } s
      let r : RouteReq := { core := core, jobid := j.jobid, part := j.part, seq := seq, pc := pc, sem := sem, layer := idx,
                            kind := 0, exp := 0, issued := at', heldFor := 0, srcs := [], got := [], begun := [] }
      let s := { s with routes := s.routes ++ [r] }
      routeExpire core (if toks.any Prod.snd then routeReqEv idx (some j.part) rq s else s)

/-! ### Admission (12 R323, R324) -/

/-- Score a is above score b (02 R45). -/
def scoreAbove (a b : W32) : Bool := fLess b.toNat a.toNat

/-- Primary order: score descending, TOKEN ascending, read order. -/
def primaryBefore (a b : Slot) : Bool :=
  scoreAbove a.score b.score || (!scoreAbove b.score a.score && (decide (a.token < b.token) || (decide (a.token = b.token) && decide (a.order < b.order))))

/-- Overflow order: score descending, TOKEN ascending, rank ascending; records of the same TOKEN are different tokens, the earlier in
read order first (12 R322, R323). -/
def overflowBefore (a b : Slot) : Bool :=
  scoreAbove a.score b.score || (!scoreAbove b.score a.score && (decide (a.token < b.token) || (decide (a.token = b.token)
    && (decide (a.order < b.order) || (decide (a.order = b.order) && decide (a.rank < b.rank))))))

/-- Insert a slot after those it does not precede. -/
def slotInsert (before : Slot → Slot → Bool) (x : Slot) : List Slot → List Slot
  | [] => [x]
  | h :: t => if before x h then x :: h :: t else h :: slotInsert before x t

/-- Stable sort. -/
def slotSort (before : Slot → Slot → Bool) (l : List Slot) : List Slot := l.foldl (fun acc x => slotInsert before x acc) []

/-- The slots of the tokens in read order. -/
def makeSlots (k : Nat) (toks : List Token) : List Slot :=
  (toks.map (fun t => (List.range k).map (fun r =>
    match t.cands.getD r none with
    | some c => { token := t.token, rank := r, order := t.order, score := c.2, chosen := some c.1, st := .undecided, exp := c.1,
                  row := 0, acked := false : Slot }
    | none => { token := t.token, rank := r, order := t.order, score := 0, chosen := none, st := .empty, exp := 0x3FF,
                row := 0, acked := false : Slot }))).flatten

/-- The primary pass over one expert's sorted slots: decided and rejected ones; `n` is its load. -/
def primaryPass (quota : Nat) : Nat → List Slot → List Slot × List Slot
  | _, [] => ([], [])
  | n, x :: t =>
    if n < quota then
      let r := primaryPass quota (n + 1) t
      ({ x with st := .admitted, row := n } :: r.1, r.2)
    else
      let r := primaryPass quota n t
      (r.1, x :: r.2)

/-- The first fallback of a token with room. -/
def fallback (experts : List Expert) (loads : SMap Nat) (used : List Nat) : List (Option (Nat × W32)) → Option Nat
  | [] => none
  | none :: t => fallback experts loads used t
  | some (f, _) :: t =>
    match experts[f]? with
    | some e => if used.contains f || decide (e.quota ≤ smapGet 0 loads f) then fallback experts loads used t else some f
    | none => fallback experts loads used t

/-- The overflow pass: loads, experts used by each token beyond its chosen ones, and the slots decided. -/
def overflowPass (l : Layer) : SMap Nat → List (Nat × Nat) → List Slot → List Slot
  | _, _, [] => []
  | loads, used, x :: t =>
    match l.tokens.find? (fun k => decide (k.order = x.order)) with
    | none => { x with st := .spilled } :: overflowPass l loads used t
    | some k =>
      let chosen := (k.cands.take l.k).filterMap (fun c => c.map Prod.fst)
      let mine := (used.filter (fun u => decide (u.1 = x.order))).map Prod.snd
      match fallback l.experts loads (chosen ++ mine) ((k.cands.take l.c).drop l.k) with
      | some f =>
        { x with st := .overflow, exp := f, row := smapGet 0 loads f }
          :: overflowPass l (smapSet 0 loads f (smapGet 0 loads f + 1)) (used ++ [(x.order, f)]) t
      | none => { x with st := .spilled } :: overflowPass l loads used t

/-- Insert by read order. -/
def tokInsert (x : Token) : List Token → List Token
  | [] => [x]
  | h :: t => if x.order < h.order then x :: h :: t else h :: tokInsert x t

/-- Admission (12 R323): every slot decided, in the order decided. -/
def admitSlots (l : Layer) : List Slot × Nat :=
  let l := { l with tokens := l.tokens.foldl (fun a x => tokInsert x a) [] }
  let slots := makeSlots l.k l.tokens
  let prim := (l.experts.zip (List.range l.experts.length)).map (fun e =>
    primaryPass e.1.quota 0 (slotSort primaryBefore (slots.filter (fun x => decide (x.chosen = some e.2)))))
  let adm := (prim.map Prod.fst).flatten
  let rej := slotSort overflowBefore ((prim.map Prod.snd).flatten)
  let loads := smapOf 0 0 (prim.map (fun p => p.1.length))
  (adm ++ overflowPass l loads [] rej ++ slots.filter (fun x => decide (x.st = .empty)), rej.length)

/-- The outcome word of a slot (12 Table 12-6). -/
def outcomeWord (x : Slot) : Nat :=
  match x.st with
  | .admitted => x.exp
  | .overflow => 1 * 2 ^ 13 + x.exp
  | .spilled => 2 * 2 ^ 13 + x.chosen.getD 0x3FF
  | .empty => 3 * 2 ^ 13 + 0x3FF
  | .aborted => 4 * 2 ^ 13 + x.exp
  | .undecided => 4 * 2 ^ 13 + x.chosen.getD 0x3FF

/-- The outcome entry of a token (12 R324). -/
def outcomeEntry (l : Layer) (slots : List Slot) (order : Nat) : List Byte :=
  ((List.range 8).map (fun r =>
    if l.k ≤ r then natLe 2 0x63FF
    else match slots.find? (fun x => decide (x.order = order) && decide (x.rank = r)) with
      | some x => natLe 2 (outcomeWord x)
      | none => natLe 2 0x63FF)).flatten

/-- A byte range lies within the extents of a layer's partition (12 R319, R320). -/
def inLayer (s : State) (l : Layer) (a n : Nat) : Bool := rangeIn (getPart s l.part).exts a n

/-- A read by the belfry for a layer, charged to PART: one outside PART's extents is refused (12 R320, R335). -/
def layerRead (l : Layer) (a n : Nat) (s : State) : Bool × List Byte × State :=
  if inLayer s l a n then partRead l.part a n s else (true, [], s)

/-- A write by the belfry for a layer, charged to PART: true where it was refused. -/
def layerWrite (l : Layer) (a : Nat) (bs : List Byte) (s : State) : Bool × State :=
  if inLayer s l a bs.length then partWrite l.part a bs s else (true, s)

/-- A number read for a layer, 0 where the read was stopped. -/
def layerWord (l : Layer) (a k : Nat) (s : State) : Nat × State := let r := layerRead l a k s; (leNat r.2.1, r.2.2)

/-- Write the outcome entries of the tokens (by read order) that satisfy p and whose entry lies inside PART. -/
def writeOutcomes (l : Layer) (p : Nat → Bool) (s : State) : State :=
  let toks := l.tokens.foldl (fun a x => tokInsert x a) []
  toks.foldl (fun s t =>
    if p t.order then (layerWrite l (l.outc + 16 * t.token) (outcomeEntry l l.slots t.order) s).2 else s) s

/-- The counters of an expert after admission (12 Table 12-7). -/
def countExpert (slots : List Slot) (e : Nat) (x : Expert) : Expert :=
  let n (p : Slot → Bool) : Nat := (slots.filter p).length
  { x with
    load := n (fun y => (y.st = .admitted || y.st = .overflow) && decide (y.exp = e))
    routed := n (fun y => decide (y.chosen = some e))
    admitted := n (fun y => y.st = .admitted && decide (y.exp = e))
    ovfin := n (fun y => y.st = .overflow && decide (y.exp = e))
    ovfout := n (fun y => y.st = .overflow && decide (y.chosen = some e))
    spilled := n (fun y => y.st = .spilled && decide (y.chosen = some e)) }

/-- Abort a slot (12 R331, R336, R338): its outcome word becomes ABORTED. -/
def abortSlots (l : Layer) (p : Slot → Bool) (s : State) : State :=
  let hit (x : Slot) : Bool := p x && x.st ≠ .aborted && x.st ≠ .empty && x.st ≠ .spilled
  let n := (l.slots.filter hit).length
  let orders := (l.slots.filter hit).map (fun x => x.order)
  let l := { l with slots := l.slots.map (fun x => if hit x then { x with st := .aborted } else x), nAbort := l.nAbort + n }
  if n = 0 then s else writeOutcomes l (fun o => orders.contains o) (setLayer l s)

/-! ### Dispatch (12 R329) -/

/-- Writes (operation, global address, bytes) that stand or fall together, with the slot they are for. -/
abbrev Copy := Option (Nat × Nat) × List (Nat × Nat × List Byte)

/-- The read order and rank of a slot. -/
def slotKey (y : Slot) : Nat × Nat := (y.order, y.rank)

/-- Abort one slot of a layer, as it now stands. -/
def abortOne (layer : Nat) (k : Option (Nat × Nat)) (s : State) : State :=
  match layerAt s layer, k with
  | some l, some k => abortSlots l (fun y => decide (slotKey y = k)) s
  | _, _ => s

/-- The copies of one expert's dispatch: a row and its row-map entry for each slot, then the count entry. A row that cannot be read
has no writes: its slot is aborted. -/
def expertWrites (l : Layer) (e : Nat) (x : Expert) (s : State) : List Copy × State :=
  let n := landEntries l x
  let base := if x.pulled then 0 else globalAddr x.home l.lwin x.loff
  let mine := l.slots.filter (fun y => (y.st = .admitted || y.st = .overflow) && decide (y.exp = e))
  let r := mine.foldl (fun (a : List Copy × State) y =>
    let row := x.rowoff + y.row
    let b := layerRead l (l.act + y.token * rowBytes l) (rowBytes l) a.2
    (a.1 ++ [(some (slotKey y), if b.1 then [] else [(0, base + landIn n x.cap + row * rowBytes l, b.2.1),
       (0, base + landMap n + 8 * row, natLe 8 (cmbGlobal s l (cmbSlot l y.token y.rank)))])], b.2.2)) ([], s)
  let entry := natLe 8 (mine.length + x.rowoff * 2 ^ 32) ++ natLe 8 (cmbGlobal s l (pairWord s l.cdone))
  (r.1 ++ [(none, [(0, base + (if x.pulled then 0 else 16 * l.sidx), entry)])], r.2)

/-- Homes of a layer, ascending. -/
def layerHomes (l : Layer) : List Nat :=
  (List.range 1024).filter (fun h => l.experts.any (fun e => !e.pulled && decide (e.home = h)))

/-- Every write to a home has ended: its source-done word is incremented (12 R329); after the deadline nothing is started (R336). -/
def sendDone (layer chip : Nat) (s : State) : State :=
  match layerAt s layer with
  | none => s
  | some l =>
    if s.tick.phase ≠ .run then s else
    let a := globalAddr chip l.lwin (pairWord s l.doneOff)
    let r := gSend (.sourceDone layer chip) l.part chip [(4, a, natLe 8 1)] s
    match layerAt r.2 layer with
    | none => r.2
    | some l =>
      let l := { l with toAck := l.toAck.filter (· ≠ chip), toDone := if r.1 = 1 then l.toDone ++ [chip] else l.toDone }
      setLayer l r.2

/-- A copy of this layer to the home is still on its way. -/
def homeBusy (layer chip : Nat) (s : State) : Bool :=
  s.xfers.any (fun x => match x.owner with
    | .dispatch i c _ => decide (i = layer) && decide (c = chip)
    | _ => false)

/-- The copies to a home may all have ended: acknowledged, or refused with their slots aborted (12 R329, R338; log 57). -/
def homeSettled (layer chip : Nat) (s : State) : State :=
  match layerAt s layer with
  | some l => if l.toAck.contains chip && !homeBusy layer chip s then sendDone layer chip s else s
  | none => s

/-- Copy a slot to a landing on this module; a copy that fails aborts the slot (12 R338). -/
def copyHere (l : Layer) (base : Nat) (s : State) (c : Copy) : State :=
  let r := c.2.foldl (fun (a : Bool × State) w => let q := layerWrite l (base + w.2.1) w.2.2 a.2; (a.1 || q.1, q.2)) (c.2.isEmpty, s)
  if r.1 then abortOne l.index c.1 r.2 else r.2

/-- Send a copy to a home; one that is refused at once aborts its slot. -/
def copyHome (layer part chip : Nat) (s : State) (c : Copy) : State :=
  if c.2.isEmpty then abortOne layer c.1 s
  else
    let q := gSend (.dispatch layer chip c.1) part chip c.2 s
    if q.1 = 2 then abortOne layer c.1 q.2 else q.2

/-- The transfers of an admitted layer to one home (12 R329). -/
def dispatchHome (layer : Nat) (s : State) (h : Nat) : State :=
  match layerAt s layer with
  | none => s
  | some l =>
    let r := (l.experts.zip (List.range l.experts.length)).foldl (fun (a : List Copy × State) e =>
      if !e.1.pulled && decide (e.1.home = h) then let w := expertWrites l e.2 e.1 a.2; (a.1 ++ w.1, w.2) else a) ([], s)
    homeSettled layer h (r.1.foldl (copyHome layer l.part h) r.2)

/-- The partition of a layer runs in starch mode, in which transfers go one home at a time (12 R339). -/
def starchLayer (s : State) (l : Layer) : Bool := (getPart s l.part).mode = 1

/-- Begin the homes whose turn has come: in starch mode the next once the one before it has settled, else all (12 R339); none after the
deadline (R336). -/
def beginHomes (layer : Nat) : Nat → State → State
  | 0, s => s
  | f + 1, s =>
    match layerAt s layer with
    | none => s
    | some l =>
      match l.todo with
      | [] => s
      | h :: t =>
        if s.tick.phase ≠ .run then s
        else if starchLayer s l && !(l.toAck.all (fun x => l.todo.contains x)) then s
        else beginHomes layer f (dispatchHome layer (setLayer { l with todo := t } s) h)

/-- Every source-done add is acknowledged: each core that issued an `rdisp` of the layer is signalled (12 R329). -/
def finishDispatch (layer : Nat) (s : State) : State :=
  let s := beginHomes layer 1024 s
  match layerAt s layer with
  | none => s
  | some l =>
    if l.st ≠ .admitted ∨ l.dispatched ∨ ¬ l.todo.isEmpty ∨ ¬ l.toAck.isEmpty ∨ ¬ l.toDone.isEmpty then s
    else
      let mine := s.routes.filter (fun r => decide (r.kind = 0) && decide (r.layer = layer))
      let s := setLayer { l with dispatched := true } s
      let s := { s with routes := s.routes.filter (fun r => !(decide (r.kind = 0) && decide (r.layer = layer))) }
      mine.foldl (fun s r => semSignal r.core r.part r.jobid r.sem s) s

/-- Dispatch an admitted layer: pulled experts here, then each home in ascending order (12 R329, R339). -/
def dispatch (layer : Nat) (s : State) : State :=
  match layerAt s layer with
  | none => s
  | some l =>
    let s := (l.experts.zip (List.range l.experts.length)).foldl (fun s e =>
      if e.1.pulled then let w := expertWrites l e.2 e.1 s; w.1.foldl (copyHere l e.1.loff) w.2 else s) s
    let homes := layerHomes l
    finishDispatch layer (modLayer layer (fun l => { l with homes := homes, toAck := homes, toDone := [], todo := homes }) s)

/-! ### Combine (12 R333, R334) -/

/-- Mark the slot whose combine row ends in [a, a + n) as acknowledged (12 R336). -/
def noteCombine (a n : Nat) (s : State) : State :=
  { s with layers := s.layers.map (fun l =>
      if l.st = .admitted && decide (l.cmb ≤ a) then
        { l with slots := l.slots.map (fun x =>
            let e := cmbSlot l x.token x.rank + outBytes l
            if decide (a < e) && decide (e ≤ a + n) then { x with acked := true } else x) }
      else l) }

/-- A combine copy to this module's bytes [g, g + n) was refused: the slot that holds byte g is aborted at its source (12 R338). -/
def abortAt (part g : Nat) (s : State) : State :=
  s.layers.foldl (fun s l =>
    if l.st = .admitted && decide (l.part = part) then
      match layerAt s l.index with
      | some l => abortSlots l (fun y => let a := cmbGlobal s l (cmbSlot l y.token y.rank)
          decide (a ≤ g) && decide (g < a + outBytes l)) s
      | none => s
    else s) s

/-- The request of a KIND 1 combine that is being served. -/
def isOut (layer exp core sem : Nat) (r : RouteReq) : Bool :=
  decide (r.kind = 2) && decide (r.layer = layer) && decide (r.exp = exp) && decide (r.core = core) && decide (r.sem = sem)

/-- A source of a KIND 1 request is served; with the last one the issuing core is signalled (12 R333). -/
def outServed (layer exp src core sem : Nat) (s : State) : State :=
  match s.routes.find? (isOut layer exp core sem) with
  | none => s
  | some r =>
    let left := r.srcs.filter (· ≠ src)
    let rest := dropFirst (isOut layer exp core sem) s.routes
    if left.isEmpty then semSignal core r.part r.jobid sem { s with routes := rest }
    else { s with routes := rest ++ [{ r with srcs := left }] }

/-- Some copy of a KIND 1 request to a source is acknowledged. -/
def outGot (layer exp src core sem : Nat) (s : State) : State :=
  match s.routes.find? (isOut layer exp core sem) with
  | none => s
  | some r => { s with routes := dropFirst (isOut layer exp core sem) s.routes ++ [{ r with got := src :: r.got.filter (· ≠ src) }] }

/-- The copies to a source have ended: its combine-done word is incremented (12 R333). -/
def combineDoneAdd (layer exp src core sem : Nat) (s : State) : State :=
  match layerAt s layer with
  | none => s
  | some l =>
    match l.experts[exp]? with
    | none => s
    | some e =>
      match landHere s l e with
      | none => s
      | some x =>
        let g := layerWord l (x + 16 * src + 8) 8 s
        let r := gSend (.combineDone layer exp src core sem) l.part (g.1 / 2 ^ 54) [(4, g.1, natLe 8 1)] g.2
        if r.1 = 1 then r.2 else outServed layer exp src core sem r.2

/-- A copy of this share to the source is still on its way. -/
def outBusy (layer exp src core sem : Nat) (s : State) : Bool :=
  s.xfers.any (fun x => match x.owner with
    | .combine i e r _ c m => decide (i = layer) && decide (e = exp) && decide (r = src) && decide (c = core) && decide (m = sem)
    | _ => false)

/-- The copies to a source may all have ended. A source whose every copy was refused has left its count and gets no increment
(12 R333, R334; log 57). -/
def combineSettled (layer exp src core sem : Nat) (s : State) : State :=
  match s.routes.find? (isOut layer exp core sem) with
  | none => s
  | some r =>
    if !r.srcs.contains src || outBusy layer exp src core sem s then s
    else if r.got.contains src then combineDoneAdd layer exp src core sem s
    else outServed layer exp src core sem s

/-- Copy one output row to its combine slot. -/
def copyOut (layer exp src core sem part chip row slot : Nat) (bs : List Byte) (s : State) : State :=
  let q := gSend (.combine layer exp src row core sem) part chip [(0, slot, bs)] s
  match q.1 with
  | 0 =>
    let s := match localG q.2 slot bs.length with
      | some a => noteCombine a bs.length q.2
      | none => q.2
    outGot layer exp src core sem s
  | 1 => q.2
  | _ => if chip = chipNo s then abortAt part slot q.2 else q.2

/-- Copy the output rows of one source's share to their combine slots (12 R333, steps 1 and 2): what lies outside PART is not read
(R320), and an output row that cannot be read aborts its slot. -/
def serveSource (layer exp core sem : Nat) (s : State) (i : Nat) : State :=
  match layerAt s layer with
  | none => s
  | some l =>
    match l.experts[exp]? with
    | none => s
    | some e =>
      match landHere s l e with
      | none => s
      | some x =>
        let n := landEntries l e
        let w := layerWord l (x + 16 * i) 8 s
        let g := layerWord l (x + 16 * i + 8) 8 w.2
        let chip := g.1 / 2 ^ 54
        let s := (List.range (bits w.1 31 0)).foldl (fun s k =>
          let row := bits w.1 47 32 + k
          let slot := layerWord l (x + landMap n + 8 * row) 8 s
          let b := layerRead l (x + landOut l n e.cap + row * outBytes l) (outBytes l) slot.2
          if b.1 then (if chip = chipNo s then abortAt l.part slot.1 b.2.2 else b.2.2)
          else copyOut layer exp i core sem l.part chip row slot.1 b.2.1 b.2.2) g.2
        combineSettled layer exp i core sem s

/-- Begin the sources of a KIND 1 request whose turn has come, in ascending SIDX: in starch mode the next once the one before it has
been served, else all (12 R333, R339). -/
def beginSources (layer exp core sem : Nat) : Nat → State → State
  | 0, s => s
  | f + 1, s =>
    match layerAt s layer, s.routes.find? (isOut layer exp core sem) with
    | some l, some r =>
      match r.srcs.find? (fun i => !r.begun.contains i) with
      | none => s
      | some i =>
        if starchLayer s l && r.srcs.any (fun j => r.begun.contains j) then s
        else
          let s := { s with routes := s.routes.map (fun y => if y = r then { r with begun := i :: r.begun } else y) }
          beginSources layer exp core sem f (serveSource layer exp core sem s i)
    | _, _ => s

/-- A source of a KIND 1 request has made progress: it may have settled, and the next may begin. -/
def combineNext (layer exp src core sem : Nat) (s : State) : State :=
  beginSources layer exp core sem 1024 (combineSettled layer exp src core sem s)

/-- The belfry takes a combine request (12 R332, R333). -/
def takeCombine (core : Nat) (j : CoreJob) (seq : Nat) (pc : W64) (sem at' : Nat) (req : List Byte) (s : State) : State :=
  let h := rdN req 0 8
  let idx := bits h 15 0
  let exp := bits h 31 16
  let kind := bits h 33 32
  let sig (s : State) : State := semSignal core j.part j.jobid sem s
  let ev (s : State) : State := routeReqEv idx (some (((layerAt s idx).map (fun l => l.part)).getD j.part)) (0x10000 + exp) s
  match layerAt s idx with
  | none => sig (ev s)
  | some l =>
    if l.st = .disabled then sig s
    else if l.part ≠ j.part ∨ 2 ≤ kind then sig (ev s)
    else
      let r : RouteReq := { core := core, jobid := j.jobid, part := j.part, seq := seq, pc := pc, sem := sem, layer := idx,
                            kind := kind + 1, exp := exp, issued := at', heldFor := 0, srcs := [], got := [], begun := [] }
      if kind = 0 then routeExpire core { s with routes := s.routes ++ [r] }
      else match l.experts[exp]? with
        | none => sig (ev s)
        | some e =>
          if !e.pulled && decide (e.home ≠ chipNo s) then sig (ev s)
          else
            let s := { s with routes := s.routes ++ [{ r with srcs := List.range (landEntries l e) }] }
            if tmoInj s 4 1 core then routeExpire core s else beginSources idx exp core sem 1024 s

/-- The belfry reads one record handed over by core n and releases its range; a parity error raises PARITY (12 R317, R332; 04 R135). -/
def readHand (n : Nat) (s : State) (x : HandOff) : State :=
  let c := getCore s n
  let s := setCore n { c with trk := c.trk.filter (fun e => e.seq ≠ x.seq), hands := c.hands.filter (fun y => y.seq ≠ x.seq) } s
  match c.job, opnd c x.addr x.len with
  | some j, some bs => if x.comb then takeCombine n j x.seq x.pc x.sem x.at' bs s else takeDispatch n j x.seq x.pc x.sem x.at' bs s
  | some _, none => takeFault n x.seq cPARITY 0 x.pc s
  | none, _ => s

/-- The belfry reads what core n has handed to it, in order. -/
def readHands (n : Nat) (s : State) : State := (getCore s n).hands.foldl (readHand n) s

/-- The belfry reads what every core has handed to it. -/
def readAllHands (s : State) : State := s.cores.foldl (fun s e => readHands e.1 s) s

/-- Zero the combine slots of slots that satisfy p. -/
def zeroSlots (l : Layer) (p : Slot → Bool) (s : State) : State :=
  l.slots.foldl (fun s x => if p x then (layerWrite l (cmbSlot l x.token x.rank) (zeros (outBytes l)) s).2 else s) s

/-- Experts that hold a slot of this module that is not ABORTED (12 R334). -/
def liveExperts (l : Layer) : Nat :=
  ((List.range l.experts.length).filter (fun e => l.slots.any (fun x => (x.st = .admitted || x.st = .overflow) && decide (x.exp = e)))).length

/-! ### The commands -/

/-- Is the layer the next to be admitted (12 R321)? -/
def admitNext (s : State) (l : Layer) : Bool :=
  l.st = .open && decide (l.reqs.length = l.nreq) && !(s.layers.any (fun o =>
    o.st = .open && decide (o.reqs.length = o.nreq) && decide (o.setNo < l.setNo)))

/-- ROUTE_ADMIT: admission, outcome entries, dispatch (12 R321, R323 to R325, R329, R335). -/
def execRouteAdmit (layer : Nat) (s : State) : Res :=
  let s := readAllHands s
  match layerAt s layer with
  | none => .next s
  | some l =>
    if s.tick.phase ≠ .run ∨ ¬ admitNext s l then .next s
    else
      let a := admitSlots l
      let slots := a.1
      let ne := (slots.filter (fun x => decide (x.st = .empty))).length
      let l := { l with
        st := .admitted
        slots := slots
        experts := (l.experts.zip (List.range l.experts.length)).map (fun e => countExpert slots e.2 e.1)
        nEmpty := ne
        nDisp := slots.length - ne
        build := s.clk - l.readAt }
      -- slots of a pull that already failed are aborted as soon as they exist (R331)
      let failed := (l.pulls.filter (fun p => decide (p.st = 3))).map (fun p => p.exp)
      let s := writeOutcomes l (fun _ => true) (setLayer l s)
      let s := abortSlots l (fun x => failed.contains x.exp) s
      .next (dispatch layer s)

/-- The layer's experts may start, its source-done word reading `word` (12 R330). -/
def sourcesDone (s : State) (l : Layer) (word : Nat) : Bool :=
  let home := l.experts.any (fun e => !e.pulled && decide (e.home = chipNo s))
  (!home || decide (word = l.nsrc)) && l.pulls.all (fun p => decide (p.st = 2)) && l.dispatched

/-- The word (N mod 2) of this module's source-done pair of a layer, 0 where it cannot be read. -/
def sourceWord (l : Layer) (s : State) : Nat × State :=
  match localG s (globalAddr (chipNo s) l.lwin (pairWord s l.doneOff)) 8 with
  | some a => layerWord l a 8 s
  | none => (0, s)

/-- SOURCE_DONE_POLL: the belfry reads the layer's source-done word and signals LSEM (12 R330). -/
def execSourceDonePoll (layer : Nat) (s : State) : Res :=
  match layerAt s layer with
  | none => .next s
  | some l =>
    let w := sourceWord l s
    let s := w.2
    if s.tick.phase ≠ .run ∨ l.lsemSent ∨ l.st ≠ .admitted ∨ ¬ sourcesDone s l w.1 then .next s
    else
      let cores := (List.range 100).filter (fun n => l.wait.getLsbD n)
      let s := setLayer { l with lsemSent := true } s
      .next (cores.foldl (fun s n => if runsPart s n l.part then semAdd n l.lsem 1 s else s) s)

/-- COMBINE_COLLECT_DONE: the combine of a KIND 0 request is complete (12 R334). `req` counts the pending requests. -/
def execCombineCollectDone (req : Nat) (s : State) : Res :=
  let s := readAllHands s
  match s.routes[req]? with
  | none => .next s
  | some r =>
    match layerAt s r.layer with
    | none => .next s
    | some l =>
      let w := layerWord l (pairWord s l.cdone) 8 s
      let s := w.2
      if r.kind ≠ 1 ∨ l.st ≠ .admitted ∨ w.1 ≠ liveExperts l then .next s
      else
        let s := setLayer { l with combined := true } s
        let s := zeroSlots l (fun x => x.st = .spilled || x.st = .empty || (x.st = .aborted && !x.acked)) s
        .next (semSignal r.core r.part r.jobid r.sem { s with routes := s.routes.eraseIdx req })

/-- DISPATCH_TIMEOUT: a pending request has passed the dispatch limit, unless the deadline comes first (12 R337; 20 R528); time held does
not count (20 R529). -/
def execDispatchTimeout (req : Nat) (s : State) : Res :=
  let s := readAllHands s
  match s.routes[req]? with
  | none => .next s
  | some r =>
    if s.tick.phase ≠ .run ∨ deadline s.tick ≤ r.issued + r.heldFor + us (tmoDisp s) then .next s
    else
      let s := passTo (r.issued + r.heldFor + us (tmoDisp s)) s
      .next (takeFault r.core r.seq cTIMEOUT 0 r.pc { s with routes := s.routes.eraseIdx req })

end Sys2Proof.Machine
end

