-- ==== Sys2Proof/Machine/Issue.lean ====
section
/-! DEFINITION. The sequencer: fetch checks, decode, predication, issue stalls and what each instruction does at issue
(03 R73 to R85, 04). -/

namespace Sys2Proof.Machine

open Sys2Proof

/-! ### Scalar results (04 Tables 4-1 to 4-3) -/

/-- High 64 bits of the signed product. -/
def mulHigh (a b : W64) : W64 := BitVec.ofInt 64 (a.toInt * b.toInt / 2 ^ 64)
/-- High 64 bits of the unsigned product. -/
def mulHighU (a b : W64) : W64 := BitVec.ofNat 64 (a.toNat * b.toNat / 2 ^ 64)

/-- The integer operations of group 0x00 (04 R105). -/
def alu (o : Op) (a b : W64) : W64 :=
  let n := b.toNat % 64
  match o with
  | .add => a + b
  | .sub => a - b
  | .mul => a * b
  | .mulh => mulHigh a b
  | .mulhu => mulHighU a b
  | .and => a &&& b
  | .or => a ||| b
  | .xor => a ^^^ b
  | .shl => a <<< n
  | .shr => a >>> n
  | .sra => a.sshiftRight n
  | .min => if a.slt b then a else b
  | .max => if a.slt b then b else a
  | .minu => if a.ult b then a else b
  | _ => if a.ult b then b else a

/-- The comparisons of `pcmp` (04 R106). -/
def pcompare (o : Op) (a b : W64) : Bool :=
  match o with
  | .pcmpEq => a = b
  | .pcmpNe => a ≠ b
  | .pcmpLt => a.slt b
  | .pcmpGe => !a.slt b
  | .pcmpLtu => a.ult b
  | _ => !a.ult b

/-- The logic of predicates. -/
def plogic (o : Op) (a b : Bool) : Bool :=
  match o with
  | .pand => a && b
  | .por => a || b
  | .pxor => a != b
  | _ => !a

/-- Bytes of a load or store (04 Table 4-3). -/
def accSize (o : Op) : Nat :=
  match o with
  | .ldB | .ldBu | .stB => 1
  | .ldH | .ldHu | .stH => 2
  | .ldW | .ldWu | .stW => 4
  | _ => 8

/-- A load extends with its sign. -/
def accSigned (o : Op) : Bool := o = .ldB || o = .ldH || o = .ldW

/-- Extend the bytes read. -/
def loadValue (o : Op) (bs : List Byte) : W64 :=
  let n := leNat bs
  if accSigned o then BitVec.ofNat 64 (unsgn 64 (sgn (8 * accSize o) n)) else BitVec.ofNat 64 n

/-- The operand of a compare: an s-register or an m-register (04 R112). -/
def brOperand (c : Core) (m : Bool) (r : Nat) : W64 := if m then mRead c r else sRead c r

/-- Branch conditions (03 Table 3-12). -/
def brTaken (cond : Nat) (a b : W64) : Bool :=
  let x := a.toNat % 2 ^ 32
  let y := b.toNat % 2 ^ 32
  match cond with
  | 0 => true
  | 1 => a = b
  | 2 => a ≠ b
  | 3 => a.slt b
  | 4 => !a.slt b
  | 5 => a.ult b
  | 6 => !a.ult b
  | 7 => fCond 2 x y
  | 8 => fCond 5 x y
  | 9 => fCond 0 x y
  | 10 => fCond 1 x y || fCond 6 x y
  | _ => fCond 6 x y

/-- The target of a branch: its own address + OFFSET × 8. -/
def brTarget (c : Core) (w : W64) : W64 := c.pc + (fImmX w <<< 3)

/-! ### Control registers (03 R67, R72) -/

/-- CAP_VERSION. -/
def capVersion : W64 := BitVec.ofNat 64 (0xB1 * 2 ^ 56 + 9 * 2 ^ 32 + 1 * 2 ^ 24 + 1200)
/-- CAP_CORE on core n. -/
def capCore (n : Nat) : W64 :=
  BitVec.ofNat 64 (64 * 2 ^ 48 + 48 * 2 ^ 40 + 8 * 2 ^ 32 + 64 * 2 ^ 24 + 96 * 2 ^ 16 + 100 * 2 ^ 8 + n)
/-- CAP_MATRIX. -/
def capMatrix : W64 :=
  BitVec.ofNat 64 (0x3FF * 2 ^ 48 + 512 * 2 ^ 32 + 128 * 2 ^ 24 + 128 * 2 ^ 16 + 1 * 2 ^ 12 + 2 * 2 ^ 8 + 4 * 2 ^ 4 + 2)
/-- CAP_VECTOR. -/
def capVector : W64 :=
  BitVec.ofNat 64 (0x7FF * 2 ^ 48 + 128 * 2 ^ 32 + 32 * 2 ^ 24 + 8 * 2 ^ 16 + 8 * 2 ^ 8 + 32)
/-- CAP_MEMORY. -/
def capMemory : W64 := BitVec.ofNat 64 (384 * 2 ^ 32 + 32 * 2 ^ 24 + 32 * 2 ^ 16 + 676)

/-- The value `crd` reads at an index. -/
def ctlRead64 (n idx : Nat) (c : Core) : W64 :=
  match idx with
  | 0 => c.acr
  | 1 => c.asr
  | 2 => c.seed
  | 3 => c.stream
  | 4 => c.ctr
  | 16 => capVersion
  | 17 => capCore n
  | 18 => capMatrix
  | 19 => capVector
  | _ => capMemory

/-- The effect of `cwr` (03 Table 3-7). -/
def ctlWrite64 (idx : Nat) (v : W64) (c : Core) : Core :=
  match idx with
  | 0 => { c with acr := v &&& 0xF }
  | 1 => { c with asr := asrClear c.asr v }
  | 2 => { c with seed := v }
  | 3 => { c with stream := v &&& 0xFFFFFFFF }
  | _ => { c with ctr := v }

/-! ### What is in flight -/

/-- The operation of an issued word. -/
def uopOp (u : Uop) : Op := (wordOp u.word).getD .add

/-- Instructions in the pipes. -/
def inPipes (c : Core) : List Uop := c.array.toList ++ c.port.toList ++ c.vector.toList
/-- Matrix and vector instructions waiting or running. -/
def inFlight (c : Core) : List Uop := inPipes c ++ c.mq ++ c.vq

/-- Registers that a queued instruction reads once it has issued: its predicate is read at issue (03 R85). -/
def regsQueued (o : Op) (w : W64) : List Nat := (regsRead o w).filter (fun r => r < 100 || 200 ≤ r)

/-- Registers that an instruction has still to read: s-registers are read at its start (07 R185). -/
def stillReads (c : Core) (u : Uop) : List Nat :=
  let l := regsQueued (uopOp u) u.word
  if (inPipes c).contains u then l.filter (fun r => 200 ≤ r) else l

/-- The scoreboard holds an instruction that reads `rd` and writes `wr` behind `u` (03 R73). -/
def boardHit (c : Core) (rd wr : List Nat) (u : Uop) : Bool :=
  let uw := regsWritten (uopOp u) u.word
  uw.any (fun r => rd.contains r || wr.contains r) || (stillReads c u).any (fun r => wr.contains r)

/-- An operation that can set a flag of ASR (04, Flags columns). -/
def setsFlags (o : Op) : Bool :=
  o = .mmac || o = .mdrain || o = .vadd || o = .vsub || o = .vmul || o = .vmulh || o = .vfadd || o = .vfsub || o = .vfmul
    || o = .vfma || opGrp o = 0x1A || opGrp o = 0x1B || opGrp o = 0x1C || o = .vredall || o = .vqapp || o = .vsmstat || o = .vsmexp

/-- Every memory access of every earlier instruction has completed (10 R268): no range is registered, and every descriptor is
queued and has made all its accesses. -/
def allDone (c : Core) : Bool := c.trk.isEmpty && c.dq.isEmpty && c.descs.all (fun d => decide (d.st = .complete))

/-- Nothing the core has issued is still under way (03 R87, R99). -/
def coreIdle (c : Core) : Bool := (inFlight c).isEmpty && c.dq.isEmpty && c.descs.isEmpty && c.hands.isEmpty

/-- Descriptors queued and waiting to be. -/
def allDescs (c : Core) : List (Nat × List W64) :=
  c.descs.map (fun d => (d.ch, d.words)) ++ (c.dq.map (fun q => (q.descs.drop q.read).map (fun d => (q.ch, d)))).flatten

/-- Every earlier edge write is acknowledged (04 R113, 10 R272). One that was saved before it started (03 R93) is not, so it holds a
resumed `lfence` until it has completed (DEDUCED, log 105). -/
def fenceDone (c : Core) : Bool := (allDescs c).all (fun d => !dEdgeWrite d.2)
/-- Every earlier descriptor on a channel has completed (04 R132). -/
def chanDone (c : Core) (ch : Nat) : Bool := (allDescs c).all (fun d => decide (d.1 ≠ ch))

/-! ### Results of issue -/

/-- The instruction has issued: the PC moves to `pc`, the next issue number is taken. -/
def issued (n : Nat) (pc : W64) (f : Core → Core) (s : State) : State :=
  modCore n (fun c => let c' := f c; { c' with pc := pc, nseq := c.nseq + 1, hold := .none }) s

/-- Issue stalls: the PC stays (04 R101). -/
def stallAt (n : Nat) (w ext : W64) (s : State) : State := modCore n (fun c => { c with hold := .stall w ext }) s

/-- The address after an instruction. -/
def nextPc (c : Core) (o : Op) : W64 := c.pc + (if opFmt o = .X then 16 else 8)

/-- A fault detected at decode or issue: nothing else happens (03 R87). -/
def faultAt (n code trap : Nat) (s : State) : State :=
  let c := getCore s n
  takeFault n c.nseq code trap c.pc s

/-- A fault detected in execution of an instruction that has just issued. -/
def faultAfter (n seq code : Nat) (fpc : W64) (s : State) : State := takeFault n seq code 0 fpc s

/-! ### The effects, by class -/

/-- Second operand: sSB or the sign-extended IMM (04 R105). -/
def operand2 (c : Core) (w : W64) : W64 := if fI w then fImmX w else sRead c (fSB w)

/-- Scalar arithmetic (04 R105). -/
def doAlu (n : Nat) (o : Op) (w : W64) (s : State) : State :=
  let c := getCore s n
  issued n (nextPc c o) (sWrite (fSD w) (alu o (sRead c (fSA w)) (operand2 c w))) s

/-- Predicate instructions (04 R106). -/
def doPred (n : Nat) (o : Op) (w : W64) (s : State) : State :=
  let c := getCore s n
  let v := if (opCode o).2 < 6 then pcompare o (sRead c (fSA w)) (operand2 c w) else plogic o (pRead c (fSA w)) (pRead c (fSB w))
  issued n (nextPc c o) (pWrite (fSD w) v) s

/-- Loads and stores (04 R107, R108). -/
def doMem (n : Nat) (o : Op) (w : W64) (s : State) : State :=
  let c := getCore s n
  let a := (sRead c (fSA w) + fImmX w).toNat
  let k := accSize o
  let st := decide (8 ≤ (opCode o).2)
  match sRange st a k k with
  | none => faultAt n cSADDR 0 s
  | some r =>
    if trkHit c (some r) then stallAt n w 0 s
    else if st then issued n (nextPc c o) id (spadWrite n a ((natLe 8 (sRead c (fSD w)).toNat).take k) s)
    else match opnd c a k with
      | some bs => issued n (nextPc c o) (sWrite (fSD w) (loadValue o bs)) s
      | none => faultAfter n c.nseq cPARITY c.pc (issued n (nextPc c o) id s)

/-- `crd`, `cwr`, `mvm`, `rdclk`, `rdtick` (04 R109, R110). -/
def doCtl (n : Nat) (o : Op) (w : W64) (s : State) : State :=
  let c := getCore s n
  let idx := fImm w
  let flagsBusy := (inFlight c).any (fun u => setsFlags (uopOp u))
  if (o = .crd || o = .cwr) && decide (idx = 1) && flagsBusy then stallAt n w 0 s
  else match o with
    | .crd => issued n (nextPc c o) (sWrite (fSD w) (ctlRead64 n idx c)) s
    | .cwr => issued n (nextPc c o) (ctlWrite64 idx (sRead c (fSA w))) s
    | .mvm => issued n (nextPc c o) (sWrite (fSD w) (mRead c (fSA w))) s
    | .rdclk => issued n (nextPc c o) (sWrite (fSD w) (BitVec.ofNat 64 (s.clk - s.tick.openAt))) s
    | _ => issued n (nextPc c o) (sWrite (fSD w) s.tick.now) s

/-- Branches (04 R112). -/
def doBranch (n : Nat) (o : Op) (w : W64) (s : State) : State :=
  let c := getCore s n
  let ra := fld w 46 42
  match o with
  | .brCond =>
    let t := brTaken (fld w 35 32) (brOperand c (bit w.toNat 47) ra) (brOperand c (bit w.toNat 41) (fld w 40 36))
    issued n (if t then brTarget c w else nextPc c o) id s
  | .call => issued n (brTarget c w) (sWrite ra (c.pc + 8)) s
  | .jr => issued n (sRead c ra) id s
  | _ =>
    let v := sRead c ra - 1
    issued n (if v ≠ 0 then brTarget c w else nextPc c o) (sWrite ra v) s

/-- The core an `ssig` names. -/
def sigTarget (n : Nat) (w : W64) : Nat := if fld w 36 30 = 127 then n else fld w 36 30

/-- `ssig` (04 R113, R114; 10 R268). -/
def doSig (n : Nat) (o : Op) (w : W64) (s : State) : State :=
  let c := getCore s n
  let t := sigTarget n w
  let sem := fld w 47 42
  let v := sRead c (fld w 41 37)
  if !allDone c then stallAt n w 0 s
  else
    let s' := issued n (nextPc c o) id s
    if runsPart s t (partOfCore s n) then (if o = .ssigAdd then semAdd t sem v.toNat s' else semSet t sem v s')
    else if (placedJob s t (partOfCore s n)).isSome then
      signalAway t (partOfCore s n) sem (fun x => if o = .ssigAdd then x + v.toNat else v.toNat) s'
    else faultAfter n c.nseq cPROT c.pc s'

/-- The condition of a `swait` holds for a value of its semaphore (04 R113). -/
def waitMeets (c : Core) (w m : W64) : Bool :=
  let v := (sRead c (fld w 41 37)).toNat
  if fld w 29 27 = 0 then decide (m.toNat = v) else decide (v ≤ m.toNat)

/-- The condition of a `swait` holds now. -/
def waitHolds (c : Core) (w : W64) : Bool := waitMeets c w (smapGet 0 c.sems (fld w 47 42))

/-- Hold issue, or go on where the condition holds already. -/
def holdUnless (n : Nat) (o : Op) (ok : Bool) (h : Hold) (s : State) : State :=
  let c := getCore s n
  if ok then issued n (nextPc c o) id s else modCore n (fun c => { c with hold := h }) s

/-- `halt` ends the job (04 R113, 03 R99); the PC stays at it (DESIGN CHOICE, log 123). -/
def doHalt (n : Nat) (s : State) : State :=
  modCore n (fun c => { c with hold := .none, job := c.job.map (fun j => { j with st := .halted, endAt := s.clk }) }) s

/-- The queued form of an issuing instruction (04 R110). -/
def mkUop (c : Core) (w : W64) : Uop :=
  { seq := c.nseq, pc := c.pc, word := w, acr := c.acr, seed := c.seed, stream := c.stream, ctr := c.ctr, sv := [], done := 0,
    startAt := 0 }

/-- Tracker entries of an instruction, numbered. -/
def mkEntries (seq : Nat) (l : List (Option Range × Option Range)) : List TrkEntry :=
  (l.zip (List.range l.length)).map (fun e => { seq := seq, sub := e.2, r1 := e.1.1, r2 := e.1.2 })

/-- Tracker entries (08 R223). -/
def trkSize : Nat := 48

/-- `rdisp` and `rcomb`: the record's range is registered and its hand-off waits for the belfry (12 R317, R332; 04 R131, R136; 08
R227). -/
def doRequest (n : Nat) (o : Op) (w : W64) (s : State) : State :=
  let c := getCore s n
  let a := (sRead c (fld w 41 37)).toNat
  match sRange false a 64 64 with
  | none => faultAt n cSADDR 0 s
  | some h =>
    if trkHit c (some h) then stallAt n w 0 s
    else
      let len := 64 + 64 * (if o = .rdisp then bits (leNat (spadBytes c a 8)) 31 16 else 0)
      match sRange false a len 64 with
      | none => faultAt n cSADDR 0 s
      | some r =>
        if trkHit c (some r) || decide (trkSize ≤ c.trk.length) then stallAt n w 0 s
        else
          let x : HandOff := { seq := c.nseq, pc := c.pc, comb := decide (o = .rcomb), sem := fld w 47 42, addr := a, len := len, at' := s.clk }
          issued n (nextPc c o) (fun c =>
            { c with trk := c.trk ++ mkEntries c.nseq [(some r, none)], hands := c.hands ++ [x] }) s

/-- The descriptors of a `dma` raise ILLEGAL at decode whether or not its predicate holds (03 R85, 04 R133). Where the predicate does
not hold, a list that cannot be read raises nothing; one that a write in flight may change is waited for (DESIGN CHOICE, log 24). -/
def skipDma (n : Nat) (w : W64) (s : State) : State :=
  let c := getCore s n
  let a := (sRead c (fld w 44 40)).toNat
  let len := 64 * (fld w 39 34 + 1)
  match sRange false a len 64 with
  | none => issued n (c.pc + 8) id s
  | some r =>
    if trkHit c (some r) then stallAt n w 0 s
    else match opnd c a len with
      | none => issued n (c.pc + 8) id s
      | some bs => if (descList bs).all (dLegal s n) then issued n (c.pc + 8) id s else faultAt n cILLEGAL 0 s

/-- Matrix and vector instructions go to their queue (04 R100, R101, R136). -/
def doQueue (n : Nat) (o : Op) (w : W64) (s : State) : State :=
  let c := getCore s n
  let full := if opQueue o = .matrix then decide (4 ≤ c.mq.length) else decide (8 ≤ c.vq.length)
  if full then stallAt n w 0 s
  else match opRanges o w c with
    | none => faultAt n cSADDR 0 s
    | some rs =>
      if trkSize < c.trk.length + rs.length then stallAt n w 0 s
      else
        let u := mkUop c w
        let draws := drawsOf o w (ctlOf c.acr).rnd
        issued n (nextPc c o) (fun c =>
          let c := { c with trk := c.trk ++ mkEntries u.seq rs, ctr := c.ctr + BitVec.ofNat 64 draws }
          if opQueue o = .matrix then { c with mq := c.mq ++ [u] } else { c with vq := c.vq ++ [u] }) s

/-- `dma`: reads and checks its descriptors (04 R132 to R134; 08 R220, R227; log 16, 24). A parity error on that read leaves the `dma`
not issued, so that it is the stop PC too (DESIGN CHOICE, log 106). -/
def doDma (n : Nat) (o : Op) (w : W64) (s : State) : State :=
  let c := getCore s n
  let a := (sRead c (fld w 44 40)).toNat
  let k := fld w 39 34 + 1
  if 4 ≤ c.dq.length then stallAt n w 0 s
  else match sRange false a (64 * k) 64 with
    | none => faultAt n cSADDR 0 s
    | some r =>
      if trkHit c (some r) then stallAt n w 0 s
      else match opnd c a (64 * k) with
        | none => faultAt n cPARITY 0 s
        | some bs =>
          let ds := descList bs
          if !ds.all (dLegal s n) then faultAt n cILLEGAL 0 s
          else if !ds.all dInSpace then faultAt n cSADDR 0 s
          else if decide (64 < (allDescs c).length + k) || decide (trkSize < c.trk.length + k) then stallAt n w 0 s
          else
            let u := { mkUop c w with sv := [sRead c (fld w 44 40)] }
            issued n (nextPc c o) (fun c =>
              { c with trk := c.trk ++ mkEntries u.seq (ds.map dRanges), dq := c.dq ++ [{ op := u, ch := fld w 47 45, descs := ds, read := 0 }] }) s

/-- The effect of a legal instruction whose predicate holds. -/
def effect (n : Nat) (o : Op) (w ext : W64) (s : State) : State :=
  let c := getCore s n
  if opSeq o && (inFlight c).any (boardHit c (regsRead o w) (regsWritten o w)) then stallAt n w ext s
  else match opFmt o with
    | .S => if opGrp o = 0 then doAlu n o w s else if opGrp o = 1 then doPred n o w s
            else if opGrp o = 2 then doMem n o w s else doCtl n o w s
    | .X => issued n (nextPc c o) (sWrite (fSD w) ext) s
    | .B => doBranch n o w s
    | .M => doQueue n o w s
    | .V => doQueue n o w s
    | .D =>
      if o = .dma then doDma n o w s
      else if o = .dwait then holdUnless n o (chanDone c (fld w 47 45)) (.dwait (fld w 47 45)) s
      else holdUnless n o (allDescs c).isEmpty .dwaitall s
    | .Y => match o with
      | .ssigAdd => doSig n o w s
      | .ssigSet => doSig n o w s
      | .swait => holdUnless n o (waitHolds c w) (.swait w []) s
      | .lfence => holdUnless n o (fenceDone c) .lfence s
      | .halt => doHalt n s
      | .strap => faultAt n cTRAP ((sRead c (fld w 41 37)).toNat % 65536) s
      | _ => doRequest n o w s

/-- The predicate of a word holds (03 R84). -/
def predHolds (c : Core) (w : W64) : Bool := pRead c (fld w 50 48) != bit w.toNat 51

/-- The word that stands at the PC names no instruction of the profile (03 R65, R78). -/
def unlisted (c : Core) : Bool := (wordOp (BitVec.ofNat 64 (leNat (spadBytes c c.pc.toNat 8)))).isNone

/-- Fetch, decode and issue of a word at the PC (03 R65, R75, R78, R83 to R85; 04 R112). -/
def attempt (n : Nat) (o : Op) (w ext : W64) (s : State) : State :=
  let c := getCore s n
  let pc := c.pc.toNat
  let len := if opFmt o = .X then 16 else 8
  match sRange false pc len 8 with
  | none => faultAt n cSADDR 0 s
  | some r =>
    if trkHit c (some r) then stallAt n w ext s
    else if spadParity c pc len then faultAt n cPARITY 0 s
    else if unlisted c || !legal o w then faultAt n cILLEGAL 0 s
    else if (inFlight c).any (boardHit c [100 + fld w 50 48] []) then stallAt n w ext s
    else if predHolds c w then effect n o w ext s
    else if o = .dma then skipDma n w s
    else issued n (nextPc c o) id s

/-- The core can issue: it holds a running job, its quad is powered and nothing holds issue. -/
def canIssue (s : State) (n : Nat) : Bool :=
  let c := getCore s n
  (match c.job with
   | some j => decide (j.st = .running)
   | none => false) && !c.frozen && coreOn s n

/-- The shared form of every Rowyn instruction's meaning: core `n` issues the word (log 3). -/
def issue (n : Nat) (o : Op) (w ext : W64) (s : State) : Res :=
  unitRes (decide (n < 100)) (if canIssue s n && decide ((getCore s n).hold = .none) then attempt n o w ext s else s)

/-! ### Ends of holds -/

/-- ISSUE_STALL_END: the stalled instruction is tried again (04 R101), the belfry having read what was handed to it. -/
def execIssueStallEnd (core : Nat) (s : State) : Res :=
  let s := readHands core s
  unitRes (decide (core < 100)) (match (getCore s core).hold with
    | .stall w ext =>
      if canIssue s core then
        attempt core ((wordOp w).getD .add) w ext (modCore core (fun c => { c with hold := .none }) s)
      else s
    | _ => s)

/-- SWAIT_RELEASE: the condition holds, or held at a value that the semaphore took while the wait was held (04 R113, 10 R269). -/
def execSwaitRelease (core : Nat) (s : State) : Res :=
  unitRes (decide (core < 100)) (match (getCore s core).hold with
    | .swait w seen =>
      let c := getCore s core
      if canIssue s core && (waitHolds c w || seen.any (waitMeets c w)) then issued core ((getCore s core).pc + 8) id s else s
    | _ => s)

/-- LFENCE_RELEASE: every earlier edge write is acknowledged (04 R113, 10 R272). -/
def execLfenceRelease (core : Nat) (s : State) : Res :=
  unitRes (decide (core < 100)) (match (getCore s core).hold with
    | .lfence => if canIssue s core && fenceDone (getCore s core) then issued core ((getCore s core).pc + 8) id s else s
    | _ => s)

/-- DWAIT_RELEASE: the descriptors awaited have completed (04 R132). -/
def execDwaitRelease (core : Nat) (s : State) : Res :=
  unitRes (decide (core < 100)) (match (getCore s core).hold with
    | .dwait ch => if canIssue s core && chanDone (getCore s core) ch then issued core ((getCore s core).pc + 8) id s else s
    | .dwaitall => if canIssue s core && (allDescs (getCore s core)).isEmpty then issued core ((getCore s core).pc + 8) id s else s
    | _ => s)

end Sys2Proof.Machine
end

