-- ==== Sys2Proof/Machine/Vector.lean ====
section
/-! DEFINITION. What the vector engine computes: lanes, rows, reductions, softmax helpers, conversions, tile loads and
stores, `vqapp`, `vtopk` and `rgsum` (04 R122 to R130, 07, 11 R290, 12 R315, R316). -/

namespace Sys2Proof.Machine

open Sys2Proof

/-! ### One lane -/

/-- Clamp to a signed width (04 R123). -/
def clampTo (w : Nat) (i : Int) : Nat × Fl :=
  let lo : Int := -((2 ^ (w - 1) : Nat) : Int)
  let hi : Int := ((2 ^ (w - 1) : Nat) : Int) - 1
  if i < lo then (unsgn 32 lo, flSAT) else if hi < i then (unsgn 32 hi, flSAT) else (unsgn 32 i, 0)

/-- The width code of 04 R123: 8, 16 or 32; 0 wraps. -/
def satWidth (imm : Nat) : Nat := [0, 8, 16, 32].getD (imm % 4) 0

/-- Wrap or saturate an exact result. -/
def satOr (imm : Nat) (i : Int) : Nat × Fl := if imm % 4 = 0 then (unsgn 32 i, 0) else clampTo (satWidth imm) i

/-- vadd (04 Table 4-8). -/
def laneAdd (imm a b : Nat) : Nat × Fl := satOr imm (sgn 32 a + sgn 32 b)
/-- vsub. -/
def laneSub (imm a b : Nat) : Nat × Fl := satOr imm (sgn 32 a - sgn 32 b)
/-- vmul. -/
def laneMul (imm a b : Nat) : Nat × Fl := satOr imm (sgn 32 a * sgn 32 b)
/-- vmulh: the exact product shifted right by the width, before clamping; width 0 gives the high 32 bits. -/
def laneMulh (imm a b : Nat) : Nat × Fl :=
  let p := sgn 32 a * sgn 32 b
  if imm % 4 = 0 then (unsgn 32 (p / 2 ^ 32), 0) else clampTo (satWidth imm) (p / 2 ^ satWidth imm)

/-- The integer and logic lanes of group 0x18; b is the second source or the shift amount. -/
def laneInt (o : Op) (imm a b : Nat) : Nat × Fl :=
  let n := b % 32
  match o with
  | .vadd => laneAdd imm a b
  | .vsub => laneSub imm a b
  | .vmul => laneMul imm a b
  | .vmulh => laneMulh imm a b
  | .vand => (a &&& b, 0)
  | .vor => (a ||| b, 0)
  | .vxor => (a ^^^ b, 0)
  | .vandn => (a &&& (2 ^ 32 - 1 - b), 0)
  | .vnot => (2 ^ 32 - 1 - a, 0)
  | .vshl => (a * 2 ^ n % 2 ^ 32, 0)
  | .vshr => (a / 2 ^ n, 0)
  | .vsra => (unsgn 32 (sgn 32 a / 2 ^ n), 0)
  | .vrotl => (rotl32 a n, 0)
  | .vimin => (if sgn 32 b < sgn 32 a then b else a, 0)
  | _ => (if sgn 32 a < sgn 32 b then b else a, 0)

/-- The f32 lanes of group 0x19 (04 Table 4-9, 07 R187). -/
def laneFlt (o : Op) (imm : Nat) (fl : Bool) (a b c : Nat) : Nat × Fl :=
  match o with
  | .vfadd => fAdd fl a b
  | .vfsub => fSub fl a b
  | .vfmul => fMul fl a b
  | .vfma => fFma fl a b c
  | .vfmin => (fMin a b, 0)
  | .vfmax => (fMax a b, 0)
  | .vfcmp => (if fCond (imm % 8) a b then 0xFFFFFFFF else 0, 0)
  | .vsel => (if c ≠ 0 then a else b, 0)
  | .vneg => ((a + 2 ^ 31) % 2 ^ 32, 0)
  | .vabs => (a % 2 ^ 31, 0)
  | _ => (a % 2 ^ 31 + b / 2 ^ 31 * 2 ^ 31, 0)

/-- vcvti: f32 to i32 under RND (04 Table 4-10). -/
def laneCvti (k : Ctl) (draw a : Nat) : Nat × Fl := xvTo k draw .i32 (xvOf .f32 a)
/-- vcvtf: i32 to f32 under RND. -/
def laneCvtf (k : Ctl) (draw a : Nat) : Nat × Fl := xvTo { k with flush := false } draw .f32 (xvOf .i32 a)

/-- Draw number i of an instruction (02 R51, R52). -/
def drawAt (u : Uop) (i : Nat) : Nat := gen u.seed.toNat u.stream.toNat (u.ctr.toNat + i) % 65536

/-- One lane of a lane-wise instruction; i is the flat output index. -/
def laneOp (o : Op) (u : Uop) (i a b c : Nat) : Nat × Fl :=
  let k := ctlOf u.acr
  let imm := vIMM u.word
  if opGrp o = 0x18 then laneInt o imm a b
  else if opGrp o = 0x19 then laneFlt o imm k.flush a b c
  else if opGrp o = 0x1A then transc (opCode o).2 k.flush a
  else match o with
    | .vcvti => laneCvti k (if k.rnd = 2 then drawAt u i else 0) a
    | .vcvtf => laneCvtf k (if k.rnd = 2 then drawAt u i else 0) a
    | .vmov => (a, 0)
    | .vbcast => (nthW u.sv 0 % 2 ^ 32, 0)
    | .vrng => (gen u.seed.toNat u.stream.toNat (u.ctr.toNat + i), 0)
    | _ => (0, 0)

/-- Lanes of a row, from index i. -/
def laneRow (f : Nat → Nat → Nat → Nat → Nat × Fl) : Nat → List Nat → List Nat → List Nat → List Nat × Fl
  | _, [], _, _ => ([], 0)
  | i, a :: as, bs, cs =>
    let r := f i a (bs.headD 0) (cs.headD 0)
    let t := laneRow f (i + 1) as bs.tail cs.tail
    (r.1 :: t.1, r.2 ||| t.2)

/-- The second source of a row: TB, the BS scalar, or an immediate shift amount (04 R122, R123). -/
def secondRow (o : Op) (u : Uop) (c : Core) (r : Nat) : List Nat :=
  let w := u.word
  if opShift o && bit (vIMM w) 6 then List.replicate 128 (vIMM w % 32)
  else if useBS o w then List.replicate 128 (nthW u.sv 0 % 2 ^ 32)
  else if useTB o w then rowRead c (vTB w) r
  else List.replicate 128 0

/-- The result of part of an instruction: the core, its flags, whether a parity error stopped it. -/
structure VRes where
  core : Core
  fl   : Fl
  bad  : Bool

/-- One row of a lane-wise instruction; k counts from 0 at ROW0. -/
def rowLanes (o : Op) (u : Uop) (k : Nat) (c : Core) : VRes :=
  let w := u.word
  let r := vROW0 w + k
  let a := rowRead c (vTA w) r
  let x := laneRow (laneOp o u) (k * 128) a (secondRow o u c r) (if useTC o then rowRead c (vTC w) r else [])
  ⟨rowWrite (vTD w) r x.1 c, x.2, false⟩

/-! ### Reductions (07 R189 to R193) -/

/-- One level of the sum tree. -/
def treeLevel (fl : Bool) : List Nat → List Nat × Fl
  | a :: b :: t =>
    let s := fAdd fl a b
    let r := treeLevel fl t
    (s.1 :: r.1, s.2 ||| r.2)
  | l => (l, 0)

/-- The tree of seven levels (07 R189). -/
def treeSum (fl : Bool) : Nat → List Nat → Nat × Fl
  | 0, l => (l.headD 0, 0)
  | f + 1, l =>
    let r := treeLevel fl l
    let t := treeSum fl f r.1
    (t.1, r.2 ||| t.2)

/-- A sequential sum (07 R190). -/
def seqSum (fl : Bool) : Nat → List Nat → Nat × Fl
  | acc, [] => (acc, 0)
  | acc, x :: t =>
    let s := fAdd fl acc x
    let r := seqSum fl s.1 t
    (r.1, s.2 ||| r.2)

/-- Index of the largest value, lowest index first, NaN skipped (07 R192): best so far as index and value. -/
def argBest (int : Bool) : Option (Nat × Nat) → Nat → List Nat → Option (Nat × Nat)
  | b, _, [] => b
  | b, i, x :: t =>
    let better := match b with
      | none => int || !isNan32 x
      | some (_, y) => if int then decide (sgn 32 y < sgn 32 x) else !isNan32 x && fLess y x
    argBest int (if better then some (i, x) else b) (i + 1) t

/-- A reduction over a list that is not a sum or an argmax. -/
def foldRed (op : Nat) (int : Bool) : List Nat → Nat
  | [] => 0
  | x :: t => t.foldl (fun a b =>
      match op with
      | 1 => if int then (if sgn 32 a < sgn 32 b then b else a) else fMax a b
      | 2 => if int then (if sgn 32 b < sgn 32 a then b else a) else fMin a b
      | 4 => a ^^^ b
      | 5 => a &&& b
      | _ => a ||| b) (if !int && (op = 1 || op = 2) && isNan32 x then fmNan .f32 else x)

/-- The -1 index. -/
def noIndex : Nat := 2 ^ 32 - 1

/-- The f32 sum of one lane alone: no addition runs, a NaN becomes the canonical NaN and FLUSH acts on the operand
(07 R187, R190, R191; log 101). -/
def loneSum (fl : Bool) (x : Nat) : Nat × Fl :=
  let v := xvIn fl .f32 x
  ((toF32 false v.1).1, v.2)

/-- The result of one row or column under IMM (04 R127). `tree` chooses the order of a sum. -/
def redList (imm : Nat) (fl tree : Bool) (l : List Nat) (base : Nat) : Nat × Fl :=
  let op := imm % 8
  let int := bit imm 3
  if op = 0 then
    if int then (l.foldl (fun a b => (a + b) % 2 ^ 32) 0, 0)
    else if tree then treeSum fl 7 l
    else match l with
      | [x] => loneSum fl x
      | _ => seqSum fl (l.headD 0) l.tail
  else if op = 3 then
    match argBest int none base l with
    | some (i, _) => (i, 0)
    | none => (noIndex, 0)
  else (foldRed op int l, 0)

/-- vred.row of one row (04 Table 4-11). -/
def rowRed (u : Uop) (k : Nat) (c : Core) : VRes :=
  let w := u.word
  let r := vROW0 w + k
  let x := redList (vIMM w) (ctlOf u.acr).flush true (rowRead c (vTA w) r) 0
  ⟨rowWrite (vTD w) r (x.1 :: List.replicate 127 0) c, x.2, false⟩

/-- vred.col: a sequential reduction down each lane into row ROW0. -/
def colRed (u : Uop) (c : Core) : VRes :=
  let w := u.word
  let rows := (List.range (vN w)).map (fun k => rowRead c (vTA w) (vROW0 w + k))
  let xs := (List.range 128).map (fun j =>
    redList (vIMM w) (ctlOf u.acr).flush false (rows.map (fun r => r.getD j 0)) (vROW0 w))
  ⟨rowWrite (vTD w) (vROW0 w) (xs.map Prod.fst) c, flAll (xs.map Prod.snd), false⟩

/-- A 64-bit summary of an integer result (07 R193): sign-extended, or zero-extended for xor, and, or. -/
def sumWord (op n : Nat) : W64 := if 4 ≤ op then BitVec.ofNat 64 n else BitVec.ofNat 64 (unsgn 64 (sgn 32 n))

/-- vredall into mMD (07 R190, R193). -/
def allRed (u : Uop) (c : Core) : VRes :=
  let w := u.word
  let imm := vIMM w
  let op := imm % 8
  let fl := (ctlOf u.acr).flush
  let rows := (List.range (vN w)).map (fun k => rowRead c (vTA w) (vROW0 w + k))
  let x : Nat × Fl :=
    if op = 0 && !bit imm 3 then
      let t := rows.map (fun r => treeSum fl 7 r)
      let q := seqSum fl ((t.map Prod.fst).headD 0) (t.map Prod.fst).tail
      (q.1, q.2 ||| flAll (t.map Prod.snd))
    else redList imm fl false rows.flatten (vROW0 w * 128)
  let v := if bit imm 3 || decide (3 ≤ op) then sumWord op x.1 else BitVec.ofNat 64 x.1
  ⟨mWrite (vMD w) v c, x.2, false⟩

/-- vcmpcnt into mMD (04 Table 4-11). -/
def cmpCount (u : Uop) (c : Core) : VRes :=
  let w := u.word
  let imm := vIMM w
  let b := nthW u.sv 0 % 2 ^ 32
  let holds (a : Nat) : Bool :=
    if bit imm 3 then
      let x := sgn 32 a
      let y := sgn 32 b
      match imm % 8 with
      | 0 => x = y
      | 1 => x ≠ y
      | 2 => decide (x < y)
      | 3 => decide (x ≤ y)
      | 4 => decide (y < x)
      | _ => decide (y ≤ x)
    else fCond (imm % 8) a b
  let n := (List.range (vN w)).foldl (fun n k => n + ((rowRead c (vTA w) (vROW0 w + k)).filter holds).length) 0
  ⟨mWrite (vMD w) (BitVec.ofNat 64 n) c, 0, false⟩

/-! ### Softmax helpers (07 R194, R195) -/

/-- vsmstat of one row. -/
def rowStat (u : Uop) (k : Nat) (c : Core) : VRes :=
  let w := u.word
  let r := vROW0 w + k
  let fl := (ctlOf u.acr).flush
  let m := laneRead c (vTD w) r 0
  let m' := (rowRead c (vTA w) r).foldl fMax m
  let x : Nat × Fl :=
    if isNan32 m' then (fmNan .f32, 0)
    else if fCond 0 m m' then (0x3F800000, 0)
    else if m = 0xFF800000 then (0, 0)
    else transc 0 fl (fSub false m m').1
  ⟨laneWrite (vTD w) r 2 x.1 (laneWrite (vTD w) r 0 m' c), x.2, false⟩

/-- Exponentials of a row. -/
def expRow (fl : Bool) (m : Nat) : List Nat → List Nat × Fl
  | [] => ([], 0)
  | x :: t =>
    let d := fSub false x m
    let e := transc 0 fl d.1
    let r := expRow fl m t
    (e.1 :: r.1, d.2 ||| e.2 ||| r.2)

/-- vsmexp of one row; lane 1 × lane 2 + row sum is rounded once. The subtraction does not flush, the exponentials
and the sums do (07 R187, R188; log 29). -/
def rowExp (u : Uop) (k : Nat) (c : Core) : VRes :=
  let w := u.word
  let r := vROW0 w + k
  let fl := (ctlOf u.acr).flush
  let m := laneRead c (vTB w) r 0
  let x := if m = 0xFF800000 then (List.replicate 128 0, (0 : Fl)) else expRow fl m (rowRead c (vTA w) r)
  let s := treeSum fl 7 x.1
  let l1 := fFma fl (laneRead c (vTB w) r 1) (laneRead c (vTB w) r 2) s.1
  ⟨laneWrite (vTB w) r 1 l1.1 (rowWrite (vTD w) r x.1 c), x.2 ||| s.2 ||| l1.2, false⟩

/-! ### Tile loads and stores (04 R125, R126) -/

/-- The integer of a code as an i32 lane. -/
def intLane (f : Fm) (code : Nat) : Nat := unsgn 32 (sgn (fmBits f) code)

/-- Decode the elements of a row with their block scales. -/
def decodeRow (fl : Bool) (f : Fm) (m : Sm) (coarse : Nat) (scales : List Byte) : Nat → List Nat → List Nat × Fl
  | _, [] => ([], 0)
  | i, e :: t =>
    let r := decodeElem fl f m e ((scales.getD (i / smBlock m) 0).toNat) coarse
    let q := decodeRow fl f m coarse scales (i + 1) t
    (r.1 :: q.1, r.2 ||| q.2)

/-- vld of one row. -/
def rowLoad (u : Uop) (k : Nat) (c : Core) : VRes :=
  let w := u.word
  let f := fmAt (vFMT w)
  let m := vSM w
  let per := if smIsBlock m then 128 / smBlock m else 0
  match opnd c (nthW u.sv 0 + k * vStride w) (rowLen f), opnd c (nthW u.sv 1 + k * per) per with
  | some bs, some sc =>
    let es := (unpack f bs).take 128
    let x := if fmInt f && m = .none then (es.map (intLane f), (0 : Fl))
             else decodeRow (ctlOf u.acr).flush f m (nthW u.sv 2 % 2 ^ 32) sc 0 es
    ⟨rowWrite (vTD w) (vROW0 w + k) x.1 c, x.2, false⟩
  | _, _ => ⟨c, 0, true⟩

/-- The control and draws of a store: an f32 destination rounds to nearest even and draws nothing (02 R49, R52). -/
def storeCtl (u : Uop) (f : Fm) : Ctl × (Nat → Nat) :=
  let k := ctlOf u.acr
  if f = .f32 then (ctlNear k, fun _ => 0) else (k, if k.rnd = 2 then drawAt u else fun _ => 0)

/-- Put bytes into a core, parity good. -/
def putS (a : Nat) (bs : List Byte) (c : Core) : Core := spadPut a bs c

/-- vst of one row (04 R126). -/
def rowStore (u : Uop) (k : Nat) (c : Core) : VRes :=
  let w := u.word
  let f := fmAt (vFMT w)
  let m := vSM w
  let fl := (ctlOf u.acr).flush
  let (ct, dr) := storeCtl u f
  let a := nthW u.sv 0 + k * vStride w
  let row := rowRead c (vTA w) (vROW0 w + k)
  if m = .none then
    if fmInt f then
      let x := convRun ct f dr (k * 128) (row.map (xvOf .i32))
      ⟨putS a (pack f x.1) c, x.2, false⟩
    else
      let v := readVals fl row
      let cc := xvIn fl .f32 (nthW u.sv 2 % 2 ^ 32)
      let x := convRun ct f dr (k * 128) (v.1.map (fun y => xDiv y cc.1))
      ⟨putS a (pack f x.1) c, x.2 ||| v.2 ||| cc.2, false⟩
  else
    let per := 128 / smBlock m
    let sa := nthW u.sv 1 + k * per
    let q := bit (vIMM w) 10
    let given := if q then some [] else opnd c sa per
    match given with
    | none => ⟨c, 0, true⟩
    | some g =>
      let v := readVals fl row
      let cc := xvIn fl .f32 (nthW u.sv 2 % 2 ^ 32)
      let x := quantRun ct m f cc.1 dr (if q then none else some (g.map BitVec.toNat)) (k * 128)
        ((row.map (fun y => bit y 31)).zip v.1)
      let c := putS a (pack f x.1) c
      ⟨if q then putS sa (x.2.1.map (BitVec.ofNat 8)) c else c, x.2.2 ||| v.2 ||| cc.2, false⟩

/-! ### vqapp (04 R128, 07 R197, 11 R290) -/

/-- Quantise one run of h elements and store it. FLUSH does not act on `vqapp` (07 R187): its flags are those of Table
2-8 (04 R128). -/
def qappPart (u : Uop) (h hb i0 a sa : Nat) (vals : List Nat) (c : Core) : Core × Fl :=
  let w := u.word
  let f := fmAt (vFMT w)
  let (ct, dr) := storeCtl u f
  let v := readVals false (vals.take h)
  let cc := xvIn false .f32 (nthW u.sv 2 % 2 ^ 32)
  let x := quantRun ct .b16 f cc.1 dr none i0 (((vals.take h).map (fun y => bit y 31)).zip v.1)
  (putS sa (x.2.1.map (BitVec.ofNat 8)) (putS a ((pack f x.1).take hb) c), x.2.2 ||| v.2 ||| cc.2)

/-- vqapp of token t. -/
def tokenAppend (u : Uop) (t : Nat) (c : Core) : VRes :=
  let w := u.word
  let (h, hb, rpt, _) := qappGeom w
  let src (tile : Nat) : List Nat := ((List.range rpt).map (fun i => rowRead c tile (vROW0 w + t * rpt + i))).flatten
  let a := nthW u.sv 0 + t * hb
  let sa := nthW u.sv 1 + t * (h / 16)
  let x := qappPart u h hb (t * 2 * h) a sa (src (vTA w)) c
  let y := qappPart u h hb (t * 2 * h + h) (a + 32 * hb) (sa + 2 * h) (src (vTB w)) x.1
  ⟨y.1, x.2 ||| y.2, false⟩

/-! ### vtopk and rgsum (07 R196, 12 R315, R316) -/

/-- Insert a candidate (expert, score) below every candidate that ranks at least as high. -/
def rankInsert (x : Nat × Nat) : List (Nat × Nat) → List (Nat × Nat)
  | [] => [x]
  | h :: t => if fLess h.2 x.2 then x :: h :: t else h :: rankInsert x t

/-- The candidates of a row in rank order, at most k kept. -/
def rankRow (k : Nat) : Nat → List Nat → List (Nat × Nat) → List (Nat × Nat)
  | _, [], acc => acc
  | i, s :: t, acc => rankRow k (i + 1) t (if isNan32 s then acc else (rankInsert (i, s) acc).take k)

/-- The scores of a token row. -/
def scoreRow (u : Uop) (k : Nat) (c : Core) : Option (List Nat) :=
  let ns := vIMM u.word / 16
  (opnd c (nthW u.sv 0 + k * ns * 32) (ns * 32)).map (fun bs => (unpack .f32 bs))

/-- vtopk of one row. -/
def rowTopk (u : Uop) (k : Nat) (c : Core) : VRes :=
  let w := u.word
  let kk := vIMM w % 16
  match scoreRow u k c with
  | none => ⟨c, 0, true⟩
  | some sc =>
    let l := rankRow kk 0 sc []
    let idx := (List.range 64).map (fun j => if j < kk then (match l[j]? with | some x => x.1 | none => noIndex) else 0)
    let scs := (List.range 64).map (fun j => if j < kk then (match l[j]? with | some x => x.2 | none => 0xFF800000) else 0)
    ⟨rowWrite (vTD w) (vROW0 w + k) (idx ++ scs) c, 0, false⟩

/-- Rows of a `vtopk` that hold a NaN score, and the first of them from ROW0 (12 R315). -/
def nanRows (u : Uop) (c : Core) : List Nat :=
  (List.range (vN u.word)).filter (fun k =>
    match scoreRow u k c with
    | some sc => sc.any isNan32
    | none => false)

/-- The token record of row k (12 R316, Table 12-1). -/
def tokenRec (u : Uop) (k : Nat) (c : Core) : List Byte :=
  let w := u.word
  let kk := vIMM w % 16
  let cc := if vIMM w / 16 = 0 then kk else vIMM w / 16
  let row := rowRead c (vTA w) (vROW0 w + k)
  let idx := (List.range 8).map (fun r =>
    if r < cc then (let i := row.getD r 0; if i < 1024 then i else 0xFFFF) else 0xFFFF)
  let scs := (List.range 8).map (fun r => if r < cc then row.getD (64 + r) 0 else 0xFF800000)
  (idx.map (natLe 2)).flatten ++ (scs.map (natLe 4)).flatten ++ natLe 4 (nthW u.sv 1 % 2 ^ 32 + k) ++ natLe 1 (kk + 16 * cc) ++ zeros 11

/-- rgsum: the records of all rows. -/
def gateSum (u : Uop) (c : Core) : VRes :=
  let recs := ((List.range (vN u.word)).map (fun k => tokenRec u k c)).flatten
  ⟨putS (nthW u.sv 0) recs c, 0, false⟩

/-! ### Whole instructions -/

/-- Instructions that write only at their end (07 R183, R201). -/
def vWhole (o : Op) : Bool := o = .vredCol || o = .vredall || o = .vcmpcnt || o = .rgsum

/-- Units of work of a vector instruction: rows, tokens for vqapp, 1 where it is done whole. -/
def vUnits (o : Op) (w : W64) : Nat :=
  if vWhole o then 1 else if o = .vqapp then (qappGeom w).2.2.2 else vN w

/-- One unit of work. -/
def vUnit (o : Op) (u : Uop) (k : Nat) (c : Core) : VRes :=
  match o with
  | .vredRow => rowRed u k c
  | .vredCol => colRed u c
  | .vredall => allRed u c
  | .vcmpcnt => cmpCount u c
  | .vsmstat => rowStat u k c
  | .vsmexp => rowExp u k c
  | .vld => rowLoad u k c
  | .vst => rowStore u k c
  | .vqapp => tokenAppend u k c
  | .vtopk => rowTopk u k c
  | .rgsum => gateSum u c
  | _ => rowLanes o u k c

/-- Units k to k + n - 1, stopping at a parity error: the units done and the result. -/
def vRun (o : Op) (u : Uop) : Nat → Nat → Core → Nat × VRes
  | _, 0, c => (0, ⟨c, 0, false⟩)
  | k, n + 1, c =>
    let r := vUnit o u k c
    if r.bad then (0, ⟨c, 0, true⟩)
    else
      let t := vRun o u (k + 1) n r.core
      (t.1 + 1, ⟨t.2.core, r.fl ||| t.2.fl, t.2.bad⟩)

end Sys2Proof.Machine
end

