-- ==== Sys2Proof/Machine/Matrix.lean ====
section
/-! DEFINITION. What the matrix engine computes: `mmac`, `mdrain`, `mload`, `mzero` (04 R117 to R121, 05), and the
mangle's block decoder (06). -/

namespace Sys2Proof.Machine

open Sys2Proof

/-! ### mmac -/

/-- Group length G (05 Table 5-2). -/
def groupLen (w : W64) : Nat :=
  let fa := fmAt (mFA w)
  let fb := fmAt (mFB w)
  if fa = .f32 || fb = .f32 then 4
  else if fa = .bf16 || fa = .f16 || fb = .bf16 || fb = .f16 then 8
  else 16

/-- Index of element (i, k) of A, or (k, j) as (j, k) of B, in its stored tile (04 R118, 05 R162). -/
def tileIdx (kMajor : Bool) (klen x k : Nat) : Nat := if kMajor then x * klen + k else k * 128 + x

/-- The flags of elements of a wide operand (05 R152), and each element with its fine scale, exactly. -/
def scaledElems (fl : Bool) (f : Fm) (m : Sm) (sc : List Byte) : Nat → List Nat → List XV × Fl
  | _, [] => ([], 0)
  | i, e :: t =>
    let q := xvIn fl f e
    let p := if smIsBlock m then fineMul m (signOf f e) q.1 (sc.getD (i / smBlock m) 0).toNat else (q.1, 0)
    let r := scaledElems fl f m sc (i + 1) t
    (p.1 :: r.1, q.2 ||| p.2 ||| r.2)

/-- The exact group sum P of products, with R151's special cases. -/
def groupSum (ts : List (XV × Fl)) : XV × Fl :=
  let nan := ts.any (fun t => decide (t.1 = .nan))
  let pos := ts.any (fun t => decide (t.1 = .inf false))
  let neg := ts.any (fun t => decide (t.1 = .inf true))
  let fl := flAll (ts.map Prod.snd)
  if nan || (pos && neg) then (.nan, fl ||| flIf (pos && neg) flINV)
  else (ts.foldl (fun p t => (xAdd p t.1).1) (xZero false), fl)

/-- One group of one element: T and the new accumulator value (05 R149, R151): an `mmac` never sets UF (R152). The sum is
multiplied by cA first and by cB after it, so of 0 x infinity and a NaN scale only the first met sets its flag (DESIGN CHOICE, log 114). -/
def groupStep (ca cb : XV) (acc : Nat) (ts : List (XV × Fl)) : Nat × Fl :=
  let p := groupSum ts
  let x := xMul p.1 ca
  let y := xMul x.1 cb
  let t := toF32 false y.1
  let r := fAdd false acc t.1
  (r.1, (p.2 ||| x.2 ||| y.2 ||| t.2 ||| r.2) &&& ~~~ flUF)

/-- Groups g to g + n - 1 of element (i, j). -/
def elemGroups (g0 : Nat) (ca cb : XV) (av bv : Nat → XV) (glen : Nat) : Nat → Nat → Nat × Fl
  | 0, acc => (acc, 0)
  | n + 1, acc =>
    let ts := (List.range glen).map (fun d => xMul (av (g0 * glen + d)) (bv (g0 * glen + d)))
    let r := groupStep ca cb acc ts
    let q := elemGroups (g0 + 1) ca cb av bv glen n r.1
    (q.1, r.2 ||| q.2)

/-- The integer sum of element (i, j) over steps k0 to k0 + n - 1, modulo 2^32 (05 R150). -/
def elemInt (av bv : Nat → Int) (k0 n : Nat) (acc : Nat) : Nat :=
  unsgn 32 ((List.range n).foldl (fun s d => s + av (k0 + d) * bv (k0 + d)) (acc : Int))

/-- The products an accumulator holds (02 R63). -/
def accMix (c : Core) (a : Nat) : AccMix := if a = 0 then c.mix0 else c.mix1
/-- Mark the products an accumulator holds. -/
def setMix (a : Nat) (m : AccMix) (c : Core) : Core := if a = 0 then { c with mix0 := m } else { c with mix1 := m }

/-- The stored codes of an operand, and its sidecar; none on a parity error. -/
def operandCodes (c : Core) (f : Fm) (m : Sm) (a sa n : Nat) : Option (List Nat × List Byte) :=
  match opnd c a (packedLen f n), (if smIsBlock m then opnd c sa (n / smBlock m) else some []) with
  | some bs, some sc => some ((unpack f bs).take n, sc)
  | _, _ => none

/-- The coarse scale of an operand: none applies to an integer format under NONE (02 R59). -/
def coarseOf (fl : Bool) (f : Fm) (m : Sm) (c : Nat) : XV × Fl :=
  if fmInt f && m = .none then (.fin false 1 1 0, 0) else xvIn fl .f32 c

/-- Does an `mmac` that has done `k0` steps leave an undefined sum (02 R63, 04 R119)? One that has begun carries the mark
in its accumulator. -/
def mmacUndef (w : W64) (k0 : Nat) (c : Core) : Bool :=
  let mix := accMix c (mACC w)
  if k0 = 0 then
    !mCLR w && ((accInt c (mACC w) == mmacFloat w) || (decide (mSMA w = .ch) && (decide (mix = .other) || decide (mix = .undef))))
  else decide (mix = .undef)

/-- Steps k0 to k1 - 1 of an `mmac` whose B codes are given; `fr` is the index of its free values. The result is
undefined under R63 and R119: every element a free value (log 7); a float kind sets the flags of an accumulation
from a free value, an i32 kind none. -/
def mmacRun (u : Uop) (bCodes : Option (List Nat)) (k0 k1 fr : Nat) (c : Core) : VRes :=
  let w := u.word
  let kl := mK w
  let fa := fmAt (mFA w)
  let fb := fmAt (mFB w)
  let fl := (ctlOf u.acr).flush
  let acc := mACC w
  let n := 128 * kl
  let aOp := operandCodes c fa (mSMA w) (nthW u.sv 0) (nthW u.sv 1) n
  let bOp := match bCodes with
    | some l => some (l, [])
    | none => operandCodes c fb (mSMB w) (nthW u.sv 2) (nthW u.sv 3) n
  match aOp, bOp with
  | some a, some b =>
    let isF := mmacFloat w
    let undef := mmacUndef w k0 c
    let ea := scaledElems fl fa (mSMA w) a.2 0 a.1
    let eb := scaledElems fl fb (mSMB w) b.2 0 b.1
    let av := ea.1.toArray
    let bv := eb.1.toArray
    let sc := nthW u.sv 4
    let ca := coarseOf fl fa (mSMA w) (sc % 2 ^ 32)
    let cb := coarseOf fl fb (mSMB w) (sc / 2 ^ 32)
    let clr := mCLR w && decide (k0 = 0)
    let getA (i k : Nat) : XV := av.getD (tileIdx (!mTA w) kl i k) .nan
    let getB (j k : Nat) : XV := bv.getD (tileIdx (mTB w) kl j k) .nan
    let toI (x : XV) : Int := match x with
      | .fin s m _ _ => if s then -(m : Int) else m
      | _ => 0
    let g := groupLen w
    let elem (i : Nat) (old : Nat) (j : Nat) : Nat × Fl :=
      if undef then
        let start := (Config.freeWord (fr + 16384 + i * 128 + j)).toNat % 2 ^ 32
        ((Config.freeWord (fr + i * 128 + j)).toNat % 2 ^ 32,
         if isF then (elemGroups (k0 / g) ca.1 cb.1 (getA i) (getB j) g ((k1 - k0) / g) start).2 else 0)
      else if isF then elemGroups (k0 / g) ca.1 cb.1 (getA i) (getB j) g ((k1 - k0) / g) (if clr then 0 else old)
      else (elemInt (fun k => toI (getA i k)) (fun k => toI (getB j k)) k0 (k1 - k0) (if clr then 0 else old), 0)
    let rows := (List.range 128).map (fun i =>
      ((accRow c acc i).zip (List.range 128)).map (fun e => elem i e.1 e.2))
    let c1 := (rows.zip (List.range 128)).foldl (fun c r => accWrite acc r.2 (r.1.map Prod.fst) c) c
    let f := flAll (rows.map (fun r => flAll (r.map Prod.snd))) ||| ea.2 ||| eb.2 ||| (if isF then ca.2 ||| cb.2 else 0)
    let mix : AccMix := if undef then .undef else if mSMA w = .ch then .ch else .other
    ⟨setMix acc mix (setKind acc (!isF) c1), f, false⟩
  | _, _ => ⟨c, 0, true⟩

/-! ### mdrain, mload, mzero -/

/-- The values of a row of an accumulator by the kind it holds (05 R155), flushed in under FLUSH (R120). -/
def drainVals (fl int : Bool) : List Nat → List XV × Fl
  | [] => ([], 0)
  | a :: t =>
    let x := if int then (xvOf .i32 a, (0 : Fl)) else xvIn fl .f32 a
    let r := drainVals fl int t
    (x.1 :: r.1, x.2 ||| r.2)

/-- The f32 results of a CH drain of a row before the final conversion (02 R62). Each product is an f32 operation of its own, which
FLUSH reads and writes flushed (DEDUCED, log 30). -/
def chRow (fl : Bool) (sa cbits : Nat) (int : Bool) : List Nat → List Nat → List Nat × Fl
  | a :: as, sb :: sbs =>
    let x := if int then toF32 false (xvOf .i32 a) else (a, 0)
    let p := fMul fl x.1 sa
    let q := fMul fl p.1 sb
    let r := fMul fl q.1 cbits
    let t := chRow fl sa cbits int as sbs
    (r.1 :: t.1, x.2 ||| p.2 ||| q.2 ||| r.2 ||| t.2)
  | _, _ => ([], 0)

/-- One row of an `mdrain` (04 R120, 05 R158); sa and sb of a CH drain as read before the first row (R159). The row's data is written
before its scales, which counts only where the two overlap (DESIGN CHOICE, log 115). -/
def drainRow (u : Uop) (sas sbs : List Nat) (i : Nat) (c : Core) : VRes :=
  let w := u.word
  let f := fmAt (mFA w)
  let acc := mACC w
  let fl := (ctlOf u.acr).flush
  let (ct, dr) := storeCtl u f
  let row := accRow c acc i
  let a := nthW u.sv 0 + i * rowLen f
  let cb := nthW u.sv 4 % 2 ^ 32
  let cc := xvIn fl .f32 cb
  if mSMA w = .ch then
    let x := chRow fl (sas.getD i 0) cb (accInt c acc) row sbs
    let y := convRun ct f dr (i * 128) (x.1.map (xvOf .f32))
    ⟨putS a (pack f y.1) c, x.2 ||| y.2, false⟩
  else
    let v := drainVals fl (accInt c acc) row
    if smIsBlock (mSMA w) then
      let x := quantRun ct (mSMA w) f cc.1 dr none (i * 128) ((row.map (fun y => bit y 31)).zip v.1)
      let c := putS a (pack f x.1) c
      ⟨putS (nthW u.sv 1 + i * (128 / smBlock (mSMA w))) (x.2.1.map (BitVec.ofNat 8)) c, x.2.2 ||| v.2 ||| cc.2, false⟩
    else
      let p := v.1.map (fun y => xMul y cc.1)
      let x := convRun ct f dr (i * 128) (p.map Prod.fst)
      ⟨putS a (pack f x.1) c, x.2 ||| v.2 ||| cc.2 ||| flAll (p.map Prod.snd), false⟩

/-- Rows i to i + n - 1 of an `mdrain`. -/
def drainRows (u : Uop) (sas sbs : List Nat) : Nat → Nat → Core → VRes
  | _, 0, c => ⟨c, 0, false⟩
  | i, n + 1, c =>
    let r := drainRow u sas sbs i c
    let t := drainRows u sas sbs (i + 1) n r.core
    ⟨t.core, r.fl ||| t.fl, t.bad⟩

/-- The scales sa and sb of a CH drain, as bytes: read before its first row, and kept behind the s-registers of a drain that was
stopped part-way (05 R159, 03 R93; log 13). None on a parity error; none to read in another mode. -/
def chBytes (u : Uop) (c : Core) : Option (List Byte × List Byte) :=
  if mSMA u.word ≠ .ch then some ([], [])
  else if u.sv.length = 133 then
    let k := wordBytes (u.sv.drop 5)
    some (k.take 512, k.drop 512)
  else match opnd c (nthW u.sv 2) 512, opnd c (nthW u.sv 3) 512 with
    | some a, some b => some (a, b)
    | _, _ => none

/-- The scales of a CH drain. -/
def chScales (u : Uop) (c : Core) : Option (List Nat × List Nat) := (chBytes u c).map (fun x => (unpack .f32 x.1, unpack .f32 x.2))

/-- Rows of an `mdrain`, with CLR applied once the last row has been read (05 R161). -/
def drainRun (u : Uop) (i n : Nat) (c : Core) : VRes :=
  let w := u.word
  match chScales u c with
  | none => ⟨c, 0, true⟩
  | some (sas, sbs) =>
    let r := drainRows u sas sbs i n c
    let zero := mCLR w && decide (i + n = 128)
    ⟨if zero then setMix (mACC w) .fresh { r.core with acc := smapClear r.core.acc (mACC w * 16384) (mACC w * 16384 + 16384) }
     else r.core, r.fl, false⟩

/-- Rows i to i + n - 1 of an `mload` (04 R121): stops at a parity error. -/
def loadRows (u : Uop) : Nat → Nat → Core → Nat × VRes
  | _, 0, c => (0, ⟨c, 0, false⟩)
  | i, n + 1, c =>
    match opnd c (nthW u.sv 0 + 512 * i) 512 with
    | none => (0, ⟨c, 0, true⟩)
    | some bs =>
      let t := loadRows u (i + 1) n (accWrite (mACC u.word) i (unpack .f32 bs) c)
      (t.1 + 1, t.2)

/-- `mload`. -/
def loadRun (u : Uop) (i n : Nat) (c : Core) : Nat × VRes :=
  let a := mACC u.word
  loadRows u i n (setMix a .fresh (setKind a (decide (mFA u.word = 10)) c))

/-- `mzero`: the accumulator is 0 and of kind f32 (04 R121). -/
def zeroAcc (u : Uop) (c : Core) : VRes :=
  let a := mACC u.word
  ⟨setMix a .fresh (setKind a false { c with acc := smapClear c.acc (a * 16384) (a * 16384 + 16384) }), 0, false⟩

/-! ### The mangle (06) -/

/-- Entries of the canonical order (06 R169): symbol, or none for the escape. -/
def canonOrder (t : List Byte) : List (Option Nat) :=
  let nsym := rdN t 2 1
  let syms := ((rdB t 16 32).take nsym).map (fun b => some b.toNat)
  let e := rdN t 3 1
  syms.take e ++ [none] ++ syms.drop e

/-- COUNT[1..12]. -/
def tblCounts (t : List Byte) : List Nat := (rdB t 4 12).map BitVec.toNat

/-- A code table is valid (06 R170). -/
def tblValid (t : List Byte) (fmt : Nat) : Bool :=
  let nsym := rdN t 2 1
  let cs := tblCounts t
  let syms := ((rdB t 16 32).take nsym).map BitVec.toNat
  decide (rdN t 0 1 ≠ 0) && decide (rdN t 1 1 = fmt) && decide (1 ≤ nsym) && decide (nsym ≤ 32) && decide (rdN t 3 1 ≤ nsym)
    && decide (cs.sum = nsym + 1)
    && decide (((cs.zip (List.range 12)).map (fun x => x.1 * 2 ^ (11 - x.2))).sum = 4096)
    && decide syms.Nodup && (fmt = 0 || syms.all (fun x => decide (x < 32)))
    && ((rdB t 16 32).drop nsym).all (fun b => b = 0) && (rdB t 48 16).all (fun b => b = 0)

/-- Codewords as (length, code, symbol) by the pseudocode of 06 R170. -/
def assignCodes : Nat → Nat → List Nat → List (Option Nat) → List (Nat × Nat × Option Nat)
  | _, _, [], _ => []
  | l, code, n :: cs, syms =>
    ((syms.take n).zip (List.range n)).map (fun x => (l, code + x.2, x.1)) ++ assignCodes (l + 1) ((code + n) * 2) cs (syms.drop n)

/-- The bits of a stream, bit 0 of each byte first (06 R168). -/
def streamBits (bs : List Byte) : List Bool := (bs.map (fun b => (List.range 8).map (fun i => b.getLsbD i))).flatten

/-- Read one codeword, most significant bit first: its symbol and the rest. -/
def readCode (tbl : List (Nat × Nat × Option Nat)) : Nat → Nat → Nat → List Bool → Option (Option Nat × List Bool)
  | 0, _, _, _ => none
  | _, _, _, [] => none
  | f + 1, len, code, b :: t =>
    let code := 2 * code + b2n b
    match tbl.find? (fun e => decide (e.1 = len + 1) && decide (e.2.1 = code)) with
    | some e => some (e.2.2, t)
    | none => readCode tbl f (len + 1) code t

/-- A raw exponent, least significant bit first. -/
def readRaw (n : Nat) (bs : List Bool) : Option (Nat × List Bool) :=
  if bs.length < n then none
  else some (((bs.take n).zip (List.range n)).foldl (fun a x => a + b2n x.1 * 2 ^ x.2) 0, bs.drop n)

/-- `n` symbols: the exponents, the escapes among them, the rest. -/
def readSyms (tbl : List (Nat × Nat × Option Nat)) (raw : Nat) : Nat → List Bool → Option (List Nat × Nat × List Bool)
  | 0, bs => some ([], 0, bs)
  | n + 1, bs =>
    match readCode tbl 12 0 0 bs with
    | none => none
    | some (some e, t) => (readSyms tbl raw n t).map (fun r => (e :: r.1, r.2.1, r.2.2))
    | some (none, t) =>
      match readRaw raw t with
      | none => none
      | some (e, t) => (readSyms tbl raw n t).map (fun r => (e :: r.1, r.2.1 + 1, r.2.2))

/-- The fields of a block of format `fmt` (0 bf16, 1 f16): plane bytes and the limit of CLEN (06 Table 6-1). -/
def planeLen (fmt : Nat) : Nat := if fmt = 0 then 256 else 352
/-- Largest CLEN. -/
def clenMax (fmt : Nat) : Nat := if fmt = 0 then 248 else 152

/-- The weights of a well-formed block; none where it is malformed (06 R166 to R168, R173). -/
def blockWeights (tbl : List Byte) (fmt : Nat) (blk : List Byte) : Option (List (BitVec 16)) :=
  let h := rdN blk 0 8
  let clen := bits h 7 0
  let stream := rdB blk (8 + planeLen fmt) clen
  if bits h 63 33 ≠ 0 ∨ bits h 15 9 ≠ 0 ∨ bits h 23 16 ≠ rdN tbl 0 1 ∨ bits h 8 8 ≠ fmt ∨ clenMax fmt < clen ∨ 256 < bits h 32 24 then none
  else
    let codes := assignCodes 1 0 (tblCounts tbl) (canonOrder tbl)
    match readSyms codes (if fmt = 0 then 8 else 5) 256 (streamBits stream) with
    | none => none
    | some (exps, nesc, rest) =>
      if nesc ≠ bits h 32 24 ∨ 8 ≤ rest.length ∨ rest.any id then none
      else
        let plane := rdB blk 8 (planeLen fmt)
        let big := leNat plane
        some ((exps.zip (List.range 256)).map (fun x =>
          if fmt = 0 then
            let b := rdN plane x.2 1
            BitVec.ofNat 16 (b / 128 * 32768 + x.1 * 128 + b % 128)
          else
            let b := big / 2 ^ (11 * x.2) % 2048
            BitVec.ofNat 16 (b / 1024 * 32768 + x.1 * 1024 + b % 1024)))

/-- A block of canonical NaNs (06 R173). -/
def nanBlock (fmt : Nat) : List (BitVec 16) := List.replicate 256 (BitVec.ofNat 16 (fmNan (if fmt = 0 then .bf16 else .f16)))

end Sys2Proof.Machine
end

