-- ==== Sys2Proof/Machine/Units.lean ====
section
/-! DEFINITION. The queues and pipes of a core: starting, decoding pressed blocks and completing (04 R100 to R104, 05, 06
R173 to R179, 07 R184). -/

namespace Sys2Proof.Machine

open Sys2Proof

/-! ### Start (04 R102, R103) -/

/-- The scoreboard has released the registers of a queued instruction. -/
def regsFree (c : Core) (u : Uop) : Bool :=
  let o := uopOp u
  !((inFlight c).any (fun v => decide (v.seq < u.seq) && boardHit c (regsQueued o u.word) (regsWritten o u.word) v))

/-- No range of entry `e` conflicts with a range registered earlier (08 R225): entries stand in program order. -/
def entryFree (c : Core) (e : TrkEntry) : Bool :=
  !(c.trk.any (fun x => decide (x.seq < e.seq ∨ (x.seq = e.seq ∧ x.sub < e.sub)) && (entHit e.r1 x || entHit e.r2 x)))

/-- None of an instruction's ranges conflicts with an earlier instruction's. -/
def rangesFree (c : Core) (seq : Nat) : Bool :=
  !(c.trk.any (fun e => decide (e.seq = seq) &&
      c.trk.any (fun x => decide (x.seq < seq) && (entHit e.r1 x || entHit e.r2 x))))

/-- Release the entries of an instruction (08 R226). -/
def releaseSeq (seq : Nat) (c : Core) : Core := { c with trk := c.trk.filter (fun e => e.seq ≠ seq) }

/-- Release one range of an instruction's entry, the second or the first: its last access is done (04 R136). -/
def releaseRange (seq sub : Nat) (second : Bool) (c : Core) : Core :=
  let drop (e : TrkEntry) : TrkEntry :=
    if e.seq = seq ∧ e.sub = sub then (if second then { e with r2 := none } else { e with r1 := none }) else e
  { c with trk := (c.trk.map drop).filter (fun e => e.r1.isSome || e.r2.isSome) }

/-- A pressed `mmac`. -/
def isPressed (u : Uop) : Bool := uopOp u = .mmac && mPR u.word

/-- Set flags in ASR. -/
def addFlags (f : Fl) (c : Core) : Core := { c with asr := asrSet c.asr f }

/-! ### The mangle (06 R173 to R177) -/

/-- The format of a pressed B: 0 bf16, 1 f16. -/
def pressFmt (w : W64) : Nat := if mFB w = 2 then 1 else 0

/-- The array takes the rows of decoded blocks and adds each rounding group that is whole (05 R149, 06 R177), its free values numbered
from `fr`; true where operand A met a parity error. -/
def mangleTake (fr : Nat) : Nat → Core → Core × Bool
  | 0, c => (c, false)
  | f + 1, c =>
    match c.array with
    | none => (c, false)
    | some u =>
      match c.mangle.queue with
      | [] => (c, false)
      | b :: q =>
        if !isPressed u || decide (b.1 ≠ u.seq) then (c, false)
        else
          let g := groupLen u.word
          let done := u.done / 2 * 2 + 2
          let taken := c.mangle.taken ++ [b.2]
          let put (taken : List (List (BitVec 16))) (c : Core) : Core :=
            { c with array := some { u with done := done }, mangle := { c.mangle with queue := q, taken := taken, half := false } }
          if done % g ≠ 0 then mangleTake fr f (put taken c)
          else
            let codes := (taken.map (fun x => x.map BitVec.toNat)).flatten
            let r := mmacRun u (some (List.replicate ((done - g) * 128) 0 ++ codes)) (done - g) done fr c
            if r.bad then (c, true) else mangleTake fr f (put [] (addFlags r.fl r.core))

/-- The pressed `mmac` whose stream the decoder may start, the running one or the next to start in the array pipe (06 R176): the first
whose stream has not begun. -/
def nextPressed (c : Core) : Option Uop :=
  (c.array.toList ++ (c.mq.filter (fun u => uopOp u = .mmac)).take 1).find? (fun u => isPressed u && decide (c.mangle.begun ≤ u.seq))

/-- B and table addresses of a pressed `mmac`. -/
def pressAddrs (c : Core) (u : Uop) : Nat × Nat :=
  if u.sv.isEmpty then (sAddr c (mSB u.word), sAddr c (mSB u.word + 1)) else (nthW u.sv 2, nthW u.sv 3)

/-- Its B range and table are complete. -/
def pressReady (c : Core) (u : Uop) : Bool :=
  !(c.trk.any (fun e => decide (e.seq = u.seq) && decide (e.sub = 1) &&
      c.trk.any (fun x => decide (x.seq < u.seq) && (entHit e.r1 x || entHit e.r2 x))))

/-- The decoder begins the stream of `u`: none on a parity error in the table, whose range is released with its last read (04 R136). -/
def beginStream (u : Uop) (c : Core) : Option Core :=
  let a := pressAddrs c u
  (opnd c a.2 64).map (fun t =>
    let m : Mangle := { c.mangle with
      table := t, word := u.word, seq := u.seq, addr := a.1, index := 0, dead := !tblValid t (pressFmt u.word), told := false
      begun := u.seq + 1, last := [] }
    { (releaseRange u.seq 1 true c) with mangle := m })

/-- Bytes of the B stream from the next block's header on, where none of them has a parity error: the stream is read by granules of 32
bytes, each of them once (06 R175, 10 R266). -/
def streamBytes (c : Core) (n : Nat) : Option (List Byte) :=
  let a := c.mangle.addr
  let k := if c.mangle.last.length = 32 then min n (32 - a % 32) else 0
  (opnd c a n).map (fun bs => (c.mangle.last.drop (a % 32)).take k ++ bs.drop k)

/-- The granule at an address in which the next block begins; nothing where it begins with a granule. -/
def lastGranule (c : Core) (a : Nat) : List Byte :=
  if a % 32 = 0 then [] else if a / 32 = c.mangle.addr / 32 && c.mangle.last.length = 32 then c.mangle.last else spadBytes c (a / 32 * 32) 32

/-- Result of decoding one block: the core, whether it was malformed; none on a parity error. A block that is NaN for an invalid table
sets INV as a malformed one does (DESIGN CHOICE, log 116); while the rest of a stream is NaN the address stays at the last header and
the index goes on, and an idle mangle shows 0 (DESIGN CHOICE, log 117). -/
def decodeBlock (c : Core) : Option (Core × Bool) :=
  let m := c.mangle
  let fmt := pressFmt m.word
  let close (m : Mangle) : Mangle :=
    if 2 * m.index = mK m.word then { m with table := [], word := 0, addr := 0, index := 0, dead := false, last := [] } else m
  -- with the last block, or where no further header can be found, the last access to B is done (04 R136)
  let put (m : Mangle) (ws : List (BitVec 16)) : Core :=
    let m := { m with index := m.index + 1, queue := m.queue ++ [(m.seq, ws)] }
    let c := if m.dead || 2 * m.index = mK m.word then releaseRange m.seq 1 false c else c
    { c with mangle := close m }
  if m.dead then some (addFlags flINV (put m (nanBlock fmt)), true)
  else
    match streamBytes c 8 with
    | none => none
    | some h =>
      let clen := rdN h 0 1
      if clenMax fmt < clen then some (addFlags flINV (put { m with dead := true } (nanBlock fmt)), true)
      else
        let n := 8 + planeLen fmt + clen
        match streamBytes c n with
        | none => none
        | some blk =>
          let m := { m with addr := m.addr + n, last := lastGranule c (m.addr + n) }
          match blockWeights m.table fmt blk with
          | none => some (addFlags flINV (put m (nanBlock fmt)), true)
          | some ws => some (put m ws, false)

/-- The address of the `mmac` whose stream is decoded. -/
def pressPc (c : Core) (seq : Nat) : W64 :=
  match (inFlight c).find? (fun u => decide (u.seq = seq)) with
  | some u => u.pc
  | none => 0

/-- A pressed `mmac` that met a parity error ends there (03 R87). -/
def dropPressed (seq : Nat) (c : Core) : Core :=
  releaseSeq seq { c with
    array := c.array.filter (fun u => u.seq ≠ seq)
    mq := c.mq.filter (fun u => u.seq ≠ seq)
    mangle := { Mangle.idle with seq := seq, begun := max c.mangle.begun (seq + 1), queue := c.mangle.queue.filter (fun b => b.1 ≠ seq) } }

/-- Put a core whose array may take decoded rows; a parity error in operand A ends its `mmac`. -/
def settle (n : Nat) (c : Core) (s : State) : State :=
  let r := mangleTake s.free 64 c
  let s := { s with free := s.free + 32768 }
  match r.1.array with
  | some u => if r.2 then takeFault n u.seq cPARITY 0 u.pc (setCore n (dropPressed u.seq r.1) s) else setCore n r.1 s
  | none => setCore n r.1 s

/-- MANGLE_BLOCK_DECODE: one block enters the elastic queue (06 R173 to R177). -/
def execMangleBlockDecode (core : Nat) (s : State) : Res :=
  let c := getCore s core
  let fail (seq : Nat) (pc : W64) : State := takeFault core seq cPARITY 0 pc (setCore core (dropPressed seq c) s)
  unitRes (decide (core < 100)) (
    if 32 ≤ c.mangle.queue.length ∨ ¬ coreOn s core then s
    else
      let begun : Option (Option Core) :=
        if c.mangle.word ≠ 0 then some (some c)
        else match nextPressed c with
          | some u => if pressReady c u then some (beginStream u c) else none
          | none => none
      match begun with
      | none => s
      | some none =>
        match nextPressed c with
        | some u => fail u.seq u.pc
        | none => s
      | some (some c1) =>
        let seq := c1.mangle.seq
        let pc := pressPc c seq
        match decodeBlock c1 with
        | none => fail seq pc
        | some (c2, bad) =>
          let tell := bad && !c1.mangle.told
          let s := settle core { c2 with mangle := { c2.mangle with told := c2.mangle.told || bad } } s
          if tell then raise 1 core (some (partOfCore s core)) 0x4001 pc.toNat s else s)

/-! ### QUEUED_INSTR_START -/

/-- Put the head of a queue into its pipe, its s-registers read (07 R185). -/
def startUop (o : Op) (u : Uop) (now : Nat) (c : Core) : Core :=
  let u := { u with sv := captureS o u.word c, startAt := now }
  if o = .mmac then { c with array := some u, mq := c.mq.tail }
  else if opQueue o = .matrix then { c with port := some u, mq := c.mq.tail }
  else { c with vector := some u, vq := c.vq.tail }

/-- The pipe of an instruction is free. -/
def pipeFree (o : Op) (c : Core) : Bool :=
  if o = .mmac then c.array.isNone else if opQueue o = .matrix then c.port.isNone else c.vector.isNone

/-- The descriptors of a `dma` from number `lo` to `hi` - 1 enter their channel (08 R215, R229). -/
def queueDescs (n : Nat) (q : DmaWait) (lo hi : Nat) (s : State) : State :=
  (((q.descs.zip (List.range q.descs.length)).take hi).drop lo).foldl (fun s d =>
    let u := takeUid s
    let c := getCore u.2 n
    let fa := dFloatAdd d.1
    let x : Desc := { seq := q.op.seq, sub := d.2, pc := q.op.pc, ch := q.ch, words := d.1, st := .queued, startAt := 0, turnAt := 0, heldFor := 0,
                      addPos := c.addPos, uid := u.1, buf := [] }
    setCore n { c with descs := c.descs ++ [x], addPos := if fa then c.addPos + 1 else c.addPos } u.2) s

/-- QUEUED_INSTR_START: the head of a queue starts once its registers and ranges are clear (04 R102, R103). -/
def execQueuedInstrStart (core : Nat) (q : IQueue) (s : State) : Res :=
  let s := readHands core s
  let c := getCore s core
  unitRes (decide (core < 100)) (
    if ¬ coreOn s core then s
    else match q with
      | .dma =>
        match c.dq with
        | [] => s
        | d :: t => queueDescs core d d.read d.descs.length (setCore core { c with dq := t } s)
      | _ =>
        match (if q = .matrix then c.mq else c.vq).head? with
        | none => s
        | some u =>
          let o := uopOp u
          if pipeFree o c && regsFree c u && rangesFree c u.seq then
            (if isPressed u then settle core (startUop o u s.clk c) s else setCore core (startUop o u s.clk c) s)
          else s)

/-! ### INSTR_COMPLETE -/

/-- The units (K steps, rows, tokens) of a whole instruction. -/
def unitsOf (o : Op) (u : Uop) : Nat :=
  match o with
  | .mmac => mK u.word
  | .mzero => 1
  | .mdrain => 128
  | .mload => 128
  | _ => vUnits o u.word

/-- The K steps of an `mmac` that its accumulator holds after `k` steps: a float kind adds whole rounding groups (05 R149). -/
def wholeSteps (u : Uop) (k : Nat) : Nat := if mmacFloat u.word then k / groupLen u.word * groupLen u.word else k

/-- Run an instruction from where it stands to unit k. -/
def runUop (o : Op) (u : Uop) (k fr : Nat) (c : Core) : VRes :=
  match o with
  | .mmac => mmacRun u none (wholeSteps u u.done) (wholeSteps u k) fr c
  | .mdrain => drainRun u u.done (k - u.done) c
  | .mload => (loadRun u u.done (k - u.done) c).2
  | .mzero => zeroAcc u c
  | _ => (vRun o u u.done (k - u.done) c).2

/-- The scratchpad ranges (start, length) that unit k of an instruction writes. -/
def unitStores (o : Op) (u : Uop) (k : Nat) : List (Nat × Nat) :=
  let w := u.word
  match o with
  | .mdrain =>
    let per := 128 / smBlock (mSMA w)
    (nthW u.sv 0 + k * rowLen (fmAt (mFA w)), rowLen (fmAt (mFA w))) :: (if smIsBlock (mSMA w) then [(nthW u.sv 1 + k * per, per)] else [])
  | .vst =>
    let per := 128 / smBlock (vSM w)
    (nthW u.sv 0 + k * vStride w, rowLen (fmAt (vFMT w))) :: (if vSM w ≠ .none && bit (vIMM w) 10 then [(nthW u.sv 1 + k * per, per)] else [])
  | .vqapp =>
    let (h, hb, _, _) := qappGeom w
    let a := nthW u.sv 0 + k * hb
    let sa := nthW u.sv 1 + k * (h / 16)
    [(a, hb), (a + 32 * hb, hb), (sa, h / 16), (sa + 2 * h, h / 16)]
  | .rgsum => [(nthW u.sv 0, 64 * vN w)]
  | _ => []

/-- Units i to k - 1 of an instruction of core n have been done: what they wrote meets an armed injection. -/
def unitsWrote (n : Nat) (o : Op) (u : Uop) (i k : Nat) (s : State) : State :=
  spadWrote n (((List.range (k - i)).map (fun j => unitStores o u (i + j))).flatten) s

/-- A drain that has kept its scales reads them no more: their ranges are released (05 R159, 04 R136). -/
def releaseScales (u : Uop) (c : Core) : Core :=
  if uopOp u = .mdrain && decide (u.sv.length = 133) then releaseRange u.seq 1 true (releaseRange u.seq 1 false c) else c

/-- A drain that stops part-way keeps the scales it has read. -/
def keepScales (u : Uop) (c : Core) : Uop :=
  if uopOp u = .mdrain && decide (mSMA u.word = .ch) && decide (u.sv.length ≠ 133) then
    match chBytes u c with
    | some x => { u with sv := u.sv ++ leWords (x.1 ++ x.2) }
    | none => u
  else u

/-- Empty a pipe. -/
def clearPipe (p : Pipe) (c : Core) : Core :=
  match p with
  | .array => { c with array := none }
  | .port => { c with port := none }
  | .vector => { c with vector := none }

/-- The instruction in a pipe. -/
def pipeUop (p : Pipe) (c : Core) : Option Uop :=
  match p with
  | .array => c.array
  | .port => c.port
  | .vector => c.vector

/-- ROUTE_NAN of a `vtopk` (12 R315). -/
def topkEvent (n : Nat) (u : Uop) (c : Core) (s : State) : State :=
  match nanRows u c with
  | [] => s
  | r :: t => raise 1 n (some (partOfCore s n)) 0x4002 (min (t.length + 1) 65535 + r * 65536) s

/-- The instruction `u` in a pipe of core n runs to its end and completes: its results, flags, event and released ranges (04 R104,
R136); a parity error in an operand raises PARITY. -/
def completeUop (n : Nat) (p : Pipe) (u : Uop) (s : State) : State :=
  let c := getCore s n
  let o := uopOp u
  let r := runUop o u (unitsOf o u) s.free c
  let s := if o = .mmac && mmacUndef u.word (wholeSteps u u.done) c then { s with free := s.free + 32768 } else s
  let s := if o = .vtopk then topkEvent n u c s else s
  let s := setCore n (addFlags r.fl (releaseSeq u.seq (clearPipe p r.core))) s
  if r.bad then takeFault n u.seq cPARITY 0 u.pc s else unitsWrote n o u u.done (unitsOf o u) s

/-- INSTR_COMPLETE: the instruction in a pipe completes; a pressed `mmac` does once the array has taken all its rows (06 R177). -/
def execInstrComplete (core : Nat) (p : Pipe) (s : State) : Res :=
  let c := getCore s core
  unitRes (decide (core < 100)) (
    match pipeUop p c with
    | none => s
    | some u =>
      if ¬ coreOn s core then s
      else if isPressed u then
        if u.done = mK u.word then setCore core (releaseSeq u.seq (clearPipe p c)) s else s
      else completeUop core p u s)

end Sys2Proof.Machine
end

