-- ==== Sys2Proof/Machine/Dma.lean ====
section
/-! DEFINITION. The DMA engine: starting, moving, completing and timing out descriptors (08 R215 to R232, 13 R367, 17 R462,
R469 to R471, 20 R528). -/

namespace Sys2Proof.Machine

open Sys2Proof

/-! ### Turns of one granule (08 R215, R218; 10 Table 10-5; log 18) -/

/-- The run (i2, i1) and the byte of it at which byte k of a descriptor lies, in the order of R218. -/
def byteAt (d : List W64) (k : Nat) : Nat × Nat × Nat := (k / dLEN d / dN1 d, k / dLEN d % dN1 d, k % dLEN d)

/-- The piece that a turn moves from byte k on, up to the end of its destination granule: source address, destination address,
length, and the bytes of the run from k. -/
def pieceAt (d : List W64) (k : Nat) : Nat × Nat × Nat × Nat :=
  let i := byteAt d k
  let src := (dSrcRun d i.1 i.2.1 + i.2.2) % 2 ^ 64
  let dst := (dDstRun d i.1 i.2.1 + i.2.2) % 2 ^ 64
  (src, dst, min (32 - dst % 32) (dLEN d - i.2.2), dLEN d - i.2.2)

/-- Pieces of [a, a + n) within 32-byte granules, for n at most 64: address and length. -/
def granPieces (a n : Nat) : List (Nat × Nat) :=
  ((granules a n).map (fun g => (max a g, min (a + n) (g + 32) - max a g)))

/-- The source bytes that a turn has to read, past the `have'` it still holds: address and length, to the end of the last source
granule that it needs. -/
def fetchPart (src len left have' : Nat) : Nat × Nat :=
  if len ≤ have' then (src, 0)
  else (src + have', min left (((src + len + 31) / 32 * 32) - src) - have')

/-! ### The queue of a core -/

/-- Replace a descriptor. -/
def putDesc (n : Nat) (d : Desc) (s : State) : State :=
  modCore n (fun c => { c with descs := c.descs.map (fun x => if x.seq = d.seq ∧ x.sub = d.sub then d else x) }) s

/-- Release the tracker entry of a descriptor. -/
def releaseDesc (n seq sub : Nat) (s : State) : State :=
  modCore n (fun c => { c with trk := c.trk.filter (fun e => ¬ (e.seq = seq ∧ e.sub = sub)) }) s

/-- A descriptor leaves every slice's queue of held accesses (09 R251). -/
def leaveAll (who : Nat × Nat × Nat) (s : State) : State :=
  if s.bonded.slices.any (fun e => e.2.heldQ.contains who) then
    { s with bonded := { s.bonded with
      slices := (s.bonded.slices.map (fun (e : Nat × Slice) => (e.1, { e.2 with heldQ := e.2.heldQ.filter (fun x => x ≠ who) }))).filter
        (fun e => e.2 ≠ Slice.reset) } }
  else s

/-- Remove a descriptor, its entry and what waits for it. -/
def dropDesc (n seq sub : Nat) (s : State) : State :=
  let s := releaseDesc n seq sub s
  let s := modCore n (fun c => { c with descs := c.descs.filter (fun x => ¬ (x.seq = seq ∧ x.sub = sub)) }) s
  let s := leaveAll (n, seq, sub) s
  { s with waiters := s.waiters.filter (fun w => ¬ (w.core = n ∧ w.seq = seq ∧ w.sub = sub)) }

/-- The transfers of a descriptor. -/
def ownedBy (n seq sub : Nat) (x : Xfer) : Bool := x.owner = .desc n seq sub

/-- What a transfer that has ended still had waiting for tokens is withdrawn. -/
def endWaits (x : Xfer) (s : State) : State :=
  match x.via with
  | .link c => withdraw c x.tag s
  | .qp _ => s

/-- A descriptor fails with a fault code (08 R220). -/
def failDesc (n : Nat) (d : Desc) (code : Nat) (s : State) : State :=
  let s := dropDesc n d.seq d.sub s
  let s := (s.xfers.filter (ownedBy n d.seq d.sub)).foldl (fun s x => endWaits x s) s
  let s := { s with xfers := s.xfers.filter (fun x => !ownedBy n d.seq d.sub x) }
  takeFault n d.seq code 0 d.pc s

/-- The first descriptor of a channel that has not finished its accesses here (08 R215). -/
def channelHead (c : Core) (ch : Nat) : Option Desc :=
  c.descs.find? (fun d => decide (d.ch = ch) && (match d.st with
    | .queued => true
    | .moving _ => true
    | .landing => true
    | _ => false))

/-- Its range conflicts with no earlier one (08 R225). -/
def descFree (c : Core) (d : Desc) : Bool :=
  (c.trk.filter (fun e => decide (e.seq = d.seq) && decide (e.sub = d.sub))).all (entryFree c)

/-! ### Regulators (13 R367) -/

/-- The debits of reading or writing bytes of one granule in bonded memory, 32 B each (13 R367): the slice channel, and the local port
of the injecting router, `tile`, where the granule crosses the mesh. -/
def granDebits (a : Nat) (tile : Option Nat) : List (Nat × Nat) :=
  (sliceOf a, 32) :: (match tile with
    | some t => [(100 + t, 32)]
    | none => [])

/-- The debits of a turn: of each source granule it fetches and of its destination granule. A granule that an edge takes crosses the
mesh. -/
def turnDebits (n : Nat) (d : List W64) (src : List Nat) (dst : Nat) : List (Nat × Nat) :=
  let far (a : Nat) (t : Nat) : Option Nat := if sliceOf a = n then none else some t
  match dSSP d, dDSP d with
  | 2, 3 => (src.map (fun g => granDebits g (some (sliceOf g)))).flatten
  | 2, 4 => (src.map (fun g => granDebits g (some (sliceOf g)))).flatten
  | 0, 2 => granDebits dst (far dst n)
  | 2, 0 => (src.map (fun g => granDebits g (far g (sliceOf g)))).flatten
  | 0, 1 => [(100 + n, 32)]
  | _, _ => src.map (fun _ => (100 + bits (dSRC d) 26 20, 32))

/-- An earlier request of the partition waits at the unit. -/
def waitsAhead (s : State) (p unit n seq sub : Nat) : Bool :=
  match s.waiters.find? (fun w => decide (w.part = p) && decide (w.unit = unit)) with
  | some w => !(decide (w.core = n) && decide (w.seq = seq) && decide (w.sub = sub))
  | none => false

/-- Take the debits of a request, or register it as waiting: true where admitted. -/
def admitDebits (p n seq sub : Nat) (ds : List (Nat × Nat)) (s : State) : Bool × State :=
  let sum (u : Nat) : Nat := ((ds.filter (fun x => decide (x.1 = u))).map Prod.snd).sum
  let short := ds.filter (fun x => !canDebit s p x.1 (sum x.1) || waitsAhead s p x.1 n seq sub)
  match short with
  | [] =>
    let s := ds.foldl (fun s x => debit p x.1 x.2 s) s
    (true, { s with waiters := s.waiters.filter (fun w => ¬ (w.core = n ∧ w.seq = seq ∧ w.sub = sub)) })
  | x :: _ =>
    if s.waiters.any (fun w => decide (w.core = n) && decide (w.seq = seq) && decide (w.sub = sub)) then (false, s)
    else (false, { s with waiters := s.waiters ++ [{ part := p, unit := x.1, core := n, seq := seq, sub := sub }] })

/-! ### One turn -/

/-- What became of a turn: 0 done, 100 it must wait, else a fault code. -/
abbrev Moved := Nat × State

/-- An access of a descriptor waits: it is held, or one that was held before it has not been served (09 R251, step 4). -/
def mustHold (s : State) (a : Nat) (who : Nat × Nat × Nat) : Bool :=
  sliceHeld s a || (match (getSlice s (sliceOf a)).heldQ with
    | [] => false
    | x :: _ => decide (x ≠ who))

/-- A held access joins the slice's queue, once. -/
def joinHeld (a : Nat) (who : Nat × Nat × Nat) (s : State) : State :=
  modSlice (sliceOf a) (fun v => if v.heldQ.contains who then v else { v with heldQ := v.heldQ ++ [who] }) s

/-- An access that is served leaves the slice's queue. -/
def leaveHeld (a : Nat) (who : Nat × Nat × Nat) (s : State) : State :=
  if (getSlice s (sliceOf a)).heldQ.contains who then
    modSlice (sliceOf a) (fun v => { v with heldQ := v.heldQ.filter (fun x => x ≠ who) }) s
  else s

/-- Read B-space bytes for partition p and core n, granule by granule. -/
def readB (p n a len : Nat) (s : State) : Acc :=
  (granPieces a len).foldl (fun (x : Acc) q =>
    if x.code ≠ 0 then x
    else let r := bRead p (some n) q.1 q.2 x.st; ⟨r.code, x.bytes ++ r.bytes, r.st⟩) ⟨0, [], s⟩

/-- Write or add bytes within one granule of B-space; `order` is their place in the descriptor, `mis` a parity mismatch on the way. -/
def writeB (p n : Nat) (d : Desc) (order a : Nat) (bs : List Byte) (mis : Bool) (s : State) : Moved :=
  let op := dOP d.words
  if op = 0 then let r := bWrite p a bs mis s; (r.code, r.st)
  else memAdd p { chip := chipNo s, core := n, pos := d.addPos, order := order, op := op, addr := a, src := bs, part := p, seq := d.seq,
                  pc := d.pc } mis s

/-- A page must wait for its first touch (14 R386). -/
def touchWaits (s : State) (a : Nat) : Bool := smapGet false s.bonded.wp (pageOf a) && (freeTouch s (tagOf s a) a).isNone

/-- Bits of a byte and its parity that flip between its source and its destination (09 R239): byte of the descriptor and the nine
bits, bit 8 the parity bit. -/
abbrev Flips := List (Nat × BitVec 9)

/-- The bits that flip in byte k. -/
def flipAt (fl : Flips) (k : Nat) : BitVec 9 := (fl.filter (fun e => decide (e.1 = k))).foldl (fun m e => m ^^^ e.2) 0

/-- An odd number of flipped bits: the parity no longer matches. -/
def oddFlip (m : BitVec 9) : Bool := ((List.range 9).filter (fun i => m.getLsbD i)).length % 2 = 1

/-- Bytes k, k + 1, … of a descriptor as they arrive, and the places of those whose parity does not match. -/
def carried (fl : Flips) (k : Nat) (bs : List Byte) : List Byte × List Nat :=
  if fl.isEmpty then (bs, [])
  else ((bs.zip (List.range bs.length)).map (fun x => x.1 ^^^ (flipAt fl (k + x.2)).setWidth 8),
        (List.range bs.length).filter (fun i => oddFlip (flipAt fl (k + i))))

/-- Bytes land in core t's scratchpad, each with the parity bit it came with (08 R206, 09 R239). -/
def landSpad (t a : Nat) (x : List Byte × List Nat) (s : State) : State :=
  let s := spadWrite t a x.1 s
  if x.2.isEmpty then s
  else modCore t (fun c => { c with spadBad := x.2.foldl (fun m i => smapSet false m (a + i) true) c.spadBad }) s

/-- The source bytes of a turn: those it holds already, and those it fetches; a fault code where the fetch met one. -/
def turnFetch (p n : Nat) (d : Desc) (a len : Nat) (s : State) : Acc :=
  if len = 0 then ⟨0, d.buf, s⟩
  else match dSSP d.words with
    | 2 => let r := readB p n a len s; ⟨r.code, d.buf ++ r.bytes, r.st⟩
    | 0 => match opnd (getCore s n) a len with
      | some bs => ⟨0, d.buf ++ bs, s⟩
      | none => ⟨cPARITY, [], s⟩
    | _ =>
      let t := bits (dSRC d.words) 26 20
      if !runsPart s t p || !coreOn s t then ⟨cPROT, [], s⟩
      else match opnd (getCore s t) (a % 2 ^ 20) len with
        | some bs => ⟨0, d.buf ++ bs, s⟩
        | none => ⟨cPARITY, [], s⟩

/-- The bytes of a turn reach their destination granule. -/
def turnStore (p n : Nat) (d : Desc) (k dst : Nat) (x : List Byte × List Nat) (s : State) : Moved :=
  match dDSP d.words with
  | 2 => writeB p n d k dst x.1 (!x.2.isEmpty) s
  | 0 => (0, landSpad n dst x s)
  | _ =>
    let t := bits (dDST d.words) 26 20
    if !runsPart s t p || !coreOn s t then (cPROT, s) else (0, landSpad t (dst % 2 ^ 20) x s)

/-- A turn of a local descriptor from byte k on (08 R215, R217 to R220): it fetches whole source granules, keeps what is left over
for its next turn, and writes one destination granule. -/
def moveTurn (p n : Nat) (d : Desc) (k : Nat) (fl : Flips) (s : State) : Moved :=
  let w := d.words
  let i := pieceAt w k
  let f := fetchPart i.1 i.2.2.1 i.2.2.2 d.buf.length
  let src := granules f.1 f.2
  let who := (n, d.seq, d.sub)
  let mine : List Nat := (if dSSP w = 2 then src else []) ++ (if dDSP w = 2 then [i.2.1] else [])
  match mine.find? (fun a => mustHold s a who) with
  | some a => (100, joinHeld a who s)
  | none =>
    if dDSP w = 2 && touchWaits s i.2.1 then (100, noteHeld i.2.1 s)
    else
      let a := admitDebits p n d.seq d.sub (turnDebits n w src i.2.1) s
      if !a.1 then (100, a.2)
      else
        let s := mine.foldl (fun s a => leaveHeld a who s) a.2
        let r := turnFetch p n d f.1 f.2 s
        if r.code ≠ 0 then (r.code, r.st)
        else
          let q := turnStore p n d k i.2.1 (carried fl k (r.bytes.take i.2.2.1)) r.st
          if q.1 ≠ 0 then q
          else
            let k' := k + i.2.2.1
            let st : DescSt := if dTotal w ≤ k' then .complete else .moving k'
            let s := putDesc n { d with st := st, turnAt := s.clk, buf := r.bytes.drop i.2.2.1 } q.2
            (0, if dTotal w ≤ k' then releaseDesc n d.seq d.sub s else s)

/-! ### Edge descriptors -/

/-- Runs (source, destination) of a descriptor. -/
def descRuns (d : List W64) : List (Nat × Nat) :=
  ((List.range (dN2 d)).map (fun i2 => (List.range (dN1 d)).map (fun i1 => (dSrcRun d i2 i1, dDstRun d i2 i1)))).flatten

/-- The chip an edge descriptor reaches. -/
def edgeChip (d : List W64) : Nat := (if dSSP d = 3 then dSRC d else dDST d) / 2 ^ 54

/-- The descriptor reaches the host edge. -/
def toHost (d : List W64) : Bool := decide (dSSP d = 4) || decide (dDSP d = 4)

/-- The TAG of a descriptor's transactions (16 R435, R437). -/
def descTag (n : Nat) (d : Desc) : Nat := if dOP d.words = 0 then uidTag d.uid else addTag n d.addPos d.uid

/-- The flits of a run of n bytes to address a. -/
def flitsOf (a n : Nat) : Nat := (a % 32 + n + 223) / 224

/-- The key that seals chunks of a partition (18 R498). -/
def sealKey (s : State) (p : Nat) : Option HostKey := (getPart s p).keys.host.find? (fun k => k.sealing)

/-- Seal one chunk of 4,096 B (17 R469, R470). -/
def sealChunk (p : Nat) (pt : List Byte) (s : State) : Option (List Byte × State) :=
  match sealKey s p with
  | none => none
  | some k =>
    let iv := natLe 2 (chipNo s) ++ natLe 10 k.counter
    let kid := natLe 4 k.keyid.toNat
    let x := gcmSeal k.material iv (natLe 1 p ++ kid) pt
    let s := modPart p (fun v => { v with keys := { v.keys with
      host := v.keys.host.map (fun h => if h.sealing then { h with counter := h.counter + 1 } else h) } }) s
    some (x.1 ++ iv ++ kid ++ x.2, s)

/-- Seal a run of chunks. -/
def sealAll (p : Nat) : Nat → List Byte → State → Option (List Byte × State)
  | 0, _, s => some ([], s)
  | f + 1, bs, s =>
    if bs.isEmpty then some ([], s)
    else match sealChunk p (bs.take 4096) s with
      | none => none
      | some (c, s) => (sealAll p f (bs.drop 4096) s).map (fun r => (c ++ r.1, r.2))

/-- Open one sealed chunk of partition p: none where its tag fails (17 R469, R470, R473). -/
def openChunk (s : State) (p : Nat) (ch : List Byte) : Option (List Byte) :=
  let kid := rdN ch 0x100C 4
  match (getPart s p).keys.host.find? (fun k => decide (k.keyid.toNat = kid)) with
  | none => none
  | some k => gcmOpen k.material (rdB ch 0x1000 12) (natLe 1 p ++ natLe 4 kid) (ch.take 4096) (rdB ch 0x1010 16)

/-- A tag failure is counted and raised (17 R473). -/
def tagFailure (inj : Bool) (p q kid : Nat) (s : State) : State :=
  let r := ctrInc s.host.tagFail
  raiseI inj 6 q (some p) 0x9002 kid (ovfEvent r.2 0x00040010 { s with host := { s.host with tagFail := r.1 } })

/-- Messages of at most `k` bytes: host address, bytes. -/
def hostMsgs (k : Nat) (va : Nat) : Nat → List Byte → List (Nat × List Byte)
  | 0, _ => []
  | f + 1, bs => if bs.isEmpty then [] else (va, bs.take k) :: hostMsgs k (va + k) f (bs.drop k)

/-- 64 sealed chunks (17 R471). -/
def sealedMsg : Nat := 64 * 4128

/-- The checks of a descriptor's queue pair (17 R460, R462): 0, or a fault code. -/
def qpCheck (s : State) (p : Nat) (d : Desc) : Nat :=
  let q := getQp s (dQP d.words)
  if q.owner && decide (q.st ≠ .free) then cPROT
  else if q.st ≠ .rts then cREMOTE
  else if q.part.toNat ≠ p then cPROT else 0

/-- Bytes of a path MTU code (17 Table 17-11). -/
def mtuBytes (m : BitVec 3) : Nat := 128 * 2 ^ m.toNat
/-- Put frames of a message on a queue pair's port. -/
def emitQp (q frames : Nat) (m : HostMsg) (s : State) : State := sendFrames (getQp s q).port frames m s
/-- Frames that carry n bytes on a queue pair. -/
def framesOf (s : State) (q n : Nat) : Nat := max 1 ((n + mtuBytes (getQp s q).mtu - 1) / mtuBytes (getQp s q).mtu)
/-- The bytes of a message take their time at the queue pair's rate (17 R466): the next one waits. -/
def paceQp (q n : Nat) (s : State) : State :=
  modQp q (fun v => { v with nextAt := max s.clk v.nextAt + n * 1200000 / v.rate }) s
/-- One more message waits on a queue pair. -/
def outOne (q : Nat) (s : State) : State :=
  modQp q (fun v => { v with outmsg := v.outmsg + 1, waitAt := if v.outmsg = 0 then s.clk else v.waitAt }) s
/-- Send a message by RDMA WRITE. -/
def sendHostWrite (q : Nat) (va : Nat) (rkey : W32) (bs : List Byte) (s : State) : State :=
  paceQp q bs.length (outOne q (emitQp q (framesOf s q bs.length) (.hostWrite q (BitVec.ofNat 64 va) rkey bs) s))
/-- Send an RDMA READ. -/
def sendHostRead (q : Nat) (va : Nat) (rkey : W32) (n : Nat) (s : State) : State :=
  outOne q (emitQp q 1 (.hostRead q (BitVec.ofNat 64 va) rkey n) s)
/-- A descriptor of a queue pair waits: the port is not UP or its priority is paused, or the queue pair's rate holds it back (17 R466). -/
def qpHeld (s : State) (q : Nat) : Bool :=
  let v := getQp s q
  decide ((getHport s v.port).st ≠ .up) || portPaused s v.port || decide (s.clk < v.nextAt)

/-- Bytes of plaintext in one message to the host: a run of P0, or 64 chunks (17 R471). -/
def msgPlain (p : Nat) (d : List W64) : Nat := if p = 0 then dLEN d else 64 * 4096

/-- The bytes on the wire of the first k bytes of a message: a tenant's chunks are followed by 32 bytes each (17 R469). -/
def wirePos (p k : Nat) : Nat := if p = 0 then k else k + 32 * (k / 4096)

/-- The packets of a host write that a turn from byte k to k' completes: the payload of each (13 R367). -/
def packetsOf (s : State) (p : Nat) (d : List W64) (k k' : Nat) : List (Nat × Nat) :=
  let m := msgPlain p d
  let mtu := mtuBytes (getQp s (dQP d)).mtu
  let base := k / m * m
  let a := wirePos p (k - base)
  let b := wirePos p (k' - base)
  let last := if k' % m = 0 ∨ dTotal d ≤ k' then b % mtu else 0
  List.replicate (b / mtu - a / mtu) (204, mtu) ++ (if last = 0 then [] else [(204, last)])

/-- The transfer of a descriptor, under way from its start: the flits or messages that its end waits for, or the bytes it reads. -/
def startXfer (p n : Nat) (d : Desc) (s : State) : State :=
  let w := d.words
  let total :=
    if dSSP w = 4 then (if p = 0 then dTotal w else dLEN w / 4096 * 4128)
    else if dSSP w = 3 then dTotal w
    else if dDSP w = 4 then (dTotal w + msgPlain p w - 1) / msgPlain p w
    else ((descRuns w).map (fun r => flitsOf r.2 (dLEN w))).sum
  let via : Via := if toHost w then .qp (dQP w) else .link (edgeChip w)
  let read := decide (dDSP w = 2)
  let x := { newXfer d.uid (.desc n d.seq d.sub) via read p total s with
    startAt := d.startAt, dst := if read then dDST w else 0, len := if read then total else 0
    msg := if dSSP w = 4 then (if p = 0 then dLEN w else sealedMsg) else 0
    sent := if toHost w then 0 else total
    tag := BitVec.ofNat 24 (if toHost w then uidTag d.uid else descTag n d) }
  { s with xfers := s.xfers ++ [x] }

/-- Send what a remote write has read of a run: whole flits, and the rest at the end of the run (16 R435); what is kept. -/
def sendRun (p n : Nat) (d : Desc) (dst : Nat) (fin : Bool) (bs : List Byte) (s : State) : Bool × List Byte × State :=
  let op := dOP d.words
  let cut := if fin then bs.length else if 224 - dst % 32 ≤ bs.length then 224 - dst % 32 else 0
  if cut = 0 then (true, bs, s)
  else
    let r := queueTxns 0 (writeTxns (if op = 0 then 0 else 1) op p (chipNo s) (descTag n d) dst (bs.take cut)) s
    (r.1, bs.drop cut, pump r.2)

/-- The host address of message j of a host write. -/
def msgAddr (p : Nat) (d : List W64) (j : Nat) : Nat := if p = 0 then dDstRun d (j / dN1 d) (j % dN1 d) else dDST d + j * sealedMsg

/-- Send message j of a host write: plaintext for P0, sealed chunks for a tenant; false where no key seals them (17 R462, R469 to R471). -/
def sendHostMsg (p : Nat) (d : List W64) (j : Nat) (bs : List Byte) (s : State) : Bool × State :=
  let q := dQP d
  let put (bs : List Byte) (s : State) : State := sendHostWrite q (msgAddr p d j) (Config.hostRkey q) bs s
  if bs.isEmpty then (true, s)
  else if p = 0 then (true, put bs s)
  else match sealAll p (bs.length / 4096 + 1) bs s with
    | none => (false, s)
    | some (c, s) => (true, put c s)

/-- A host write meets a fault: what it has read before, in whole packets or chunks, still reaches the host (03 R87; log 18). -/
def sendPart (p : Nat) (d : Desc) (k : Nat) (s : State) : State :=
  let m := msgPlain p d.words
  let unit := if p = 0 then mtuBytes (getQp s (dQP d.words)).mtu else 4096
  if dDSP d.words = 4 then (sendHostMsg p d.words (k / m) (d.buf.take (d.buf.length / unit * unit)) s).2 else s

/-- A granule of an edge write from byte k on, read for partition p and core n and sent on: the fault code, and the descriptor with
what it keeps (08 R215, R218). -/
def edgeRead (p n : Nat) (d : Desc) (k : Nat) (s : State) : Nat × Desc × State :=
  let w := d.words
  let i := byteAt w k
  let src := (dSrcRun w i.1 i.2.1 + i.2.2) % 2 ^ 64
  let len := min (32 - src % 32) (dLEN w - i.2.2)
  let r := bRead p (some n) src len s
  if r.code ≠ 0 then (r.code, d, sendPart p d k r.st)
  else
    let k' := k + len
    let bs := d.buf ++ r.bytes
    let go (b : List Byte) : Desc := { d with buf := b, st := if dTotal w ≤ k' then .await else .moving k' }
    if dDSP w = 3 then
      let x := sendRun p n d (dDstRun w i.1 i.2.1 + (i.2.2 + len - bs.length)) (decide (dLEN w ≤ i.2.2 + len)) bs r.st
      (if x.1 then 0 else cREMOTE, go x.2.1, x.2.2)
    else if k' % msgPlain p w = 0 ∨ dTotal w ≤ k' then
      let x := sendHostMsg p w (k / msgPlain p w) bs r.st
      (if x.1 then 0 else cREMOTE, go [],
        { x.2 with xfers := x.2.xfers.map (fun y => if y.uid = d.uid then { y with sent := y.sent + 1 } else y) })
    else (0, go bs, r.st)

/-- The messages of a transfer on a queue pair that are out and not answered. -/
def xferOut (x : Xfer) : Nat := x.sent - (if x.read then x.acked / max 1 x.msg else x.acked)

/-- RDMA READs out on a queue pair. -/
def readsOn (s : State) (q : Nat) : Nat := ((s.xfers.filter (fun x => x.read && decide (x.via = .qp q))).map xferOut).sum

/-- Ask for further messages of the host reads of a queue pair, oldest first: at most 8 RDMA READs run at once (17 R458). -/
def askQp (q : Nat) : Nat → State → State
  | 0, s => s
  | f + 1, s =>
    if decide (8 ≤ readsOn s q) || decide ((getQp s q).st ≠ .rts) then s
    else match s.xfers.find? (fun x => x.read && decide (x.via = .qp q) && !x.todo.isEmpty) with
      | none => s
      | some x =>
        match x.todo with
        | [] => s
        | m :: t =>
          let s := sendHostRead q m.1 (Config.hostRkey q) m.2 s
          askQp q f { s with xfers := s.xfers.map (fun y => if y.uid = x.uid then { y with sent := y.sent + 1, todo := t } else y) }

/-- The messages of a host read: the runs of P0, or 64 chunks each (17 R462, R471). -/
def readMsgs (p : Nat) (d : List W64) : List (Nat × Nat) :=
  let total := dLEN d / 4096 * 4128
  if p = 0 then (descRuns d).map (fun r => (r.1, dLEN d))
  else (List.range ((total + sealedMsg - 1) / sealedMsg)).map (fun j => (dSRC d + j * sealedMsg, min sealedMsg (total - j * sealedMsg)))

/-- An edge read asks for its data; the response lands when it comes (16 R435, 17 R458, R471). -/
def edgeAsk (p : Nat) (d : Desc) (s : State) : Nat × Desc × State :=
  let w := d.words
  let d' := { d with st := .landing }
  if toHost w then
    (0, d', askQp (dQP w) 8 { s with xfers := s.xfers.map (fun x => if x.uid = d.uid then { x with todo := readMsgs p w } else x) })
  else
    let ts := ((descRuns w).map (fun r => readTxns p (chipNo s) (uidTag d.uid) r.1 r.2 (dLEN w))).flatten
    let q := queueTxns 0 ts s
    (if q.1 then 0 else cREMOTE, d', pump q.2)

/-- What an edge descriptor does next, waiting for nothing: a read asks, a write reads a granule and sends what is ready. -/
def edgeStep (p n : Nat) (d : Desc) (k : Nat) (s : State) : Nat × Desc × State :=
  if dDSP d.words = 2 then edgeAsk p d s else edgeRead p n d k s

/-- The granule that an edge write reads next, and its bytes. -/
def edgePiece (d : List W64) (k : Nat) : Nat × Nat :=
  let i := byteAt d k
  let src := (dSrcRun d i.1 i.2.1 + i.2.2) % 2 ^ 64
  (src, min (32 - src % 32) (dLEN d - i.2.2))

/-- Its last flit or message has gone: the limit of the transfer counts from now (20 Table 20-4). -/
def stampXfer (uid : Nat) (s : State) : State :=
  { s with xfers := s.xfers.map (fun x => if x.uid = uid then { x with lastAt := s.clk } else x) }

/-- A turn of an edge descriptor (08 R215): it waits for a hold, for its queue pair's port, for flits of its partition that wait at the port
(13 R367) and for the debits of its granule and packets; then it makes its step. -/
def edgeTurn (p n : Nat) (d : Desc) (k : Nat) (s : State) : Moved :=
  let w := d.words
  let who := (n, d.seq, d.sub)
  let e := edgePiece w k
  let write := decide (dSSP w = 2)
  if (toHost w && qpHeld s (dQP w)) || (!toHost w && flitsWait s p (edgeChip w)) then (100, s)
  else if write && mustHold s e.1 who then (100, joinHeld e.1 who s)
  else
    let a := if write then
        admitDebits p n d.seq d.sub (turnDebits n w (granules e.1 e.2) 0 ++ (if toHost w then packetsOf s p w k (k + e.2) else [])) s
      else (true, s)
    if !a.1 then (100, a.2)
    else
      let r := edgeStep p n d k (if write then leaveHeld e.1 who a.2 else a.2)
      let s := r.2.2
      if r.1 ≠ 0 then (r.1, s)
      else
        let s := putDesc n { r.2.1 with turnAt := s.clk } s
        match r.2.1.st with
        | .moving _ => (0, s)
        | st =>
          let s := stampXfer d.uid (if st = .await then releaseDesc n d.seq d.sub s else s)
          if !toHost w && tmoInj s 3 1 n then (cTIMEOUT, injDone s) else (0, s)

/-- A started edge descriptor that its job's save has caught part way makes its remaining accesses at once (03 R93; log 18). -/
def edgeRest (p n : Nat) : Nat → Desc → State → Nat × State
  | 0, _, s => (0, s)
  | f + 1, d, s =>
    match d.st with
    | .moving k =>
      let e := edgePiece d.words k
      let s := if dSSP d.words = 2 then
          (turnDebits n d.words (granules e.1 e.2) 0 ++ (if toHost d.words then packetsOf s p d.words k (k + e.2) else [])).foldl
            (fun s x => debit p x.1 x.2 s) s
        else s
      let r := edgeStep p n d k s
      if r.1 ≠ 0 then (r.1, r.2.2) else edgeRest p n f r.2.1 r.2.2
    | _ => (0, stampXfer d.uid s)

/-! ### Turns of a core's channels (08 R215) -/

/-- The started descriptor at the head of a channel, with the bytes it has moved. -/
def activeHead (c : Core) (ch : Nat) : Option (Desc × Nat) :=
  match channelHead c ch with
  | some d => (match d.st with
    | .moving k => some (d, k)
    | _ => none)
  | none => none

/-- The channel whose turn is next: active, and not waiting; in rising order from the one the rotation has come to. -/
def nextTurn (c : Core) (waits : List Nat) : Option Nat :=
  ((List.range 8).map (fun i => (c.rot + i) % 8)).find? (fun ch => (activeHead c ch).isSome && !waits.contains ch)

/-- A turn of channel ch of core n; the flipped bits are those of descriptor `tgt`. -/
def turnOf (n ch : Nat) (tgt : Nat × Nat) (fl : Flips) (s : State) : Moved :=
  match activeHead (getCore s n) ch with
  | none => (100, s)
  | some (d, k) =>
    let p := partOfCore s n
    let r := if dEdge d.words then edgeTurn p n d k s else moveTurn p n d k (if (d.seq, d.sub) = tgt then fl else []) s
    if r.1 = 0 ∨ r.1 = 100 then r else (0, failDesc n d r.1 r.2)

/-- Turns of a core's channels in rotation, until `stop` holds or no channel can move (08 R215). -/
def turns (n : Nat) (tgt : Nat × Nat) (fl : Flips) (stop : Core → Bool) : Nat → List Nat → State → State
  | 0, _, s => s
  | f + 1, waits, s =>
    let c := getCore s n
    if stop c then s
    else match nextTurn c waits with
      | none => s
      | some ch =>
        let r := turnOf n ch tgt fl s
        let s := modCore n (fun c => { c with rot := (ch + 1) % 8 }) r.2
        turns n tgt fl stop f (if r.1 = 0 then waits else ch :: waits) s

/-- Turns that bring every descriptor of a core to the end of its accesses, at most. -/
def turnBound (c : Core) : Nat := (c.descs.map (fun d => dTotal d.words)).sum + 9

/-- An edge descriptor has made its accesses here, or is gone. -/
def edgeStops (seq sub : Nat) (c : Core) : Bool :=
  match c.descs.find? (fun d => decide (d.seq = seq) && decide (d.sub = sub)) with
  | none => true
  | some d => match d.st with
    | .moving _ => false
    | _ => true

/-- An edge descriptor starts, or goes on after a wait: the channels take their turns until its accesses here are done or none can move
(08 R215, 17 R460, R462, 16 R441). -/
def startEdge (p n : Nat) (fresh : Bool) (d : Desc) (s : State) : State :=
  let w := d.words
  let code := if !fresh then 0 else if toHost w then qpCheck s p d else if edgeChip w = chipNo s then cREMOTE else 0
  if code ≠ 0 then failDesc n d code s
  else
    let s := putDesc n d s
    let s := if fresh then startXfer p n d s else s
    turns n (d.seq, d.sub) [] (edgeStops d.seq d.sub) (turnBound (getCore s n)) [] s

/-! ### The commands -/

/-- A quad's HOLD keeps its cores from starting descriptors only when its power is off (19); issue is held elsewhere. -/
def dmaRuns (s : State) (n : Nat) : Bool := coreOn s n

/-- DMA_DESCRIPTOR_START: the next descriptor of a channel starts; an edge descriptor that had to wait goes on (08 R215). -/
def execDmaDescriptorStart (core : Nat) (ch : BitVec 3) (s : State) : Res :=
  let s := readHands core s
  let c := getCore s core
  unitRes (decide (core < 100)) (
    match c.job, channelHead c ch.toNat with
    | some j, some d =>
      if !dmaRuns s core || !descFree c d || d.st = .landing then s
      else
        let fresh := decide (d.st = .queued)
        let d := if fresh then { d with startAt := s.clk, turnAt := s.clk, st := .moving 0 } else d
        if tmoInj s 2 1 core || (tmoInj s 1 1 core && !dEdge d.words) then failDesc core d cTIMEOUT (injDone s)
        else if dEdge d.words then startEdge j.part core fresh d s else putDesc core d s
    | _, _ => s)

/-- The SEMEN signal of a completed descriptor (08 R220, 10 R271). -/
def semenSignal (n : Nat) (d : Desc) (s : State) : State :=
  let w := d.words
  if !dSEMEN w then s
  else
    let t := if dSCORE w = 127 then n else dSCORE w
    let p := partOfCore s n
    match (getCore s t).job with
    | some j =>
      if j.part ≠ p then takeFault n d.seq cPROT 0 d.pc s
      else if s.tick.phase = .closed && decide (j.st ≠ .saved) then raise 1 t (some p) 0x2006 (dSEM w) s
      else semSignal t p j.jobid (dSEM w) s
    | none =>
      match placedJob s t p with
      | some jid => if s.tick.phase = .closed then semSignal t p jid (dSEM w) s else signalAway t p (dSEM w) (· + 1) s
      | none => takeFault n d.seq cPROT 0 d.pc s

/-- A descriptor whose every access is done reaches completion (08 Table 8-8, R220). -/
def completeDesc (core seq sub : Nat) (s : State) : State :=
  match (getCore s core).descs.find? (fun d => decide (d.seq = seq) && decide (d.sub = sub)) with
  | none => s
  | some d => if d.st = .complete then semenSignal core d (dropDesc core d.seq d.sub s) else s

/-- A descriptor of a core no longer moves: it is gone, or complete, or was never started here. -/
def descStops (seq sub : Nat) (c : Core) : Bool :=
  match c.descs.find? (fun d => decide (d.seq = seq) && decide (d.sub = sub)) with
  | none => true
  | some d => match d.st with
    | .moving _ => false
    | _ => true

/-- DMA_DESCRIPTOR_COMPLETE: the core's channels take their turns until the descriptor in a slot has made its last access, or none
can move; then it completes (08 R215, R217). Its bytes lose the bits that the command names on their way (09 R239). -/
def execDmaDescriptorComplete (core : Nat) (slot : DescEnd) (s : State) : Res :=
  unitRes (decide (core < 100)) (
    match (getCore s core).descs[slot.slot]? with
    | none => s
    | some d =>
      let s := if dmaRuns s core then turns core (d.seq, d.sub) slot.flips (descStops d.seq d.sub) (turnBound (getCore s core)) [] s else s
      completeDesc core d.seq d.sub s)

/-- REGULATOR_REFILL: 1 µs after the last refill every bucket receives its tokens, and what waited for them at a port goes on (13 R367). -/
def execRegulatorRefill (s : State) : Res :=
  let due := s.tick.refillAt + 1200
  let s := passTo due s
  .next (pump ((List.range 16).foldl refillPart { s with tick := { s.tick with refillAt := due } }))

end Sys2Proof.Machine
end

