-- ==== Sys2Proof/Machine/Save.lean ====
section
/-! DEFINITION. Preemption and resumption: the save image and what is kept beside it (03 R92 to R99, R562; 05 Table 5-3; 06
Table 6-5; 07 Table 7-5; 08 Tables 8-10, 8-11, R229; 10 R271). -/

namespace Sys2Proof.Machine

open Sys2Proof

/-! ### Stopping (03 R93; log 12) -/

/-- The unit at which a stopped instruction stands: `x` is a free number (log 12). -/
def stopUnit (o : Op) (u : Uop) (x : Nat) : Nat :=
  match o with
  | .mmac => u.done + x % (mK u.word - u.done + 1)
  | .mzero => 1
  | .mdrain => u.done + x % (129 - u.done)
  | .mload => u.done + x % (129 - u.done)
  | _ => if vWhole o then 0 else u.done + x % (vUnits o u.word - u.done + 1)

/-- Put an instruction back into its pipe. -/
def setPipe (p : Pipe) (u : Uop) (c : Core) : Core :=
  match p with
  | .array => { c with array := some u }
  | .port => { c with port := some u }
  | .vector => { c with vector := some u }

/-- A pressed `mmac` stops: of the block it took last it may have taken the first row only, so long as that row's rounding group is
open (a free choice, log 12). -/
def stopPressed (x : Nat) (u : Uop) (c : Core) : Core :=
  match c.mangle.taken.getLast? with
  | none => c
  | some b =>
    if x % 2 = 0 || c.mangle.half || decide (32 ≤ c.mangle.queue.length) then c
    else { c with array := some { u with done := u.done - 1 }
                  mangle := { c.mangle with half := true, taken := c.mangle.taken.dropLast, queue := (u.seq, b) :: c.mangle.queue } }

/-- The instruction in one pipe stops; one that has reached its end completes. A float `mmac` that stops within a rounding group has
added the groups before it; on resume it reads the steps of that group again (log 12). -/
def stopPipe (n : Nat) (s : State) (p : Pipe) : State :=
  let c := getCore s n
  match pipeUop p c with
  | none => s
  | some u =>
    if isPressed u then
      let f := takeFree s
      setCore n (stopPressed (Config.freeNat f.1) u c) f.2
    else
      let o := uopOp u
      let k := stopUnit o u (Config.freeNat s.free)
      let s := { s with free := s.free + 1 }
      if k = unitsOf o u then completeUop n p u s
      else if k ≤ u.done then s
      else if o = .mmac && wholeSteps u k = wholeSteps u u.done then setCore n (setPipe p { u with done := k } c) s
      else
        let r := runUop o u k s.free c
        let s := setCore n (addFlags r.fl (releaseScales (keepScales u c) (setPipe p { keepScales u c with done := k } r.core))) { s with free := s.free + 32768 }
        if r.bad then takeFault n u.seq cPARITY 0 u.pc s else unitsWrote n o u u.done k s

/-- Local descriptors stop after the turn they have reached (03 R93): a free number of turns (log 12). -/
def stopTurns (n : Nat) (s : State) : State :=
  let f := takeFree s
  turns n (0, 0) [] (fun _ => false) (Config.freeNat f.1 % (turnBound (getCore s n) + 1)) [] f.2

/-- Of the oldest waiting `dma` a free number of descriptors, fewer than all, have been read and queued (08 R229; log 12). -/
def readSome (n : Nat) (s : State) : State :=
  match (getCore s n).dq with
  | [] => s
  | d :: t =>
    let f := takeFree s
    let k := d.read + Config.freeNat f.1 % (d.descs.length - d.read)
    queueDescs n d d.read k (modCore n (fun c => { c with dq := { d with read := k } :: t }) f.2)

/-- Descriptors whose every access is done complete at the signal (08 R228). -/
def finishDescs (n : Nat) (s : State) : State :=
  ((getCore s n).descs.filter (fun d => d.st = .complete)).foldl (fun s d => semenSignal n d (dropDesc n d.seq d.sub s)) s

/-! ### The image (03 Table 3-16) -/

/-- Bytes of a save image. -/
def imageSize : Nat := 0xA9000

/-- Insert an instruction by its issue number. -/
def uopInsert (x : Nat × Uop) : List (Nat × Uop) → List (Nat × Uop)
  | [] => [x]
  | h :: t => if x.2.seq < h.2.seq then x :: h :: t else h :: uopInsert x t

/-- The recorded instructions with their places in program order (03 R562). -/
def recorded (c : Core) : List (Nat × Uop) :=
  let l := c.array.toList.map (fun u => (0, u)) ++ c.port.toList.map (fun u => (1, u)) ++ c.vector.toList.map (fun u => (2, u))
    ++ c.mq.map (fun u => (3, u)) ++ c.vq.map (fun u => (4, u)) ++ c.dq.map (fun d => (5, d.op))
  l.foldl (fun a x => uopInsert x a) []

/-- Counter values an instruction draws. -/
def uopDraws (u : Uop) : Nat := drawsOf (uopOp u) u.word (ctlOf u.acr).rnd

/-- The saved SRCTR (07 R203). -/
def savedCtr (c : Core) : W64 :=
  match (recorded c).find? (fun x => decide (uopDraws x.2 ≠ 0)) with
  | some x => x.2.ctr
  | none => c.ctr

/-- The OWNER of a tracker entry (08 Table 8-10). -/
def ownerCode (c : Core) (e : TrkEntry) : Nat :=
  let isU (u : Uop) : Bool := decide (u.seq = e.seq)
  match c.descs.findIdx? (fun d => decide (d.seq = e.seq) && decide (d.sub = e.sub)) with
  | some i => i
  | none =>
    if c.array.toList.any isU then 0x40
    else if c.port.toList.any isU then 0x41
    else if c.vector.toList.any isU then 0x46
    else match c.mq.findIdx? isU, c.vq.findIdx? isU, c.dq.findIdx? (fun d => isU d.op) with
      | some i, _, _ => 0x42 + i
      | _, some i, _ => 0x47 + i
      | _, _, some i => 0x50 + i
      | _, _, _ => 0x4F

/-- Two words of one range. -/
def rangeWords (r : Option Range) (own : Nat) : List Byte :=
  match r with
  | none => natLe 8 (own * 2 ^ 56) ++ natLe 8 0
  | some r => natLe 8 (own * 2 ^ 56 + 2 ^ 53 + b2n r.wr * 2 ^ 52 + r.sp * 2 ^ 48 + r.first % 2 ^ 48) ++ natLe 8 (r.last % 2 ^ 48)

/-- A tracker entry as saved. -/
def entryBytes (c : Core) (e : TrkEntry) : List Byte := rangeWords e.r1 (ownerCode c e) ++ rangeWords e.r2 0

/-- Word indices in 16-bit fields. -/
def pcFields (us : List Uop) : List Byte := (us.map (fun u => natLe 2 (u.pc.toNat / 8))).flatten

/-- The place in the runs that an image shows for byte k: B0 is a multiple of 32 (08 Table 8-11); the bytes past it are kept beside the
image (log 13). -/
def savedPlace (d : List W64) (k : Nat) : Nat × Nat × Nat :=
  let i := byteAt d k
  (i.1, i.2.1, i.2.2 / 32 * 32)

/-- The place a descriptor's head has reached: STARTED, EDGE, bytes moved. -/
def descPlace (d : Desc) : Bool × Bool × Nat :=
  match d.st with
  | .moving k => if dEdge d.words then (true, true, 0) else (true, false, k)
  | .landing => (true, true, 0)
  | .await => (true, true, 0)
  | _ => (false, false, 0)

/-- A channel's state (08 Table 8-11). -/
def chanBytes (c : Core) (ch : Nat) : List Byte :=
  let mine := (c.descs.zip (List.range c.descs.length)).filter (fun d => decide (d.1.ch = ch))
  match mine with
  | [] => zeros 64
  | d :: _ =>
    let p := descPlace d.1
    let i := if p.1 && !p.2.1 then savedPlace d.1.words p.2.2 else (0, 0, 0)
    padTo 64 (natLe 8 (b2n p.2.1 * 2 ^ 14 + b2n p.1 * 2 ^ 13 + mine.length * 64 + d.2)
      ++ natLe 8 (i.1 * 2 ^ 48 + i.2.1 * 2 ^ 32 + i.2.2))

/-- The rows that the vector record counts: a `vqapp` stops at a token (07 R201). -/
def rowsDone (u : Uop) : Nat := if uopOp u = .vqapp then u.done * (qappGeom u.word).2.2.1 else u.done

/-- The vector record (07 Table 7-5). -/
def vectorRecord (c : Core) : List Byte :=
  let pipe := match c.vector with
    | some u => 2 ^ 22 + rowsDone u * 2 ^ 16 + u.pc.toNat / 8 % 2 ^ 16
    | none => 0
  natLe 8 (c.vq.length * 2 ^ 23 + pipe) ++ padTo 16 (pcFields c.vq)

/-- Word and steps of a pipe (05 Table 5-3). -/
def pipeRecord (u : Option Uop) : List Byte :=
  match u with
  | some u => natLe 8 u.word.toNat ++ natLe 8 u.done
  | none => zeros 16

/-- The issue-order record (03 R562). -/
def orderRecord (l : List (Nat × Uop)) : List Byte :=
  natLe 8 l.length ++ natLe 8 (((l.zip (List.range l.length)).map (fun x => x.1.1 * 8 ^ x.2)).sum)

/-- The decoder's state and table (06 Table 6-5). -/
def mangleBytes (m : Mangle) : List Byte :=
  padTo 64 m.table ++ natLe 8 m.word.toNat ++ natLe 8 m.addr ++ natLe 8 (m.index % 256 + m.queue.length * 256 + b2n m.half * 65536)

/-- The records of the image beyond the scratchpad, tiles and accumulators: offset and bytes, offsets rising. -/
def imageRecords (c : Core) : List (Nat × List Byte) :=
  [(0xA0000, natLe 8 c.pc.toNat ++ natLe 8 c.acr.toNat ++ natLe 8 c.asr.toNat ++ natLe 8 c.seed.toNat ++ natLe 8 c.stream.toNat
      ++ natLe 8 (savedCtr c).toNat ++ natLe 8 c.preg.toNat),
   (0xA0040, wordBytes ((List.range 32).map (sRead c))),
   (0xA0140, wordBytes ((List.range 8).map (mRead c))),
   (0xA0180, pipeRecord c.array ++ pipeRecord c.port),
   (0xA01A0, vectorRecord c),
   (0xA01B8, natLe 8 c.kind.toNat),
   (0xA01C0, natLe 8 c.mq.length ++ padTo 8 (pcFields c.mq)),
   (0xA01D0, natLe 8 (c.dq.length + ((c.dq.head?.map (fun d => d.read)).getD 0) * 64) ++ padTo 8 (pcFields (c.dq.map (fun d => d.op)))),
   (0xA01E0, padTo 64 (c.descs.map (fun d => BitVec.ofNat 8 (128 + d.ch)))),
   (0xA0220, orderRecord (recorded c)),
   (0xA0400, ((List.range 8).map (chanBytes c)).flatten),
   (0xA0600, (c.descs.map (fun d => wordBytes d.words)).flatten),
   (0xA1600, (c.trk.map (entryBytes c)).flatten),
   (0xA1C00, wordBytes ((List.range 64).map (fun i => smapGet 0 c.sems i))),
   (0xA1E00, mangleBytes c.mangle),
   (0xA2000, (c.mangle.queue.map (fun b => (b.2.map (fun w => natLe 2 w.toNat)).flatten)).flatten)]

/-- Words as bytes from a base. -/
def spreadWords (base : Nat) (m : SMap W32) : SMap Byte := (m.map (fun e => smapOf 0 (base + 4 * e.1) (natLe 4 e.2.toNat))).flatten

/-- The image of a core, by offset. -/
def imageMap (c : Core) : SMap Byte :=
  smapBelow c.spad spadSize ++ spreadWords 0x60000 c.tile ++ spreadWords 0x80000 c.acc
    ++ ((imageRecords c).map (fun r => smapOf 0 r.1 r.2)).flatten

/-- Write an image page by page. -/
def writeImage (save : Nat) (m : SMap Byte) (s : State) : State :=
  (List.range 169).foldl (fun s p => (belWrite (save + pageSize * p) (smapRun 0 m (pageSize * p) pageSize) s).2) s

/-- A page of a save area is POISON. -/
def savePoison (s : State) (save : Nat) : Bool := (List.range 169).any (fun p => isPoison s (pageOf save + p))

/-- The pages of a save area whose attribute entries fail their check: they are rewritten, and the job takes PROT (09 R245). -/
def saveAttrBad (s : State) (save : Nat) : List Nat :=
  ((List.range 169).map (fun p => pageOf save + p)).filter (fun pg => decide (smapGet 0 s.bonded.attrBad pg ≠ 0))

/-- Debit a save (`out`) or restore without waiting (13 R355, R367): 32 B for each granule at its slice, and at the router that injects
it where the slice is not the core's own. -/
def debitImage (p n save : Nat) (out : Bool) (s : State) : State :=
  (pageRuns save 170 imageSize).foldl (fun s q =>
    let sl := sliceOf q.1
    let s := debit p sl q.2 s
    if sl = n then s else debit p (100 + (if out then n else sl)) q.2 s) s

/-! ### Preemption -/

/-- The core that runs a job of the tick. -/
def coreOfJob (s : State) (part jobid : Nat) : Option Nat :=
  (List.range 100).find? (fun n => match (getCore s n).job with
    | some j => decide (j.part = part) && decide (j.jobid = jobid) && decide (j.st ≠ .saved)
    | none => false)

/-- The job, with the tick, to which a SEMEN of partition p to core t belongs now (10 R271). -/
def semenTarget (s : State) (p t : Nat) : Option (Nat × Nat) :=
  (placedJob s t p).map (fun jid => (jid, s.tick.now.toNat))

/-- Transfers of the job's edge descriptors run on for its image (03 R93, R95). -/
def handOver (n : Nat) (j : CoreJob) (c : Core) (s : State) : State :=
  { s with xfers := s.xfers.map (fun x =>
      match x.owner with
      | .desc n' seq sub =>
        if n' ≠ n then x
        else match c.descs.findIdx? (fun d => decide (d.seq = seq) && decide (d.sub = sub)) with
          | none => x
          | some i =>
            match c.descs[i]? with
            | none => x
            | some d =>
              let t := if dSCORE d.words = 127 then n else dSCORE d.words
              { x with owner := .image { part := j.part, jobid := j.jobid, core := n, ch := d.ch, slot := i, fpc := d.pc, semen := dSEMEN d.words,
                                         tcore := t, tgt := semenTarget s j.part t, sem := dSEM d.words } }
      | _ => x) }

/-- The core after its save: nothing in flight. -/
def stopCore (c : Core) : Core :=
  { c with mq := [], vq := [], dq := [], array := none, port := none, vector := none, trk := [], descs := [], hands := [], hold := .none,
           mangle := Mangle.idle }

/-- Keep an image, in place of an older one of the same job (13 R355). -/
def keepImage (i : Image) (s : State) : State :=
  { s with images := s.images.filter (fun x => !(decide (x.part = i.part) && decide (x.jobid = i.jobid))) ++ [i] }

/-- The image of the job of core n. -/
def makeImage (n : Nat) (j : CoreJob) (b : Job) (c : Core) (s : State) : Image :=
  let before := if b.ent.kind then ((findImage s j.part j.jobid).map (fun o => o.ticks)).getD [] else []
  { part := j.part, jobid := j.jobid, save := b.ent.save, core := n, prog := b.prog, seed := b.start.seed,
    stream := b.start.stream, ctr := b.start.ctr, plandig := b.start.plandig,
    mix0 := c.mix0, mix1 := c.mix1, uops := recorded c, descs := c.descs, nseq := c.nseq, mangle := c.mangle,
    ticks := before ++ [s.tick.now.toNat] }

/-- A starch job pre-empted after it queued a float-add descriptor (10 R279; the slice is the core's own, log 35). -/
def orderLost (n : Nat) (j : CoreJob) (c : Core) (s : State) : State :=
  if decide ((getPart s j.part).mode = 1) && decide (c.addPos ≠ 0) then addLost n j.part 3 s else s

/-- The saved tracker entries of a slot's descriptor are released, whichever range each holds (08 R226). -/
def imageRelease (i : Image) (slot : Nat) (s : State) : State :=
  let r := belRead (i.save + 0xA1600) 1536 s
  if r.1 then r.2.2
  else
    let es := (chunksOf 32 48 r.2.1).map (fun e =>
      if (bit (rdN e 0 8) 53 || bit (rdN e 16 8) 53) && decide (bits (rdN e 0 8) 63 56 = slot) then zeros 32 else e)
    (belWrite (i.save + 0xA1600) es.flatten r.2.2).2

/-- An edge descriptor that ran on fails: its channel's state takes the fault (03 R95). -/
def imageDescFail (part jobid ch : Nat) (fpc : W64) (code : Nat) (s : State) : State :=
  match findImage s part jobid with
  | none => s
  | some i =>
    let a := i.save + 0xA0400 + 64 * ch
    (belWrite (a + 16) (natLe 8 (fpc.toNat / 8 % 65536)) (belWrite (a + 2) (natLe 1 code) s).2).2

/-- A started edge descriptor runs on after the save: what it has still to access here it accesses now, and its range is released; a fault
goes into the image (03 R93, R95). -/
def runOn (n : Nat) (i : Image) (d : Desc) (slot : Nat) (s : State) : State :=
  if dEdge d.words then
    match d.st with
    | .moving k =>
      let r := edgeRest i.part n (dTotal d.words - k + 1) d s
      if r.1 = 0 then (if dSSP d.words = 2 then imageRelease i slot r.2 else r.2)
      else
        let s := { r.2 with xfers := r.2.xfers.filter (fun x => x.uid ≠ d.uid) }
        imageDescFail i.part i.jobid d.ch d.pc r.1 s
    | _ => s
  else s

/-- The preemption signal reaches core n: it stops and its image is written, unless a fault is met (03 R93, R98). -/
def preempt (n : Nat) (s : State) : State :=
  match (getCore s n).job with
  | none => s
  | some j =>
    if j.st ≠ .running then s
    else
      let s := finishDescs n (readSome n (stopTurns n (readHands n s)))
      let s := [Pipe.array, .port, .vector].foldl (stopPipe n) s
      let c := getCore s n
      match c.job, s.jobs[j.index]? with
      | some j', some b =>
        if j'.st ≠ .running then s
        else if spadParity c 0 spadSize then takeFault n c.nseq cPARITY 0 c.pc s
        else if saveAttrBad s b.ent.save ≠ [] then
          takeFault n c.nseq cPROT 0 c.pc ((saveAttrBad s b.ent.save).foldl (fun s pg => attrRepair (pg * pageSize) s) s)
        else if savePoison s b.ent.save then takeFault n c.nseq cPARITY 0 c.pc s
        else
          let s := writeImage b.ent.save (imageMap c) (debitImage j.part n b.ent.save true s)
          let i := makeImage n j b c s
          let s := keepImage i (handOver n j c (orderLost n j c s))
          let s := (c.descs.zip (List.range c.descs.length)).foldl (fun s d => runOn n i d.1 d.2 s) s
          let s := { s with waiters := s.waiters.filter (fun w => w.core ≠ n) }
          modCore n (fun c => { stopCore c with job := some { j with st := .saved, endAt := s.clk } }) s
      | _, _ => s

/-! ### Results and power (13 R363, 19 R507, R509) -/

/-- The outcome of a job that has run, from its core; running ones have none yet. -/
def runOutcome (st : RunSt) : JobOutcome :=
  match st with
  | .running => .none
  | .halted => .complete
  | .faulted => .faulted
  | .rolledBack => .rolledBack
  | .saved => .preempted

/-- The stop PC of a job that took no fault: the first instruction not issued (03 R87; log 56). The PC stays at an issued `halt`. -/
def stopPc (c : Core) (st : RunSt) : W64 := if st = .halted then c.pc + 8 else c.pc

/-- A job of the tick as its core shows it: outcome, faults, times, ASR and generator values (13 Table 13-10). An outcome that
stands already is kept. -/
def settleJob (n : Nat) (s : State) : State :=
  let c := getCore s n
  match c.job with
  | none => s
  | some j =>
    match s.jobs[j.index]? with
    | none => s
    | some b =>
      let b' : Job := { b with
        out := if b.out = .none then runOutcome j.st else b.out
        fault := c.fault.getD { b.fault with spc := stopPc c j.st }
        runUs := min (2 ^ 32 - 1) ((j.endAt - j.startAt) / 1200)
        asr := c.asr
        seed0 := j.seed0
        stream0 := j.stream0
        ctr0 := j.ctr0
        p0mask := c.p0mask }
      { s with jobs := s.jobs.set j.index b' }

/-- A core without its state: its SPAD_ARB is the one in effect for the tick (08 R214). -/
def clearedCore (c : Core) : Core := { Core.reset with spadArb := c.spadArb }

/-- A quad goes off: what its cores' jobs came to is kept for the status record, and core state is lost (19 R509). -/
def quadOff (q : Nat) (s : State) : State :=
  let s := (quadCores q).foldl (fun s n => setCore n (clearedCore (getCore s n)) (settleJob n s)) s
  modQuad q (fun v => { v with st := .off, wantOff := false, cycleAt := v.cycleAt.map (fun _ => s.clk) }) s

/-! ### After the save (03 R95, 10 R271) -/

/-- The descriptor's transfers that still run for an image. -/
def imageBusy (s : State) (part jobid : Nat) : Bool :=
  s.xfers.any (fun x => match x.owner with
    | .image d => decide (d.part = part) && decide (d.jobid = jobid)
    | _ => false)

/-- A slot's descriptor still runs. -/
def slotBusy (s : State) (part jobid slot : Nat) : Bool :=
  s.xfers.any (fun x => match x.owner with
    | .image d => decide (d.part = part) && decide (d.jobid = jobid) && decide (d.slot = slot)
    | _ => false)

/-- Write a channel's HEAD, COUNT, STARTED and EDGE from the slot map of an image, and the progress of a local descriptor that is its
head now (Table 8-11). -/
def imageChannel (i : Image) (ch : Nat) (s : State) : State :=
  let r := belRead (i.save + 0xA01E0) 64 s
  if r.1 then r.2.2
  else
    let mine := (List.range 64).filter (fun k => decide (rdN r.2.1 k 1 = 128 + ch))
    let a := i.save + 0xA0400 + 64 * ch
    let s := r.2.2
    match mine with
    | [] => (belWrite a (natLe 2 0) s).2
    | h :: _ =>
      let b := b2n (slotBusy s i.part i.jobid h)
      let k := match (i.descs[h]?).map (fun d => (d, descPlace d)) with
        | some (d, true, false, k) => some (savedPlace d.words k)
        | _ => none
      match k with
      | none => (belWrite a (natLe 2 (b * 2 ^ 14 + b * 2 ^ 13 + mine.length * 64 + h)) s).2
      | some k =>
        (belWrite (a + 8) (natLe 8 (k.1 * 2 ^ 48 + k.2.1 * 2 ^ 32 + k.2.2)) (belWrite a (natLe 2 (2 ^ 13 + mine.length * 64 + h)) s).2).2

/-- The SEMEN of a descriptor that ran on after its job's save, for job `tjob` that core `tcore` ran in tick `tick` (10 R271): to the
job on its core, in that tick or resumed from its pre-emption in it; in the image of that pre-emption; or late. -/
def lateSemen (part tcore tjob tick sem : Nat) (s : State) : State :=
  let late (s : State) : State := raise 1 tcore (some part) 0x2006 sem s
  let kept := ((findImage s part tjob).map (fun i => i.ticks.contains tick)).getD false
  match coreOfJob s part tjob, findImage s part tjob with
  | some n, _ => if s.tick.phase ≠ .closed && (decide (s.tick.now.toNat = tick) || kept) then semAdd n sem 1 s else late s
  | none, some i => if kept then imageSemAdd i sem 1 s else late s
  | none, none => late s

/-- An edge descriptor that ran on completes: it leaves the image, and its SEMEN reaches its target (10 R271); one whose core ran no
job of the partition at the save raises PROT, which the image records (08 R220; DEDUCED, log 107). -/
def imageDescDone (d : ImgDesc) (s : State) : State :=
  let s := match findImage s d.part d.jobid with
    | some i => imageChannel i d.ch (imageRelease i d.slot (belWrite (i.save + 0xA01E0 + d.slot) [0] s).2)
    | none => s
  if !d.semen then s
  else match d.tgt with
    | some (j, t) => lateSemen d.part d.tcore j t d.sem s
    | none => imageDescFail d.part d.jobid d.ch d.fpc cPROT s

/-- The fault recorded in an image: code and word index. Where descriptors of several channels have faulted it is the lowest
channel's, and NFAULT counts no further one (DESIGN CHOICE, log 113). -/
def imageFault (s : State) (i : Image) : Option (Nat × Nat) :=
  (List.range 8).findSome? (fun ch =>
    let a := i.save + 0xA0400 + 64 * ch
    let code := leNat (bBytes s (a + 2) 1)
    if code = 0 then none else some (code, leNat (bBytes s (a + 16) 2)))

/-! ### Resumption (03 R94) -/

/-- Sparse bytes as sparse words from `lo`. -/
def packWords (lo : Nat) : SMap Byte → SMap W32
  | [] => []
  | (k, b) :: t =>
    let w := (k - lo) / 4
    let v : W32 := b.setWidth 32 <<< (8 * ((k - lo) % 4))
    match packWords lo t with
    | (w', v') :: r => if w' = w then (w, v' ||| v) :: r else (w, v) :: (w', v') :: r
    | [] => [(w, v)]

/-- One range of a saved entry. -/
def readRange (b : List Byte) (off : Nat) : Option Range :=
  let w := rdN b off 8
  if bit w 53 then some { wr := bit w 52, sp := bits w 51 48, first := bits w 47 0, last := bits (rdN b (off + 8) 8) 47 0 } else none

/-- The recorded instructions at one place, oldest first. -/
def atPlace (us : List (Nat × Uop)) (p : Nat) : List Uop := (us.filter (fun x => decide (x.1 = p))).map Prod.snd

/-- The issue number and entry number of a saved tracker entry, from its OWNER; `k` counts entries of that owner before it, `read` the
queued descriptors of the oldest waiting `dma`. -/
def ownerSeq (i : Image) (read own k : Nat) : Nat × Nat :=
  if own < 0x40 then
    match i.descs[own]? with
    | some d => (d.seq, d.sub)
    | none => (0, k)
  else
    let u :=
      if own = 0x40 then (atPlace i.uops 0).head?
      else if own = 0x41 then (atPlace i.uops 1).head?
      else if own < 0x46 then (atPlace i.uops 3)[own - 0x42]?
      else if own = 0x46 then (atPlace i.uops 2).head?
      else if own < 0x4F then (atPlace i.uops 4)[own - 0x47]?
      else (atPlace i.uops 5)[own - 0x50]?
    match u with
    | some u => (u.seq, if own = 0x50 then read + k else k)
    | none => (0, k)

/-- The saved tracker, in order. -/
def readTracker (i : Image) (read : Nat) : List (List Byte) → List Nat → List TrkEntry
  | [], _ => []
  | b :: t, seen =>
    let own := bits (rdN b 0 8) 63 56
    let r1 := readRange b 0
    let r2 := readRange b 16
    if r1.isNone && r2.isNone then readTracker i read t seen
    else
      let q := ownerSeq i read own (seen.filter (· = own)).length
      { seq := q.1, sub := q.2, r1 := r1, r2 := r2 } :: readTracker i read t (own :: seen)

/-- Instructions that use the counter generator take their counter bases in program order (03 R562, 07 R203). A `cwr` of SRCTR that
had executed between two of them has no place in the image and is lost here (DESIGN CHOICE, log 118). -/
def takeCtrs : W64 → List (Nat × Uop) → List (Nat × Uop) × W64
  | c, [] => ([], c)
  | c, x :: t =>
    let r := takeCtrs (c + BitVec.ofNat 64 (uopDraws x.2)) t
    ((x.1, { x.2 with ctr := c }) :: r.1, r.2)

/-- The saved descriptors of an image: those whose slot the map still marks. The progress of a started local descriptor that is not
its channel's oldest has no place in the image and is kept beside it (log 13). -/
def readDescs (i : Image) (map chans queue : List Byte) (now : Nat) : List Desc :=
  (List.range 64).filterMap (fun k =>
    let m := rdN map k 1
    if m < 128 then none
    else
      let ch := m % 8
      let cs := rdB chans (64 * ch) 64
      let w0 := rdN cs 0 8
      let words := leWords (rdB queue (64 * k) 64)
      let w1 := rdN cs 8 8
      let head := decide (bits w0 5 0 = k)
      let moved := (bits w1 63 48 * dN1 words + bits w1 47 32) * dLEN words + bits w1 31 0
      let old := i.descs[k]?
      let kept : Option Nat := old.bind (fun d => match d.st with
        | .moving m => if dEdge d.words then none else some m
        | _ => none)
      let at' (m : Nat) : Nat := let i := savedPlace words m; (i.1 * dN1 words + i.2.1) * dLEN words + i.2.2
      let st : DescSt :=
        if head then (if bit w0 13 && !bit w0 14 then .moving ((kept.filter (fun m => at' m = moved)).getD moved) else .queued)
        else match kept with
          | some m => .moving m
          | none => .queued
      some { seq := (old.map (fun d => d.seq)).getD 0, sub := (old.map (fun d => d.sub)).getD k, pc := (old.map (fun d => d.pc)).getD 0,
             ch := ch, words := words, st := st, startAt := now, turnAt := now, heldFor := 0, addPos := 0, uid := (old.map (fun d => d.uid)).getD 0,
             buf := (old.map (fun d => d.buf)).getD [] })

/-- Number the float adds of a list from 0 (10 R278). -/
def numberAdds : Nat → List Desc → List Desc × Nat
  | k, [] => ([], k)
  | k, d :: t =>
    let f := dFloatAdd d.words
    let r := numberAdds (if f then k + 1 else k) t
    ({ d with addPos := if f then k else d.addPos } :: r.1, r.2)

/-- The `dma` instructions waiting: their lists are read again from the restored scratchpad, the oldest from its descriptor READ on
(08 R229). -/
def readWaits (spad : SMap Byte) (us : List Uop) (read : Nat) : List DmaWait :=
  (us.zip (List.range us.length)).map (fun x =>
    let w := x.1.word
    { op := x.1, ch := fld w 47 45, descs := descList (smapRun 0 spad (nthW x.1.sv 0) (64 * (fld w 39 34 + 1))),
      read := if x.2 = 0 then read else 0 })

/-- A word may stand at a place: a legal one of that queue, whose operands lie in S-space (03 R80, 04 R135). -/
def mayStand (c : Core) (p : Nat) (w : W64) : Bool :=
  match wordOp w with
  | none => false
  | some o =>
    let fits := if p = 0 then decide (o = .mmac) else if p = 1 then opFmt o = .M && decide (o ≠ .mmac) else if p = 3 then opFmt o = .M
      else if p = 5 then decide (o = .dma) else opFmt o = .V
    fits && legal o w && (p = 5 || (opRanges o w c).isSome)

/-- An instruction recorded at place p, number k of it, with its word, address and units as the image gives them; the rest is kept beside
the image (log 13), or stands as the restored control registers have it. Of a word that cannot stand there the instruction that issued
is executed, one of the two that 07 R202 allows (DESIGN CHOICE, log 130). -/
def savedUop (i : Image) (c : Core) (p k : Nat) (pc : Option Nat) (word : W64) (done : Nat) : List (Nat × Uop) :=
  let ok := mayStand c p word
  match (atPlace i.uops p)[k]? with
  | some u => [(p, { u with word := if ok then word else u.word, done := done, pc := (pc.map (BitVec.ofNat 64)).getD u.pc })]
  | none =>
    if ok then
      [(p, { seq := i.nseq, pc := (pc.map (BitVec.ofNat 64)).getD 0, word := word, acr := c.acr, seed := c.seed, stream := c.stream, ctr := 0,
             sv := [], done := done, startAt := 0 })]
    else []

/-- The instructions at one place whose word indices a record lists: their words are read again from the restored scratchpad (05 Table
5-3, 07 Table 7-5, 08 R229). -/
def savedQueue (i : Image) (c : Core) (p n : Nat) (idx : List Byte) : List (Nat × Uop) :=
  ((List.range n).map (fun k =>
    let a := 8 * rdN idx (2 * k) 2
    savedUop i c p k (some a) (BitVec.ofNat 64 (leNat (spadBytes c a 8))) 0)).flatten

/-- The instruction in a pipe of the matrix engine: word and units (05 Table 5-3). -/
def savedPipe (i : Image) (c : Core) (p hi : Nat) (rec : List Byte) : List (Nat × Uop) :=
  let w := BitVec.ofNat 64 (rdN rec 0 8)
  if w = 0 then [] else savedUop i c p 0 none w (bits (rdN rec 8 8) hi 0)

/-- The instruction in the vector pipe (07 Table 7-5, R201). -/
def savedVector (i : Image) (c : Core) (rec : Nat) : List (Nat × Uop) :=
  if bit rec 22 then
    let a := 8 * bits rec 15 0
    let w := BitVec.ofNat 64 (leNat (spadBytes c a 8))
    let rows := bits rec 21 16
    savedUop i c 2 0 (some a) w (if wordOp w = some .vqapp then rows / (qappGeom w).2.2.1 else rows)
  else []

/-- Recorded instructions in the order of the places listed: at each place the oldest first (03 R562). -/
def inOrder : List Nat → List (Nat × Uop) → List (Nat × Uop)
  | [], _ => []
  | p :: t, us =>
    match us.find? (fun x => decide (x.1 = p)) with
    | some x => x :: inOrder t (dropFirst (fun y => decide (y.1 = p)) us)
    | none => inOrder t us

/-- The places of the issue-order record (03 R562). -/
def orderPlaces (rec : List Byte) : List Nat := (List.range (rdN rec 0 8 % 32)).map (fun k => bits (rdN rec 8 8) (3 * k + 2) (3 * k))

/-- The recorded instructions of an image, in program order; `rd` reads the image. -/
def savedUops (i : Image) (c : Core) (rd : Nat → Nat → List Byte) : List (Nat × Uop) :=
  let vrec := rd 0xA01A0 24
  let us := savedPipe i c 0 9 (rd 0xA0180 16) ++ savedPipe i c 1 7 (rd 0xA0190 16) ++ savedVector i c (rdN vrec 0 8)
    ++ savedQueue i c 3 (bits (leNat (rd 0xA01C0 8)) 2 0) (rd 0xA01C8 8)
    ++ savedQueue i c 4 (bits (rdN vrec 0 8) 26 23) (rdB vrec 8 16)
    ++ savedQueue i c 5 (bits (leNat (rd 0xA01D0 8)) 2 0) (rd 0xA01D8 8)
  inOrder (orderPlaces (rd 0xA0220 16)) us

/-- The mangle of an image: its queued blocks belong to the running `mmac` first (06 Table 6-5). -/
def readMangle (i : Image) (arr : Option Uop) (mq : List Uop) (st queue : List Byte) : Mangle :=
  let w := rdN st 0x40 8
  let info := rdN st 0x50 8
  let n := bits info 15 8
  let run := match arr with
    | some u => if isPressed u then some u else none
    | none => none
  let left := match run with
    | some u => (mK u.word - u.done + 1) / 2
    | none => 0
  let next := (mq.filter isPressed).head?
  let num (u : Option Uop) : Nat := (u.map (fun u => u.seq)).getD 0
  let seqOf (k : Nat) : Nat := if k < left then num run else num next
  let table := rdB st 0 64
  let begun := if w ≠ 0 then seqOf n + 1 else if left < n then num next + 1
    else if n = 0 ∧ left ≠ 0 then num run else match run with
      | some u => u.seq + 1
      | none => 0
  { table := if w = 0 then [] else table, word := BitVec.ofNat 64 w, seq := seqOf n, addr := rdN st 0x48 8, index := bits info 7 0,
    dead := decide (w ≠ 0) && !tblValid table (pressFmt (BitVec.ofNat 64 w)), told := i.mangle.told, begun := begun,
    taken := if run.isSome then i.mangle.taken else [], half := bit info 16,
    last := if w ≠ 0 && i.mangle.addr = rdN st 0x48 8 then i.mangle.last else [],
    queue := (List.range n).map (fun k => (seqOf k, (chunksOf 2 256 (rdB queue (512 * k) 512)).map (fun b => BitVec.ofNat 16 (leNat b)))) }

/-- The core that an image describes; `m` is the image by offset, `now` the clk. -/
def coreOfImage (i : Image) (j : CoreJob) (arb : BitVec 1) (now : Nat) (m : SMap Byte) : Core :=
  let rd (off n : Nat) : List Byte := smapRun 0 m off n
  let w (off : Nat) : W64 := BitVec.ofNat 64 (leNat (rd off 8))
  let c : Core := { Core.reset with
    job := some j
    pc := w 0xA0000
    sreg := smapSet 0 (smapOf 0 0 (leWords (rd 0xA0040 256))) 0 0
    preg := BitVec.ofNat 8 (rdN (rd 0xA0030 8) 0 1 ||| 1)
    mreg := smapOf 0 0 (leWords (rd 0xA0140 64))
    tile := packWords 0x60000 (smapFrom (smapBelow m 0x80000) 0x60000)
    acc := packWords 0x80000 (smapFrom (smapBelow m 0xA0000) 0x80000)
    kind := BitVec.ofNat 2 (leNat (rd 0xA01B8 8))
    mix0 := i.mix0
    mix1 := i.mix1
    acr := w 0xA0008 &&& 0xF
    asr := w 0xA0010 &&& 0x7F
    seed := w 0xA0018
    stream := w 0xA0020 &&& 0xFFFFFFFF
    spad := smapBelow m spadSize
    sems := smapOf 0 0 (leWords (rd 0xA1C00 512))
    nseq := i.nseq
    spadArb := arb }
  let t := takeCtrs (w 0xA0028) (savedUops i c rd)
  let mq := atPlace t.1 3
  let arr := (atPlace t.1 0).head?
  let read := bits (leNat (rd 0xA01D0 8)) 12 6
  let ds := numberAdds 0 (readDescs i (rd 0xA01E0 64) (rd 0xA0400 512) (rd 0xA0600 4096) now)
  { c with
    ctr := t.2
    mq := mq
    vq := atPlace t.1 4
    dq := readWaits c.spad (atPlace t.1 5) read
    array := arr
    port := (atPlace t.1 1).head?
    vector := (atPlace t.1 2).head?
    trk := readTracker i read ((List.range 48).map (fun k => rd (0xA1600 + 32 * k) 32)) []
    descs := ds.1
    mangle := readMangle i arr mq (rd 0xA1E00 512) (rd 0xA2000 16384)
    addPos := ds.2 }

/-- Read an image page by page: true where a parity error or a POISON page stopped it. -/
def readImage (save : Nat) (s : State) : Bool × State :=
  (List.range 169).foldl (fun (x : Bool × State) p =>
    if x.1 then x else let r := belRead (save + pageSize * p) pageSize x.2; (r.1, r.2.2)) (false, s)

/-- A job resumes on core n from its image (03 R94, R95): a fault recorded in the image ends it before its first instruction. -/
def resumeJob (n : Nat) (j : CoreJob) (i : Image) (arb : BitVec 1) (s : State) : State :=
  let r := readImage i.save (debitImage j.part n i.save false s)
  let s := r.2
  let m := (smapFrom (smapBelow s.bonded.mem (i.save + imageSize)) i.save).map (fun e => (e.1 - i.save, e.2))
  let c := coreOfImage i j arb s.clk m
  let c := { c with job := some { j with seed0 := c.seed, stream0 := c.stream, ctr0 := BitVec.ofNat 64 (leNat (smapRun 0 m 0xA0028 8)) } }
  if r.1 then takeFault n c.nseq cPARITY 0 c.pc (setCore n { Core.reset with job := c.job, pc := c.pc, spadArb := arb } s)
  else
    let s := spadWrote n [(0, spadSize)] (setCore n c s)
    match imageFault s i with
    | some (code, idx) =>
      let f : FaultRec := { seq := c.nseq, code := code, trap := 0, fpc := BitVec.ofNat 64 (8 * idx), spc := c.pc, more := 0 }
      let s := setCore n { stopCore c with fault := some f, job := c.job.map (fun j => { j with st := .faulted, endAt := s.clk }) } s
      { s with images := s.images.filter (fun x => !(decide (x.part = i.part) && decide (x.jobid = i.jobid))) }
    | none => s

end Sys2Proof.Machine
end

