-- ==== Sys2Proof/Machine/Slice.lean ====
section
/-! DEFINITION. Slice controllers: row remaps, retrains, refresh holds, patrol scrub, attribute writes and granule scrubs
(09 R240 to R252, 13 R366, R372, 15 R412, 20 R522, R524). -/

namespace Sys2Proof.Machine

open Sys2Proof

/-! ### Row remaps (09 R247, R248) -/

/-- The pending remap that is done first. -/
def firstRemap : List (Nat × Nat × Nat × Nat) → Option (Nat × Nat × Nat × Nat)
  | [] => none
  | r :: t => match firstRemap t with
    | some x => if x.2.2.2 < r.2.2.2 then some x else some r
    | none => some r

/-- ROW_REMAP_DONE: the 2 us hold of a bank ends, the earliest first. It waits for a slice retrain (20 Table 20-2). -/
def execRowRemapDone (slice : Nat) (s : State) : Res :=
  let v := getSlice s slice
  unitRes (decide (slice < 100)) (
    match firstRemap v.remaps with
    | none => s
    | some r => if v.holdAt.isSome then s else setSlice slice { v with remaps := dropFirst (fun x => x = r) v.remaps } (passTo r.2.2.2 s))

/-! ### Retrains (09 R251) -/

/-- The slices that request a retrain, ascending. -/
def retrainWaiting (s : State) : List Nat := (List.range 100).filter (fun n => (getSlice s n).retrainReq && decide ((getSlice s n).st ≠ .failed))

/-- A slice becomes FAILED (09 R251). -/
def failSlice (n : Nat) (s : State) : State :=
  raise 2 n none 0x3004 0 (modSlice n (fun v => { v with st := .failed, retrainReq := false, holdAt := none }) s)

/-- SLICE_RETRAIN: at the start of the run phase the belfry holds the slice; with no spare bond left the slice is FAILED. -/
def execSliceRetrain (slice : Nat) (s : State) : Res :=
  let v := getSlice s slice
  unitRes (decide (slice < 100)) (
    if s.tick.phase ≠ .run || s.clk ≠ s.tick.runAt || !belfryRuns s || s.tick.retrained || decide ((retrainWaiting s).head? ≠ some slice) || v.holdAt.isSome then s
    else
      let s := { s with tick := { s.tick with retrained := true } }
      if 16 ≤ v.spareBonds then failSlice slice s
      else setSlice slice { v with st := .retrain, holdAt := some s.clk } s)

/-- A hold of a slice that began at t ends: the time that what waits for the slice has been held does not count (20 R529). An access that
came during the hold was held from then on. -/
def creditHeld (slice t : Nat) (s : State) : State :=
  let held (since : Nat) : Nat := s.clk - max t since
  let ofRead (x : Xfer) : Bool := x.read && x.len ≠ 0 && decide (sliceOf x.dst = slice)
  let s := { s with xfers := s.xfers.map (fun x => if ofRead x then { x with heldFor := x.heldFor + held x.lastAt } else x) }
  (List.range 100).foldl (fun s n =>
    let c := getCore s n
    let mine (x : Desc) : Bool := match x.st with
      | .moving k =>
        let q := pieceAt x.words k
        (dSSP x.words = 2 && decide (sliceOf q.1 = slice)) || (dDSP x.words = 2 && decide (sliceOf q.2.1 = slice))
      | .landing => !(s.xfers.any (ownedBy n x.seq x.sub)) && decide (sliceOf (dDST x.words) = slice)
      | _ => false
    if c.descs.any mine then
      setCore n { c with descs := c.descs.map (fun x =>
        if mine x then { x with heldFor := x.heldFor + held x.startAt, turnAt := x.turnAt + held x.turnAt } else x) } s
    else s) s

/-- The state of a slice that is not retraining. -/
def restState (v : Slice) : SliceSt := if v.degraded then .degraded else .ok

/-- SLICE_RETRAIN_RELEASE: 40 us have passed; the next spare bond is in and the held accesses go on. -/
def execSliceRetrainRelease (slice : Nat) (s : State) : Res :=
  let v := getSlice s slice
  unitRes (decide (slice < 100)) (
    match v.st, v.holdAt with
    | .retrain, some t =>
      let s := creditHeld slice t (passTo (t + us 40) s)
      let bad := (v.bondErrs.filter (fun e => decide (4 ≤ (v.bondErrs.filter (fun x => decide (x.1 = e.1))).length))).map Prod.fst
      let v := { v with st := restState v, holdAt := none, spareBonds := v.spareBonds + 1, retrainReq := false,
                        bondErrs := v.bondErrs.filter (fun e => !bad.contains e.1) }
      raise 2 slice none 0x3003 (v.spareBonds - 1) (setSlice slice v s)
    | _, _ => s)

/-! ### Refresh (15 R412) -/

/-- The interval of refresh holds at a step, in clk. -/
def refInterval (step : BitVec 2) : Nat := if step = 0 then 4700 else if step = 1 then 2350 else 1175

/-- REFRESH_HOLD: the slice channel is held for 188 clk at the interval of its step; data does not change. -/
def execRefreshHold (slice : Nat) (s : State) : Res :=
  let v := getSlice s slice
  unitRes (decide (slice < 100)) (
    let s := passTo (v.refAt + refInterval v.refStep) s
    setSlice slice { v with refAt := v.refAt + refInterval v.refStep } s)

/-! ### Patrol scrub (09 R240, 20 R522) -/

/-- The tick of every partition that satisfies p is aborted (14 Table 14-1). -/
def abortWhere (p : Nat → Bool) (s : State) : State :=
  (List.range 16).foldl (fun s n => if p n then modPart n (fun x => { x with tabort := true }) s else s) s

/-- A parity error in the device reserve (09 R240, R247): the page is POISON and its row waits for the next reset. Whether it held
the plan's copy, the slice's add log or neither is open; the tick is aborted for the partitions concerned (14 Table 14-1; log 36). A page of the
reserve has no B-space address, and ARG of its BM_PARITY is 0 (DESIGN CHOICE, log 119). -/
def reserveError (slice o : Nat) (s : State) : State :=
  let pg := reservePage slice o
  let s := raise 2 slice none 0x3001 0 (perrInc slice (listPoison pg (setPoison pg s)))
  let s := bondError slice (pg * pageSize + o % pageSize) (rowOf o) (rowRepair slice (dieOf o) (bankOf o) (rowOf o) s)
  let f := takeFree s
  let adds (n : Nat) : Bool := (List.range 100).any (fun k => logHome k = slice && (getSlice s k).addLog.any (fun e => e.part = n))
  match Config.freeNat f.1 % 3 with
  | 0 => abortWhere (fun n => (getPart s n).st = .active) f.2
  | 1 => abortWhere adds f.2
  | _ => f.2

/-- Stored bits of a granule flip (09 R239): byte and the nine bits, bit 8 the parity bit. An odd number of flips turns the parity of
its byte, an even number leaves it. -/
def upsetBytes (a : Nat) (fl : Flips) (s : State) : State :=
  fl.foldl (fun s e =>
    let b := s.bonded
    let x := a + e.1
    if 32 ≤ e.1 then s
    else { s with bonded := { b with
      mem := smapSet 0 b.mem x (smapGet 0 b.mem x ^^^ e.2.setWidth 8)
      bad := if oddFlip e.2 then smapSet 0 b.bad x (if smapGet 0 b.bad x = 0 then 1 else 0) else b.bad } }) s

/-- PATROL_SCRUB: the slice reads its granule of 32 bytes `granule`; `upset` lists the bits of it that have flipped since they were
written. -/
def execPatrolScrub (slice granule : Nat) (upset : Flips) (s : State) : Res :=
  let v := getSlice s slice
  let o := granule * 32
  unitRes (decide (slice < 100) && decide (o < 984 * granSize)) (
    if v.scrubpm = 0 || v.st = .failed || bankHeld v o then s
    else match addrOfLocal slice o with
      | none =>
        let s := cntRead slice 32 s
        if upset.any (fun e => oddFlip e.2) && !isPoison s (reservePage slice o) then reserveError slice o s else s
      | some a =>
        let s := upsetBytes a upset s
        let q := pageStops (pageOf a) s
        if q.1 then q.2 else (ctlRead a none (cntRead slice 32 q.2)).2)

/-! ### Attributes and scrubs (13 R366, R372) -/

/-- The partition that satisfies p, lowest first. -/
def findPart (s : State) (p : Part → Bool) : Option Nat := (List.range 16).find? (fun n => p (getPart s n))

/-- ATTRIBUTE_WRITE_COMPLETE: the slice has written the attributes of an assigned granule. -/
def execAttributeWriteComplete (granule : Nat) (s : State) : Res :=
  unitRes (decide (granule < 98304)) (
    match findPart s (fun p => p.pend.contains granule) with
    | none => s
    | some n =>
      let b := s.bonded
      let g : GranAttr := { a := true, ro := decide (n = 0), tag := BitVec.ofNat 4 n }
      let s := { s with bonded := { b with
        gran := smapSet GranAttr.reset b.gran granule g
        wp := smapClear b.wp (granule * 512) (granule * 512 + 512) } }
      modPart n (fun p => { p with pend := p.pend.filter (· ≠ granule) }) s)

/-- Zero a granule, data and parity, clearing POISON except in rows retired without a spare. -/
def zeroGranule (g : Nat) (s : State) : State :=
  let s := memoTouch (g * granSize) granSize (cntWrite (sliceOfGran g) granSize s)
  let b := s.bonded
  let s := { s with bonded := { b with
    mem := smapClear b.mem (g * granSize) (g * granSize + granSize)
    bad := smapClear b.bad (g * granSize) (g * granSize + granSize) } }
  (smapFrom (smapBelow b.poison (g * 512 + 512)) (g * 512)).foldl (fun s e => clearPoison e.1 s) s

/-- GRANULE_SCRUB_COMPLETE: a released granule has been scrubbed to zero and can be assigned again. The scrub is charged to its
partition's BM share; with a share of 0 the background reserve carries it (13 R372). -/
def execGranuleScrubComplete (granule : Nat) (s : State) : Res :=
  unitRes (decide (granule < 98304)) (
    match findPart s (fun p => p.scrub.contains granule) with
    | none => s
    | some n =>
      let s := if (getPart s n).shares.bm = 0 then s else debit n (sliceOfGran granule) granSize s
      modPart n (fun p => { p with scrub := p.scrub.filter (· ≠ granule) }) (zeroGranule granule s))

end Sys2Proof.Machine
end

