-- ==== Sys2Proof/Machine/Xfer.lean ====
section
/-! DEFINITION. The ends of transfers outside the module: what an acknowledgement, a refusal or a time limit causes for each
owner (08 R220, 12 R329 to R336, 14 R393, R404, 16 R436, R445, 20 R528). -/

namespace Sys2Proof.Machine

open Sys2Proof

/-! ### Completion -/

/-- Change the fold state of a partition. -/
def modFold (p : Nat) (f : Fold → Fold) (s : State) : State := modPart p (fun v => { v with foldSt := f v.foldSt }) s

/-- An edge descriptor's accesses are all done: it is complete (08 Table 8-8). -/
def descDone (n seq sub : Nat) (s : State) : State :=
  let s := releaseDesc n seq sub s
  modCore n (fun c => { c with descs := c.descs.map (fun d => if d.seq = seq ∧ d.sub = sub then { d with st := .complete } else d) }) s

/-- Set the state of a pull. -/
def setPull (layer idx st : Nat) (s : State) : State :=
  modLayer layer (fun l => { l with pulls := (l.pulls.zip (List.range l.pulls.length)).map (fun p => if p.2 = idx then { p.1 with st := st } else p.1) }) s

/-- The tick's source-done add to a chip is acknowledged or lost: the dispatch may be complete. -/
def doneAcked (layer chip : Nat) (s : State) : State :=
  finishDispatch layer (modLayer layer (fun l => { l with toDone := l.toDone.filter (· ≠ chip) }) s)

/-- The COMPLETE word of the tier-1 segment is acknowledged: the segment is complete, and tier 1 current again (14 R390, R393). -/
def foldFinished (vs : Segment → List Version) (f : Fold) : Fold :=
  match f.done1 with
  | some g => { f with done1 := none, t1State := if f.t1State = 2 then 0 else f.t1State, t1Last := g.last, versions := f.versions ++ vs g }
  | none => f

/-- The COMPLETE word of the tier-3 segment is acknowledged. -/
def tier3Finished (vs : Segment → List Version) (f : Fold) : Fold :=
  match f.done3 with
  | some g => { f with done3 := none, t3Last := g.last, versions := f.versions ++ vs g }
  | none => f

/-- The complete versions that a segment adds to its tier (14 R390, R400): `base` is where its area begins. -/
def segVersions (tier : Tier) (base : Nat) (g : Segment) : List Version :=
  let sz := if tier = .t1 then 16 else 32
  (g.pages.foldl (fun (a : Nat × List Version) e =>
    let c := e.2.getD []
    let v : Version := { tier := tier, last := g.last, seqid := e.1.seqid, entry := e.1.entry, page := e.1.page, pool := e.1.pool,
                         lost := e.2.isNone, pdig := if tier = .t1 then [] else shake256 16 c, bytes := if tier = .t2 then [] else c,
                         place := base + g.off + a.1 + sz, segOff := g.off, segLen := g.bytes }
    (a.1 + sz + c.length, a.2 ++ [v])) (64, [])).2

/-- The copies of log records in the tier-3 log area that a run of it, or the header of the space it skips, overwrites are gone; a record
that no tier holds any more is dropped (14 R398). -/
def overwriteLog3 (off len : Nat) (skip : Option Nat) (f : Fold) : Fold :=
  { f with logs := (f.logs.map (fun r => match r.t3 with
      | some x => if (decide (off < x.1 + x.2) && decide (x.1 < off + len)) || skip.any (fun o => decide (o < x.1 + x.2) && decide (x.1 < o + 64)) then { r with t3 := none } else r
      | none => r)).filter (fun r => !r.gone || r.t3.isSome) }

/-- The log records up to a tick are in the tier-3 log area (14 R396). -/
def log3Done (upto off len : Nat) (f : Fold) : Fold :=
  { f with logs := f.logs.map (fun r => if r.tick ≤ upto && r.t3.isNone && !r.gone then { r with t3 := some (off, len) } else r) }

/-- The newest log record acknowledged by flash and partner (14 R396). -/
def logDurable (f : Fold) : Fold :=
  { f with logLast := f.logs.foldl (fun n r => if r.flashOk && r.linkOk then max n r.tick else n) f.logLast }

/-- The partner has acknowledged the log record that was on its way to it. -/
def logAcked (f : Fold) : Fold :=
  logDurable { f with logs := f.logs.map (fun r => if f.logTick = some r.tick then { r with linkOk := true } else r), logTick := none }

/-- A poisoned page has been refetched (14 R404); the event names the partition whose page it is. -/
def refillDone (page : Nat) (s : State) : State :=
  let s := memoTouch (page * pageSize) pageSize (clearPoison page s)
  raise 2 (sliceOf (page * pageSize)) (some (tagOf s (page * pageSize))) 0x700A (page * pageSize) s

/-- Mark a segment's bytes as sent. -/
def segSent (g : Option Segment) : Option Segment := g.map (fun g => { g with sent := true })

/-- A transfer is complete. -/
def xferDone (x : Xfer) (s : State) : State :=
  match x.owner with
  | .desc n seq sub => descDone n seq sub s
  | .image d => imageDescDone d s
  | .dispatch layer chip _ => finishDispatch layer (homeSettled layer chip s)
  | .sourceDone layer chip => doneAcked layer chip s
  | .combine layer exp src _ core sem => combineNext layer exp src core sem (outGot layer exp src core sem s)
  | .combineDone layer exp src core sem => combineNext layer exp src core sem (outServed layer exp src core sem s)
  | .pull layer idx tick => if s.tick.now.toNat = tick then setPull layer idx 2 s else s
  | .fold part => modFold part (fun f => { f with seg1 := segSent f.seg1, touchUsed := [] }) s
  | .foldDone part => modFold part (foldFinished (segVersions .t1 0)) s
  | .tier3Done part => modFold part (tier3Finished (segVersions .t3 0)) s
  | .log3 part upto off len => modFold part (log3Done upto off len) s
  | .log part => modFold part logAcked s
  | .tier3 part => modFold part (fun f => { f with seg3 := segSent f.seg3 }) s
  | .refill page => refillDone page s
  | .status k => { s with tick := { s.tick with status := s.tick.status.map (fun r => if rdN r.1 0 8 = k then (r.1, true) else r) } }
  | .note => s
  | .report slot =>
    -- only for the session whose queue pair carried it (17 R464)
    if slot = 0 && s.host.owner.any (fun o => decide (x.via = .qp o.qp)) then { s with host := { s.host with owner := s.host.owner.map (fun o => { o with done := true }) } } else s

/-! ### Failure -/

/-- The pages of a segment lose WP (14 R391, R393). -/
def clearWp (pages : List Nat) (s : State) : State :=
  { s with bonded := { s.bonded with wp := pages.foldl (fun m pg => smapSet false m pg false) s.bonded.wp } }

/-- The answers to come of transfers whose purpose has ended concern nobody any more. -/
def disown (p : XOwner → Bool) (s : State) : State :=
  { s with xfers := s.xfers.map (fun x => if p x.owner then { x with owner := .note } else x) }

/-- The partner is unreachable: the segment is abandoned, and what is still on its way of it or of the log (14 R393). -/
def foldBroken (p : Nat) (s : State) : State :=
  let f := (getPart s p).foldSt
  let s := match f.seg1 with
    | some g => clearWp (g.pages.map (fun e => e.1.pg)) s
    | none => s
  let s := disown (fun o => decide (o = .fold p) || decide (o = .foldDone p) || decide (o = .log p)) s
  let s := modFold p (fun f => { f with seg1 := none, done1 := none, touchUsed := [], logTick := none, t1State := 2 }) s
  raise 0 0 (some p) 0x7005 ((f.tiers.map (fun t => t.partner)).getD 0) s

/-- The fault code a refusal reason gives a job's descriptor (16 Table 16-7). -/
def reasonCode (reason : Nat) : Nat := if reason = 7 then cPARITY else cREMOTE

/-- A pull has failed: its expert's slots are aborted (12 R331). -/
def pullFailed (layer idx : Nat) (s : State) : State :=
  let s := setPull layer idx 3 s
  match layerAt s layer with
  | some l =>
    match l.pulls[idx]? with
    | some p => abortSlots l (fun y => decide (y.exp = p.exp)) s
    | none => s
  | none => s

/-- The same page for a tier: one page of memory, or one place in a sequence. -/
def samePlace (a b : FoldPage) : Bool :=
  (decide (a.seqid = b.seqid) && decide (a.entry = b.entry) && decide (a.page = b.page)) || (!a.old && !b.old && decide (a.pg = b.pg))

/-- A segment that did not come to its end: its pages stay due, a version carried forward with its content (14 R394). -/
def stillDue (pages : List (FoldPage × Option (List Byte))) : List (FoldPage × Option (List Byte)) :=
  pages.map (fun e => if e.1.old then e else (e.1, none))

/-- Pages due, and then those of an older list that it does not name. -/
def mergeDue (new old : List (FoldPage × Option (List Byte))) : List (FoldPage × Option (List Byte)) :=
  old.foldl (fun a e => if a.any (fun x => samePlace x.1 e.1) then a else a ++ [e]) new

/-- A tier-3 segment could not be written: its pages stay due for the next one (14 R394). -/
def tier3Failed (p : Nat) (s : State) : State :=
  let due (g : Option Segment) : List (FoldPage × Option (List Byte)) := match g with
    | some g => stillDue g.pages
    | none => []
  modFold p (fun f => { f with seg3 := none, done3 := none, since3 := mergeDue f.since3 (due f.seg3 ++ due f.done3) }) s

/-- A transfer fails with a fault code. The refill of a page has no effect of its own: the page stays POISON. -/
def xferFail (x : Xfer) (code : Nat) (s : State) : State :=
  match x.owner with
  | .desc n seq sub =>
    match (getCore s n).descs.find? (fun d => decide (d.seq = seq) && decide (d.sub = sub)) with
    | some d => failDesc n d code s
    | none => s
  | .image d => imageDescFail d.part d.jobid d.ch d.fpc code s
  | .dispatch layer chip k => finishDispatch layer (homeSettled layer chip (abortOne layer k s))
  | .sourceDone layer chip => doneAcked layer chip s
  | .combine layer exp src _ core sem => combineNext layer exp src core sem s
  | .combineDone layer exp src core sem => combineNext layer exp src core sem (outServed layer exp src core sem s)
  | .pull layer idx tick => if s.tick.now.toNat = tick then pullFailed layer idx s else s
  | .fold part => foldBroken part s
  | .log part => foldBroken part s
  | .tier3 part => tier3Failed part s
  | .foldDone part => foldBroken part s
  | .tier3Done part => tier3Failed part s
  | .log3 _ _ _ _ => s
  | .refill _ => s
  | .status _ => s
  | .note => s
  | .report _ => s

/-- Remove a transfer. -/
def dropXfer (x : Xfer) (s : State) : State := { s with xfers := s.xfers.filter (fun y => y.uid ≠ x.uid) }
/-- Put a transfer back. -/
def putXfer (x : Xfer) (s : State) : State := { s with xfers := s.xfers.map (fun y => if y.uid = x.uid then x else y) }

/-- A job that has ended on core n still has operations that drain (03 R99, 11 R292). -/
def coreDrains (s : State) (n : Nat) : Bool :=
  match (getCore s n).job with
  | some j => decide (j.st ≠ .saved) && !coreIdle (getCore s n)
  | none => false

/-- An edge descriptor of a core of quad q still runs, or a job that ended there still drains (19 R507, R513). -/
def quadBusy (s : State) (q : Nat) : Bool :=
  s.xfers.any (fun x => match x.owner with
    | .desc n _ _ => decide (quadOf n = q)
    | .image d => decide (quadOf d.core = q)
    | _ => false) || (quadCores q).any (coreDrains s)

/-- Quads whose switching off waited for their edge descriptors go off (19 R507, R513). -/
def settleQuads (s : State) : State :=
  (List.range 25).foldl (fun s q => if (getQuad s q).wantOff && !quadBusy s q then quadOff q s else s) s

/-- A transfer ends in failure. -/
def endFail (x : Xfer) (code : Nat) (s : State) : State := settleQuads (xferFail x code (endWaits x (dropXfer x s)))

/-- The transfers of core n's descriptor `seq`, `sub` that read. -/
def readsOf (s : State) (n seq sub : Nat) : List Xfer := s.xfers.filter (fun x => x.read && ownedBy n seq sub x)

/-- What a queue pair still owes a read that nobody waits for: the messages asked for already. -/
def asNote (x : Xfer) : Xfer := { x with owner := .note, total := x.total - (x.todo.map Prod.snd).sum, todo := [] }

/-- The descriptor of a read has given up: what its queue pair still owes is discarded as it comes. -/
def discardReads (p : Xfer → Bool) (s : State) : State :=
  { s with xfers := (s.xfers.map (fun x => if p x && (match x.via with
      | .qp _ => true
      | .link _ => false) then asNote x else x)).filter (fun x => !(decide (x.owner = .note) && x.read && decide (x.total ≤ x.acked))) }

/-- A transfer is held: at a port in RETRAIN, or, where it reads, at the slice its data lands in (09 R251, 16 R451). -/
def xferHeld (s : State) (x : Xfer) : Bool :=
  (x.read && x.len ≠ 0 && sliceHeld s x.dst) || (match x.via with
    | .link c => match routePort s c with
      | some p => decide ((getPort s p).st = .retrain)
      | none => false
    | .qp _ => false)

/-- The next access of a descriptor is held at its slice (09 R251). -/
def descHeld (s : State) (n : Nat) (d : Desc) (k : Nat) : Bool :=
  let q := pieceAt d.words k
  (dSSP d.words = 2 && mustHold s q.1 (n, d.seq, d.sub)) || (dDSP d.words = 2 && dSSP d.words < 3 && mustHold s q.2.1 (n, d.seq, d.sub))

/-- The time limit of a descriptor, or of its network request (`net`), has passed (20 R528 to R530): the first counts from its start, the
second from the injection of the request that has had no response, after its last turn. What is held does not expire. An edge write
that has read its bytes has no access left here (08 R215). -/
def timeoutDesc (core : Nat) (d : Desc) (net : Bool) (limit : Nat) (s : State) : State :=
  match d.st with
  | .moving k =>
    if descHeld s core d k then s else failDesc core d cTIMEOUT (passTo ((if net then d.turnAt else d.startAt + d.heldFor) + us limit) s)
  | .landing =>
    let held := d.heldFor + ((readsOf s core d.seq d.sub).map (fun x => x.heldFor)).sum
    if (readsOf s core d.seq d.sub).any (xferHeld s) then s
    else settleQuads (failDesc core d cTIMEOUT (discardReads (fun x => x.read && ownedBy core d.seq d.sub x) (passTo ((if net then d.turnAt else d.startAt) + held + us limit) s)))
  | _ => s

/-- The read of channel `ch` that runs on for a kept image of core n (03 R95). -/
def imageRead (s : State) (n ch : Nat) : Option Xfer :=
  s.xfers.find? (fun x => x.read && (match x.owner with
    | .image d => decide (d.ch = ch) && decide (d.core = n)
    | _ => false))

/-- The time limit of an edge read that runs on after its job's save (20 R529). -/
def timeoutImage (x : Xfer) (limit : Nat) (s : State) : State :=
  if xferHeld s x then s
  else
    let s := passTo (x.startAt + x.heldFor + us limit) s
    let s := match x.via with
      | .qp _ => discardReads (fun y => decide (y.uid = x.uid)) s
      | .link _ => dropXfer x s
    settleQuads (xferFail x cTIMEOUT s)

/-- The limit of the descriptor in a slot of the core, or in slot 64 + c of the edge read that its channel c left running at a
save (20 Table 20-4, R529). -/
def timeoutSlot (core slot : Nat) (net : Bool) (limit : Nat) (s : State) : State :=
  match (getCore s core).descs[slot]? with
  | some d => timeoutDesc core d net limit s
  | none => match if 64 ≤ slot then imageRead s core (slot - 64) else none with
    | some x => timeoutImage x limit s
    | none => s

/-- n more of a transfer are acknowledged; with the last the transfer is complete. -/
def progress (x : Xfer) (n : Nat) (s : State) : State :=
  let x := { x with acked := x.acked + n }
  if x.total ≤ x.acked then settleQuads (xferDone x (dropXfer x s)) else putXfer x s

end Sys2Proof.Machine
end

