-- ==== Sys2Proof/Machine/Bakener.lean ====
section
/-! DEFINITION. Bakener ports and the peer edge: flits received, transactions served, training and port states (16 R426 to
R433, R442 to R452). -/

namespace Sys2Proof.Machine

open Sys2Proof

/-! ### A port that goes down (16 R452) -/

/-- The transfer a transaction of this module belongs to. -/
def xferOf (s : State) (chip : Nat) (tag : BitVec 24) : Option Xfer :=
  s.xfers.find? (fun x => decide (x.tag = tag) && decide (x.via = .link chip))

/-- A flit that can no longer be sent is refused to its source with a REASON: 8 UNREACH, or 10 ABORTED after a drain (16 R441, 13 R379). -/
def refuseFlit (reason : Nat) (f : TxFlit) (s : State) : State :=
  let t := f.txn
  let s := freeBuf f.inbuf s
  if t.src.toNat ≠ chipNo s then sendRefuse t reason s
  else if 3 ≤ t.opc.toNat then s
  else match xferOf s (txnChip t) t.tag with
    | some x => endFail x cREMOTE s
    | none => s

/-- The port leaves service: everything that waits for it is refused. -/
def dropPort (reason : Nat) (p : BPort) (st : PortSt) (s : State) : State :=
  let v := getPort s p
  let flits := v.replay.map Prod.snd ++ v.txq ++ v.regq
  let s := setPort p { v with st := st, since := s.clk, replay := [], txq := [], regq := [], replays := 0, retrainReq := false } s
  -- a flit in the replay buffer has left its receive buffer already
  let flits := (flits.zip (List.range flits.length)).map (fun x => if x.2 < v.replay.length then { x.1 with inbuf := none } else x.1)
  pump (flits.foldl (fun s f => refuseFlit reason f s) s)

/-- A port goes DOWN after its replays (16 R433). -/
def portDown (p : BPort) (s : State) : State :=
  let seq := match (getPort s p).replay.head? with
    | some e => e.1.toNat
    | none => 0
  raise 4 (portNo p) none 0x8001 seq (dropPort 8 p .down s)

/-- Replay; the sixteenth from one SEQ takes the port DOWN (16 R432, R433). -/
def replayPort (p : BPort) (s : State) : State :=
  let s := replayAll p s
  if 16 ≤ (getPort s p).replays then portDown p s else s

/-! ### Flits -/

/-- A port that exchanges flits. -/
def hears (s : State) (p : BPort) : Bool := portLive (getPort s p).st

/-- Errors of a loop-back are counted (16 R453). -/
def loopError (p : BPort) (n : Nat) (s : State) : State :=
  let r := ctrPlus (getPort s p).loopErr n
  ovfEvent r.2 (bklAddr p 0x48) (setPort p { getPort s p with loopErr := r.1 } s)

/-- A flit reaches a port that does not exchange flits (16 R453, Table 16-11): one turned at the link layer or the PCS counts where it is
bad; the far-end responder sends back what it receives; any other is lost (log 126). -/
def idleFlit (p : BPort) (bs : List Byte) (s : State) : State :=
  let v := getPort s p
  if v.st = .loop then (if v.loop.toNat ≤ 2 && !flitGood bs then loopError p 1 s else s)
  else if v.st = .disabled && !v.en && v.farResp then emit (.flit p bs) s
  else s

/-- FLIT_DATA (16 R426, R432, R439). -/
def execFlitData (port : BPort) (flit : List Byte) (s : State) : Res :=
  .next (
    if !hears s port then idleFlit port flit s
    else if !flitGood flit then sendNak port (discardFlit port flit s)
    else if flitType flit ≠ 1 then s
    else pump (dataFlit port flit (flitTake port flit s)))

/-- FLIT_NAK (16 R432): the transmitter replays what its ACK leaves. -/
def execFlitNak (port : BPort) (flit : List Byte) (s : State) : Res :=
  .next (
    if !hears s port then idleFlit port flit s
    else if !flitGood flit then discardFlit port flit s
    else if flitType flit ≠ 3 then s
    else
      let s := flitTake port flit s
      if (getPort s port).replay.isEmpty then pump s else pump (replayPort port s))

/-- The first channel on which an AUDIT disagrees (16 R430). -/
def auditBad (v : BkPort) (pl : List Byte) : Option Nat :=
  (List.range 8).find? (fun vc =>
    !(decide (rdN pl (8 + 8 * vc) 4 = smapGet 0 v.rcvd vc % 2 ^ 32)
      && decide ((smapGet 0 v.crret vc + 2 ^ 32 - rdN pl (12 + 8 * vc) 4) % 2 ^ 32 ≤ 1024)))

/-- FLIT_CTRL (16 R430): an AUDIT that disagrees raises BKL_CREDIT, asks for a retrain that resets the credits, and aborts the
tick of every partition that injected on the port. -/
def execFlitCtrl (port : BPort) (flit : List Byte) (s : State) : Res :=
  .next (
    if !hears s port then idleFlit port flit s
    else if !flitGood flit then discardFlit port flit s
    else if flitType flit ≠ 4 then s
    else
      let s := flitTake port flit s
      let v := getPort s port
      let pl := (flit.drop 8).take 240
      let bad := if rdN pl 0 8 = 1 then auditBad v pl else none
      match bad with
      | none => pump s
      | some vc =>
        let s := setPort port { v with retrainReq := true, resetCred := true } s
        let s := v.parts.foldl (fun s e => modPart e.1 (fun x => { x with tabort := true }) s) s
        pump (raise 4 (portNo port) none 0x8002 vc s))

/-- FLIT_IDLE (16 R426). -/
def execFlitIdle (port : BPort) (flit : List Byte) (s : State) : Res :=
  .next (
    if !hears s port then idleFlit port flit s
    else if !flitGood flit then discardFlit port flit s
    else if flitType flit ≠ 0 then s
    else pump (flitTake port flit s))

/-- REPLAY_TIMEOUT: no ACK progress for 0.75 us (16 R432, R433). -/
def execReplayTimeout (port : BPort) (s : State) : Res :=
  let v := getPort s port
  .next (if v.st ≠ .up || v.replay.isEmpty then s else pump (replayPort port (passTo (v.lastAck + 900) s)))

/-! ### Domains off (19 R506, R508, R514) -/

/-- The links' domain goes off: every port is DISABLED (19 Table 19-1). -/
def linksOff (s : State) : State :=
  let s := allPorts.foldl (fun s p => let s := dropPort 8 p .disabled s; modPort p (fun v => { v with drainAt := none }) s) s
  { s with power := { s.power with linksSt := .off } }

/-- The flash domain goes off: a tier-2 segment in progress is abandoned (19 R508); its pages stay due. -/
def flashOff (s : State) : State :=
  let s := (List.range 16).foldl (fun s p => modFold p (fun f =>
    match f.seg2 with
    | some g => { f with seg2 := none, since2 := mergeDue f.since2 (stillDue g.pages) }
    | none => f) s) s
  -- a P0 page whose refill from flash was chosen finds no copy there now (19 R508)
  let fromFlash (pg : Nat) : Bool := (getPart s 0).foldSt.refill.any (fun e => decide (e.2.2.1 = 0) && decide (e.1 ≤ pg * pageSize)
    && decide (pg * pageSize + pageSize ≤ e.1 + e.2.1)) && decide (tagOf s (pg * pageSize) = 0)
  { s with power := { s.power with flashSt := .off }
           bonded := { s.bonded with wayDone := s.bonded.wayDone.filter (fun e => !fromFlash e.1) } }

/-- A tripped module with nothing left to drain loses D25 and D28 too (19 R514). -/
def tripOff (s : State) : State :=
  if s.power.tripped && !(List.range 25).any (fun q => (getQuad s q).wantOff) then
    let s := if s.power.linksSt = .on then linksOff s else s
    if s.power.flashSt = .on then flashOff s else s
  else s

/-! ### Time limits (20 R528 to R531) -/

/-- DMA_DESCRIPTOR_TIMEOUT (20 Table 20-4). -/
def execDmaDescriptorTimeout (core slot : Nat) (s : State) : Res :=
  unitRes (decide (core < 100)) (tripOff (timeoutSlot core slot false (tmoDma s) s))

/-- NETWORK_REQUEST_TIMEOUT (20 Table 20-4): a request of a started local descriptor found no response. -/
def execNetworkRequestTimeout (core slot : Nat) (s : State) : Res :=
  unitRes (decide (core < 100)) (tripOff (timeoutSlot core slot true (tmoNet s) s))

/-- REMOTE_COMPLETION_TIMEOUT: a transfer over the torus saw no end within its limit (16 R445, 20 R528); time held does not count (R529). -/
def execRemoteCompletionTimeout (uid : Nat) (s : State) : Res :=
  match s.xfers.find? (fun x => decide (x.uid = uid)) with
  | none => .next s
  | some x =>
    match x.via with
    | .qp _ => .next s
    | .link _ => .next (if xferHeld s x then s else tripOff (endFail x cTIMEOUT (passTo (x.lastAt + x.heldFor + us (tmoRem s)) s)))

/-! ### Transactions for this module (16 R434 to R437, R442 to R445) -/

/-- The oldest received transaction of an OPC. -/
def nextRx (s : State) (opc : Nat) : Option RxTxn := s.links.rx.find? (fun r => decide (r.txn.opc.toNat = opc))
/-- What it says. -/
def nextTxn (s : State) (opc : Nat) : Option Txn := (nextRx s opc).map (fun r => r.txn)
/-- It is taken out of the list of those received. -/
def dropRx (opc : Nat) (s : State) : State :=
  { s with links := { s.links with rx := dropFirst (fun r => decide (r.txn.opc.toNat = opc)) s.links.rx } }
/-- It is delivered: its receive buffer is free, and the credit goes back (16 R428). -/
def takeTxn (opc : Nat) (s : State) : State := freeBuf ((nextRx s opc).bind (fun r => r.inbuf)) (dropRx opc s)

/-- Bytes named by a transaction. -/
def reach (t : Txn) : Nat := if t.opc = 2 then t.rlen.toNat else txnLen t
/-- Offset of the first byte: a READ names bytes, other transactions granules. -/
def reachOff (t : Txn) : Nat := if t.opc = 2 then bits t.dest.toNat 47 0 else txnOff t

/-- The pages of a byte range. -/
def pagesOf (a n : Nat) : List Nat := if n = 0 then [] else (List.range (pageOf (a + n - 1) - pageOf a + 1)).map (fun i => pageOf a + i)

/-- A page is not assigned to the partition, or its attributes are still unwritten or unreadable. -/
def pageShut (s : State) (p pg : Nat) : Bool :=
  let g := smapGet GranAttr.reset s.bonded.gran (granOf (pg * pageSize))
  !g.a || decide (g.tag.toNat ≠ p) || decide (smapGet 0 s.bonded.attrBad pg ≠ 0)

/-- The arrival checks of 16 Table 16-6: the REASON of the first that fails, 0 for none. Pages whose attributes do not show the
window's partition count under check 7 (13 R366; log 37). -/
def arrival (s : State) (t : Txn) : Nat :=
  let w := getWin s (txnWin t)
  let p := w.part.toNat
  let n := reach t
  let o := reachOff t
  let pages := pagesOf (w.base + o) n
  if !w.openW then 1
  else if w.closing.isSome || decide ((getPart s p).st ≠ .active) || (s.tick.orphaned && decide (p ≠ 0)) then 9
  else if !w.any && !w.src.contains t.src.toNat then 2
  else if t.spart ≠ w.part then 3
  else if (t.opc = 2 && !w.r) || (t.opc = 0 && !w.w) || (t.opc = 1 && !w.a) then 4
  else if w.len < o + n then 5
  else if pages.any (fun pg => pageShut s p pg || (t.opc ≠ 2 && roNow s (smapGet GranAttr.reset s.bonded.gran (granOf (pg * pageSize))))) then 6
  else if pages.any (isPoison s) then 7
  else 0

/-- Refuse a transaction: counted, reported once a window and tick, answered (16 R444). -/
def refuseTxn (t : Txn) (reason : Nat) (s : State) : State :=
  let r := ctrInc s.links.refused
  let s := ovfEvent r.2 0x00030008 { s with links := { s.links with refused := r.1 } }
  let n := txnWin t
  let w := getWin s n
  let s := if w.evented then s
    else raise 7 n (if w.openW then some w.part.toNat else none) 0x8005 reason (setWin n { w with evented := true } s)
  pump (sendRefuse t reason s)

/-- The page's first touch must wait (14 R386). -/
def touchLacks (s : State) (pg : Nat) : Bool :=
  smapGet false s.bonded.wp pg && (freeTouch s (tagOf s (pg * pageSize)) (pg * pageSize)).isNone

/-- Some granule is held, a first touch must wait, or the bucket of partition p at a slice lacks tokens (13 R367). -/
def mustWait (s : State) (p a n : Nat) (write : Bool) : Bool :=
  (granules a n).any (sliceHeld s) || (write && (pagesOf a n).any (touchLacks s)) || lacksTokens s p a n

/-- First touches that an access finds held are counted (14 R405). -/
def noteWaits (a n : Nat) (write : Bool) (s : State) : State :=
  if write then (pagesOf a n).foldl (fun s pg => if touchLacks s pg then noteHeld (pg * pageSize) s else s) s else s

/-- An access that is refused for a page's attribute entry has met it: an entry whose parity is wrong counts so and is rewritten (09
R245). -/
def repairPages (a n : Nat) (s : State) : State :=
  (pagesOf a n).foldl (fun s pg => if smapGet 0 s.bonded.attrBad pg ≠ 0 then attrRepair (pg * pageSize) s else s) s

/-- The oldest accepted transaction of an OPC that waits. -/
def heldTxn (s : State) (opc : Nat) : Option HeldTxn := s.links.held.find? (fun h => decide (h.txn.opc.toNat = opc))
/-- Take it. -/
def takeHeld (opc : Nat) (s : State) : State :=
  freeBuf ((heldTxn s opc).bind (fun h => h.inbuf))
    { s with links := { s.links with held := dropFirst (fun h => decide (h.txn.opc.toNat = opc)) s.links.held } }

/-- Serve the oldest transaction of an OPC: one that has passed its checks completes under the fields it passed them with (16 R443);
else one just arrived is checked, and waits or is served (R444). -/
def serveTxn (opc : Nat) (write : Bool) (serve : HeldTxn → State → State) (refused : Txn → Nat → State → State) (s : State) : State :=
  match heldTxn s opc with
  | some h => if mustWait s h.part h.addr (reach h.txn) write then s else serve h (takeHeld opc s)
  | none =>
    match nextRx s opc with
    | none => s
    | some x =>
      let t := x.txn
      let r := arrival s t
      let w := getWin s (txnWin t)
      let a := w.base + reachOff t
      if r ≠ 0 then refused t r (takeTxn opc (if r = 6 then repairPages a (reach t) s else s))
      else
        let h : HeldTxn := { txn := t, addr := a, part := w.part.toNat, inbuf := x.inbuf }
        if mustWait s h.part a (reach t) write then
          let s := noteWaits a (reach t) write (dropRx opc s)
          { s with links := { s.links with held := s.links.held ++ [h] } }
        else serve h (takeTxn opc s)

/-- A write that is not made aborts the combine slot or landing row it was for (12 R332). -/
def writeRefused (t : Txn) (reason : Nat) (s : State) : State :=
  let s := refuseTxn t reason s
  if t.spart = (getWin s (txnWin t)).part then abortAt t.spart.toNat (globalAddr (chipNo s) (txnWin t) (txnOff t)) s else s

/-- An accepted WRITE is done, charged to its partition (13 R368; log 19). -/
def serveWrite (h : HeldTxn) (s : State) : State :=
  let x := partWrite h.part h.addr (txnBytes h.txn) s
  if x.1 then writeRefused h.txn 7 x.2 else pump (ackFlit h.txn (noteCombine h.addr (txnLen h.txn) x.2))

/-- TXN_WRITE (16 R434 to R436, R444). -/
def execTxnWrite (s : State) : Res := .next (serveTxn 0 true serveWrite writeRefused s)

/-- The elements of an ADD by 32-byte granule. -/
def addPieces (a : Nat) : Nat → List Byte → List (Nat × List Byte)
  | 0, _ => []
  | f + 1, bs =>
    if bs.isEmpty then []
    else
      let k := 32 - a % 32
      (a, bs.take k) :: addPieces (a + k) f (bs.drop k)

/-- An accepted ADD is done, charged to its partition. -/
def serveAdd (h : HeldTxn) (s : State) : State :=
  let t := h.txn
  let u := takeUid s
  -- core 126 carries no position: the source's positions beyond 131,071 (log 124)
  let pos := if bits t.tag.toNat 23 17 = 126 then 131072 else bits t.tag.toNat 16 0
  let x := (addPieces h.addr 8 (txnBytes t)).foldl (fun (x : Nat × State) q =>
    if x.1 ≠ 0 then x
    else memAdd h.part
      { chip := t.src.toNat, core := bits t.tag.toNat 23 17, pos := pos, order := u.1, op := t.aop.toNat,
        addr := q.1, src := q.2, part := h.part, seq := 0, pc := 0 } false x.2) (0, chargeWrite h.part h.addr (txnLen t) u.2)
  if x.1 ≠ 0 then refuseTxn t 7 x.2 else pump (ackFlit t x.2)

/-- TXN_ADD (16 R437; 10 R276 to R279). -/
def execTxnAdd (s : State) : Res := .next (serveTxn 1 true serveAdd refuseTxn s)

/-- READRSP transactions that answer a READ (16 R435; log 32). -/
def responses (s : State) (t : Txn) (bs : List Byte) : List Txn :=
  (runs7 (rdN t.data 0 8 % 2 ^ 48) bs.length bs).map (runTxn 3 0 t.spart.toNat (chipNo s) t.tag.toNat (t.src.toNat * 64))

/-- An accepted READ is done, charged to its partition. -/
def serveRead (h : HeldTxn) (s : State) : State :=
  let t := h.txn
  let x := partRead h.part h.addr t.rlen.toNat s
  if x.1 then refuseTxn t 7 x.2.2
  else
    let ts := responses s t x.2.1
    pump (queueTxns 1 ts x.2.2).2

/-- TXN_READ (16 R435, R444). -/
def execTxnRead (s : State) : Res := .next (serveTxn 2 false serveRead refuseTxn s)

/-- Write response data within a granule; a hold of its bank has ended (09 R251), a first touch that had to wait has waited (14 R386). -/
def respWrite (p a : Nat) (bs : List Byte) (s : State) : Nat × State :=
  let s := waitHold a bs.length s
  let w := bWrite p a bs false s
  -- an operation already in flight when its granule was released lands until its drain ends (13 R378)
  if (getPart s p).release.any (fun e => decide (e.1 = granOf a)) then (if isPoison s (pageOf a) then (cPARITY, s) else (0, bStore a bs s))
  else if w.code = 100 then let w := bWrite p a bs false (touchHeld a w.st); (w.code, w.st) else (w.code, w.st)

/-- Write response data for a transfer: 0, or a fault code. -/
def landBytes (x : Xfer) (a : Nat) (bs : List Byte) (s : State) : Nat × State :=
  match x.owner with
  | .refill page => if pageOf a = page then (0, bStore a bs s) else (cREMOTE, s)
  | .desc _ _ _ => (addPieces a (bs.length + 1) bs).foldl (fun (r : Nat × State) q =>
      if r.1 ≠ 0 then r else respWrite x.part q.1 q.2 r.2) (0, s)
  | .image _ => (addPieces a (bs.length + 1) bs).foldl (fun (r : Nat × State) q =>
      if r.1 ≠ 0 then r else respWrite x.part q.1 q.2 r.2) (0, s)
  | _ =>
    if decide (x.dst ≤ a) && decide (a + bs.length ≤ x.dst + x.len) && rangeIn (getPart s x.part).exts a bs.length then
      let r := belWrite a bs s
      (if r.1 then cPARITY else 0, r.2)
    else (cREMOTE, s)

/-- TXN_READRSP: response granules are written into the requester's B-space (16 R435). -/
def execTxnReadrsp (s : State) : Res :=
  match nextTxn s 3 with
  | none => .next s
  | some t =>
    match s.xfers.find? (fun x => x.read && decide (x.tag = t.tag) && decide (x.via = .link t.src.toNat)) with
    | none => .next (pump (takeTxn 3 s))
    | some x =>
      let a := bits t.dest.toNat 47 0 / 32 * 32 + t.foff.toNat
      let n := txnLen t
      -- a refill is background work, charged to no partition (13 R368, 20 Table 20-1)
      let free := match x.owner with
        | .refill _ => true
        | _ => false
      let waits := (granules a n).any (sliceHeld s) || (!free && mustWait s x.part a n true)
      if waits then .next (noteWaits a n (!free) s)
      else
        let s := takeTxn 3 s
        let r := landBytes x a (txnBytes t) (if free then s else chargeWrite x.part a n s)
        .next (tripOff (pump (if r.1 ≠ 0 then endFail x r.1 r.2 else progress x n r.2)))

/-- Flits of a TAG to a chip are acknowledged: they count for the transfers of that TAG in order, each up to what it still awaits. -/
def ackTag (chip tag n : Nat) (s : State) : State :=
  let xs := s.xfers.filter (fun x => !x.read && decide (x.tag.toNat = tag) && decide (x.via = .link chip))
  (xs.foldl (fun (y : Nat × State) x =>
    let k := min y.1 (x.total - x.acked)
    if k = 0 then y else (y.1 - k, progress x k y.2)) (n, s)).2

/-- TXN_ACKS: acknowledged counts advance (16 R436). -/
def execTxnAcks (s : State) : Res :=
  match nextTxn s 4 with
  | none => .next s
  | some t =>
    .next (tripOff (pump ((txnRecs t).foldl (fun s r => ackTag t.src.toNat (r.1 % 2 ^ 24) r.2 s) (takeTxn 4 s))))

/-- TXN_REFUSE: a refusal fails its transfer (16 R445). -/
def execTxnRefuse (s : State) : Res :=
  match nextTxn s 5 with
  | none => .next s
  | some t =>
    .next (tripOff (pump ((txnRecs t).foldl (fun s r =>
      -- a module on the way refuses for the chip that the flit was bound for, so the TAG alone names the transfer
      match s.xfers.find? (fun x => decide (x.tag.toNat = r.1 % 2 ^ 24) && (match x.via with
          | .link c => decide (c = t.src.toNat) || decide (bits r.1 31 24 = 8) || decide (bits r.1 31 24 = 10)
          | .qp _ => false)) with
      | some x => endFail x (reasonCode (bits r.1 31 24)) s
      | none => s) (takeTxn 5 s))))

/-- ACKS_FLUSH: 100 ns after the oldest ready record of a source (16 R436). -/
def execAcksFlush (chip : BitVec 10) (s : State) : Res :=
  match s.links.acks.find? (fun g => decide (g.chip = chip.toNat)) with
  | none => .next s
  | some g => .next (pump (sendAcks chip.toNat (passTo (g.since + 120) s)))

/-! ### Training and port states (16 R447 to R450) -/

/-- The links' domain is on and the torus holds this module (16 R440, 19 R505). -/
def portsAllowed (s : State) : Bool := torusOk s && decide (s.power.linksSt = .on)

/-- PORT_TRAINING: an enabled port starts to train (16 Table 16-10). -/
def execPortTraining (port : BPort) (s : State) : Res :=
  let v := getPort s port
  .next (if v.st = .disabled && v.en && v.drainAt.isNone && portsAllowed s then setPort port { v with st := .training, since := s.clk } s else s)

/-- 1,024 credits on each channel. -/
def fullCredits : SMap Nat := (List.range 8).map (fun k => (k, 1024))

/-- The link layer starts (16 Table 16-9, step 4). -/
def startLink (v : BkPort) : BkPort :=
  { v with txSeq := 0, rxSeq := 0, nakSent := false, replay := [], replays := 0, credits := fullCredits, ret := [], crrec := [],
           crret := [], sent := [], rcvd := [], ackDue := false, resetCred := false, retrainReq := false, badLanes := [] }

/-- The receive buffers of a port start empty: what came in by it earlier no longer holds one (16 R450, Table 16-9). -/
def forgetBufs (p : BPort) (s : State) : State :=
  let lose (b : Option (Nat × Nat)) : Option (Nat × Nat) := match b with
    | some (i, vc) => if i = portNo p then none else some (i, vc)
    | none => none
  let s := { s with links := { s.links with
    rx := s.links.rx.map (fun r => { r with inbuf := lose r.inbuf })
    held := s.links.held.map (fun h => { h with inbuf := lose h.inbuf }) } }
  allPorts.foldl (fun s q => modPort q (fun v => { v with txq := v.txq.map (fun f => { f with inbuf := lose f.inbuf }) }) s) s

/-- What a port sends at step 5 of its training: its CHIP in a CTRL flit (16 Table 16-9; layout log 33). -/
def identityPayload (s : State) : List Byte := natLe 8 2 ++ natLe 8 (chipNo s)

/-- Lanes among the 16 active ones that failed. -/
def badLanes (r : TrainResult) : List Nat := r.failing.filter (fun l => decide (l < 16))

/-- A training fails: DOWN, with one more failure in a row. -/
def trainFailed (p : BPort) (s : State) : State :=
  modPort p (fun v => { v with tries := if v.tries = 3 then 3 else v.tries + 1 }) (dropPort 8 p .down s)

/-- PORT_TRAINING_COMPLETE (16 R447 to R449). -/
def execPortTrainingComplete (port : BPort) (res : TrainResult) (s : State) : Res :=
  let v := getPort s port
  .next (
    if v.st ≠ .training then s
    else if !res.ok || decide (1 < (badLanes res).length) || (decide ((badLanes res).length = 1) && res.failing.any (fun l => decide (16 ≤ l)))
    then trainFailed port s
    else
      let sub := match (badLanes res).head? with
        | some l => BitVec.ofNat 5 l
        | none => 31
      let s := emitFlit port 4 0 0 (identityPayload s) (forgetBufs port (setPort port (startLink v) s))
      let v := { getPort s port with subst := sub, peer := res.peer, pdelay := res.pdelay, since := s.clk }
      if res.peer.toNat ≠ neighbour s port then raise 4 (portNo port) none 0x8003 res.peer.toNat (setPort port { v with st := .miswired } s)
      else laneInj port (setPort port { v with st := .up, tries := 0 } s))

/-- PORT_DOWN_RETRY: 1 ms after DOWN (16 Table 16-10). -/
def execPortDownRetry (port : BPort) (s : State) : Res :=
  let v := getPort s port
  .next (
    if v.st ≠ .down then s
    else
      let s := passTo (v.since + us 1000) s
      setPort port { v with st := if v.tries = 3 then .failed else .training, since := s.clk } s)

/-- PORT_RETRAIN: a port that has been asked to retrains, one port at a time (16 R449, R450). -/
def execPortRetrain (port : BPort) (s : State) : Res :=
  let v := getPort s port
  .next (if v.st = .up && v.retrainReq && belfryRuns s && !(allPorts.any (fun p => decide ((getPort s p).st = .retrain)))
         then setPort port { v with st := .retrain, since := s.clk } s else s)

/-- The layer that a transfer of a routing request serves (12). -/
def xferLayer (x : Xfer) : Option Nat :=
  match x.owner with
  | .dispatch l _ _ => some l
  | .sourceDone l _ => some l
  | .combine l _ _ _ _ _ => some l
  | .combineDone l _ _ _ _ => some l
  | _ => none

/-- The transfer goes by a port. -/
def goesBy (s : State) (p : BPort) (x : Xfer) : Bool :=
  match x.via with
  | .link c => decide (routePort s c = some p)
  | .qp _ => false

/-- Time held at a port that went into RETRAIN at t does not count, at any level: not for the transfers, from their last flit on, nor for the
routing requests they serve (16 R451, 20 R529). -/
def creditPort (p : BPort) (t : Nat) (s : State) : State :=
  let held (x : Xfer) : Nat := s.clk - max t x.lastAt
  let mine := s.xfers.filter (goesBy s p)
  { s with
    xfers := s.xfers.map (fun x => if goesBy s p x then { x with heldFor := x.heldFor + held x } else x)
    routes := s.routes.map (fun r =>
      { r with heldFor := r.heldFor + (mine.filter (fun x => decide (xferLayer x = some r.layer))).foldl (fun m x => max m (held x)) 0 }) }

/-- Credits start again at 1,024; flits that came in by the port no longer hold its buffers (16 R450). -/
def resetCredits (p : BPort) (s : State) : State :=
  forgetBufs p (modPort p (fun v =>
    { v with credits := fullCredits, ret := [], crrec := [], crret := [], sent := [], rcvd := [], resetCred := false }) s)

/-- PORT_RETRAIN_COMPLETE (16 R450). -/
def execPortRetrainComplete (port : BPort) (res : TrainResult) (s : State) : Res :=
  let v := getPort s port
  .next (
    if v.st ≠ .retrain then s
    else
      let s := creditPort port v.since s
      let all := v.badLanes ++ res.failing.filter (fun l => !v.badLanes.contains l)
      let bad := all.filter (fun l => decide (l < 16) && decide (v.subst.toNat ≠ l))
      -- lane 16 is the spare: it counts where it carries a lane or is needed for one
      let noSpare := decide (v.subst ≠ 31) || all.contains 16
      if !res.ok || decide (1 < bad.length) || (!bad.isEmpty && noSpare) || (decide (v.subst ≠ 31) && all.contains 16) then dropPort 8 port .down s
      else
        let sub := match bad.head? with
          | some l => BitVec.ofNat 5 l
          | none => v.subst
        let s := modPort port (fun v => { v with st := .up, subst := sub, pdelay := res.pdelay, retrainReq := false, badLanes := [], injLane := false, since := s.clk }) s
        let s := if v.resetCred then resetCredits port s else s
        let s := if (getPort s port).replay.isEmpty then s else replayPort port s
        pump (raiseI v.injLane 4 (portNo port) none 0x8004 (match bad.head? with
          | some l => l
          | none => 0x1F) (laneInj port s)))

/-- FEC_ERROR_WINDOW: symbol errors of a lane in 1 ms (16 R450); in a serial loop-back they are its errors (R453). -/
def execFecErrorWindow (port : BPort) (lane errors : Nat) (s : State) : Res :=
  let v := getPort s port
  .next (
    if v.st = .loop then (if 3 ≤ v.loop.toNat then loopError port errors s else s)
    else if v.st ≠ .up then s
    else
      let v := { v with fecCorr := v.fecCorr + BitVec.ofNat 64 errors }
      let hit := decide (v.serth.toNat < errors)
      setPort port { v with retrainReq := v.retrainReq || hit, badLanes := if hit && !v.badLanes.contains lane then v.badLanes ++ [lane] else v.badLanes } s)

/-- LANE_LOCK_LOSS: a lane loses lock (16 R450). -/
def execLaneLockLoss (port : BPort) (lane : Nat) (s : State) : Res :=
  let v := getPort s port
  .next (if v.st ≠ .up then s else setPort port { v with retrainReq := true, badLanes := if v.badLanes.contains lane then v.badLanes else v.badLanes ++ [lane] } s)

end Sys2Proof.Machine
end

