-- ==== Sys2Proof/Machine/CSpace.lean ====
section
/-! DEFINITION. C-space: what each register reads as, and its RW fields (00 R12 to R17 and the register maps of 09, 13, 15 to 20). -/

namespace Sys2Proof.Machine

open Sys2Proof

/-- A signed byte. -/
def byteOf (i : Int) : Nat := unsgn 8 i

/-! ### Slices (09 Tables 9-6 to 9-9) -/

/-- STATE of a slice. -/
def sliceStNo (v : Slice) : Nat :=
  match v.st with
  | .ok => 0
  | .retrain => 1
  | .degraded => 2
  | .failed => 3

/-- Fewest free spare rows in any bank, and banks with none. -/
def spareCounts (v : Slice) : Nat × Nat :=
  (v.spares.foldl (fun m e => min m (64 - e.2)) 64, (v.spares.filter (fun e => decide (64 ≤ e.2))).length)

/-- A failing-row entry (09 Table 9-9). -/
def failRowWord (r : FailRow) : Nat :=
  r.ticklo.toNat * 2 ^ 48 + r.die.toNat * 2 ^ 45 + r.bank.toNat * 2 ^ 41 + r.row.toNat * 2 ^ 28 + r.spare.toNat * 2 ^ 22
    + r.outcome.toNat * 2 ^ 20 + 1

/-- A register of a slice's block. -/
def sliceReg (v : Slice) (off : Nat) : Nat :=
  let c := spareCounts v
  if off = 0 then
    byteOf v.temp * 2 ^ 40 + v.refStep.toNat * 2 ^ 38 + v.spareBonds * 2 ^ 27 + c.1 * 2 ^ 16 + c.2 * 2 ^ 8
      + b2n (!v.remaps.isEmpty) * 8 + sliceStNo v
  else if off = 0x08 then v.scrubpm.toNat
  else if off = 0x10 then ctrWord v.perr
  else if off = 0x18 then v.rdBytes.toNat
  else if off = 0x20 then v.wrBytes.toNat
  else if off = 0x28 then v.adds.toNat
  else if off = 0x30 then v.failHead.toNat
  else if 0x100 ≤ off ∧ off < 0x180 then
    match smapGet none v.failRows ((off - 0x100) / 8) with
    | some r => failRowWord r
    | none => 0
  else 0

/-! ### Ticks and partitions (13 Tables 13-13 to 13-16, 15 Table 15-3) -/

/-- STATE of a partition. -/
def partStNo (st : PartSt) : Nat :=
  match st with
  | .free => 0
  | .active => 1
  | .teardown => 2
  | .scrub => 3

/-- PART_STATE. -/
def partWord (p : Part) : Nat :=
  (p.scrub.length + p.release.length) * 2 ^ 30 + p.pend.length * 2 ^ 13 + p.exts.length * 2 ^ 7 + b2n p.load * 2 ^ 6
    + b2n p.fold * 2 ^ 5 + p.mode.toNat * 2 ^ 3 + partStNo p.st

/-- TICK_CFG. -/
def tickCfg (t : Tick) : Nat :=
  b2n t.bellen * 2 ^ 56 + t.mode.toNat * 2 ^ 54 + t.pleadUs * 2 ^ 36 + t.closewUs * 2 ^ 20 + t.periodUs

/-- TICK_STATE. -/
def tickState (t : Tick) : Nat :=
  t.bell.toNat * 2 ^ 38 + min t.missed 255 * 2 ^ 24 + b2n t.bellLost * 8 + b2n t.aligned * 4 + b2n t.orphaned * 2 + b2n t.isBell

/-- The TICK_ block. -/
def tickReg (t : Tick) (off : Nat) : Nat :=
  match off with
  | 0x00 => t.now.toNat
  | 0x08 => tickCfg t
  | 0x10 => tickState t
  | 0x18 => t.lastSeq.toNat
  | 0x20 => ctrWord t.idle
  | 0x28 => ctrWord t.overrun
  | 0x30 => ctrWord t.late
  | _ => 0

/-! ### The peer edge (16 Tables 16-12 to 16-16) -/

/-- STATE of a Bakener port. -/
def portStNo (st : PortSt) : Nat :=
  match st with
  | .disabled => 0
  | .training => 1
  | .up => 2
  | .retrain => 3
  | .down => 4
  | .failed => 5
  | .miswired => 6
  | .loop => 7

/-- A register of a Bakener port. -/
def portReg (v : BkPort) (off : Nat) : Nat :=
  match off with
  | 0x00 => v.serth.toNat * 2 ^ 24 + b2n v.farResp * 2 ^ 8 + v.loop.toNat * 4 + b2n v.en
  | 0x08 => v.peer.toNat * 2 ^ 48 + v.subst.toNat * 2 ^ 27 + v.tries.toNat * 2 ^ 16 + portStNo v.st
  | 0x10 => v.pdelay.toNat
  | 0x18 => ctrWord v.crcerr
  | 0x20 => ctrWord v.retry
  | 0x28 => ctrWord v.fecunc
  | 0x30 => v.fecCorr.toNat
  | 0x38 => v.txFlits.toNat
  | 0x40 => v.rxFlits.toNat
  | 0x48 => ctrWord v.loopErr
  | _ => 0

/-- BKL_WIN. -/
def winWord (w : Window) : Nat :=
  if !w.openW then 0
  else 2 ^ 63 + b2n w.closing.isSome * 2 ^ 62 + w.part.toNat * 2 ^ 56 + b2n w.r * 2 ^ 55 + b2n w.w * 2 ^ 54 + b2n w.a * 2 ^ 53
    + b2n w.host * 2 ^ 52 + b2n w.any * 2 ^ 51 + w.base

/-- BKL_TORUS. -/
def torusWord (l : Links) : Nat := l.ydim.toNat * 2 ^ 24 + l.xdim.toNat * 2 ^ 16 + l.chip.toNat

/-- The BKL_ block. -/
def bklReg (s : State) (off : Nat) : Nat :=
  if off = 0 then torusWord s.links
  else if off = 8 then ctrWord s.links.refused
  else if 0x100 ≤ off ∧ off < 0x500 then
    match allPorts[(off - 0x100) / 0x100]? with
    | some p => portReg (getPort s p) (off % 0x100)
    | none => 0
  else if 0x1000 ≤ off ∧ off < 0x1200 then winWord (getWin s ((off - 0x1000) / 8))
  else 0

/-! ### The host edge (17 Tables 17-6 to 17-11) -/

/-- STATE of a host port. -/
def hportStNo (st : HPortSt) : Nat :=
  match st with
  | .disabled => 0
  | .training => 1
  | .up => 2
  | .down => 3
  | .loop => 4

/-- STATE of a QP. -/
def qpStNo (st : QpSt) : Nat :=
  match st with
  | .free => 0
  | .connecting => 1
  | .rts => 2
  | .error => 3
  | .closing => 4

/-- QPs that are not FREE and satisfy p. -/
def countQps (s : State) (p : Qp → Bool) : Nat := (s.host.qps.filter (fun e => decide (e.2.st ≠ .free) && p e.2)).length

/-- A register of host port p. -/
def hportReg (s : State) (p : HPort) (off : Nat) : Nat :=
  let v := getHport s p
  match off with
  | 0x00 => v.vid.toNat * 2 ^ 16 + v.pcp.toNat * 2 ^ 13 + v.pfcen.toNat * 2 ^ 5 + v.loop.toNat * 4 + b2n v.en
  | 0x08 => countQps s (fun q => decide (q.port = p)) * 2 ^ 8 + hportStNo v.st
  | 0x10 => v.mac.toNat
  | 0x18 => v.ip4.toNat
  | 0x20 => v.ip6.toNat / 2 ^ 64
  | 0x28 => v.ip6.toNat % 2 ^ 64
  | 0x30 => v.rx.toNat
  | 0x38 => v.tx.toNat
  | 0x40 => ctrWord v.drop
  | 0x48 => ctrWord v.icrc
  | 0x50 => ctrWord v.fecunc
  | 0x58 => v.cnp.toNat
  | _ => 0

/-- HE_QPSTAT. -/
def qpWord (q : Qp) : Nat :=
  qpStNo q.st * 2 ^ 60 + q.part.toNat * 2 ^ 56 + b2n q.owner * 2 ^ 55 + b2n q.plain * 2 ^ 54 + hportNo q.port * 2 ^ 52
    + q.mtu.toNat * 2 ^ 49 + q.rqpn.toNat * 2 ^ 24 + min q.outmsg 255 * 2 ^ 16

/-- HE_OWNER. -/
def ownerWord (o : Option Owner) : Nat :=
  match o with
  | some o => 2 ^ 63 + b2n o.done * 2 ^ 62 + o.qp
  | none => 0

/-- The HE_ block. -/
def heReg (s : State) (off : Nat) : Nat :=
  let h := s.host
  if off = 0 then h.dscp.toNat * 2 ^ 26 + h.cnpDscp.toNat * 2 ^ 20 + h.ackto.toNat * 2 ^ 16 + h.retry.toNat * 2 ^ 13 + b2n h.ecn * 2 ^ 12
  else if off = 0x10 then ctrWord h.tagFail
  else if off = 0x18 then ownerWord h.owner
  else if 0x80 ≤ off ∧ off < 0x100 then
    let n := (off - 0x80) / 8
    countQps s (fun q => !q.owner && decide (q.part.toNat = n)) * 2 ^ 16 + smapGet 0 h.maxqp n
  else if 0x100 ≤ off ∧ off < 0x500 then
    match allHports[(off - 0x100) / 0x100]? with
    | some p => hportReg s p (off % 0x100)
    | none => 0
  else if 0x8000 ≤ off ∧ off < 0x10000 then qpWord (getQp s ((off - 0x8000) / 8))
  else 0

/-! ### Power (19 Tables 19-6 to 19-8) -/

/-- STATE of a domain. -/
def domStNo (d : DomSt) : Nat :=
  match d with
  | .off => 0
  | .ramp => 1
  | .on => 2
  | .held => 3
  | .failed => 4

/-- STEP of a quad. -/
def thermNo (t : Therm) : Nat :=
  match t with
  | .normal => 0
  | .warn => 1
  | .hold => 2
  | .emerg => 3

/-- Hottest junction. -/
def tjMax (s : State) : Int := (List.range 24).foldl (fun m q => max m (getQuad s (q + 1)).temp) (getQuad s 0).temp
/-- Hottest stack. -/
def tsMax (s : State) : Int := (List.range 99).foldl (fun m n => max m (getSlice s (n + 1)).temp) (getSlice s 0).temp

/-- PWR_DSTAT of domain d: its draw is a free value while it is not OFF (log 39). -/
def domWord (s : State) (d : Nat) : Nat :=
  let draw (st : DomSt) : Nat := if st = .off then 0 else Config.draw d s.clk % 65536 * 2 ^ 16
  let p := s.power
  if d < 25 then
    let q := getQuad s d
    draw q.st + byteOf q.temp * 2 ^ 8 + thermNo q.step * 8 + domStNo q.st
  else
    let st := [p.linksSt, p.hostSt, p.memSt, p.flashSt, p.belfrySt].getD (d - 25) .off
    draw st + domStNo st

/-- The PWR_ block. -/
def pwrReg (s : State) (off : Nat) : Nat :=
  let p := s.power
  if off = 0 then p.quadEn.toNat
  else if off = 8 then b2n p.links + b2n p.flash * 2
  else if off = 0x18 then b2n p.trip * 2 ^ 63 + b2n p.tripped * 2 ^ 62 + byteOf (tsMax s) * 2 ^ 24 + byteOf (tjMax s) * 2 ^ 16
  else if off = 0x20 then Config.draw 30 s.clk % 65536 * 2 ^ 16 + p.input.toNat
  else if off = 0x28 then p.cause.toNat
  else if 0x100 ≤ off ∧ off < 0x1F0 then domWord s ((off - 0x100) / 8)
  else 0

/-! ### Security, events, limits, test (18 Tables 18-5, 20 Tables 20-5, 20-10) -/

/-- The SEC_ block; SEC_FWUPD is write-only. -/
def secReg (c : Secure) (off : Nat) : Nat :=
  if off = 0 then c.minSvn.toNat * 2 ^ 48 + c.svn.toNat * 2 ^ 32 + b2n c.pending * 2 ^ 16 + b2n c.fallback * 2 ^ 8 + c.slot.toNat else 0

/-- The EVT_ block. -/
def evtReg (e : Events) (off : Nat) : Nat :=
  match off with
  | 0x00 => e.next.toNat
  | 0x08 => ctrWord e.dropped
  | 0x10 => ctrWord e.suppressed
  | _ => 0

/-- The TMO_ block. -/
def tmoReg (t : Test) (off : Nat) : Nat :=
  match off with
  | 0x00 => t.disp.toNat * 2 ^ 48 + t.rem.toNat * 2 ^ 32 + t.dma.toNat * 2 ^ 16 + t.net.toNat
  | 0x08 => ctrWord t.wdcnt
  | _ => 0

/-- The INJ_ and TST_ blocks. -/
def testReg (t : Test) (off : Nat) : Nat :=
  match off with
  | 0x00 => b2n t.arm * 2 ^ 63 + t.count.toNat * 2 ^ 48 + t.unit.toNat * 2 ^ 32 + t.done.toNat * 2 ^ 24 + t.det.toNat
  | 0x08 => t.injAddr.toNat
  | 0x10 => t.loop.toNat
  | 0x18 => ctrWord t.loopErr
  | _ => 0

/-! ### Reading -/

/-- The value of the register at a C-space address; 0 where none is mapped (00 R15, R17). -/
def cRead (s : State) (a : Nat) : Nat :=
  let off := a % 0x10000
  if a % 8 ≠ 0 ∨ 2 ^ 32 ≤ a then 0
  else if a = 0 then s.fuseLo.toNat
  else if a = 8 then s.fuseHi.toNat
  else match a / 0x10000 with
    | 1 => tickReg s.tick off
    | 2 =>
      if off < 0x80 then partWord (getPart s (off / 8))
      else if 0x100 ≤ off ∧ off < 0x180 then (getPart s ((off - 0x100) / 8)).dig.toNat else 0
    | 3 => bklReg s off
    | 4 => heReg s off
    | 5 => secReg s.secure off
    | 6 => pwrReg s off
    | 7 => evtReg s.events off
    | 8 => tmoReg s.test off
    | 9 => testReg s.test off
    | b =>
      if 0x80 ≤ b ∧ b < 0xE4 ∧ off = 0 then (getCore s (b - 0x80)).spadArb.toNat
      else if 0x100 ≤ b ∧ b < 0x164 then sliceReg (getSlice s (b - 0x100)) off
      else 0

/-- Bytes of C-space from an address: n registers (17 R461). -/
def cBytes (s : State) (a n : Nat) : List Byte := ((List.range n).map (fun i => natLe 8 (cRead s (a + 8 * i)))).flatten

end Sys2Proof.Machine
end

