-- ==== Sys2Proof/Machine/Host.lean ====
section
/-! DEFINITION. The host edge: frames, connections, the owner session, accesses to windows and the J9's own requests
(17 R455 to R477, 18 R492 to R494, 20 R535, R536). -/

namespace Sys2Proof.Machine

open Sys2Proof

/-! ### Frames (17 R456, R457, R466) -/

/-- Add one to a port's drop counter. -/
def dropFrame (p : HPort) (s : State) : State :=
  let r := ctrInc (getHport s p).drop
  ovfEvent r.2 (0x00040140 + 0x100 * hportNo p) (modHport p (fun v => { v with drop := r.1 }) s)

/-- Add one to a port's invariant-CRC counter. -/
def icrcFrame (p : HPort) (s : State) : State :=
  let r := ctrInc (getHport s p).icrc
  ovfEvent r.2 (0x00040148 + 0x100 * hportNo p) (modHport p (fun v => { v with icrc := r.1 }) s)

/-- A frame arrives at a port: false where the port does not receive it or an injection drops it (20 Table 20-11, DET 8). -/
def hearFrame (p : HPort) (s : State) : Bool × State :=
  if (getHport s p).st ≠ .up then (false, s)
  else
    let s := modHport p (fun v => { v with rx := v.rx + 1 }) s
    if s.test.arm && decide (s.test.det.toNat = 8) && decide (s.test.unit = unitCode 5 (hportNo p)) then (false, dropFrame p (injDone s))
    else (true, s)

/-- A bad frame on a port in loop-back is an error of its test traffic (17 R475). -/
def loopFrame (p : HPort) (s : State) : State := if (getHport s p).st = .loop then dropFrame p s else s

/-- A codeword of a port could not be corrected: counted, and the frame in it is lost (17 R477). -/
def fecFrame (p : HPort) (s : State) : State :=
  let r := ctrInc (getHport s p).fecunc
  dropFrame p (ovfEvent r.2 (0x00040150 + 0x100 * hportNo p) (modHport p (fun v => { v with fecunc := r.1 }) s))

/-- Put one frame on a port. -/
def emitFrame (p : HPort) (m : HostMsg) (s : State) : State := sendFrames p 1 m s

/-- A packet marked CE: a CNP to the peer, at most one for each QP in 50 us (17 R466). -/
def notifyCe (q : Nat) (s : State) : State :=
  let v := getQp s q
  let recent := match v.cnpSent with
    | some t => decide (s.clk < t + us 50)
    | none => false
  if v.st = .free || recent || !s.host.ecn then s
  else emitQp q 1 (.cnp q) (modQp q (fun v => { v with cnpSent := some s.clk }) s)

/-- ROCE_PACKET: what the port does before the QP takes the packet (17 R456, R458, R466). -/
def execRocePacket (port : HPort) (pkt : RocePacket) (s : State) : Res :=
  let r := hearFrame port s
  .next (
    if !r.1 then (if pkt.fcsOk && pkt.ipOk && pkt.icrcOk then r.2 else loopFrame port r.2)
    else if !pkt.fcsOk || !pkt.ipOk || decide (4352 < pkt.len) then dropFrame port r.2
    else if !pkt.icrcOk then icrcFrame port r.2
    else if pkt.ce then notifyCe pkt.qp.toNat r.2
    else r.2)

/-- The modified EUI-64 link-local address of a MAC address (17 R457). -/
def linkLocal (mac : BitVec 48) : BitVec 128 :=
  let m := mac.toNat ^^^ 2 ^ 41
  BitVec.ofNat 128 (0xFE80 * 2 ^ 112 + m / 2 ^ 24 * 2 ^ 40 + 0xFFFE * 2 ^ 24 + m % 2 ^ 24)

/-- Remember where a peer is. -/
def learnPeer (p : HPort) (ip : BitVec 128) (mac : BitVec 48) (s : State) : State :=
  modHport p (fun v => { v with peers := v.peers.filter (fun e => e.1 ≠ ip) ++ [(ip, mac)] }) s

/-- ARP_FRAME (17 R457). -/
def execArpFrame (port : HPort) (arp : ArpFrame) (s : State) : Res :=
  let r := hearFrame port s
  .next (
    if !r.1 then r.2
    else
      let s := learnPeer port (arp.senderIp.setWidth 128) arp.senderMac r.2
      let v := getHport s port
      if arp.request && decide (v.ip4 ≠ 0) && decide (arp.targetIp = v.ip4) then emitFrame port (.arpReply v.ip4 v.mac) s else s)

/-- An address of a port. -/
def ownIp6 (v : HoPort) (ip : BitVec 128) : Bool := (decide (v.ip6 ≠ 0) && decide (ip = v.ip6)) || decide (ip = linkLocal v.mac)

/-- ND_FRAME (17 R457). -/
def execNdFrame (port : HPort) (nd : NdFrame) (s : State) : Res :=
  let r := hearFrame port s
  .next (
    if !r.1 then r.2
    else
      let s := learnPeer port nd.senderIp nd.senderMac r.2
      let v := getHport s port
      if nd.solicit && ownIp6 v nd.targetIp then emitFrame port (.ndAdvert nd.targetIp v.mac) s else s)

/-- The bytes of an echo frame: Ethernet header and FCS, a tag where the port has one, the IP and ICMP headers (17 R456; log 14). -/
def echoLen (s : State) (p : HPort) (v6 : Bool) (n : Nat) : Nat :=
  n + 26 + (if v6 then 40 else 20) + (if (vlanOf (getHport s p)).isSome then 4 else 0)

/-- ICMP_ECHO_REQUEST (17 R456): answered where it is addressed to the port; a frame of more than 4,352 B is dropped. -/
def execIcmpEchoRequest (port : HPort) (v6 : Bool) (dst : BitVec 128) (payload : List Byte) (s : State) : Res :=
  let r := hearFrame port s
  .next (
    if !r.1 then r.2
    else if 4352 < echoLen s port v6 payload.length then dropFrame port r.2
    else
      let v := getHport r.2 port
      let mine := if v6 then ownIp6 v dst else decide (v.ip4 ≠ 0) && decide (dst = v.ip4.setWidth 128)
      if mine then emitFrame port (.echoReply payload) r.2 else r.2)

/-- PFC_FRAME: a pause of `quanta` times 512 bit times at 400 Gb/s (17 R466). The model takes every frame as it arrives, so its own receive
buffer never fills and it sends no pause (log 127). -/
def execPfcFrame (port : HPort) (prio : BitVec 3) (quanta : BitVec 16) (s : State) : Res :=
  let r := hearFrame port s
  .next (
    if !r.1 then r.2
    else
      let v := getHport r.2 port
      if v.pfcen.getLsbD prio.toNat then
        flushFrames port
          (modHport port (fun v => { v with pauses := smapSet 0 v.pauses prio.toNat (if quanta = 0 then 0 else s.clk + quanta.toNat * 1536 / 1000) }) r.2)
      else r.2)

/-- PFC_PAUSE_EXPIRY: the pause of a priority has run out; what it kept back goes out. -/
def execPfcPauseExpiry (port : HPort) (prio : BitVec 3) (s : State) : Res :=
  let t := smapGet 0 (getHport s port).pauses prio.toNat
  .next (if t = 0 then s else flushFrames port (modHport port (fun v => { v with pauses := smapSet 0 v.pauses prio.toNat 0 }) (passTo t s)))

/-- UNSUPPORTED_FRAME (17 R456). -/
def execUnsupportedFrame (port : HPort) (why : DropReason) (s : State) : Res :=
  let r := hearFrame port s
  .next (
    if !r.1 then loopFrame port r.2
    else match why with
      | .icrc => icrcFrame port r.2
      | .codeword => fecFrame port r.2
      | .kind => dropFrame port r.2
      | .fcs => dropFrame port r.2
      | .ipChecksum => dropFrame port r.2)

/-! ### Ports (17 R563) -/

/-- HOST_PORT_TRAINED. -/
def execHostPortTrained (port : HPort) (s : State) : Res :=
  let v := getHport s port
  .next (if v.st = .training && v.en && decide (s.power.hostSt = .on) then setHport port { v with st := .up } s else s)

/-- HOST_PORT_TRAINING_FAILED: the port starts training again at once, while EN = 1 and no loop-back is selected; else it is DOWN. -/
def execHostPortTrainingFailed (port : HPort) (s : State) : Res :=
  let v := getHport s port
  let again := v.en && decide (v.loop.toNat = 0 ∨ 4 ≤ v.loop.toNat)
  .next (if v.st = .training then setHport port { v with st := if again then .training else .down, since := s.clk } s else s)

/-- HOST_LINK_LOSS: the port trains again. -/
def execHostLinkLoss (port : HPort) (s : State) : Res :=
  let v := getHport s port
  .next (if v.st = .up then setHport port { v with st := .training, since := s.clk } s else s)

/-! ### Ends of sessions and queue pairs (17 R463, R464, R474) -/

/-- Messages outstanding on a queue pair, a plan fetch among them. -/
def qpOut (s : State) (q : Nat) : Nat :=
  ((s.xfers.filter (fun x => decide (x.via = .qp q))).map (fun x =>
    xferOut x)).sum
    + (match s.host.owner with
      | some o => b2n (decide (o.qp = q) && decide (s.tick.next = .fetching))
      | none => 0)

/-- Show the outstanding messages of a queue pair. -/
def noteOut (q : Nat) (s : State) : State := modQp q (fun v => { v with outmsg := qpOut s q }) s

/-- The owner session ends with its queue pair: a plan fetch in progress ends, and status records not yet sealed never are (17 R464). -/
def endSession (q : Nat) (s : State) : State :=
  match s.host.owner with
  | some o =>
    if o.qp = q then
      { s with host := { s.host with owner := none }
               tick := { s.tick with next := if s.tick.next = .fetching then .none else s.tick.next, status := [] }
               secure := { s.secure with reports := s.secure.reports.filter (fun r => r.1 ≠ 0) } }
    else s
  | none => s

/-- A queue pair enters ERROR: its descriptors fail with REMOTE and it sends DREQ (17 R463). -/
def qpError (q : Nat) (s : State) : State :=
  let v := getQp s q
  if v.st = .free || v.st = .error then s
  else
    let s := emitQp q 1 (.dreq q) (setQp q { v with st := .error, dreqAt := some s.clk, closeAt := none } s)
    let s := (s.xfers.filter (fun x => decide (x.via = .qp q))).foldl (fun s x => endFail x cREMOTE s) s
    noteOut q (endSession q s)

/-- A queue pair is disabled (17 R474): it refuses new work and drains. -/
def closeQp (q : Nat) (s : State) : State :=
  let v := getQp s q
  if v.st = .connecting || v.st = .rts then endSession q (setQp q { v with st := .closing, closeAt := some s.clk } s) else s

/-- A queue pair becomes FREE. -/
def freeQp (q : Nat) (s : State) : State :=
  setQp q Qp.reset { s with xfers := s.xfers.filter (fun x => decide (x.via ≠ .qp q)) }

/-! ### Connections (17 R459, R460, R462) -/

/-- The private data is well formed (17 Table 17-2, R493, R535). -/
def privOk (b : List Byte) : Bool :=
  let kind := rdN b 0 1
  let zero (off n : Nat) : Bool := decide (rdN b off n = 0)
  decide (b.length = 92) && zero 2 6 && (
    if kind = 1 then
      zero 1 1 && zero 0x48 20 && decide (4096 ≤ rdN b 0x14 4) && decide (rdN b 0x14 4 ≤ 0x400000) && decide (rdN b 0x14 4 % 4096 = 0)
        && decide (rdN b 0x24 4 % 4096 = 0) && decide (rdN b 0x24 4 ≠ 0) && decide (0x120000 ≤ rdN b 0x34 4)
        && decide (rdN b 0x44 4 % 32 = 0) && decide (4096 ≤ rdN b 0x44 4)
    else decide (kind = 2) && decide (rdN b 1 1 < 16) && zero 8 84)

/-- The lowest FREE queue pair from 2 upwards. -/
def findQp (s : State) : Option Nat := ((List.range 4094).map (fun i => i + 2)).find? (fun n => decide ((getQp s n).st = .free))

/-- The refusal code of a REQ: the first that applies in the order 5, 1, 2, 3, 4; 0 for none. -/
def reqCode (s : State) (b : List Byte) : Nat :=
  let owner := decide (rdN b 0 1 = 1)
  let p := rdN b 1 1
  if !privOk b then 5
  else if owner && s.host.owner.isSome then 1
  else if !owner && decide ((getPart s p).st ≠ .active) then 2
  else if !owner && decide (smapGet 0 s.host.maxqp p ≤ countQps s (fun q => !q.owner && decide (q.part.toNat = p))) then 3
  else if (findQp s).isNone then 4 else 0

/-- The areas that an owner's REQ names. -/
def ownerOf (q : Nat) (b : List Byte) : Owner :=
  { qp := q, planVa := BitVec.ofNat 64 (rdN b 8 8), planRkey := BitVec.ofNat 32 (rdN b 0x10 4), planSlot := rdN b 0x14 4,
    statVa := BitVec.ofNat 64 (rdN b 0x18 8), statRkey := BitVec.ofNat 32 (rdN b 0x20 4), statSlot := rdN b 0x24 4,
    hsVa := BitVec.ofNat 64 (rdN b 0x28 8), hsRkey := BitVec.ofNat 32 (rdN b 0x30 4), evVa := BitVec.ofNat 64 (rdN b 0x38 8),
    evRkey := BitVec.ofNat 32 (rdN b 0x40 4), evLen := rdN b 0x44 4, rtuAt := none, pollAt := 0, hello := false, done := false }

/-- A peer whose MAC address the port does not know is asked for it, by ARP or by Neighbor Discovery (17 R457). -/
def resolvePeer (p : HPort) (ip : BitVec 128) (s : State) : State :=
  let v := getHport s p
  if v.peers.any (fun e => decide (e.1 = ip)) then s
  else emitFrame p (if ip.toNat < 2 ^ 32 then .arpRequest (ip.setWidth 32) v.mac else .ndSolicit ip v.mac) s

/-- CM_REQ (17 R459, R460, R462). -/
def execCmReq (port : HPort) (req : CmReq) (s : State) : Res :=
  let code := reqCode s req.priv
  .next (
    if (getHport s port).st ≠ .up then s
    else match code, findQp s with
      | 0, some q =>
        let owner := decide (rdN req.priv 0 1 = 1)
        let p := rdN req.priv 1 1
        let m : BitVec 3 := if 5 < req.mtu.toNat then 5 else req.mtu
        let v : Qp := { Qp.reset with st := .connecting, part := BitVec.ofNat 4 p, owner := owner, plain := owner || decide (p = 0),
                                      port := port, mtu := m, rqpn := req.rqpn, peer := req.peer, raiseAt := s.clk }
        let s := resolvePeer port req.peer (setQp q v s)
        let s := if owner then { s with host := { s.host with owner := some (ownerOf q req.priv) } } else s
        emitFrame port (.rep q m.toNat) s
      | c, _ => emitFrame port (.rej c) s)

/-- CM_RTU: the QP moves to RTS; an owner handshake starts (17 R459, 18 R494). -/
def execCmRtu (qp : BitVec 12) (s : State) : Res :=
  let q := qp.toNat
  let v := getQp s q
  .next (
    if v.st ≠ .connecting then s
    else
      let s := setQp q { v with st := .rts } s
      if v.owner then
        { s with host := { s.host with owner := s.host.owner.map (fun o => { o with rtuAt := some s.clk, pollAt := s.clk + us 1000 }) } }
      else s)

/-- CM_DREQ: the peer closes the QP (17 R474). -/
def execCmDreq (qp : BitVec 12) (s : State) : Res :=
  let q := qp.toNat
  .next (if (getQp s q).st = .free then s else closeQp q (emitQp q 1 (.drep q) s))

/-- CM_DREP: a QP that sent DREQ becomes FREE (17 R463). -/
def execCmDrep (qp : BitVec 12) (s : State) : Res :=
  .next (if (getQp s qp.toNat).dreqAt.isSome then freeQp qp.toNat s else s)

/-- QP_DREQ_TIMEOUT: 1 ms after DREQ (17 R463). -/
def execQpDreqTimeout (qp : BitVec 12) (s : State) : Res :=
  .next (match (getQp s qp.toNat).dreqAt with
    | some t => freeQp qp.toNat (passTo (t + us 1000) s)
    | none => s)

/-! ### The J9 as responder (17 R461, R472, R473) -/

/-- The queue pair serves its peer's requests, or refuses them while it closes. -/
def qpServes (v : Qp) : Bool := v.st = .rts || v.st = .closing

/-- NAK Remote Access Error, and the QP enters ERROR. -/
def nakError (q : Nat) (s : State) : State := qpError q (emitQp q 1 (.nakAccess q) s)

/-- A READ of C-space (17 R461). -/
def cspaceRead (q va len : Nat) (s : State) : State :=
  if (getQp s q).owner && decide (va % 8 = 0) && decide (len % 8 = 0) && decide (len ≤ 4096) then
    emitQp q (framesOf s q len) (.readReply q (cBytes s va (len / 8))) s
  else nakError q s

/-- CSPACE_RDMA_READ (17 R461). -/
def execCspaceRdmaRead (qp : BitVec 12) (va : W64) (len : Nat) (s : State) : Res :=
  let q := qp.toNat
  let v := getQp s q
  .next (if !qpServes v then s else if v.st = .closing then emitQp q 1 (.nakAccess q) s else cspaceRead q va.toNat len s)

/-- Offset in the window and plaintext bytes of a host access (17 R472). -/
def hostReach (p va len : Nat) : Nat × Nat := if p = 0 then (va, len) else (va / 4128 * 4096, len / 4128 * 4096)

/-- A length or alignment breach of a tenant window: no multiple of 4,128 (17 R472; log 58). -/
def hostMisfit (p va len : Nat) : Bool := decide (p ≠ 0) && (decide (va % 4128 ≠ 0) || decide (len % 4128 ≠ 0))

/-- The checks of 17 R472 in the order of 16 Table 16-6: a REASON, 0 for none. -/
def hostCheck (s : State) (q rkey va len : Nat) (write : Bool) : Nat :=
  let w := getWin s (bits rkey 5 0)
  let v := getQp s q
  let p := w.part.toNat
  let r := hostReach p va len
  let pages := pagesOf (w.base + r.1) r.2
  if decide (bits rkey 31 12 ≠ 0) || decide (bits rkey 7 6 ≠ 0) || !w.openW then 1
  else if w.closing.isSome || decide ((getPart s p).st ≠ .active) || (s.tick.orphaned && decide (p ≠ 0)) then 9
  else if decide (bits rkey 11 8 ≠ p) || v.owner || decide (v.part.toNat ≠ p) then 3
  else if !w.host || (write && !w.w) || (!write && !w.r) then 4
  else if hostMisfit p va len || decide (w.len < r.1 + r.2) then 5
  else if pages.any (fun pg => pageShut s p pg || (write && roNow s (smapGet GranAttr.reset s.bonded.gran (granOf (pg * pageSize))))) then 6
  else if pages.any (isPoison s) then 7 else 0

/-- An access that fails a check (17 R472); `fit` is false for a length or alignment breach. -/
def hostRefuse (fit : Bool) (q reason : Nat) (s : State) : State :=
  let v := getQp s q
  let s := emitQp q 1 (if reason = 5 && !fit then .nakInvalid q else .nakAccess q) s
  raise 6 q (if v.owner then none else some v.part.toNat) 0x9001 reason (qpError q s)

/-- Open a chunk that arrived on a queue pair; an injection lets its tag fail (20 Table 20-11, DET 7). The first answer says
whether the injection acted. -/
def openOn (p q : Nat) (ch : List Byte) (s : State) : Bool × Option (List Byte) × State :=
  if s.test.arm && decide (s.test.det.toNat = 7) && decide (s.test.unit = unitCode 6 q) then (true, none, injDone s)
  else (false, openChunk s p ch, s)

/-- The first touches of the pages that a host write reaches, before any byte lands: true where one met a parity error or a page that has
become POISON (09 R246, 14 R386). -/
def touchPages (a n : Nat) (s : State) : Bool × State :=
  (pagesOf a n).foldl (fun (x : Bool × State) pg =>
    if x.1 then x
    else
      let t := firstTouch (pg * pageSize) x.2
      let s := if t.1 = 100 then touchHeld (pg * pageSize) t.2 else t.2
      (decide (t.1 = cPARITY) || isPoison s pg, s)) (false, waitHold a n s)

/-- Chunks of a host RDMA WRITE land one by one from address a: 0, or 1 where a tag failed, 2 where a page could not be written
(17 R472, R473). -/
def landChunks (p q : Nat) : Nat → Nat → List Byte → State → Nat × State
  | 0, _, _, s => (0, s)
  | f + 1, a, bs, s =>
    if bs.isEmpty then (0, s)
    else
      let c := bs.take 4128
      let r := openOn p q c s
      match r.2.1 with
      | none => (1, tagFailure r.1 p q (rdN c 0x100C 4) r.2.2)
      | some pt =>
        let w := partWrite p a pt r.2.2
        if w.1 then (2, w.2) else landChunks p q f (a + 4096) (bs.drop 4128) w.2

/-- HOST_RDMA_WRITE (17 R461, R472, R473). -/
def execHostRdmaWrite (qp : BitVec 12) (rkey : W32) (va : W64) (data : List Byte) (s : State) : Res :=
  let q := qp.toNat
  let v := getQp s q
  let w := getWin s (bits rkey.toNat 5 0)
  let p := w.part.toNat
  .next (
    if !qpServes v then s
    else if v.st = .closing then emitQp q 1 (.nakAccess q) s
    else if rkey = 0x10000 then nakError q s
    else
      let r := hostCheck s q rkey.toNat va.toNat data.length true
      let h := hostReach p va.toNat data.length
      let a := w.base + h.1
      if r ≠ 0 then hostRefuse (!hostMisfit p va.toNat data.length) q r (if r = 6 then repairPages a h.2 s else s)
      else
        let t := touchPages a h.2 s
        if t.1 then hostRefuse true q 7 t.2
        else if p = 0 then
          let x := partWrite p a data t.2
          if x.1 then hostRefuse true q 7 x.2 else emitQp q 1 (.ack q) x.2
        else
          let x := landChunks p q (data.length / 4128) a data t.2
          match x.1 with
          | 0 => emitQp q 1 (.ack q) x.2
          | 1 => nakError q x.2
          | _ => hostRefuse true q 7 x.2)

/-- HOST_RDMA_READ (17 R461, R472): plaintext for P0, sealed chunks for others; a partition with no seal key can send none (log 43). -/
def execHostRdmaRead (qp : BitVec 12) (rkey : W32) (va : W64) (len : Nat) (s : State) : Res :=
  let q := qp.toNat
  let v := getQp s q
  let w := getWin s (bits rkey.toNat 5 0)
  let p := w.part.toNat
  .next (
    if !qpServes v then s
    else if v.st = .closing then emitQp q 1 (.nakAccess q) s
    else if rkey = 0x10000 then cspaceRead q va.toNat len s
    else
      let r := hostCheck s q rkey.toNat va.toNat len false
      let h := hostReach p va.toNat len
      if r ≠ 0 then hostRefuse (!hostMisfit p va.toNat len) q r (if r = 6 then repairPages (w.base + h.1) h.2 s else s)
      else
        let x := partRead p (w.base + h.1) h.2 s
        if x.1 then hostRefuse true q 7 x.2.2
        else if p = 0 then emitQp q (framesOf s q len) (.readReply q x.2.1) (debit p 204 len x.2.2)
        else match sealAll p (h.2 / 4096) x.2.1 x.2.2 with
          | none => nakError q x.2.2
          | some (bs, s) => emitQp q (framesOf s q len) (.readReply q bs) (debit p 204 len s))

/-- UNSUPPORTED_RDMA_OP (17 Table 17-1). -/
def execUnsupportedRdmaOp (qp : BitVec 12) (s : State) : Res :=
  .next (if qpServes (getQp s qp.toNat) then emitQp qp.toNat 1 (.nakInvalid qp.toNat) s else s)

/-! ### The J9 as requester (17 R463, R471, R473) -/

/-- The runs (address, length) that a read's data fills, in order. -/
def xferRuns (s : State) (x : Xfer) : List (Nat × Nat) :=
  let runs (d : Desc) : List (Nat × Nat) := (descRuns d.words).map (fun r => (r.2, dLEN d.words))
  match x.owner with
  | .desc n seq sub =>
    match (getCore s n).descs.find? (fun d => decide (d.seq = seq) && decide (d.sub = sub)) with
    | some d => runs d
    | none => []
  | .image d =>
    match (findImage s d.part d.jobid).bind (fun i => i.descs[d.slot]?) with
    | some d => runs d
    | none => []
  | _ => []

/-- Where the bytes at position `pos` of a stream go. -/
def placeRuns : List (Nat × Nat) → Nat → List Byte → List (Nat × List Byte)
  | [], _, _ => []
  | (a, n) :: t, pos, bs =>
    if n ≤ pos then placeRuns t (pos - n) bs
    else
      let k := n - pos
      (a + pos, bs.take k) :: (if bs.length ≤ k then [] else placeRuns t 0 (bs.drop k))

/-- Write whole chunks of a sealed read, from chunk k on: the fault code (0 for none), the bytes left over, the state. -/
def landSealed (x : Xfer) (q : Nat) : Nat → Nat → List Byte → State → Nat × List Byte × State
  | 0, _, bs, s => (0, bs, s)
  | f + 1, k, bs, s =>
    if bs.length < 4128 then (0, bs, s)
    else
      let c := bs.take 4128
      let r := openOn x.part q c s
      match r.2.1 with
      | none => (cREMOTE, [], tagFailure r.1 x.part q (rdN c 0x100C 4) r.2.2)
      | some pt =>
        let w := landBytes x (x.dst + 4096 * k) pt r.2.2
        if w.1 ≠ 0 then (w.1, [], w.2) else landSealed x q f (k + 1) (bs.drop 4128) w.2

/-- Data of a read on a queue pair reaches its transfer: the fault code, the bytes left over, the state. -/
def landRead (x : Xfer) (q : Nat) (bs : List Byte) (s : State) : Nat × List Byte × State :=
  if x.owner = .note then (0, [], s)
  else if x.part = 0 then
    let r := (placeRuns (xferRuns s x) x.acked bs).foldl (fun (r : Nat × State) p =>
      if r.1 ≠ 0 then r else landBytes x p.1 p.2 r.2) (0, s)
    (r.1, [], r.2)
  else landSealed x q (x.total / 4128 + 1) (x.acked / 4128) (x.bytes ++ bs) s

/-- RDMA_READ_RESPONSE: data for the oldest RDMA READ of a queue pair. -/
def execRdmaReadResponse (qp : BitVec 12) (data : List Byte) (s : State) : Res :=
  let q := qp.toNat
  .next (
    if !qpServes (getQp s q) then s
    else match s.xfers.find? (fun x => x.read && decide (x.via = .qp q) && decide (xferOut x ≠ 0)) with
      | none => s
      | some x =>
        let bs := data.take (x.total - (x.todo.map Prod.snd).sum - x.acked)
        let r := landRead x q bs (modQp q (fun v => { v with waitAt := s.clk, retries := 0 }) s)
        let x' := { x with bytes := r.2.1 }
        let s := r.2.2
        if r.1 = 0 then noteOut q (askQp q 8 (progress x' bs.length s))
        else
          -- the rest of the response still arrives and is discarded
          let s := progress (asNote x') bs.length s
          noteOut q (askQp q 8 (xferFail x r.1 s)))

/-- The oldest RDMA WRITE of a queue pair that waits for an acknowledgement. -/
def oldestWrite (s : State) (q : Nat) : Option Xfer := s.xfers.find? (fun x => !x.read && decide (x.via = .qp q) && decide (xferOut x ≠ 0))

/-- ROCE_ACK: the oldest outstanding message is acknowledged (17 R463). -/
def execRoceAck (qp : BitVec 12) (s : State) : Res :=
  let q := qp.toNat
  .next (
    if !qpServes (getQp s q) then s
    else match oldestWrite s q with
      | none => s
      | some x => noteOut q (progress x 1 (modQp q (fun v => { v with waitAt := s.clk, retries := 0 }) s)))

/-- ROCE_NAK: a sequence error is retransmitted while retries are left; any other puts the QP into ERROR (17 R463). -/
def execRoceNak (qp : BitVec 12) (seqErr : Bool) (s : State) : Res :=
  let q := qp.toNat
  .next (
    if !qpServes (getQp s q) then s
    else if seqErr && decide ((getQp s q).retries < s.host.retry.toNat) then
      emitQp q 1 (.resend q) (modQp q (fun v => { v with retries := v.retries + 1, waitAt := s.clk }) s)
    else qpError q s)

/-- The wait for an acknowledgement, in clk (17 R463). -/
def ackWait (s : State) : Nat := 49152 * 2 ^ s.host.ackto.toNat / 10

/-- ROCE_ACK_TIMEOUT: retransmission, or ERROR when the retries are exhausted (17 R463). -/
def execRoceAckTimeout (qp : BitVec 12) (s : State) : Res :=
  let q := qp.toNat
  let v := getQp s q
  .next (
    if !qpServes v || decide (qpOut s q = 0) then s
    else
      let s := passTo (v.waitAt + ackWait s) s
      if v.retries < s.host.retry.toNat then emitQp q 1 (.resend q) (modQp q (fun v => { v with retries := v.retries + 1, waitAt := s.clk }) s)
      else qpError q s)

/-- CNP_RECEIVE: the send rate halves, at most once in 50 us, to no less than 1 GB/s (17 R466). -/
def execCnpReceive (qp : BitVec 12) (s : State) : Res :=
  let q := qp.toNat
  let v := getQp s q
  .next (
    if v.st = .free then s
    else
      let s := modHport v.port (fun p => { p with cnp := p.cnp + 1 }) s
      let recent := match v.cnpAt with
        | some t => decide (s.clk < t + us 50)
        | none => false
      if recent then modQp q (fun v => { v with raiseAt := s.clk }) s
      else modQp q (fun v => { v with rate := max 1000000 (v.rate / 2), cnpAt := some s.clk, raiseAt := s.clk }) s)

/-- CNP_RATE_RAISE: 50 us without a CNP raise the rate by 2.5 GB/s, up to 50 GB/s (17 R466). -/
def execCnpRateRaise (qp : BitVec 12) (s : State) : Res :=
  let q := qp.toNat
  let v := getQp s q
  .next (
    if v.st = .free then s
    else
      let s := passTo (v.raiseAt + us 50) s
      modQp q (fun v => { v with rate := min 50000000 (v.rate + 2500000), raiseAt := s.clk }) s)

/-! ### The owner session (17 R460, R464, 18 R492 to R494) -/

/-- The owner QP that can send. -/
def ownerQp (s : State) : Option Owner :=
  match s.host.owner with
  | some o => if (getQp s o.qp).st = .rts then some o else none
  | none => none

/-- Write to the owner's memory; the acknowledgement ends the transfer of `w`. Nothing happens without a session. -/
def ownerWrite (w : XOwner) (va : Nat) (rkey : W32) (bs : List Byte) (s : State) : State :=
  match ownerQp s with
  | none => s
  | some o =>
    let u := takeUid s
    let s := sendHostWrite o.qp va rkey bs u.2
    { s with xfers := s.xfers ++ [newXfer u.1 w (.qp o.qp) false 0 1 s] }

/-- The configuration lists as CFGDIG takes them (18 Table 18-7). -/
def confBytes (c : Conf) : List Byte :=
  let one (l : List (BitVec 32 × W64)) : List Byte :=
    natLe 8 l.length ++ (l.map (fun e => natLe 8 e.1.toNat ++ natLe 8 e.2.toNat)).flatten
  one c.base ++ one c.serve ++ one c.starch ++ one c.train ++ one c.maint

/-- The window records of a partition in effect, ascending. -/
def winRecords (s : State) (p : Nat) : List Byte :=
  ((List.range 64).map (fun n => let w := getWin s n; if w.openW && decide (w.part.toNat = p) then w.record else [])).flatten

/-- The active firmware slot. -/
def activeSlot (c : Secure) : FwSlot := if c.slot = 0 then c.slotA else c.slotB

/-- Bytes 0x000 to 0x81F of a report (18 Table 18-7): kind 1 for the owner (`part` 0), 2 for a tenant. -/
def reportBody (s : State) (kind part : Nat) (nonce ek : List Byte) : List Byte :=
  let p := getPart s part
  let k := p.keys
  let t := decide (kind = 2)
  let pub := padTo 64 ((Config.slhPublic Config.dik).take 64)
  let only (bs : List Byte) : List Byte := if t then bs else zeros 32
  let ids := (List.range 8).map (fun i => match k.host[i]? with
    | some h => natLe 4 h.keyid.toNat
    | none => zeros 4)
  let sealId := match k.host.find? (fun h => h.sealing) with
    | some h => h.keyid.toNat
    | none => 0
  natLe 4 0x54544153 ++ natLe 2 0x0100 ++ natLe 1 kind ++ natLe 1 part ++ natLe 4 51936 ++ natLe 2 s.secure.svn.toNat
    ++ natLe 2 s.secure.minSvn.toNat ++ natLe 8 s.tick.now.toNat
    ++ natLe 8 (s.secure.chgcnt + if t then p.chgcnt else 0) ++ padTo 32 (nonce.take 32) ++ pub ++ shake256 32 pub
    ++ shake256 32 ((activeSlot s.secure).image.take 4096) ++ natLe 8 s.fuseLo.toNat ++ natLe 8 s.fuseHi.toNat ++ natLe 8 (torusWord s.links)
    ++ natLe 1 0xB1 ++ natLe 1 s.secure.slot.toNat ++ zeros 6 ++ shake256 32 (confBytes s.conf) ++ only (shake256 32 p.record)
    ++ only (shake256 32 (winRecords s part)) ++ only (padTo 32 (k.tenant.take 32))
    ++ (if t then ids.flatten ++ natLe 4 sealId ++ natLe 4 k.flashId.toNat else zeros 40)
    ++ only (if k.progs.isEmpty then zeros 32 else shake256 32 k.progs.flatten) ++ zeros 88
    ++ (if t then padTo 1568 (ek.take 1568) else zeros 1568)

/-- Queue a report for signing: slot 0 is the owner report, k + 1 tenant slot k. -/
def queueReport (slot : Nat) (body : List Byte) (s : State) : State :=
  { s with secure := { s.secure with reports := s.secure.reports ++ [(slot, body)] } }

/-- A valid owner hello (18 Table 18-8). -/
def helloOk (h : List Byte) : Bool :=
  decide (h.length = 64) && decide (rdN h 0 4 = 0x3153484F) && decide (rdN h 4 2 = 0x0100) && decide (rdN h 6 26 = 0)

/-- OWNER_HELLO_POLL: the belfry reads the owner hello, which holds `hello` (18 R494). -/
def execOwnerHelloPoll (hello : List Byte) (s : State) : Res :=
  .next (match ownerQp s with
    | none => s
    | some o =>
      if o.hello || o.rtuAt.isNone then s
      else
        let s := passTo o.pollAt s
        let s := emitQp o.qp 1 (.hostRead o.qp o.hsVa o.hsRkey 64) s
        let s := { s with host := { s.host with owner := some { o with pollAt := s.clk + us 1000, hello := helloOk hello } } }
        if helloOk hello then queueReport 0 (reportBody s 1 0 (rdB hello 32 32) []) s else s)

/-- OWNER_HELLO_TIMEOUT: no valid hello within 1 s of RTU (18 R494). -/
def execOwnerHelloTimeout (s : State) : Res :=
  .next (match ownerQp s with
    | none => s
    | some o =>
      match o.rtuAt with
      | some t => if o.hello then s else qpError o.qp (passTo (t + us 1000000) s)
      | none => s)

/-- The host address offset of a report slot (18 Table 18-8). -/
def reportOff (slot : Nat) : Nat := if slot = 0 then 0x10000 else 0x20000 + 0x10000 * (slot - 1)

/-- The report whose signing ends carries the tick in which it is signed; INSTALL takes RD from it (18 R492, R497). -/
def signedBody (body : List Byte) (s : State) : List Byte := wrB body 0x10 (natLe 8 s.tick.now.toNat)

/-- ATTESTATION_REPORT_SIGNED: the oldest queued report is signed and written (18 R492 to R496). -/
def execAttestationReportSigned (s : State) : Res :=
  .next (match s.secure.reports with
    | [] => s
    | (slot, body) :: rest =>
      let b := signedBody body s
      let s := { s with secure := { s.secure with reports := rest } }
      let p := rdN b 7 1
      let s := if rdN b 6 1 = 2 && decide ((getPart s p).keys.pendRd = shake256 32 body) then
          modPart p (fun v => { v with keys := { v.keys with pendRd := shake256 32 b } }) s else s
      match ownerQp s with
      | none => s
      | some o => ownerWrite (.report slot) (o.hsVa.toNat + reportOff slot) o.hsRkey (b ++ padTo 49856 ((Config.slhSign Config.dik b).take 49856)) s)

/-! ### Events (20 R533, R535, R536) -/

/-- An event record (20 Table 20-6). -/
def eventBytes (r : EvRec) : List Byte :=
  natLe 8 r.seq.toNat ++ natLe 8 r.tick.toNat
    ++ natLe 8 (r.unit.toNat * 2 ^ 32 + b2n r.inj * 2 ^ 21 + b2n r.pv * 2 ^ 20 + r.part.toNat * 2 ^ 16 + r.code.toNat) ++ natLe 8 r.arg.toNat

/-- EVENT_RECORD_WRITE: the queued records go to the host's ring in SEQ order; then one EVT_LOST record tells of those dropped. -/
def execEventRecordWrite (s : State) : Res :=
  .next (match ownerQp s with
    | none => s
    | some o =>
      if !o.done || !belfryRuns s then s
      else
        let q := s.events.queue
        let s := { s with events := { s.events with queue := [] } }
        let s := q.foldl (fun s r => ownerWrite .note (o.evVa.toNat + r.seq.toNat % (o.evLen / 32) * 32) o.evRkey (eventBytes r) s) s
        if s.events.lost = 0 then s
        else
          let n := s.events.lost
          raise 0 0 none 0x0002 n { s with events := { s.events with lost := 0 } })

end Sys2Proof.Machine
end

