-- ==== Sys2Proof/Machine/Plan.lean ====
section
/-! DEFINITION. Plans: the header, the directory, sections and records, the conditions of a valid plan, its fetch and its arrival
(13 R341, R345 to R348). -/

namespace Sys2Proof.Machine

open Sys2Proof

/-! ### Header (13 Table 13-3) -/

/-- LEN. -/
def plLen (b : List Byte) : Nat := rdN b 0x08 4
/-- TICK. -/
def plTick (b : List Byte) : Nat := rdN b 0x10 8
/-- SEQ. -/
def plSeq (b : List Byte) : Nat := rdN b 0x18 8
/-- The timing word. -/
def plTime (b : List Byte) : Nat := rdN b 0x20 8
/-- WRST. -/
def plWrst (b : List Byte) : Bool := bit (plTime b) 57
/-- BELLEN. -/
def plBellen (b : List Byte) : Bool := bit (plTime b) 56
/-- MODE. -/
def plMode (b : List Byte) : Nat := bits (plTime b) 55 54
/-- PLEAD. -/
def plPlead (b : List Byte) : Nat := bits (plTime b) 53 36
/-- CLOSEW. -/
def plClosew (b : List Byte) : Nat := bits (plTime b) 35 20
/-- PERIOD. -/
def plPeriod (b : List Byte) : Nat := bits (plTime b) 17 0
/-- BELL. -/
def plBell (b : List Byte) : Nat := bits (rdN b 0x28 8) 9 0
/-- NDIR. -/
def plNdir (b : List Byte) : Nat := bits (rdN b 0x30 8) 4 0
/-- DIGEST. -/
def plDigest (b : List Byte) : List Byte := rdB b 0x40 32

/-! ### Directory and records (13 R346, Tables 13-4, 13-5) -/

/-- A directory entry. -/
structure DirEnt where
  ty    : Nat
  count : Nat
  off   : Nat
  len   : Nat
  deriving DecidableEq, Repr

/-- The directory. -/
def plDir (b : List Byte) : List DirEnt :=
  (List.range (min 16 (plNdir b))).map (fun i =>
    let w := rdN b (0x80 + 16 * i) 8
    { ty := bits w 15 0, count := bits w 47 16, off := rdN b (0x88 + 16 * i) 4, len := rdN b (0x8C + 16 * i) 4 })

/-- Bytes rounded up to a multiple of 8. -/
def up8 (n : Nat) : Nat := (n + 7) / 8 * 8

/-- The size of the record at the head of bytes of a section. -/
def recSize (ty : Nat) (b : List Byte) : Nat :=
  match ty with
  | 1 => 16 + 16 * rdN b 4 2
  | 2 => 16
  | 3 => 320
  | 4 => max 32 (rdN b 4 4)
  | 5 => 64
  | 6 => 32
  | 7 => 8
  | 8 => 16 + up8 (4 * rdN b 8 4)
  | 9 => 128
  | 10 => 8
  | 11 => 64 + 16 * (bits (rdN b 0 8) 9 0 + 1) + 32 * rdN b 0x1E 2
  | 12 => 64 + up8 (2 * bits (rdN b 0 8) 19 13)
  | _ => 128

/-- The first `n` records of a section; none where they run past it. `f` bounds them. -/
def splitRecs (ty : Nat) : Nat → Nat → List Byte → Option (List (List Byte))
  | _, 0, _ => some []
  | 0, _ + 1, _ => none
  | f + 1, n + 1, b =>
    let k := recSize ty b
    if b.length < k then none else (splitRecs ty f n (b.drop k)).map (fun t => b.take k :: t)

/-- The records of a directory entry. -/
def dirRecs (b : List Byte) (d : DirEnt) : Option (List (List Byte)) :=
  let bs := rdB b d.off d.len
  splitRecs d.ty (bs.length + 1) d.count bs

/-- The records of a section type, none listed where the plan has no such section. -/
def planRecs (b : List Byte) (ty : Nat) : List (List Byte) :=
  match (plDir b).find? (fun d => decide (d.ty = ty)) with
  | some d => (dirRecs b d).getD []
  | none => []

/-- No two sections overlap. -/
def dirApart : List DirEnt → Bool
  | [] => true
  | d :: t => t.all (fun e => decide (e.ty ≠ d.ty) && (decide (d.off + d.len ≤ e.off) || decide (e.off + e.len ≤ d.off))) && dirApart t

/-- NDIR, types and sections meet R346 and R347. -/
def dirOk (b : List Byte) : Bool :=
  let ds := plDir b
  decide (plNdir b ≤ 16) && ds.all (fun d => decide (1 ≤ d.ty) && decide (d.ty ≤ 13) && decide (d.off % 8 = 0) && decide (0x180 ≤ d.off)
    && decide (d.off + d.len ≤ plLen b) && (dirRecs b d).isSome) && dirApart ds

/-- The timing fields meet R341. -/
def timeOk (b : List Byte) : Bool :=
  let p := plPeriod b
  let c := plClosew b
  decide (100 ≤ p) && decide (p ≤ 250000) && decide (20 ≤ c) && decide (c ≤ min (p / 2) 65535) && decide (10 ≤ plPlead b)
    && decide (plPlead b + 10 ≤ p - c)

/-- The digest of a plan (13 R347). -/
def planDigest (b : List Byte) : List Byte := shake256 32 (wrB (b.take (plLen b)) 0x40 (zeros 32))

/-- The case of R347 that a plan of `slot` bytes' room fails, 0 for none; `bad` where an injection spoils its digest. -/
def planCase (s : State) (slot : Nat) (bad : Bool) (b : List Byte) : Nat :=
  if rdN b 0 4 ≠ 0x4E414C50 ∨ rdN b 4 2 ≠ 0x0100 then 1
  else if plLen b < 0x180 ∨ 0x400000 < plLen b ∨ slot < plLen b then 2
  else if plTick b ≠ (s.tick.now.toNat + 1) % 2 ^ 64 then 3
  else if s.tick.anySeq && decide (plSeq b ≤ s.tick.lastSeq.toNat) then 4
  else if !timeOk b then 5
  else if !dirOk b then 6
  else if bad || decide (planDigest b ≠ plDigest b) then 7 else 0

/-! ### Fetch and arrival (13 R345) -/

/-- The fetch point of the tick, counted from its open (13 R340, R344). -/
def fetchPoint (t : Tick) : Nat := t.openAt + us (t.periodUs - t.closewUs - t.pleadUs)

/-- The host address of the plan slot of the next tick. -/
def planAddr (s : State) (o : Owner) : Nat := o.planVa.toNat + (s.tick.now.toNat + 1) % 2 * o.planSlot

/-- PLAN_FETCH: at the fetch point the belfry reads the first 0x180 bytes of the plan slot. -/
def execPlanFetch (s : State) : Res :=
  .next (match ownerQp s with
    | some o =>
      if s.tick.phase ≠ .run || s.tick.next ≠ .none || !o.done then s
      else
        let s := passTo (fetchPoint s.tick) s
        let s := emitQp o.qp 1 (.hostRead o.qp (BitVec.ofNat 64 (planAddr s o)) o.planRkey 0x180) s
        noteOut o.qp { s with tick := { s.tick with next := .fetching } }
    | none => s)

/-- An injection armed for the plan digest (20 Table 20-11, DET 9). -/
def planInj (s : State) : Bool := s.test.arm && decide (s.test.det.toNat = 9)

/-- PLAN_ARRIVAL: the plan slot's bytes have arrived before the deadline and are checked (13 R347). A plan that is still short of
its LEN counts as still arriving. -/
def execPlanArrival (bytes : List Byte) (s : State) : Res :=
  .next (match s.tick.next, ownerQp s with
    | .fetching, some o =>
      if s.tick.phase ≠ .run then s
      else
        let inj := planInj s
        let c := planCase s o.planSlot inj bytes
        let big := decide (0x180 < plLen bytes) && decide (c ≠ 1) && decide (c ≠ 2)
        if big && decide (bytes.length < plLen bytes) then s
        else
          let s := if big then emitQp o.qp 1 (.hostRead o.qp (BitVec.ofNat 64 (planAddr s o + 0x180)) o.planRkey (plLen bytes - 0x180)) s else s
          let s := if inj then injDone s else s
          let t := { s.tick with fetchSeq := BitVec.ofNat 64 (plSeq bytes) }
          let t := if c = 0 then
              { t with next := .valid (bytes.take (plLen bytes))
                       lastSeq := BitVec.ofNat 64 (plSeq bytes), anySeq := true }
            else { t with next := .invalid c (inj && decide (c = 7)) }
          noteOut o.qp { s with tick := t }
    | _, _ => s)

end Sys2Proof.Machine
end

