-- ==== Sys2Proof/Machine/Conf.lean ====
section
/-! DEFINITION. Configuration lists, effective values, and what the writes of a plan do (13 R369 to R376; the RW, W1C and WO fields
of 09, 15 to 20; 19 R507 to R509). -/

namespace Sys2Proof.Machine

open Sys2Proof

/-! ### Lists (13 R369, R370, R374) -/

/-- The overlay list of a MODE. -/
def overlayList (c : Conf) (mode : Nat) : List (BitVec 32 × W64) :=
  match mode with
  | 0 => c.serve
  | 1 => c.starch
  | 2 => c.train
  | _ => c.maint

/-- The last entry for an address. -/
def lastVal (l : List (BitVec 32 × W64)) (a : Nat) : Option Nat := (l.reverse.find? (fun e => decide (e.1.toNat = a))).map (fun e => e.2.toNat)

/-- Some list names the register (13 R375). -/
def confNamed (c : Conf) (a : Nat) : Bool := [c.base, c.serve, c.starch, c.train, c.maint].any (fun l => (lastVal l a).isSome)

/-- The effective value of a register under an overlay (13 R375). -/
def effVal (c : Conf) (mode a : Nat) : Nat :=
  match lastVal (overlayList c mode) a, lastVal c.base a with
  | some v, _ => v
  | none, some v => v
  | none, none => cRead State.reset a

/-- The entries of a CONFIG record (13 R370). -/
def confEntries (r : List Byte) : List (BitVec 32 × W64) :=
  (List.range (rdN r 4 2)).map (fun i => (BitVec.ofNat 32 (rdN r (16 + 16 * i) 4), BitVec.ofNat 64 (rdN r (24 + 16 * i) 8)))

/-- Put a list in its place. -/
def setList (c : Conf) (target : Nat) (l : List (BitVec 32 × W64)) : Conf :=
  match target with
  | 0 => { c with base := l }
  | 1 => { c with serve := l }
  | 2 => { c with starch := l }
  | 3 => { c with train := l }
  | _ => { c with maint := l }

/-- New lists; a change counts in CHGCNT (18 Table 18-7). -/
def putConf (c : Conf) (s : State) : State :=
  if c = s.conf then s else { s with conf := c, secure := { s.secure with chgcnt := s.secure.chgcnt + 1 } }

/-- CONFIG records from index i on. -/
def applyConfigs : Nat → List (List Byte) → State → State
  | _, [], s => s
  | i, r :: t, s =>
    let target := bits (rdN r 0 8) 2 0
    let n := rdN r 4 2
    let s := if 5 ≤ target ∨ (if target = 0 then 2048 else 512) < n then raise 0 0 none 0x1007 i s
             else putConf (setList s.conf target (confEntries r)) s
    applyConfigs (i + 1) t s

/-- WRITES entries from index i on: each updates the base list; those taken are listed. -/
def applyWrites : Nat → List (List Byte) → State → List (BitVec 32 × W64) × State
  | _, [], s => ([], s)
  | i, r :: t, s =>
    let e := (BitVec.ofNat 32 (rdN r 0 4), BitVec.ofNat 64 (rdN r 8 8))
    let b := s.conf.base
    if b.any (fun x => decide (x.1 = e.1)) then
      let q := applyWrites (i + 1) t (putConf { s.conf with base := b.map (fun x => if x.1 = e.1 then e else x) } s)
      (e :: q.1, q.2)
    else if 2048 ≤ b.length then applyWrites (i + 1) t (raise 0 0 none 0x1007 i s)
    else
      let q := applyWrites (i + 1) t (putConf { s.conf with base := b ++ [e] } s)
      (e :: q.1, q.2)

/-! ### Ports -/

/-- The state of a Bakener port that is out of service (16 R449, R453). -/
def portRest (v : BkPort) : PortSt := if !v.en && decide (1 ≤ v.loop.toNat) && decide (v.loop.toNat ≤ 4) then .loop else .disabled

/-- A Bakener port leaves service: one that carries flits drains first (16 R449, 13 R377). -/
def portDisable (p : BPort) (s : State) : State :=
  let v := getPort s p
  if portLive v.st then setPort p { v with drainAt := if v.drainAt.isSome then v.drainAt else some s.clk } s
  else setPort p { v with st := portRest v } s

/-- BKL_CTRLp (16 Table 16-14). -/
def setPortCtrl (p : BPort) (w : Nat) (s : State) : State :=
  let v := getPort s p
  let v := { v with en := bit w 0, loop := BitVec.ofNat 3 (bits w 4 2), farResp := bit w 8, serth := BitVec.ofNat 16 (bits w 39 24) }
  let s := setPort p v s
  if !v.en then portDisable p s else if v.st = .loop then setPort p { v with st := .disabled } s else s

/-- RETRAIN = 1 (16 Table 16-14, R450). -/
def portKick (p : BPort) (s : State) : State :=
  let v := getPort s p
  if v.st = .up then setPort p { v with retrainReq := true } s
  else if v.st = .failed && v.en then setPort p { v with st := .training, since := s.clk } s
  else s

/-- The state of a host port with EN = 0 (17 R475). -/
def hportRest (loop : BitVec 3) : HPortSt := if 1 ≤ loop.toNat ∧ loop.toNat ≤ 3 then .loop else .disabled

/-- HE_PCTLn (17 Table 17-9, R474, R475, R563): EN = 0 closes every QP bound to the port. -/
def setHostCtrl (p : HPort) (w : Nat) (s : State) : State :=
  let v := getHport s p
  let en := bit w 0
  let loop := BitVec.ofNat 3 (bits w 4 2)
  let v' := { v with en := en, loop := loop, pfcen := BitVec.ofNat 8 (bits w 12 5), pcp := BitVec.ofNat 3 (bits w 15 13),
                     vid := BitVec.ofNat 12 (bits w 27 16) }
  if en then
    setHport p (if v.st = .disabled || v.st = .loop || (v.st = .down && decide (loop.toNat = 0 ∨ 4 ≤ loop.toNat)) then { v' with st := .training, since := s.clk } else v') s
  else
    let s := setHport p { v' with st := hportRest loop } s
    s.host.qps.foldl (fun s e => if e.2.port = p then closeQp e.1 s else s) s

/-! ### Power (19 R507 to R509) -/

/-- A quad starts to ramp. -/
def quadRamp (q : Nat) (s : State) : State := modQuad q (fun v => { v with st := .ramp, rampAt := s.clk }) s

/-- A quad may come on. -/
def quadMay (s : State) (q : Nat) : Bool :=
  let v := getQuad s q
  v.st = .off && v.cycleAt.isNone && v.step ≠ .emerg && !s.power.tripped && s.power.quadEn.getLsbD q

/-- The quad's cores hold no job and no edge descriptor that still runs. -/
def quadIdle (s : State) (q : Nat) : Bool := !quadBusy s q && (quadCores q).all (fun n => (getCore s n).job.isNone)

/-- Switch a quad off, now or when its last edge descriptor ends (19 R507). -/
def quadStop (q : Nat) (s : State) : State :=
  let v := getQuad s q
  if v.st = .off || v.st = .failed then s
  else if quadIdle s q then quadOff q s
  else raise 3 q none 0xA001 0 (setQuad q { v with wantOff := true } s)

/-- PWR_QUADEN. -/
def setQuadEn (w : Nat) (s : State) : State :=
  let s := { s with power := { s.power with quadEn := BitVec.ofNat 25 w } }
  (List.range 25).foldl (fun s q =>
    if bit w q then
      let v := getQuad s q
      let s := if v.cycleAt.isNone && v.step ≠ .emerg && !s.power.tripped then modQuad q (fun v => { v with wantOff := false }) s else s
      if quadMay s q then quadRamp q s else s
    else quadStop q s) s

/-- PWR_DOMEN (19 R508): a write that may not switch a domain leaves its bit and raises PWR_REFUSED. -/
def setDomEn (w : Nat) (maint : Bool) (s : State) : State :=
  let links := bit w 0
  let flash := bit w 1
  let s :=
    if links then { s with power := { s.power with links := true, linksSt := if s.power.linksSt = .off && !s.power.tripped then .on else s.power.linksSt } }
    else if allPorts.any (fun p => (getPort s p).en) then raise 10 25 none 0xA002 0 s
    else linksOff { s with power := { s.power with links := false } }
  if flash then { s with power := { s.power with flash := true, flashSt := if s.power.flashSt = .off && !s.power.tripped then .on else s.power.flashSt } }
  else if !maint then raise 10 28 none 0xA002 0 s
  else flashOff { s with power := { s.power with flash := false } }

/-- PWR_QCYCLE (19 R509). -/
def quadCycle (w : Nat) (s : State) : State :=
  let q := bits w 4 0
  let v := getQuad s q
  if !bit w 63 || decide (25 ≤ q) || v.step = .hold || v.step = .emerg || v.st = .held || v.st = .failed then s
  else quadStop q (setQuad q { v with cycleAt := some s.clk } s)

/-! ### Injection and loop-backs (20 R540 to R543) -/

/-- An injection that acts as soon as it is armed where it can: an attribute entry's parity bit (DET 3), a lane's lock (DET 6). -/
def armInj (s : State) : State := allPorts.foldl (fun s p => laneInj p s) (attrInj s)

/-- INJ_CTRL. -/
def setInj (w : Nat) (maint : Bool) (s : State) : State :=
  let arm := bit w 63 && maint
  armInj { s with test := { s.test with
    arm := arm, armAt := s.clk, count := BitVec.ofNat 8 (bits w 55 48), unit := BitVec.ofNat 16 (bits w 47 32)
    done := if arm then 0 else s.test.done, det := BitVec.ofNat 8 w } }

/-- TST_LOOP: under the maintenance overlay a loop-back runs for 1 ms of the tick (20 R540). -/
def setLoop (w : Nat) (maint : Bool) (s : State) : State :=
  let s := { s with test := { s.test with loop := BitVec.ofNat 64 (w % 2 ^ 15 - bits w 7 3 * 8) } }
  let d := bits w 1 0
  let n := bits w 14 8
  if !maint || decide (d = 0) || decide (d = 3) then s
  else if bit w 2 then
    if n < 8 then { s with test := { s.test with loopAt := some s.clk, onfiLoop := some n } } else s
  else if n < 100 then
    modSlice n (fun v => { v with holdAt := some s.clk, looped := true }) { s with test := { s.test with loopAt := some s.clk } }
  else s

/-- TST_LOOP_END: after 1 ms the loop-back ends and its errors are counted (20 R540). -/
def execTstLoopEnd (errors : Nat) (s : State) : Res :=
  .next (match s.test.loopAt with
    | none => s
    | some t =>
      let s := passTo (t + us 1000) s
      let s := (List.range 100).foldl (fun s n =>
        if (getSlice s n).looped then creditHeld n (us 1000) (modSlice n (fun v => { v with looped := false, holdAt := none }) s) else s) s
      let r := ctrPlus s.test.loopErr errors
      ovfEvent r.2 0x00090018 { s with test := { s.test with loopAt := none, onfiLoop := none, loopErr := r.1 } })

/-! ### Registers -/

/-- The module-wide RW registers, in the order they are applied (INJ_ADDR before INJ_CTRL, ports before PWR_DOMEN). -/
def rwRegs : List Nat :=
  [0x00030000] ++ (List.range 4).map (fun p => 0x00030100 + 0x100 * p) ++ [0x00040000] ++ (List.range 16).map (fun n => 0x00040080 + 8 * n)
    ++ ((List.range 4).map (fun n => [0x00040100 + 0x100 * n, 0x00040118 + 0x100 * n, 0x00040120 + 0x100 * n, 0x00040128 + 0x100 * n])).flatten
    ++ (List.range 16).map (fun n => 0x00020100 + 8 * n) ++ [0x00060000, 0x00060008, 0x00080000, 0x00090008, 0x00090000, 0x00090010]
    ++ (List.range 100).map (fun n => 0x01000008 + 0x10000 * n)

/-- The effective value v of the RW register at a takes effect. -/
def applyReg (a v : Nat) (maint : Bool) (s : State) : State :=
  let off := a % 0x10000
  let h := s.host
  match a / 0x10000 with
  | 2 => modPart ((off - 0x100) / 8) (fun p => { p with dig := BitVec.ofNat 64 (v - bits v 62 60 * 2 ^ 60) }) s
  | 3 =>
    if off = 0 then
      let s := { s with links := { s.links with chip := BitVec.ofNat 10 v, xdim := BitVec.ofNat 6 (bits v 21 16), ydim := BitVec.ofNat 6 (bits v 29 24) } }
      if torusOk s then s else allPorts.foldl (fun s p => portDisable p s) s
    else match allPorts[(off - 0x100) / 0x100]? with
      | some p => setPortCtrl p v s
      | none => s
  | 4 =>
    if off = 0 then
      { s with host := { h with dscp := BitVec.ofNat 6 (bits v 31 26), cnpDscp := BitVec.ofNat 6 (bits v 25 20),
                                ackto := BitVec.ofNat 4 (bits v 19 16), retry := BitVec.ofNat 3 (bits v 15 13), ecn := bit v 12 } }
    else if off < 0x100 then { s with host := { h with maxqp := smapSet 0 h.maxqp ((off - 0x80) / 8) (bits v 11 0) } }
    else match allHports[(off - 0x100) / 0x100]? with
      | some p =>
        match off % 0x100 with
        | 0x00 => setHostCtrl p v s
        | 0x18 => modHport p (fun x => { x with ip4 := BitVec.ofNat 32 v }) s
        | 0x20 => modHport p (fun x => { x with ip6 := BitVec.ofNat 128 (v * 2 ^ 64 + x.ip6.toNat % 2 ^ 64) }) s
        | _ => modHport p (fun x => { x with ip6 := BitVec.ofNat 128 (x.ip6.toNat / 2 ^ 64 * 2 ^ 64 + v) }) s
      | none => s
  | 6 => if off = 0 then setQuadEn v s else setDomEn v maint s
  | 8 => { s with test := { s.test with disp := BitVec.ofNat 16 (bits v 63 48), rem := BitVec.ofNat 16 (bits v 47 32),
                                        dma := BitVec.ofNat 16 (bits v 31 16), net := BitVec.ofNat 10 v } }
  | 9 =>
    if off = 0 then setInj v maint s
    else if off = 8 then { s with test := { s.test with injAddr := BitVec.ofNat 64 v } }
    else setLoop v maint s
  | b => modSlice (b - 0x100) (fun x => { x with scrubpm := BitVec.ofNat 8 v }) s

/-- The module-wide registers that some list names take their effective values (13 R375). -/
def applyRegs (mode : Nat) (s : State) : State :=
  rwRegs.foldl (fun s a => if confNamed s.conf a then applyReg a (effVal s.conf mode a) (decide (mode = 3)) s else s) s

/-- The event counters of the host, the links and the rest that a W1C write reaches (20 R526). -/
def clearCtr (a v : Nat) (s : State) : State :=
  let off := a % 0x10000
  let t := s.tick
  match a with
  | 0x00010020 => { s with tick := { t with idle := ctrWrite t.idle v } }
  | 0x00010028 => { s with tick := { t with overrun := ctrWrite t.overrun v } }
  | 0x00010030 => { s with tick := { t with late := ctrWrite t.late v } }
  | 0x00030008 => { s with links := { s.links with refused := ctrWrite s.links.refused v } }
  | 0x00040010 => { s with host := { s.host with tagFail := ctrWrite s.host.tagFail v } }
  | 0x00070008 => { s with events := { s.events with dropped := ctrWrite s.events.dropped v } }
  | 0x00070010 => { s with events := { s.events with suppressed := ctrWrite s.events.suppressed v } }
  | 0x00080008 => { s with test := { s.test with wdcnt := ctrWrite s.test.wdcnt v } }
  | 0x00090018 => { s with test := { s.test with loopErr := ctrWrite s.test.loopErr v } }
  | _ =>
    if a / 0x10000 = 3 ∧ 0x100 ≤ off ∧ off < 0x500 then
      match allPorts[(off - 0x100) / 0x100]? with
      | some p =>
        match off % 0x100 with
        | 0x18 => modPort p (fun x => { x with crcerr := ctrWrite x.crcerr v }) s
        | 0x20 => modPort p (fun x => { x with retry := ctrWrite x.retry v }) s
        | 0x28 => modPort p (fun x => { x with fecunc := ctrWrite x.fecunc v }) s
        | 0x48 => modPort p (fun x => { x with loopErr := ctrWrite x.loopErr v }) s
        | _ => s
      | none => s
    else if a / 0x10000 = 4 ∧ 0x100 ≤ off ∧ off < 0x500 then
      match allHports[(off - 0x100) / 0x100]? with
      | some p =>
        match off % 0x100 with
        | 0x40 => modHport p (fun x => { x with drop := ctrWrite x.drop v }) s
        | 0x48 => modHport p (fun x => { x with icrc := ctrWrite x.icrc v }) s
        | 0x50 => modHport p (fun x => { x with fecunc := ctrWrite x.fecunc v }) s
        | _ => s
      | none => s
    else if 0x100 ≤ a / 0x10000 ∧ a / 0x10000 < 0x164 ∧ off = 0x10 then
      modSlice (a / 0x10000 - 0x100) (fun x => { x with perr := ctrWrite x.perr v }) s
    else s

/-- SEC_FWUPD (18 R490): only under the maintenance overlay. -/
def fwWrite (v : Nat) (maint : Bool) (s : State) : State :=
  let src := bits v 47 0
  if !maint then raise 0 0 none 0x0005 src s
  else
    let c := s.secure
    let c := if bit v 63 then { c with minSvn := if c.minSvn.toNat < c.svn.toNat then c.svn else c.minSvn } else c
    { s with secure := if src = 0 then c else { c with update := some src } }

/-- What a written value clears: W1C fields (log 38). -/
def clearOnce (e : Nat × Nat) (s : State) : State :=
  if e.1 = 0x00060018 then (if bit e.2 63 then { s with power := { s.power with trip := false } } else s) else clearCtr e.1 e.2 s

/-- What a written value does once at step 1: WO fields (log 38). -/
def applyOnce (maint : Bool) (e : Nat × Nat) (s : State) : State :=
  let a := e.1
  let v := e.2
  let off := a % 0x10000
  if a = 0x00040008 then closeQp (bits v 11 0) s
  else if a = 0x00050008 then fwWrite v maint s
  else if a = 0x00060010 then quadCycle v s
  else if a / 0x10000 = 3 ∧ off % 0x100 = 0 ∧ 0x100 ≤ off ∧ off < 0x500 then
    match allPorts[(off - 0x100) / 0x100]? with
    | some p => if bit v 1 then portKick p s else s
    | none => s
  else s

/-- The entries whose values act once: of several for one register the last (00 R16). -/
def lastEntries : List (BitVec 32 × W64) → List (Nat × Nat)
  | [] => []
  | e :: t => if t.any (fun x => decide (x.1 = e.1)) then lastEntries t else (e.1.toNat, e.2.toNat) :: lastEntries t

/-- P1 to P15 that are not FREE (13 R376). -/
def busyParts (s : State) : Nat :=
  ((List.range 16).map (fun n => if n ≠ 0 ∧ (getPart s n).st ≠ .free then 2 ^ n else 0)).sum

/-- The section CONFIG lies before WRITES in the plan, or one of them is absent (00 R16). -/
def confFirst (b : List Byte) : Bool :=
  match (plDir b).find? (fun d => decide (d.ty = 1)), (plDir b).find? (fun d => decide (d.ty = 2)) with
  | some c, some w => decide (c.off ≤ w.off)
  | _, _ => true

/-- The lists after the CONFIG and WRITES sections, each in byte order and the one that lies first in the plan first (13 R374, 00 R16);
the WRITES entries taken are listed. -/
def openLists (b : List Byte) (s : State) : List (BitVec 32 × W64) × State :=
  if confFirst b then applyWrites 0 (planRecs b 2) (applyConfigs 0 (planRecs b 1) s)
  else let w := applyWrites 0 (planRecs b 2) s; (w.1, applyConfigs 0 (planRecs b 1) w.2)

/-- The entries for the overlay `mode` that the plan's CONFIG records install, and its WRITES entries, in the plan's byte order. -/
def openEntries (b : List Byte) (mode : Nat) (w : List (BitVec 32 × W64)) : List (BitVec 32 × W64) :=
  let own := ((planRecs b 1).filter (fun r => let t := bits (rdN r 0 8) 2 0
    (decide (t = 0) || decide (t = mode + 1)) && decide (rdN r 4 2 ≤ (if t = 0 then 2048 else 512)))).map confEntries
  if confFirst b then own.flatten ++ w else w ++ own.flatten

/-- What the plan's writes clear, at the end of the open (00 R16). -/
def openClears (es : List (Nat × Nat)) (s : State) : State :=
  es.foldl (fun s e => clearOnce e s) s

/-- Open step 1 (13 R342, R374 to R376): lists, overlay, effective values, writes that act once; the entries that act once are
answered too. -/
def openConfig (b : List Byte) (s : State) : List (Nat × Nat) × State :=
  let w := openLists b s
  let s := w.2
  let want := plMode b
  let maintOk := decide (busyParts s = 0)
  let mode := if want = 3 ∧ ¬ maintOk then 0 else want
  let s := if want = 3 ∧ ¬ maintOk then raise 0 0 none 0x1008 (busyParts s) s else s
  let s := { s with tick := { s.tick with mode := BitVec.ofNat 2 mode } }
  let s := if mode = 3 then s else { s with test := { s.test with arm := false } }
  let s := applyRegs mode s
  let es := lastEntries (openEntries b mode w.1)
  (es, es.foldl (fun s e => applyOnce (decide (mode = 3)) e s) s)

/-- SPAD_ARB of a core at open step 7 (13 R375, 15 R406). -/
def coreArb (s : State) (n : Nat) (mode : Nat) (starch : Bool) : BitVec 1 :=
  if starch then 1 else BitVec.ofNat 1 (effVal s.conf mode (0x00800000 + 0x10000 * n))

end Sys2Proof.Machine
end

