-- ==== Sys2Proof/Machine/Control.lean ====
section
/-! DEFINITION. Branches, sync and routing hand-off (04 R112 to R116, R130, R131). Each meaning issues its word on its core (Machine/Issue.lean). -/

namespace Sys2Proof.Machine

open Sys2Proof

/-- `br_cond` (R112): Branches by OFFSET when COND holds on s- or m-register operands. -/
def execBrCond (core : Nat) (h : Head) (o : FmtB) (s : State) : Res := issue core .brCond (wordB .brCond h o) 0 s

/-- `call` (R112): Writes the return address to sRA and jumps to the target. -/
def execCall (core : Nat) (h : Head) (o : FmtB) (s : State) : Res := issue core .call (wordB .call h o) 0 s

/-- `jr` (R112): Jumps to the address in sRA. -/
def execJr (core : Nat) (h : Head) (o : FmtB) (s : State) : Res := issue core .jr (wordB .jr h o) 0 s

/-- `bdnz` (R112): Decrements sRA and branches while the result is nonzero. -/
def execBdnz (core : Nat) (h : Head) (o : FmtB) (s : State) : Res := issue core .bdnz (wordB .bdnz h o) 0 s

/-- `ssig_add` (R113): After all earlier accesses complete, adds sSV to a semaphore of a core of the same partition. -/
def execSsigAdd (core : Nat) (h : Head) (o : FmtY) (s : State) : Res := issue core .ssigAdd (wordY .ssigAdd h o) 0 s

/-- `ssig_set` (R113): After all earlier accesses complete, sets a semaphore of a core of the same partition. -/
def execSsigSet (core : Nat) (h : Head) (o : FmtY) (s : State) : Res := issue core .ssigSet (wordY .ssigSet h o) 0 s

/-- `swait` (R113): Holds issue until a semaphore of the issuing core meets its condition. -/
def execSwait (core : Nat) (h : Head) (o : FmtY) (s : State) : Res := issue core .swait (wordY .swait h o) 0 s

/-- `lfence` (R113): Holds issue until every earlier remote and host write is acknowledged. -/
def execLfence (core : Nat) (h : Head) (o : FmtY) (s : State) : Res := issue core .lfence (wordY .lfence h o) 0 s

/-- `halt` (R99): Ends the job once earlier instructions have issued; remaining operations drain. -/
def execHalt (core : Nat) (h : Head) (o : FmtY) (s : State) : Res := issue core .halt (wordY .halt h o) 0 s

/-- `strap` (R113): Raises TRAP with a 16-bit trap code and ends the job FAULTED. -/
def execStrap (core : Nat) (h : Head) (o : FmtY) (s : State) : Res := issue core .strap (wordY .strap h o) 0 s

/-- `rdisp` (R317): Hands a dispatch request to the belfry, signalling a semaphore when it has landed. -/
def execRdisp (core : Nat) (h : Head) (o : FmtY) (s : State) : Res := issue core .rdisp (wordY .rdisp h o) 0 s

/-- `rcomb` (R332): Hands a combine request (collect or outputs ready) to the belfry. -/
def execRcomb (core : Nat) (h : Head) (o : FmtY) (s : State) : Res := issue core .rcomb (wordY .rcomb h o) 0 s

end Sys2Proof.Machine
end

