-- ==== Sys2Proof/Machine/Part.lean ====
section
/-! DEFINITION. Partition records, window records, ring records, and the drains of disabled functions (11 R302, 13 R356, R357,
R364 to R366, R371, R377 to R380, 16 R442, R443, 17 R474, 18 R504, 19 R513). -/

namespace Sys2Proof.Machine

open Sys2Proof

/-! ### Partition records (13 Table 13-11, R365) -/

/-- PART. -/
def prPart (r : List Byte) : Nat := bits (rdN r 0 8) 3 0
/-- ACTION. -/
def prAction (r : List Byte) : Nat := bits (rdN r 0 8) 7 4
/-- MODE. -/
def prMode (r : List Byte) : Nat := bits (rdN r 0 8) 9 8
/-- FOLD. -/
def prFold (r : List Byte) : Bool := bit (rdN r 0 8) 10
/-- LOAD. -/
def prLoad (r : List Byte) : Bool := bit (rdN r 0 8) 11
/-- NEXT. -/
def prNext (r : List Byte) : Nat := bits (rdN r 0 8) 21 16
/-- The extents listed: first granule and count. -/
def prExts (r : List Byte) : List (Nat × Nat) :=
  (List.range (min 32 (prNext r))).map (fun i => let w := rdN r (0x40 + 8 * i) 8; (bits w 16 0, bits w 48 32))
/-- The shares. -/
def prShares (r : List Byte) : Shares :=
  let a := rdN r 8 8
  let b := rdN r 0x10 8
  { bm := bits a 10 0, noc := bits a 26 16, host := bits a 42 32, pn := bits b 10 0, pe := bits b 26 16, ps := bits b 42 32, pw := bits b 58 48 }

/-- Two extents overlap. -/
def extHit (a b : Nat × Nat) : Bool := decide (a.1 < b.1 + b.2) && decide (b.1 < a.1 + a.2)
/-- Two extents of a list overlap. -/
def extsClash : List (Nat × Nat) → Bool
  | [] => false
  | e :: t => t.any (extHit e) || extsClash t

/-- Granules that are released and not yet scrubbed. -/
def scrubbing (s : State) : List Nat := ((List.range 16).map (fun n => let p := getPart s n; p.scrub ++ p.release.map Prod.fst)).flatten

/-- The shares as a list. -/
def shareList (v : Shares) : List Nat := [v.bm, v.noc, v.host, v.pn, v.pe, v.ps, v.pw]

/-- For some resource the shares of all partitions would sum above 1,003. -/
def sharesOver (s : State) (p : Nat) (v : Shares) : Bool :=
  let all := (List.range 16).map (fun n => shareList (if n = p then v else (getPart s n).shares))
  (List.range 7).any (fun k => decide (1003 < (all.map (fun l => l.getD k 0)).sum))

/-- The case of R365 that refuses a partition record, 0 for none. -/
def partCase (s : State) (r : List Byte) : Nat :=
  let p := prPart r
  let st := (getPart s p).st
  let es := prExts r
  if st = .teardown ∨ st = .scrub then 1
  else if 1 < prAction r ∨ (prAction r = 1 ∧ (p = 0 ∨ st = .free)) then 2
  else if prAction r = 1 then 0
  else if prMode r = 3 ∨ (prLoad r ∧ p ≠ 0) then 3
  else if 32 < prNext r ∨ es.any (fun e => decide (e.2 = 0) || decide (98304 < e.1 + e.2)) ∨ extsClash es then 4
  else if es.any (fun e => (List.range 16).any (fun n => decide (n ≠ p) && (getPart s n).exts.any (extHit e))
      || (scrubbing s).any (fun g => decide (e.1 ≤ g) && decide (g < e.1 + e.2))) then 5
  else if sharesOver s p (prShares r) then 6
  else if es ≠ [] ∧ (prShares r).bm < 16 then 7
  else 0

/-- The granules of extents. -/
def extGrans (es : List (Nat × Nat)) : List Nat := (es.map (fun e => (List.range e.2).map (fun i => e.1 + i))).flatten

/-- Granules lose their attributes (13 R378, R380). -/
def unassign (gs : List Nat) (s : State) : State :=
  let b := s.bonded
  { s with bonded := { b with gran := b.gran.filter (fun e => !gs.contains e.1), wp := b.wp.filter (fun e => !gs.contains (e.1 / 512)) } }

/-- A partition with FOLD = 0 has no fold, no log and no WP pages (14 R382); its refill map, flash ranges and stores stay. -/
def dropFold (p : Nat) (s : State) : State :=
  let b := s.bonded
  let s := { s with bonded := { b with wp := b.wp.filter (fun e => decide (tagOf s (e.1 * pageSize) ≠ p)) } }
  modFold p (fun f => { Fold.reset with refill := f.refill, flash := f.flash, stores := f.stores, storeDone := f.storeDone,
                                        storeFail := f.storeFail }) s

/-- Assign or update (13 R366). -/
def assignPart (r : List Byte) (s : State) : State :=
  let p := prPart r
  let v := getPart s p
  let es := prExts r
  let gone := (extGrans v.exts).filter (fun g => !inExts es g)
  let come := (extGrans es).filter (fun g => !inExts v.exts g)
  let s := setShares p (prShares r) (unassign gone s)
  let s := if v.fold && !prFold r then dropFold p s else s
  modPart p (fun x => { x with
    st := .active
    mode := BitVec.ofNat 2 (prMode r)
    fold := prFold r
    load := prLoad r
    exts := es
    pend := x.pend.filter (fun g => inExts es g) ++ come
    release := x.release ++ gone.map (fun g => (g, s.clk))
    record := r
    chgcnt := x.chgcnt + b2n (decide (r ≠ x.record)) }) s

/-- Tear down (13 R380): windows, queue pairs and rings close, sequences leave, saved images and fold state go (14 R388), then the
drain runs. -/
def tearPart (p : Nat) (s : State) : State :=
  let s := modFold p (fun _ => Fold.reset) (dropFold p s)
  let s := modPart p (fun x => { x with st := .teardown, drainAt := some s.clk, chgcnt := x.chgcnt + 1 }) s
  let s := s.windows.foldl (fun s e =>
    if e.2.openW && decide (e.2.part.toNat = p) && e.2.closing.isNone then setWin e.1 { e.2 with closing := some s.clk } s else s) s
  let s := s.host.qps.foldl (fun s e => if !e.2.owner && decide (e.2.part.toNat = p) then closeQp e.1 s else s) s
  { s with rings := s.rings.filter (fun r => r.part ≠ p), seqs := s.seqs.filter (fun q => q.part ≠ p),
           images := s.images.filter (fun i => i.part ≠ p), digReqs := s.digReqs.filter (fun d => d.part ≠ p),
           tierMem := s.tierMem.filter (fun m => m.part ≠ p) }

/-- One partition record (13 R364, R365). -/
def applyPart (s : State) (r : List Byte) : State :=
  let c := partCase s r
  if c ≠ 0 then raise 0 0 (some (prPart r)) 0x2001 c s
  else if prAction r = 1 then tearPart (prPart r) s
  else assignPart r s

/-- Partitions whose last granule has been scrubbed become FREE and release their shares (13 R380); counts of the tick stay. -/
def freeParts (s : State) : State :=
  (List.range 16).foldl (fun s n =>
    let p := getPart s n
    if p.st = .scrub && p.scrub.isEmpty && p.release.isEmpty then
      setPart n { Part.reset with chgcnt := p.chgcnt, dig := p.dig, overrun := p.overrun, aborted := p.aborted, tabort := p.tabort, keys := p.keys }
        (setShares n Shares.reset s)
    else s) s

/-! ### Window records (16 Table 16-5, R443) -/

/-- The record is refused. A close is not checked on BASE, LEN and NSRC (log 45). -/
def winRefused (s : State) (r : List Byte) : Bool :=
  let h := rdN r 0 8
  let p := bits h 11 8
  let w := getWin s (bits h 5 0)
  let base := rdN r 8 8
  let len := rdN r 0x10 8
  (getPart s p).st ≠ .active || (w.openW && (decide (w.part.toNat ≠ p) || w.closing.isSome))
    || (if bit h 12 then !w.openW
        else decide (base % 4096 ≠ 0) || decide (len = 0) || decide (len % 4096 ≠ 0) || decide (2 ^ 48 ≤ base)
          || !rangeIn (getPart s p).exts base len || decide (8 < bits h 23 20) || (decide (bits h 23 20 = 0) && !bit h 19))

/-- One window record (16 R442, R443). -/
def applyWin (s : State) (r : List Byte) : State :=
  let h := rdN r 0 8
  let n := bits h 5 0
  let p := bits h 11 8
  let w := getWin s n
  let count (s : State) : State := modPart p (fun x => { x with chgcnt := x.chgcnt + 1 }) s
  if winRefused s r then raise 7 n (some p) 0x8005 0 s
  else if bit h 12 then count (setWin n { w with closing := some s.clk } s)
  else
    let v : Window := { openW := true, closing := none, part := BitVec.ofNat 4 p, r := bit h 15, w := bit h 16, a := bit h 17, host := bit h 18,
                        any := bit h 19, base := rdN r 8 8, len := rdN r 0x10 8,
                        src := (List.range (bits h 23 20)).map (fun i => rdN r (0x18 + 2 * i) 2 % 1024), record := r, evented := w.evented }
    if w.openW && decide (w.record = r) then s else count (setWin n v s)

/-! ### Ring records (13 R357, 11 R302) -/

/-- Two chips are next to each other in one dimension of the torus: true for x. -/
def ringStep (s : State) (a b : Nat) : Option Bool :=
  let xd := s.links.xdim.toNat
  let yd := s.links.ydim.toNat
  let near (d u v : Nat) : Bool := decide (u ≠ v) && (decide ((u + 1) % d = v) || decide ((v + 1) % d = u))
  if chipY a = chipY b && near xd (chipX a) (chipX b) then some true
  else if chipX a = chipX b && near yd (chipY a) (chipY b) then some false
  else none

/-- The members form one full line, or two adjacent full lines joined at both ends, in ring order (11 R302). -/
def ringForm (s : State) (ms : List Nat) : Bool :=
  let steps := (ms.zip (ms.drop 1 ++ ms.take 1)).map (fun x => ringStep s x.1 x.2)
  let n := ms.length
  let form (x : Bool) : Bool :=
    let dim := if x then s.links.xdim.toNat else s.links.ydim.toNat
    let cross := (steps.filter (fun q => decide (q = some (!x)))).length
    (decide (n = dim) && decide (cross = 0)) || (decide (n = 2 * dim) && decide (cross = 2))
  decide (2 ≤ n) && decide (n ≤ 64) && torusOk s && ms.all (inTorus s) && decide ms.Nodup && steps.all Option.isSome && (form true || form false)

/-- The case of R357 that disables a ring, 0 for none. A buffer must lie in the window with BLEN bytes (log 46). -/
def ringCase (s : State) (r : List Byte) : Nat :=
  let h := rdN r 0 8
  let p := bits h 3 0
  let n := bits h 19 13
  let self := bits h 25 20
  let w := getWin s (bits h 57 52)
  let blen := rdN r 0x20 8
  let ms := (List.range n).map (fun i => rdN r (0x40 + 2 * i) 2 % 1024)
  let m (i : Nat) : Nat := ms.getD (i % n) 0
  if !w.openW || w.closing.isSome || decide (w.part.toNat ≠ p) || decide (w.len < rdN r 8 6 + blen) || decide (w.len < rdN r 0x10 6 + blen) then 1
  else if n ≤ self ∨ m self ≠ chipNo s then 2
  else if bits h 41 32 ≠ m (self + 1) ∨ bits h 51 42 ≠ m (self + n - 1) then 3
  else if !ringForm s ms then 4 else 0

/-- One ring record. -/
def applyRing (s : State) (r : List Byte) : State :=
  let h := rdN r 0 8
  let c := ringCase s r
  let g : Ring := { ring := bits h 7 4, part := bits h 3 0, bytes := r, off := decide (c ≠ 0) }
  let s := { s with rings := s.rings ++ [g] }
  if c = 0 then s else raise 12 (bits h 7 4) (some (bits h 3 0)) 0x2005 c s

/-- The ring record that a job gets (13 R356): of several with one identifier the last counts; 64 zero bytes where there is none or
it is disabled. -/
def ringBytes (s : State) (ring : Nat) : List Byte :=
  match s.rings.reverse.find? (fun g => decide (g.ring = ring)) with
  | some g => if g.off then zeros 64 else g.bytes
  | none => zeros 64

/-! ### Drains (13 R377 to R379) -/

/-- A read still lands in granules of partition p that are being released. -/
def landsIn (s : State) (p : Nat) (gs : List Nat) (x : Xfer) : Bool :=
  x.read && decide (x.part = p)
    && (if (xferRuns s x).isEmpty then [(x.dst, x.len)] else xferRuns s x).any (fun r =>
      decide (r.2 ≠ 0) && gs.any (fun g => decide (granOf r.1 ≤ g) && decide (g ≤ granOf (r.1 + r.2 - 1))))

/-- A transfer of the belfry's own, which no partition issued: records and reports to the owner, logs, refills (13 R379). -/
def ownWork (x : Xfer) : Bool :=
  match x.owner with
  | .status _ => true
  | .note => match x.via with
    | .qp _ => true
    | .link _ => false
  | .report _ => true
  | .refill _ => true
  | _ => false

/-- Operations are aborted: each fails REMOTE and counts for the partition that issued it (13 R379). -/
def abortXfers (kind idx : Nat) (part : Option Nat) (p : Xfer → Bool) (s : State) : State :=
  let xs := s.xfers.filter p
  let s := xs.foldl (fun s x =>
    let s := endFail x cREMOTE s
    if ownWork x then s else modPart x.part (fun v => { v with aborted := v.aborted + 1 }) s) s
  if xs.isEmpty then s else raise kind idx part 0x2007 xs.length s

/-- Accesses from other modules that wait are aborted: each is refused ABORTED to its source and counts for the partition that issued
it (13 R379, 16 Table 16-6). -/
def abortHeld (kind idx : Nat) (part : Option Nat) (p : HeldTxn → Bool) (s : State) : State :=
  let hs := s.links.held.filter p
  let s := { s with links := { s.links with held := s.links.held.filter (fun h => !p h) } }
  let s := hs.foldl (fun s h => sendRefuse h.txn 10 (freeBuf h.inbuf (modPart h.part (fun v => { v with aborted := v.aborted + 1 }) s))) s
  if hs.isEmpty then s else pump (raise kind idx part 0x2007 hs.length s)

/-- Requests of other modules that still wait for a port are aborted, one for each TAG of a source. -/
def abortForeign (p : BPort) (s : State) : State :=
  let v := getPort s p
  let fs := ((v.replay.map Prod.snd ++ v.txq).filter (fun f => decide (f.txn.opc.toNat < 3) && decide (f.txn.src.toNat ≠ chipNo s))).map
    (fun f => (f.txn.spart.toNat, f.txn.src.toNat, f.txn.tag.toNat))
  let ids := fs.foldl (fun l k => if l.contains k then l else l ++ [k]) []
  let s := ids.foldl (fun s k => modPart k.1 (fun v => { v with aborted := v.aborted + 1 }) s) s
  if ids.isEmpty then s else raise 4 (portNo p) none 0x2007 ids.length s

/-- A window's drain ends: it is closed, and what still waits for it is aborted. -/
def drainWin (n : Nat) (s : State) : State :=
  let w := getWin s n
  let s := abortHeld 7 n (some w.part.toNat) (fun h => decide (txnWin h.txn = n)) s
  setWin n { Window.reset with evented := w.evented } s

/-- The drain of a queue pair ends: it becomes FREE (17 R474). -/
def drainQp (q : Nat) (s : State) : State :=
  let v := getQp s q
  let s := abortXfers 6 q (if v.owner then none else some v.part.toNat) (fun x => decide (x.via = .qp q)) s
  freeQp q s

/-- The drain of a torn-down partition ends: keys are destroyed, every extent is released to the scrub (13 R380, 18 R504). -/
def drainPart (p : Nat) (s : State) : State :=
  let s := s.host.qps.foldl (fun s e => if !e.2.owner && decide (e.2.part.toNat = p) && decide (e.2.st = .closing) then drainQp e.1 s else s) s
  let s := abortXfers 0 0 (some p) (fun x => decide (x.part = p)) s
  let s := s.windows.foldl (fun s e => if decide (e.2.part.toNat = p) && e.2.closing.isSome then drainWin e.1 s else s) s
  let gs := extGrans (getPart s p).exts
  let s := dropFold p (unassign gs s)
  modPart p (fun v => { v with st := .scrub, drainAt := none, exts := [], pend := [], scrub := v.scrub ++ gs, keys := Keys.reset, foldSt := Fold.reset, record := [] }) s

/-- A drain may end only after 200 us. -/
def drained (t : Nat) (s : State) : State := passTo (t + us 200) s

/-- The released granules whose drain began first. -/
def firstRelease (p : Part) : Option (Nat × List Nat) :=
  match p.release with
  | [] => none
  | e :: t => let t0 := t.foldl (fun m x => min m x.2) e.2
              some (t0, (p.release.filter (fun x => decide (x.2 = t0))).map Prod.fst)

/-- A descriptor whose accesses here have not finished (20 Table 20-4, DMA descriptor). -/
def unmoved (d : Desc) : Bool :=
  match d.st with
  | .await => false
  | .complete => false
  | _ => true

/-- The bound of a drain has passed (13 Table 13-2, 19 R513): the descriptors of core n that still make accesses here, and those that wait for
a place, fail with TIMEOUT. One that only awaits its acknowledgements keeps its own limit (log 98). -/
def expireCore (s : State) (n : Nat) : State :=
  let c := getCore s n
  match c.job with
  | none => s
  | some j =>
    if j.st = .saved then s
    else
      let s := (c.descs.filter unmoved).foldl (fun s d => failDesc n d cTIMEOUT s) s
      let s := c.dq.foldl (fun s q => takeFault n q.op.seq cTIMEOUT 0 q.op.pc s) s
      let s := modCore n (fun c => { c with dq := [] }) s
      modCore n (fun x => c.dq.foldl (fun x q => releaseSeq q.op.seq x) x) s

/-- DRAIN_EXPIRY: 200 us after the disable, whatever remains is aborted (13 R379). -/
def execDrainExpiry (target : DrainTarget) (s : State) : Res :=
  .next (tripOff (match target with
    | .teardown p =>
      match (getPart s p.toNat).drainAt with
      | some t => settleQuads (drainPart p.toNat (drained t s))
      | none => s
    | .release p =>
      let n := p.toNat
      match firstRelease (getPart s n) with
      | some (t, gs) =>
        let s := abortXfers 0 0 (some n) (landsIn s n gs) (drained t s)
        let s := abortHeld 0 0 (some n) (fun h => decide (h.part = n) && (pagesOf h.addr (reach h.txn)).any (fun pg => gs.contains (granOf (pg * pageSize)))) s
        modPart n (fun v => { v with release := v.release.filter (fun x => x.2 ≠ t), scrub := v.scrub ++ gs }) s
      | none => s
    | .window w =>
      match (getWin s w.toNat).closing with
      | some t => drainWin w.toNat (drained t s)
      | none => s
    | .qp q =>
      match (getQp s q.toNat).closeAt with
      | some t => drainQp q.toNat (drained t s)
      | none => s
    | .port p =>
      match (getPort s p).drainAt with
      | some t =>
        let s := abortXfers 4 (portNo p) none (fun x => match x.via with
          | .link c => decide (routePort s c = some p)
          | .qp _ => false) (drained t s)
        modPort p (fun v => { v with drainAt := none }) (dropPort 10 p (portRest (getPort s p)) (abortForeign p s))
      | none => s
    | .quad q =>
      let v := getQuad s q
      if v.wantOff && (decide (v.step = .emerg) || s.power.tripped) then
        let s := drained v.rampAt s
        -- Table 20-8 names no quad for DRAIN_ABORT: the module stands for it
        let s := abortXfers 0 0 none (fun x => match x.owner with
          | .desc n _ _ => decide (quadOf n = q)
          | .image d => decide (quadOf d.core = q)
          | _ => false) s
        settleQuads ((quadCores q).foldl expireCore s)
      else s))

end Sys2Proof.Machine
end

