-- ==== Sys2Proof/Machine/Keys.lean ====
section
/-! DEFINITION. Tenant keys: KEYS records, bundles, expiry of a pending key, and the program check (18 R486, R495 to R501). -/

namespace Sys2Proof.Machine

open Sys2Proof

/-- Change the keys of a partition. -/
def modKeys (p : Nat) (f : Keys → Keys) (s : State) : State := modPart p (fun v => { v with keys := f v.keys }) s

/-- KEY_REFUSED. -/
def keyRefused (p kind : Nat) (s : State) : State := raise 0 0 (some p) 0x9003 kind s

/-! ### Bundles (18 R498, R499) -/

/-- A key entry of a bundle. -/
structure KeyEnt where
  keyid    : Nat
  flash    : Bool
  isSeal   : Bool
  ok       : Bool
  material : List Byte
  deriving DecidableEq, Repr

/-- The entry in 80 bytes; `ok` where its fields are as R498 gives (log 47). -/
def keyEnt (b : List Byte) : KeyEnt :=
  let ty := rdN b 4 1
  let m := rdB b 0x10 64
  { keyid := rdN b 0 4, flash := decide (ty = 2), isSeal := bit (rdN b 5 1) 0,
    ok := decide (rdN b 0 4 ≠ 0) && ((decide (ty = 1) && decide (m.drop 32 = zeros 32)) || (decide (ty = 2) && decide (m.take 32 ≠ m.drop 32))),
    material := if ty = 2 then m else m.take 32 }

/-- The entries of a bundle. -/
def bundleKeys (b : List Byte) : List KeyEnt := (List.range (rdN b 0x20 1)).map (fun i => keyEnt (rdB b (64 + 80 * i) 80))
/-- The program digests of a bundle. -/
def bundleProgs (b : List Byte) : List (List Byte) :=
  (List.range (rdN b 0x21 1)).map (fun i => rdB b (64 + 80 * rdN b 0x20 1 + 32 * i) 32)
/-- The counts and the length of a bundle agree (R498). -/
def bundleShaped (b : List Byte) : Bool :=
  decide (rdN b 0x20 1 ≤ 8) && decide (rdN b 0x21 1 ≤ 8) && decide (b.length = 64 + 80 * rdN b 0x20 1 + 32 * rdN b 0x21 1)

/-- No two elements of a list are equal under f. -/
def apart {α β : Type} [DecidableEq β] (f : α → β) : List α → Bool
  | [] => true
  | a :: t => t.all (fun b => decide (f a ≠ f b)) && apart f t

/-- A bundle may be installed for partition p (R499). -/
def bundleOk (s : State) (p : Nat) (b : List Byte) : Bool :=
  let k := (getPart s p).keys
  let es := bundleKeys b
  let hosts := es.filter (fun e => !e.flash)
  let flashes := es.filter (fun e => e.flash)
  let tenant := b.take 32
  let held := ((List.range 16).map (fun n => (getPart s n).keys.host.map (fun h => h.material))).flatten
  bundleShaped b && es.all (fun e => e.ok)
    && decide (tenant ≠ zeros 32) && (k.tenant.isEmpty || decide (k.tenant = tenant))
    && apart (fun e => e.keyid) es && es.all (fun e => !k.host.any (fun h => decide (h.keyid.toNat = e.keyid)))
    && (k.flash.isNone || es.all (fun e => decide (e.keyid ≠ k.flashId.toNat)))
    && decide (k.host.length + hosts.length ≤ 8)
    && decide (flashes.length ≤ 1) && (flashes.isEmpty || k.flash.isNone)
    && hosts.all (fun e => !held.contains e.material)
    && flashes.all (fun e => !e.isSeal) && decide ((hosts.filter (fun e => e.isSeal)).length ≤ 1)
    && ((k.host.isEmpty && hosts.isEmpty) || k.host.any (fun h => h.sealing) || hosts.any (fun e => e.isSeal))

/-- Install a bundle (R499). -/
def installBundle (p : Nat) (b : List Byte) (s : State) : State :=
  let es := bundleKeys b
  let hosts := es.filter (fun e => !e.flash)
  let newSeal := hosts.any (fun e => e.isSeal)
  let s := modKeys p (fun k =>
    let old := k.host.map (fun h => if newSeal then { h with sealing := false } else h)
    let new : List HostKey := hosts.map (fun e => { keyid := BitVec.ofNat 32 e.keyid, material := e.material, counter := 0, sealing := e.isSeal })
    let fl := es.find? (fun e => e.flash)
    { k with
      host := old ++ new
      flashId := match fl with
        | some e => BitVec.ofNat 32 e.keyid
        | none => k.flashId
      flash := match fl with
        | some e => some e.material
        | none => k.flash
      tenant := b.take 32
      progs := if rdN b 0x21 1 = 0 then k.progs else bundleProgs b }) s
  modPart p (fun v => { v with chgcnt := v.chgcnt + 1 }) s

/-! ### KEYS records (18 R495 to R500) -/

/-- ATTEST: a new pending key, and a tenant report that carries its encapsulation key (R496). -/
def attest (p slot : Nat) (r : List Byte) (s : State) : State :=
  let f := takeFree s
  let kp := Config.kemKeyGen (Config.freeBytes f.1 64)
  let body := reportBody f.2 2 p (rdB r 0x20 32) kp.2
  queueReport (slot + 1) body (modKeys p (fun k => { k with pending := some kp.1, pendAt := s.tick.now.toNat, pendRd := shake256 32 body }) f.2)

/-- The bytes of "SJ9TK1". -/
def tkLabel : List Byte := [0x53, 0x4A, 0x39, 0x54, 0x4B, 0x31]

/-- The plaintext of an INSTALL record's bundle under a pending key (R497). -/
def openBundle (k : Keys) (dk r : List Byte) : Option (List Byte) :=
  let n := rdN r 0x64C 4
  let tk := shake256 32 (tkLabel ++ Config.kemDecaps dk (rdB r 0x20 1568) ++ k.pendRd)
  if r.length < 0x660 + n then none else gcmOpen tk (rdB r 0x640 12) (r.take 32) (rdB r 0x650 n) (rdB r (0x650 + n) 16)

/-- INSTALL (R497 to R499): the pending key is discarded whatever the bundle holds. -/
def install (p : Nat) (r : List Byte) (s : State) : State :=
  let k := (getPart s p).keys
  match k.pending with
  | none => keyRefused p 2 s
  | some dk =>
    let s := modKeys p (fun k => { k with pending := none }) s
    match openBundle k dk r with
    | none => keyRefused p 2 s
    | some b => if bundleOk s p b then installBundle p b s else keyRefused p 2 s

/-- RETIRE (R500). -/
def retire (p : Nat) (r : List Byte) (s : State) : State :=
  let id := rdN r 0x20 4
  match (getPart s p).keys.host.find? (fun h => decide (h.keyid.toNat = id)) with
  | some h =>
    if h.sealing then keyRefused p 3 s
    else modPart p (fun v => { v with chgcnt := v.chgcnt + 1 }) (modKeys p (fun k => { k with host := k.host.filter (fun h => decide (h.keyid.toNat ≠ id)) }) s)
  | none => keyRefused p 3 s

/-- KEYS records in plan order, `n` ATTESTs before them. -/
def applyKeys : Nat → List (List Byte) → State → State
  | _, [], s => s
  | n, r :: t, s =>
    let h := rdN r 0 8
    let kind := bits h 3 0
    let p := bits h 7 4
    let n' := n + b2n (decide (kind = 1))
    applyKeys n' t (
      if decide (p = 0) || (getPart s p).st ≠ .active then keyRefused p kind s
      else match kind with
        | 1 => if 4 ≤ n then keyRefused p kind s else attest p (bits h 11 8) r s
        | 2 => install p r s
        | 3 => retire p r s
        | _ => keyRefused p kind s)

/-- PENDING_KEY_EXPIRE: a pending key that is 1,024 ticks old is discarded (18 Table 18-3). -/
def execPendingKeyExpire (part : BitVec 4) (s : State) : Res :=
  let k := (getPart s part.toNat).keys
  .next (if k.pending.isSome && decide (k.pendAt + 1024 ≤ s.tick.now.toNat) then modKeys part.toNat (fun k => { k with pending := none, pendRd := [] }) s else s)

/-! ### Program digests (15 R417, 18 R501) -/

/-- Keep at most n, the newest. -/
def keepLast {α : Type} (n : Nat) (l : List α) : List α := l.drop (l.length - n)

/-- PROG of an image whose bytes were copied, by a memo where one stands: digest and the state with its memo. -/
def progOf (image len : Nat) (bs : List Byte) (s : State) : List Byte × State :=
  match s.secure.imgMemo.find? (fun m => decide (m.1 = image) && decide (m.2.1 = len)) with
  | some m => (m.2.2, s)
  | none =>
    let d := shake256 32 bs
    (d, { s with secure := { s.secure with imgMemo := keepLast 32 (s.secure.imgMemo ++ [(image, len, d)]) } })

/-- The partition's program list admits a digest (R501). -/
def progAllowed (s : State) (p : Nat) (d : List Byte) : Bool :=
  let l := (getPart s p).keys.progs
  l.isEmpty || l.contains d

end Sys2Proof.Machine
end

