-- ==== Sys2Proof/Machine/Kv.lean ====
section
/-! DEFINITION. KV pools, sequences, views, books and commits (11 R281 to R293, R311; 13 R358 to R361, R363). -/

namespace Sys2Proof.Machine

open Sys2Proof

/-! ### Pools (11 Table 11-3, R281, R283 to R285) -/

/-- Bytes of one row of h elements. -/
def poolHb (p : Pool) : Nat := if p.fmt = 3 then p.hdim else p.hdim / 2
/-- F: bytes of a frame. -/
def poolF (p : Pool) : Nat := 64 * poolHb p + 4 * p.hdim
/-- Bytes of a group. -/
def groupBytes (p : Pool) : Nat := p.layers * p.kvheads * poolF p
/-- The span of an ordinary slice. -/
def sliceSpan : Nat := 0x7AE00000
/-- The base of group k (R284). -/
def groupBase (p : Pool) (k : Nat) : Nat :=
  if p.nsl < 2 then p.pbase + k * groupBytes p else p.pbase + k % p.nsl * sliceSpan + k / p.nsl * groupBytes p

/-- A pool record. -/
def poolOf (r : List Byte) : Pool :=
  let a := rdN r 0 8
  { pool := bits a 3 0, part := bits a 7 4, fmt := bits a 11 8, hdim := bits a 20 12, layers := bits a 31 24, kvheads := bits a 39 32,
    pbase := rdN r 8 6, groups := rdN r 0x10 4, freeG := rdN r 0x14 4, nsl := bits (rdN r 0x18 8) 6 0, off := false, noFold := false }

/-- The byte ranges of a pool: address and length. -/
def poolRuns (p : Pool) : List (Nat × Nat) :=
  if p.nsl < 2 then [(p.pbase, p.groups * groupBytes p)]
  else (List.range p.nsl).map (fun i => (p.pbase + i * sliceSpan, (p.groups + p.nsl - 1 - i) / p.nsl * groupBytes p))

/-- A pool record passes R285 but for repeats. -/
def poolOk (s : State) (p : Pool) : Bool :=
  decide (1 ≤ p.kvheads) && decide (p.kvheads ≤ 64) && decide (1 ≤ p.layers) && decide (p.hdim % 16 = 0) && decide (16 ≤ p.hdim)
    && decide (p.hdim ≤ 256) && (decide (p.fmt = 3) || decide (p.fmt = 9)) && decide (p.pbase % 4096 = 0) && decide (p.nsl ≤ 100)
    && decide (p.pbase < bEnd)
    && (decide (p.nsl < 2) || (decide (sliceOf p.pbase + p.nsl ≤ 100)
        && decide (localOff p.pbase + (p.groups + p.nsl - 1) / p.nsl * groupBytes p ≤ sliceSpan)))
    && (poolRuns p).all (fun r => decide (r.2 = 0) || rangeIn (getPart s p.part).exts r.1 r.2)

/-- One pool record at open step 4. -/
def applyPool (s : State) (r : List Byte) : State :=
  let p := poolOf r
  let again := s.pools.any (fun q => decide (q.pool = p.pool))
  let ok := !again && poolOk s p
  let odd := ok && (getPart s p.part).fold && decide (groupBytes p % 4096 ≠ 0)
  let s := { s with pools := s.pools ++ [{ p with off := !ok, noFold := odd }] }
  let s := if ok then s else raise 8 p.pool (some p.part) 0x5001 0 s
  if odd then raise 8 p.pool (some p.part) 0x7001 0 s else s

/-- The pool record that an identifier names: the first of the plan. -/
def poolAt (s : State) (id : Nat) : Option Pool := s.pools.find? (fun p => decide (p.pool = id))

/-! ### Sequences (11 R286 to R288, 13 R358, R361) -/

/-- A held sequence. -/
def seqAt (s : State) (id : Nat) : Option Seq := s.seqs.find? (fun q => decide (q.seqid = id))
/-- Change a held sequence. -/
def modSeq (id : Nat) (f : Seq → Seq) (s : State) : State := { s with seqs := s.seqs.map (fun q => if q.seqid = id then f q else q) }

/-- One leave record. -/
def applyLeave (s : State) (r : List Byte) : State :=
  let h := rdN r 0 8
  let id := bits h 31 0
  let pool := bits h 35 32
  match seqAt s id with
  | some q =>
    if q.pool = pool then { s with seqs := s.seqs.filter (fun x => x.seqid ≠ id), leaves := s.leaves ++ [(id, some q)] }
    else raise 8 pool (some q.part) 0x2003 id { s with leaves := s.leaves ++ [(id, none)] }
  | none => raise 8 pool none 0x2003 id { s with leaves := s.leaves ++ [(id, none)] }

/-- Why a sequence record is refused: 0 not, else the event code. A pool identifier with no pool record in the plan, for which the spec
gives no case, is refused with KV_RANGE (DESIGN CHOICE, log 120). -/
def seqRefusal (s : State) (r : SeqRec) : Nat :=
  let held := seqAt s r.seqid
  if s.seqRecs.any (fun x => decide (x.seqid = r.seqid)) then 0x5002
  else match poolAt s r.pool with
    | none => 0x5002
    | some p =>
      let clash := match held with
        | some q => decide (q.part ≠ p.part) || (decide (q.pool ≠ r.pool) && !r.join)
        | none => false
      if p.off || clash || r.list.any (fun g => decide (p.groups ≤ g)) then 0x5002
      else if r.join && held.isNone && decide (16384 ≤ s.seqs.length) then 0x2004
      else if !r.join && held.isNone then 0x2003 else 0

/-- The positions a rebuild may still append (14 R401: clipped to Lc). -/
def clipAppend (q : Seq) (a : Nat) : Nat :=
  match q.rebuild with
  | some b => min a (b.lc - q.len)
  | none => a

/-- A sequence record joins: the state is created or reset (13 R358). -/
def joinSeq (r : SeqRec) (part : Nat) (s : State) : State :=
  let old := seqAt s r.seqid
  let q : Seq := { seqid := r.seqid, pool := r.pool, part := part, len := 0, done := false, tok := 0, approx := (old.map (fun q => q.approx)).getD false,
                   rebuild := none, kvlost := false, mended := false, joinAt := s.tick.now.toNat }
  match old with
  | some _ => modSeq r.seqid (fun _ => q) s
  | none => { s with seqs := s.seqs ++ [q] }

/-- One sequence record at open step 4; `off` is the sum of APPEND over the records before it (14 R395). -/
def applySeq (off : Nat) (b : List Byte) (s : State) : State :=
  let h := rdN b 0 8
  let ng := rdN b 8 4
  let r : SeqRec := { seqid := bits h 31 0, pool := bits h 35 32, a := 0, ng := ng, list := (List.range ng).map (fun i => rdN b (16 + 4 * i) 4),
                      join := bit h 36, refused := true, short := false, joined := false, len0 := 0, committed := false, offset := off }
  let part := match poolAt s r.pool with
    | some p => some p.part
    | none => (seqAt s r.seqid).map (fun q => q.part)
  let c := seqRefusal s r
  if c ≠ 0 then raise 8 r.pool part c r.seqid { s with seqRecs := s.seqRecs ++ [r] }
  else
    let s := if r.join then joinSeq r (part.getD 0) s else s
    match seqAt s r.seqid with
    | none => s
    | some q =>
      let a := if q.done then 0 else clipAppend q (bits h 63 48)
      let short := decide (ng < (q.len + a + 31) / 32)
      let r := { r with refused := false, joined := r.join, short := short, a := if short then 0 else a, len0 := q.len }
      let s := { s with seqRecs := s.seqRecs ++ [r] }
      if short then raise 8 r.pool part 0x5003 r.seqid s else s

/-- The sequence records in plan order. -/
def applySeqs : Nat → List (List Byte) → State → State
  | _, [], s => s
  | off, b :: t, s => applySeqs (off + bits (rdN b 0 8) 63 48) t (applySeq off b s)

/-- The record of a sequence that stands in this tick. -/
def seqRecAt (s : State) (id : Nat) : Option SeqRec := s.seqRecs.find? (fun r => decide (r.seqid = id) && !r.refused)

/-! ### Views (11 R289, 13 R353, R359, 14 R399) -/

/-- The sequence is REBUILDING, as views show it. -/
def isRebuilding (q : Seq) : Bool :=
  match q.rebuild with
  | some b => b.opened
  | none => false

/-- A view header with no list: L, A and NG 0, the other fields as the pool (11 Table 11-5, R288, R289). -/
def emptyView (id : Nat) (p : Option Pool) : List Byte :=
  natLe 8 0 ++ natLe 8 (id * 2 ^ 32) ++ (match p with
    | some p => natLe 8 (p.fmt * 2 ^ 48 + p.pbase) ++ natLe 8 (poolF p * 2 ^ 32 + p.kvheads * 2 ^ 24 + p.layers * 2 ^ 16 + p.hdim) ++ natLe 8 p.nsl
    | none => zeros 24) ++ zeros 24

/-- The pool of partition `part` that the first record of a sequence names, where its record stands; a disabled or absent pool, or one
of another partition, gives none, and the view's pool fields are 0 (DESIGN CHOICE, log 121). -/
def viewPool (s : State) (part id : Nat) : Option Pool :=
  ((s.seqRecs.find? (fun r => decide (r.seqid = id))).bind (fun r => poolAt s r.pool)).filter (fun p => decide (p.part = part) && !p.off)

/-- A view, padded to a multiple of 64 bytes. A held sequence with no record in the plan has L, A, NG and the pool fields 0 (DESIGN
CHOICE, log 121). -/
def viewOf (s : State) (part id : Nat) : List Byte :=
  match seqRecAt s id, seqAt s id, viewPool s part id with
  | some r, some q, some p =>
    if isRebuilding q then emptyView id (some p)
    else
      let v := natLe 4 q.len ++ natLe 4 r.a ++ natLe 4 r.ng ++ natLe 4 id ++ natLe 8 (p.fmt * 2 ^ 48 + p.pbase)
        ++ natLe 8 (poolF p * 2 ^ 32 + p.kvheads * 2 ^ 24 + p.layers * 2 ^ 16 + p.hdim) ++ natLe 8 p.nsl ++ zeros 24
        ++ (r.list.map (natLe 4)).flatten
      padTo ((v.length + 63) / 64 * 64) v
  | _, _, p => emptyView id p

/-- The views of a job in list order. -/
def viewsOf (s : State) (part : Nat) (ids : List (Nat × Bool)) : List Byte := (ids.map (fun x => viewOf s part x.1)).flatten

/-! ### Books (11 R311) -/

/-- Groups of lists, each list's repeats counted once: the first that stands in two lists, and all of them. -/
def listedTwice : List Nat → List (List Nat) → Option Nat × List Nat
  | seen, [] => (none, seen)
  | seen, l :: t =>
    let l := l.eraseDups
    let d := l.find? (fun g => seen.contains g)
    let r := listedTwice (seen ++ l.filter (fun g => !seen.contains g)) t
    (match d with
      | some g => some g
      | none => r.1, r.2)

/-- The lists of a pool's sequence records; a record that repeats a SEQID is no second sequence. -/
def poolLists (pool : Nat) : List SeqRec → List Nat → List (List Nat)
  | [], _ => []
  | r :: t, seen => if decide (r.pool = pool) && !seen.contains r.seqid then r.list :: poolLists pool t (r.seqid :: seen)
                    else poolLists pool t (r.seqid :: seen)

/-- A partition's tick is aborted. -/
def abortTick (p : Nat) (s : State) : State := modPart p (fun v => { v with tabort := true }) s

/-- The KV books of each pool; a pool disabled for the tick is passed over (DESIGN CHOICE, log 122). -/
def checkKvBooks (s : State) : State :=
  s.pools.foldl (fun s p =>
    if p.off then s
    else
      let r := listedTwice [] (poolLists p.pool s.seqRecs [])
      match r.1 with
      | some g => raise 8 p.pool (some p.part) 0x5004 g (abortTick p.part s)
      | none => if p.freeG + r.2.length = p.groups then s else raise 8 p.pool (some p.part) 0x5004 0xFFFFFFFF (abortTick p.part s)) s

/-! ### Commits (11 R292, R293, 13 R360) -/

/-- The partition of a sequence record. -/
def recPart (s : State) (r : SeqRec) : Option Nat :=
  match poolAt s r.pool with
  | some p => some p.part
  | none => (seqAt s r.seqid).map (fun q => q.part)

/-- The jobs of the tick that name a sequence of their partition for append, in plan order. -/
def appendJobs (s : State) (part id : Nat) : List Job :=
  s.jobs.filter (fun j => decide (j.ent.part = part) && j.seqs.any (fun x => decide (x.1 = id) && x.2))

/-- The appends of a record commit. -/
def commits (s : State) (part : Nat) (r : SeqRec) : Bool :=
  let js := appendJobs s part r.seqid
  !r.refused && decide (0 < r.a) && !js.isEmpty && js.all (fun j => decide (j.out = .complete)) && !(getPart s part).tabort

/-- DONE and TOK of a job's result record for a sequence, where it is VALID (R360). -/
def jobResult (s : State) (j : Job) (id : Nat) : Option (Bool × Nat) :=
  match j.core, j.seqs.findIdx? (fun x => decide (x.1 = id) && x.2) with
  | some n, some i =>
    match opnd (getCore s n) (j.ent.result + 32 * i) 32 with
    | some b =>
      let w := rdN b 0 8
      if bit w 32 && decide (bits w 31 0 = id) then some (bit w 33, rdN b 8 4) else none
    | none => none
  | _, _ => none

/-- Results are taken for a record. -/
def takesResult (s : State) (part : Nat) (r : SeqRec) : Bool :=
  !r.refused && !(getPart s part).tabort
    && (commits s part r || (decide (r.a = 0) && (appendJobs s part r.seqid).all (fun j => decide (j.out = .complete))))

/-- Close step 5 for one record: L, DONE and TOK. -/
def commitSeq (s : State) (r : SeqRec) : State :=
  match recPart s r with
  | none => s
  | some part =>
    let c := commits s part r
    let res := if takesResult s part r then (appendJobs s part r.seqid).reverse.findSome? (fun j => jobResult s j r.seqid) else none
    let s := { s with seqRecs := s.seqRecs.map (fun x => if x.seqid = r.seqid && !x.refused && !r.refused then { x with committed := c } else x) }
    modSeq r.seqid (fun q =>
      if r.refused then q
      else
        let q := if c then { q with len := (q.len + r.a) % 2 ^ 32 } else q
        match res with
        | some (d, t) => { q with done := q.done || d, tok := BitVec.ofNat 32 t }
        | none => q) s

/-- The bytes that a committed slot's digest covers, and their place: key row, value row, key scales, value scales (11 Table 11-1). -/
def slotParts (p : Pool) (slot : Nat) : List (Nat × Nat) :=
  let hb := poolHb p
  let sc := p.hdim / 16
  [(slot * hb, hb), (32 * hb + slot * hb, hb), (64 * hb + slot * sc, sc), (64 * hb + 2 * p.hdim + slot * sc, sc)]

/-- The frames of positions [lo, hi) in the order of R293: layer index, KV head, position: frame address and slot. -/
def slotFrames (p : Pool) (list : List Nat) (lo hi : Nat) : List (Nat × Nat) :=
  ((List.range (p.layers * p.kvheads)).map (fun f =>
    (List.range (hi - lo)).map (fun i =>
      let pos := lo + i
      (groupBase p (list.getD (pos / 32) 0) + f * poolF p, pos % 32)))).flatten

/-- The message of the commit digest of positions [lo, hi), none where a read met a parity error or a POISON page (09 R240, R242). -/
def commitRead (p : Pool) (list : List Nat) (lo hi : Nat) (s : State) : Option (List Byte) × State :=
  let parts := ((slotFrames p list lo hi).map (fun x => (slotParts p x.2).map (fun q => (x.1 + q.1, q.2)))).flatten
  parts.foldl (fun (a : Option (List Byte) × State) q =>
    match a.1 with
    | none => a
    | some bs => let r := partRead p.part q.1 q.2 a.2; (if r.1 then none else some (bs ++ r.2.1), r.2.2)) (some [], s)

/-- The pages of the committed slots of positions [lo, hi), each with its list entry and its place in the group. -/
def commitPages (p : Pool) (list : List Nat) (lo hi : Nat) : List (Nat × Nat × Nat) :=
  (((List.range (p.layers * p.kvheads)).map (fun f =>
    ((List.range (hi - lo)).map (fun i =>
      let pos := lo + i
      let g := groupBase p (list.getD (pos / 32) 0)
      ((slotParts p (pos % 32)).map (fun q =>
        let a := g + f * poolF p + q.1
        (pagesOf a q.2).map (fun pg => (pg, pos / 32, pg - pageOf g)))).flatten)).flatten)).flatten).eraseDups

/-! ### The status entries (13 R363, 14 R405) -/

/-- Flags and words of one entry. -/
def seqEntry (id flags len a tok : Nat) : List Byte := natLe 8 (id + flags * 2 ^ 32) ++ natLe 4 len ++ natLe 4 a ++ natLe 8 tok ++ natLe 8 0

/-- Flags of a held sequence. -/
def seqFlags (q : Option Seq) : Nat :=
  match q with
  | some q => b2n q.done * 2 + b2n q.approx * 64 + b2n (isRebuilding q) * 256 + b2n q.mended * 512 + b2n q.kvlost * 1024
  | none => 0

/-- The SEQUENCES section: sequence records, then leave records. -/
def seqSection (s : State) : List Byte :=
  (s.seqRecs.map (fun r =>
    let q := seqAt s r.seqid
    let ab := match recPart s r with
      | some p => (getPart s p).tabort
      | none => false
    seqEntry r.seqid (b2n r.committed + b2n r.joined * 4 + b2n r.refused * 8 + b2n r.short * 16 + b2n ab * 128 + seqFlags q)
      ((q.map (fun q => q.len)).getD 0) r.a ((q.map (fun q => q.tok.toNat)).getD 0))).flatten
  ++ (s.leaves.map (fun l => match l.2 with
    | some q => seqEntry l.1 (32 + b2n q.done * 2) q.len 0 q.tok.toNat
    | none => seqEntry l.1 0 0 0 0)).flatten

end Sys2Proof.Machine
end

