-- ==== Sys2Proof/Machine/Layers.lean ====
section
/-! DEFINITION. The layer records of a tick: their check at open, the pulls, what the deadline and the close make of them, and
the routing counter block (12 R318, R319, R325 to R327, R330, R331, R336). -/

namespace Sys2Proof.Machine

open Sys2Proof

/-! ### Records -/

/-- An expert entry (12 Table 12-4). -/
def expertOf (b : List Byte) : Expert :=
  let w := rdN b 0 8
  { cap := bits w 63 48, pulled := bit w 42, home := bits w 41 32, rowoff := bits w 31 16, quota := bits w 15 0,
    loff := bits (rdN b 8 8) 47 0, load := 0, routed := 0, admitted := 0, ovfin := 0, ovfout := 0, spilled := 0 }

/-- A pull entry (12 Table 12-5). -/
def pullOf (b : List Byte) : Pull :=
  { wsrc := BitVec.ofNat 64 (rdN b 0 8), wdst := bits (rdN b 8 8) 47 0, len := rdN b 16 8, exp := bits (rdN b 24 8) 9 0, st := 0 }

/-- A layer record (12 Table 12-3). -/
def layerOf (index : Nat) (b : List Byte) : Layer :=
  let w0 := rdN b 0 8
  let w1 := rdN b 0x08 8
  let w2 := rdN b 0x10 8
  let w3 := rdN b 0x18 8
  let nexp := bits w0 9 0 + 1
  let npull := bits w3 63 48
  { index := index, part := bits w0 27 24, sidx := bits w0 60 51, nsrc := bits w0 50 40, nreq := bits w0 39 28,
    lsem := bits w0 23 18, c := bits w0 17 14, k := bits w0 13 10, nexp := nexp, rb := bits w1 63 48, act := bits w1 47 0,
    orb := bits w2 63 48, cmb := bits w2 47 0, outc := bits w3 47 0,
    wait := BitVec.ofNat 100 (rdN b 0x20 8 + bits (rdN b 0x28 8) 35 0 * 2 ^ 64),
    lwin := bits (rdN b 0x30 8) 53 48, doneOff := bits (rdN b 0x30 8) 47 0, cwin := bits (rdN b 0x38 8) 53 48,
    cdone := bits (rdN b 0x38 8) 47 0,
    experts := (List.range nexp).map (fun e => expertOf (rdB b (0x40 + 16 * e) 16)),
    pulls := (List.range npull).map (fun p => pullOf (rdB b (0x40 + 16 * nexp + 32 * p) 32)),
    st := .open, tokens := [], reqs := [], slots := [], homes := [], toAck := [], toDone := [], todo := [], dispatched := false,
    lsemSent := false, nEmpty := 0, nDisp := 0, nAbort := 0, build := 0, readAt := 0, setNo := 0, combined := false,
    imbalance := false }

/-- A chip identifier of a module of the torus; with no torus set, this module's own (16 R437; log 48). -/
def isModule (s : State) (c : Nat) : Bool := inTorus s c || decide (c = chipNo s)

/-- A job of partition p is placed on core n in this tick. -/
def placedOn (s : State) (p n : Nat) : Bool := s.jobs.any (fun j => decide (j.core = some n) && j.out = .none && decide (j.ent.part = p))

/-- An expert entry passes R319. -/
def expertOk (s : State) (e : Expert) : Bool :=
  (e.pulled || isModule s e.home) && decide (e.rowoff + e.quota ≤ e.cap) && decide (e.loff % 4096 = 0)

/-- A layer record passes (12 R319). -/
def layerOk (s : State) (l : Layer) : Bool :=
  let x := (getPart s l.part).exts
  decide (l.k ≠ 0) && decide (l.k ≤ l.c) && decide (l.c ≤ 8) && decide (l.nsrc ≠ 0) && decide (l.sidx < l.nsrc) &&
  (List.range 100).all (fun n => !l.wait.getLsbD n || placedOn s l.part n) && l.experts.all (expertOk s) &&
  tokenInside s l 0 && rangeIn x l.cdone 16 && l.pulls.all (fun p => rangeIn x p.wdst p.len)

/-! ### Open (13 R342, step 6) -/

/-- Start a pull (12 R331); for a partition in teardown it is refused at once (R338). -/
def startPull (l : Layer) (idx : Nat) (p : Pull) (s : State) : State :=
  if (getPart s l.part).st ≠ .active then pullFailed l.index idx s
  else if p.len = 0 then setPull l.index idx 2 s
  else
    let r := gRead (.pull l.index idx s.tick.now.toNat) false l.part p.wsrc.toNat p.wdst p.len (setPull l.index idx 1 s)
    if r.1 then r.2 else pullFailed l.index idx r.2

/-- Check one layer record; start its pulls where it passes. -/
def applyLayer (s : State) (l : Layer) : State :=
  if layerOk s l then
    let s := { s with layers := s.layers ++ [l] }
    (l.pulls.zip (List.range l.pulls.length)).foldl (fun s p => startPull l p.2 p.1 s) s
  else routeReqEv l.index (some l.part) 0xFFFF { s with layers := s.layers ++ [{ l with st := .disabled }] }

/-- Check every layer record of the plan, in order. -/
def applyLayers (recs : List (List Byte)) (s : State) : State :=
  ((List.range recs.length).zip recs).foldl (fun s r => applyLayer s (layerOf r.1 r.2)) s

/-! ### Deadline (12 R330, R336) -/

/-- Clear word ((N + 1) mod 2) of the source-done and combine-done pairs of every layer of the tick, inside PART's extents (12 R320,
R330). -/
def clearDone (s : State) : State :=
  let k := 8 * ((s.tick.now.toNat + 1) % 2)
  s.layers.foldl (fun s l =>
    let s := (layerWrite l (l.cdone + k) (zeros 8) s).2
    if l.experts.any (fun e => !e.pulled && decide (e.home = chipNo s)) then
      match localG s (globalAddr (chipNo s) l.lwin (l.doneOff + k)) 8 with
      | some a => (layerWrite l a (zeros 8) s).2
      | none => s
    else s) s

/-- Abort what a layer has not finished, and what it has not begun: the slots of an incomplete request set, or those whose output row has not been
acknowledged (12 R336). -/
def endLayer (s : State) (l : Layer) : State :=
  match l.st with
  | .disabled => s
  | .open =>
    let toks := l.tokens.foldl (fun a x => tokInsert x a) []
    let slots := (makeSlots l.k toks).map (fun x => { x with st := .aborted })
    let l := { l with slots := slots, nAbort := slots.length }
    zeroSlots l (fun _ => true) (writeOutcomes l (fun _ => true) (setLayer l s))
  | .admitted =>
    let l := { l with todo := [] }
    let s := setLayer l s
    if l.combined then s
    else
      let late (x : Slot) : Bool := (x.st = .admitted || x.st = .overflow || x.st = .aborted) && !x.acked
      zeroSlots { l with slots := l.slots.filter late } (fun _ => true) (abortSlots l late s)

/-- The deadline's part in routing (12 R336): every layer ended, then every pending request signalled. -/
def endRouting (s : State) : State :=
  let s := s.layers.foldl endLayer s
  let rs := s.routes
  rs.foldl (fun s r => semSignal r.core r.part r.jobid r.sem s) { s with routes := [] }

/-! ### Books and counters (12 R325 to R327) -/

/-- A 32-bit saturating counter. -/
def sat32 (n : Nat) : Nat := min n (2 ^ 32 - 1)

/-- The five counters of an expert. -/
def expertCounts (e : Expert) : List Nat := [e.routed, e.admitted, e.ovfin, e.ovfout, e.spilled]

/-- Some counter of the layer is saturated. -/
def layerSat (l : Layer) : Bool :=
  (l.nDisp :: l.nEmpty :: l.nAbort :: (l.experts.map expertCounts).flatten).any (fun n => decide (2 ^ 32 ≤ n))

/-- The books of an admitted layer balance (12 R327). -/
def layerBalances (l : Layer) : Bool :=
  let sum (f : Expert → Nat) : Nat := (l.experts.map f).foldl (· + ·) 0
  decide (l.nDisp = sum (fun e => e.admitted + e.ovfout + e.spilled)) && decide (sum (fun e => e.ovfin) = sum (fun e => e.ovfout)) &&
  l.experts.all (fun e => decide (e.admitted + e.ovfin ≤ e.quota))

/-- Check the books of every layer that admission reached (13 R343, step 4). -/
def checkRouteBooks (s : State) : State :=
  s.layers.foldl (fun s l =>
    if l.st = .admitted && !layerSat l && !layerBalances l then
      abortTick l.part (raise 9 l.index (some l.part) 0x6002 0 (setLayer { l with imbalance := true } s))
    else s) s

/-- STATE of a layer (12 Table 12-8). -/
def layerState (l : Layer) : Nat :=
  match l.st with
  | .disabled => 2
  | .open => 1
  | .admitted => if layerSat l then 4 else if l.imbalance then 3 else 0

/-- The entry of an expert in the counter block (12 R326). -/
def expertBlock (e : Expert) : List Byte :=
  let cs := expertCounts e
  let flags := (cs.zip (List.range 5)).foldl (fun a c => if 2 ^ 32 ≤ c.1 then a + 2 ^ c.2 else a) 0
  (cs.map (fun n => natLe 4 (sat32 n))).flatten ++ natLe 4 (flags + (if e.pulled then 256 else 0))

/-- The block of a layer (12 R326, Table 12-8). -/
def layerBlock (l : Layer) : List Byte :=
  natLe 8 (l.index + l.nexp * 2 ^ 16 + layerState l * 2 ^ 32) ++ natLe 4 (sat32 l.nDisp) ++ natLe 4 (sat32 l.nEmpty) ++
  natLe 4 (sat32 l.nAbort) ++ natLe 4 (sat32 l.build) ++ zeros 8 ++ (l.experts.map expertBlock).flatten

/-- The routing counter block of the status record. -/
def routeSection (s : State) : List Byte := (s.layers.map layerBlock).flatten

end Sys2Proof.Machine
end

