-- ==== Sys2Proof/Machine/Fold.lean ====
section
/-! DEFINITION. Folds, tiers and the mending log: module flash, the FOLD section, segments, log records and commit digests
(14 R382 to R398, 18 R503). -/

namespace Sys2Proof.Machine

open Sys2Proof

/-! ### Module flash (18 R503) -/

/-- Bytes of module flash (00 Table 0-2; log 49). -/
def flashEnd : Nat := 4000000000000

/-- The flash key of P1 to P15; P0's flash data is plaintext. -/
def flashKey (s : State) (p : Nat) : Option (List Byte) := if p = 0 then none else (getPart s p).keys.flash

/-- A 4 KiB data unit of partition p, as plaintext. -/
def flashUnit (s : State) (p u : Nat) : List Byte :=
  let raw := smapRun 0 s.flash (u * 4096) 4096
  match flashKey s p with
  | some k => aesXts false k u raw
  | none => raw

/-- The data units of a range. -/
def flashUnits (off n : Nat) : List Nat := if n = 0 then [] else (List.range ((off + n - 1) / 4096 - off / 4096 + 1)).map (fun i => off / 4096 + i)

/-- Read plaintext. -/
def flashRead (s : State) (p off n : Nat) : List Byte :=
  ((((flashUnits off n).map (flashUnit s p)).flatten).drop (off % 4096)).take n

/-- Write plaintext: whole data units are encrypted. -/
def flashWrite (p off : Nat) (bs : List Byte) (s : State) : State :=
  let us := flashUnits off bs.length
  let pt := wrB ((us.map (flashUnit s p)).flatten) (off % 4096) bs
  { s with flash := (us.zip (List.range us.length)).foldl (fun m u =>
      let b := rdB pt (4096 * u.2) 4096
      smapPut 0 m (u.1 * 4096) (match flashKey s p with
        | some k => aesXts true k u.1 b
        | none => b)) s.flash }

/-- The flash subsystem has power. -/
def flashOn (s : State) : Bool := decide (s.power.flashSt = .on)

/-- The flash subsystem serves: it has power, and no channel is looped back, for a unit of data may lie on any of the eight (20 R540). -/
def flashServes (s : State) : Bool := flashOn s && s.test.onfiLoop.isNone

/-! ### FOLD records (14 R388, Tables 14-2 and 14-3) -/

/-- KIND. -/
def frKind (r : List Byte) : Nat := bits (rdN r 0 8) 3 0
/-- PART. -/
def frPart (r : List Byte) : Nat := bits (rdN r 0 8) 7 4
/-- The granules of a TOUCH record. -/
def frTouch (r : List Byte) : List Nat := (List.range (bits (rdN r 0 8) 15 8)).map (fun i => bits (rdN r (0x10 + 4 * i) 4) 16 0)

/-- A TIERS record. -/
def tiersOf (r : List Byte) : Tiers :=
  let w := rdN r 0 8
  { t3every := bits w 63 48, t2every := bits w 47 36, fwin := bits w 35 30, partner := bits w 29 20, ringOff := bits (rdN r 0x08 8) 47 0,
    ringLen := rdN r 0x10 8, logOff := bits (rdN r 0x18 8) 47 0, logLen := rdN r 0x20 8, flOff := bits (rdN r 0x28 8) 47 0,
    flLen := rdN r 0x30 8, t3qp := bits (rdN r 0x38 8) 11 0, t3addr := rdN r 0x40 8, t3len := rdN r 0x48 8,
    tokBase := bits (rdN r 0x50 8) 47 0, tokLen := rdN r 0x58 8 }

/-- The B-space ranges a record names. -/
def frRanges (r : List Byte) : List (Nat × Nat) :=
  match frKind r with
  | 0 => [((tiersOf r).tokBase, (tiersOf r).tokLen)]
  | 1 => (frTouch r).map (fun g => (g * granSize, granSize))
  | _ => [(bits (rdN r 8 8) 47 0, rdN r 0x10 8)]

/-- The flash range a record names. -/
def frFlash (r : List Byte) : Option (Nat × Nat) :=
  match frKind r with
  | 0 => some ((tiersOf r).flOff, (tiersOf r).flLen)
  | 2 => if bit (rdN r 0 8) 8 then none else some (rdN r 0x18 8, rdN r 0x10 8)
  | 4 => some (rdN r 0x18 8, rdN r 0x10 8)
  | _ => none

/-- A range overlaps a flash range of another partition. -/
def flashClash (s : State) (p : Nat) (x : Nat × Nat) : Bool :=
  (List.range 16).any (fun q => decide (q ≠ p) && (getPart s q).foldSt.flash.any (extHit x))

/-- A FOLD record is refused (14 R388, R389). `earlier` is the PARTNER of an earlier TIERS record of the plan. -/
def foldRefused (s : State) (earlier : Option Nat) (r : List Byte) : Bool :=
  let k := frKind r
  let p := frPart r
  let v := getPart s p
  decide (4 < k) || (!v.fold && (k = 0 || k = 1 || k = 3))
    || (frRanges r).any (fun x => decide (x.2 ≠ 0) && !rangeIn v.exts x.1 x.2)
    || (match frFlash r with
      | some x => flashClash s p x || (decide (k = 4) && decide (flashEnd < x.1 + x.2))
      | none => false)
    || (decide (p ≠ 0) && (k = 0 || k = 4) && v.keys.flash.isNone)
    || (decide (k = 0) && (match earlier with
      | some q => decide (q ≠ (tiersOf r).partner)
      | none => false))
    || (decide (k = 2) && decide (4096 ≤ v.foldSt.refill.length))

/-- A TIERS record takes effect: the tiers whose areas it moves start afresh (log 50). -/
def setTiers (t : Tiers) (f : Fold) : Fold :=
  let same1 := f.tiers.any (fun o => o.partner = t.partner && o.fwin = t.fwin && o.ringOff = t.ringOff && o.ringLen = t.ringLen)
  let same2 := f.tiers.any (fun o => o.flOff = t.flOff && o.flLen = t.flLen && o.logLen = t.logLen)
  let same3 := f.tiers.any (fun o => o.t3qp = t.t3qp && o.t3addr = t.t3addr && o.t3len = t.t3len && o.logLen = t.logLen)
  let keep (v : Version) : Bool :=
    match v.tier with
    | .t1 => same1
    | .t2 => same2
    | .t3 => same3
  { f with
    tiers := some t
    versions := f.versions.filter keep
    ringPos := if same1 then f.ringPos else 0
    flPos := if same2 then f.flPos else 0
    t3Pos := if same3 then f.t3Pos else 0
    t3Log := if same3 then f.t3Log else 0
    flash := f.flash ++ [(t.flOff, t.flLen)] }

/-- What the areas that a TIERS record names kept through a reset is there again: complete versions, and durable log records that flash
or the partner holds, and those the shared store holds (14 R399, R400; log 80). -/
def recallTiers (p : Nat) (t : Tiers) (s : State) : State :=
  match s.tierMem.find? (fun m => decide (m.part = p)) with
  | none => s
  | some m =>
    let o := m.tiers
    let same1 := o.partner = t.partner && o.fwin = t.fwin && o.ringOff = t.ringOff && o.ringLen = t.ringLen
    let sameLog := o.logLen = t.logLen
    let same2 := o.flOff = t.flOff && o.flLen = t.flLen && sameLog
    -- what another key sealed cannot be read (18 R503, R504)
    let opens := decide (p = 0) || (getPart s p).keys.host.any (fun k => m.seals.contains (shake256 32 k.material))
    let same3 := o.t3qp = t.t3qp && o.t3addr = t.t3addr && o.t3len = t.t3len && sameLog && opens
    let inFlash (r : LogRec) : Bool := same2 && decide (flashRead s p (t.flOff + r.off) r.bytes.length = r.bytes)
    let keep (v : Version) : Bool :=
      match v.tier with
      | .t1 => same1
      | .t2 => same2
      | .t3 => same3
    let link := o.partner = t.partner && o.fwin = t.fwin && o.logOff = t.logOff && sameLog
    let here (r : LogRec) : Bool := !r.gone && r.flashOk && r.linkOk && (link || inFlash r)
    let logs := (m.logs.map (fun r => { r with gone := !here r, t3 := if same3 then r.t3 else none })).filter (fun r => !r.gone || r.t3.isSome)
    modFold p (fun f => { f with versions := f.versions ++ m.versions.filter keep, logs := logs ++ f.logs })
      { s with tierMem := s.tierMem.filter (fun m => m.part ≠ p) }

/-- What of the plan's earlier FOLD records a later one needs: the index, PARTNER, and the partitions whose touch list and refill
map the plan has replaced. -/
structure FoldScan where
  idx     : Nat
  partner : Option Nat
  touched : List Nat
  mapped  : List Nat
  deriving DecidableEq, Repr

/-- One TIERS, TOUCH, REFILL or STORE record at open step 3; RESTORE records follow at step 4. -/
def applyFold (x : FoldScan × State) (r : List Byte) : FoldScan × State :=
  let c := x.1
  let k := frKind r
  let p := frPart r
  let next : FoldScan := { c with idx := c.idx + 1, partner := if k = 0 && c.partner.isNone then some (tiersOf r).partner else c.partner }
  if k = 3 then (next, x.2)
  else
    let first := decide (k = 2) && !c.mapped.contains p
    if foldRefused (if first then modFold p (fun f => { f with refill := [] }) x.2 else x.2) c.partner r then
      (next, raise 0 0 (some p) 0x7002 c.idx x.2)
    else if k = 0 then (next, recallTiers p (tiersOf r) (modFold p (setTiers (tiersOf r)) x.2))
    else if k = 1 then
      ({ next with touched := p :: c.touched },
       modFold p (fun f => { f with touch := (if c.touched.contains p then f.touch else []) ++ frTouch r }) x.2)
    else
      let a := bits (rdN r 8 8) 47 0
      let n := rdN r 0x10 8
      let w := rdN r 0x18 8
      if k = 2 then
        let src := b2n (bit (rdN r 0 8) 8)
        ({ next with mapped := p :: c.mapped },
         modFold p (fun f => { f with
           refill := (if first then [] else f.refill) ++ [(a, n, src, BitVec.ofNat 64 w)]
           flash := if src = 0 then f.flash ++ [(w, n)] else f.flash }) x.2)
      else (next, modFold p (fun f => { f with stores := f.stores ++ [⟨a, n, w⟩], flash := f.flash ++ [(w, n)] }) x.2)

/-- The FOLD section at open step 3. -/
def applyFolds (recs : List (List Byte)) (s : State) : State := (recs.foldl applyFold (⟨0, none, [], []⟩, s)).2

/-! ### Segments (14 R390, Table 14-4) -/

/-- The number of a tier. -/
def tierNo : Tier → Nat
  | .t1 => 1
  | .t2 => 2
  | .t3 => 3

/-- Where a run of n bytes goes in an area, from a position: its offset, the next position, the skipped space (14 R390). -/
def place (area pos n : Nat) : Nat × Nat × Option Nat :=
  if pos + n ≤ area then (pos, pos + n, none) else (0, n, if pos + 64 ≤ area then some pos else none)

/-- Two runs overlap. -/
def overlap (a n b m : Nat) : Bool := decide (a < b + m) && decide (b < a + n)

/-- A page entry with its content; no content for LOST. -/
def pageEntry (tier : Tier) (e : FoldPage × Option (List Byte)) : List Byte :=
  let lost := e.2.isNone
  let c := e.2.getD []
  natLe 8 (e.1.seqid + e.1.entry * 2 ^ 32 + b2n lost * 2 ^ 56) ++ natLe 8 (e.1.page + e.1.pool * 2 ^ 16)
    ++ (if tier = .t1 then [] else if lost then zeros 16 else shake256 16 c) ++ c

/-- A segment header. -/
def segHeader (tier : Tier) (p : Nat) (g : Segment) (npage len complete : Nat) : List Byte :=
  natLe 8 (0x444C4F46 + p * 2 ^ 32 + tierNo tier * 2 ^ 36) ++ natLe 8 g.first ++ natLe 8 g.last ++ natLe 8 npage ++ natLe 8 len
    ++ natLe 8 complete ++ zeros 16

/-- The bytes of a segment. -/
def segBytes (tier : Tier) (p : Nat) (g : Segment) (complete : Nat) : List Byte :=
  let body := (g.pages.map (pageEntry tier)).flatten
  segHeader tier p g g.pages.length (64 + body.length) complete ++ body

/-- The header that marks skipped space. -/
def skipHeader (tier : Tier) (p : Nat) (g : Segment) : List Byte := segHeader tier p { g with pages := [] } 0 0 0

/-- The bytes of a segment of n pages, none lost. -/
def segLen (tier : Tier) (n : Nat) : Nat := 64 + n * (if tier = .t1 then 4112 else 4128)

/-- Versions that a segment at [off, off + n) of its area overwrites are gone, and those that the header of the space it skips
overwrites (14 R390, R391). -/
def overwrite (tier : Tier) (off n : Nat) (skip : Option Nat) (vs : List Version) : List Version :=
  vs.filter (fun v => decide (v.tier ≠ tier) || !(overlap off n v.segOff v.segLen || skip.any (fun o => overlap o 64 v.segOff v.segLen)))

/-- A page as the belfry reads it for a segment, from its touch copy where it has one (14 R386); none where its content is lost. -/
def pageNow (p pg : Nat) (s : State) : Option (List Byte) × State :=
  let src := (((getPart s p).foldSt.touchUsed.find? (fun e => decide (e.2 = pg))).map Prod.fst).getD pg
  let r := partRead p (src * pageSize) pageSize s
  (if r.1 then none else some r.2.1, r.2.2)

/-- Read the pages whose content has not been taken yet. -/
def readPages (p : Nat) (ps : List (FoldPage × Option (List Byte))) (s : State) : List (FoldPage × Option (List Byte)) × State :=
  ps.foldl (fun (a : List (FoldPage × Option (List Byte)) × State) e =>
    match e.2 with
    | some b => (a.1 ++ [(e.1, some b)], a.2)
    | none => let r := pageNow p e.1.pg a.2; (a.1 ++ [(e.1, r.1)], r.2)) ([], s)

/-- A page of a sequence still waits for its rebuild, or has been written and not yet checked: it is not folded, written to a tier or
used as a source (14 R402). -/
def pageRebuilt (s : State) (e : FoldPage) : Bool :=
  !e.old && (match (seqAt s e.seqid).bind (fun q => q.rebuild) with
    | some b => b.pages.any (fun x => decide (x.1 = e.entry) && decide (x.2.1 = e.page))
        || (decide (b.check ≠ .none) && b.wrote.any (fun x => decide (x.1 = e.entry) && decide (x.2.1 = e.page)))
    | none => false)

/-- A transfer of the partition's fold stream is on its way. -/
def foldMoving (s : State) (p : Nat) : Bool := s.xfers.any (fun x => decide (x.owner = .fold p))

/-- FOLD_SEGMENT_STREAM: the fold goes to the partner in ascending order of its pages (14 R386, R391, R393). -/
def execFoldSegmentStream (part : BitVec 4) (s : State) : Res :=
  let p := part.toNat
  let f := (getPart s p).foldSt
  match f.seg1, f.tiers with
  | some g, some t =>
    if s.tick.phase ≠ .run ∨ g.sent ∨ foldMoving s p then .next s
    else
      let r := readPages p (g.pages.filter (fun e => !pageRebuilt s e.1)) s
      let g := { g with pages := r.1 }
      let bs := segBytes .t1 p g 0
      let pl := place t.ringLen f.ringPos bs.length
      let g := { g with off := pl.1, bytes := bs.length }
      let at' (o : Nat) : Nat := globalAddr t.partner t.fwin (t.ringOff + o)
      let ws := (match pl.2.2 with
        | some o => [(0, at' o, skipHeader .t1 p g)]
        | none => []) ++ [(0, at' pl.1, bs)]
      let s := clearWp (g.pages.map (fun e => e.1.pg)) (modFold p (fun f => { f with
        seg1 := some g, ringPos := pl.2.1, versions := overwrite .t1 pl.1 bs.length pl.2.2 f.versions }) r.2)
      let q := gSend (.fold p) p t.partner ws s
      .next (if q.1 = 0 then modFold p (fun f => { f with seg1 := segSent f.seg1, touchUsed := [] }) q.2
             else if q.1 = 2 then foldBroken p q.2 else q.2)
  | _, _ => .next s

/-! ### Tiers 2 and 3 (14 R394) -/

/-- The host address of offset o of the tier-3 area: sealed chunks stand in place of 4 KiB of plaintext (log 51). -/
def t3Va (p : Nat) (t : Tiers) (o : Nat) : Nat := if p = 0 then t.t3addr + o else t.t3addr + o / 4096 * 4128

/-- Write to the shared store through T3QP, sealed under PART's key; false where it cannot be sent. -/
def t3Send (owner : XOwner) (p : Nat) (t : Tiers) (o : Nat) (bs : List Byte) (s : State) : Bool × State :=
  let q := getQp s t.t3qp
  if q.st ≠ .rts ∨ q.owner ∨ q.part.toNat ≠ p then (false, s)
  else
    let sealed : Option (List Byte × State) := if p = 0 then some (bs, s) else sealAll p (bs.length / 4096 + 1) bs s
    match sealed with
    | none => (false, s)
    | some (ct, s) =>
      let ms := hostMsgs sealedMsg (t3Va p t o) (ct.length / sealedMsg + 1) ct
      let s := ms.foldl (fun s m => sendHostWrite t.t3qp m.1 (Config.hostRkey t.t3qp) m.2 s) (debit p 204 ct.length s)
      let u := takeUid s
      (true, { u.2 with xfers := u.2.xfers ++ [newXfer u.1 owner (.qp t.t3qp) false p ms.length u.2] })

/-- The same page of the same sequence. -/
def samePage (v : Version) (e : FoldPage) : Bool := decide (v.seqid = e.seqid) && decide (v.entry = e.entry) && decide (v.page = e.page)

/-- The content of a version. -/
def versionBytes (s : State) (p : Nat) (v : Version) : List Byte := if v.tier = .t2 then flashRead s p v.place 4096 else v.bytes

/-- Page versions in the space of a new segment, or under the header of the space it skips, that no later segment supersedes are carried
forward into it. -/
def carry (s : State) (p : Nat) (tier : Tier) (area pos pad : Nat) (vs : List Version) :
    Nat → List (FoldPage × Option (List Byte)) → List (FoldPage × Option (List Byte))
  | 0, ps => ps
  | n + 1, ps =>
    let len := (segLen tier ps.length + pad - 1) / pad * pad
    let pl := place area pos len
    let extra := vs.filter (fun v => !v.lost && (overlap pl.1 len v.segOff v.segLen || pl.2.2.any (fun o => overlap o 64 v.segOff v.segLen)) && !ps.any (fun e => samePage v e.1)
      && !vs.any (fun w => decide (w.seqid = v.seqid) && decide (w.entry = v.entry) && decide (w.page = v.page) && decide (v.last < w.last)))
    if extra.isEmpty then ps
    else carry s p tier area pos pad vs n (ps ++ extra.map (fun v =>
      ({ pg := 0, seqid := v.seqid, entry := v.entry, page := v.page, pool := v.pool, old := true }, some (versionBytes s p v))))

/-- Bytes of a tier's area for segments. -/
def tierArea (tier : Tier) (t : Tiers) : Nat := if tier = .t2 then t.flLen - t.logLen else t.t3len - t.logLen

/-- A tier-2 or tier-3 segment starts at this close where one is due and none is unfinished: its pages are taken now. -/
def startTier (tier : Tier) (p : Nat) (s : State) : State :=
  let f := (getPart s p).foldSt
  match f.tiers with
  | none => s
  | some t =>
    let due := if tier = .t2 then f.due2 && f.seg2.isNone && flashServes s else f.due3 && f.seg3.isNone && f.done3.isNone
    let all := if tier = .t2 then f.since2 else f.since3
    let since := all.filter (fun e => !pageRebuilt s e.1)
    let rest := all.filter (fun e => pageRebuilt s e.1)
    if !due then s
    else
      let own := f.versions.filter (fun v => decide (v.tier = tier))
      let r := readPages p since s
      let pad := if tier = .t2 then 1 else 4096
      let area := tierArea tier t
      let pos := if tier = .t2 then f.flPos else f.t3Pos
      let pages := carry s p tier area pos pad own (own.length + 1) r.1
      let last := s.tick.now.toNat
      let g : Segment := { first := (if tier = .t2 then f.t2Last else f.t3Last) + 1, last := last, pages := pages, off := 0, bytes := 0, sent := decide (tier = .t2) }
      let bs := segBytes tier p g 0
      let bs := if tier = .t2 then bs else padTo ((bs.length + 4095) / 4096 * 4096) bs
      if area < bs.length then r.2
      else
        let pl := place area pos bs.length
        let g := { g with off := pl.1, bytes := bs.length }
        let vs := overwrite tier pl.1 bs.length pl.2.2 f.versions
        if tier = .t2 then
          let s := match pl.2.2 with
            | some o => flashWrite p (t.flOff + t.logLen + o) (skipHeader .t2 p g) r.2
            | none => r.2
          modFold p (fun f => { f with seg2 := some g, since2 := rest, due2 := false, flPos := pl.2.1, versions := vs })
            (flashWrite p (t.flOff + t.logLen + pl.1) bs s)
        else
          let s := match pl.2.2 with
            | some o => (t3Send .note p t (t.logLen + o) (padTo 4096 (skipHeader .t3 p g)) r.2).2
            | none => r.2
          let q := t3Send (.tier3 p) p t (t.logLen + pl.1) bs s
          if q.1 then modFold p (fun f => { f with seg3 := some g, since3 := rest, due3 := false, t3Pos := pl.2.1, versions := vs }) q.2
          else q.2

/-- FOLD_SEGMENT_COMPLETE: every write is acknowledged and the COMPLETE word is written; the segment is complete with the
acknowledgement of that word (14 R390, R393). -/
def execFoldSegmentComplete (part : BitVec 4) (tier : Tier) (s : State) : Res :=
  let p := part.toNat
  let f := (getPart s p).foldSt
  let seg := match tier with
    | .t1 => f.seg1
    | .t2 => f.seg2
    | .t3 => f.seg3
  match seg, f.tiers with
  | some g, some t =>
    if ¬ g.sent then .next s
    else
      let w := natLe 8 (g.last + 1)
      match tier with
      | .t1 =>
        if f.done1.isSome then .next s
        else
          let s := modFold p (fun f => { f with seg1 := none, done1 := some g }) s
          let q := gSend (.foldDone p) p t.partner [(0, globalAddr t.partner t.fwin (t.ringOff + g.off + 0x28), w)] s
          .next (if q.1 = 0 then modFold p (foldFinished (segVersions .t1 0)) q.2 else if q.1 = 2 then foldBroken p q.2 else q.2)
      | .t2 =>
        if ¬ flashServes s then .next s
        else
          let base := t.flOff + t.logLen
          .next (modFold p (fun f => { f with seg2 := none, t2Last := g.last, versions := f.versions ++ segVersions .t2 base g })
            (flashWrite p (base + g.off + 0x28) w s))
      | .t3 =>
        let head := if p = 0 then w else wrB (padTo 4096 ((segBytes .t3 p g 0).take 4096)) 0x28 w
        let q := t3Send (.tier3Done p) p t (t.logLen + g.off + (if p = 0 then 0x28 else 0)) head s
        .next (if q.1 then modFold p (fun f => { f with seg3 := none, done3 := some g }) q.2 else s)
  | _, _ => .next s

/-! ### The fold of a close (14 R385, R391, R392) -/

/-- The pages of the sequences whose appends have committed, those that still wait for a rebuild left out (R402). -/
def committedPages (s : State) (p : Nat) : List FoldPage :=
  let rs := s.seqRecs.filter (fun r => r.committed && !r.refused)
  let ps := (rs.map (fun r => match poolAt s r.pool, seqAt s r.seqid with
    | some q, some v =>
      if decide (q.part = p) && !q.noFold then
        ((commitPages q r.list r.len0 (r.len0 + r.a)).map (fun x =>
          ({ pg := x.1, seqid := v.seqid, entry := x.2.1, page := x.2.2, pool := r.pool, old := false } : FoldPage))).filter (fun e => !pageRebuilt s e)
      else []
    | _, _ => [])).flatten
  (ps.foldl (fun a e => if a.any (fun x => decide (x.pg = e.pg)) then a else a ++ [e]) ([] : List FoldPage))

/-- Insert a page in ascending order. -/
def pageInsert (e : FoldPage) : List FoldPage → List FoldPage
  | [] => [e]
  | h :: t => if e.pg < h.pg then e :: h :: t else h :: pageInsert e t

/-- Set WP on pages. -/
def setWp (pages : List Nat) (s : State) : State :=
  { s with bonded := { s.bonded with wp := pages.foldl (fun m pg => smapSet false m pg true) s.bonded.wp } }

/-- Pages newer than, and then also, an older list's. -/
def mergePages (new old : List FoldPage) : List FoldPage := old.foldl (fun a e => if a.any (fun x => decide (x.pg = e.pg)) then a else a ++ [e]) new

/-- The fold ring is too short for a segment of n pages; with no TIERS record in effect there is no ring yet (log 52). -/
def ringShort (t : Option Tiers) (n : Nat) : Bool :=
  match t with
  | some t => decide (t.ringLen < segLen .t1 n)
  | none => false

/-- Declare the fold of a FOLD = 1 partition; one not yet streamed is merged into it (14 R385, R391, R392). -/
def declareFold (p : Nat) (s : State) : State :=
  let pages := committedPages s p
  let due := pages.map (fun e => (e, none))
  let s := modFold p (fun f => { f with
    -- a held first touch still waits only while its page keeps WP
    heldPgs := f.heldPgs.filter (fun pg => smapGet false s.bonded.wp pg)
    nPage := pages.length
    since2 := mergeDue due f.since2
    since3 := mergeDue due f.since3
    t1State := if f.t1State = 1 then 0 else f.t1State }) s
  let f := (getPart s p).foldSt
  let now := s.tick.now.toNat
  let (first, all) := match f.seg1 with
    | some g => (g.first, mergePages pages (g.pages.map Prod.fst))
    | none => (now, pages)
  let all := all.foldl (fun a e => pageInsert e a) []
  let s := if f.seg1.isSome then
      let s := disown (fun o => decide (o = .fold p)) s
      raise 0 0 (some p) 0x7004 first (modFold p (fun f => { f with t1State := if f.t1State = 2 then 2 else 1, touchUsed := [] }) s)
    else s
  if all.isEmpty ∧ f.seg1.isNone then s
  else if ringShort f.tiers all.length then
    raise 0 0 (some p) 0x7003 (segLen .t1 all.length) (clearWp (all.map (fun e => e.pg)) (modFold p (fun f => { f with seg1 := none }) s))
  else
    let g : Segment := { first := first, last := now, pages := all.map (fun e => (e, none)), off := 0, bytes := 0, sent := false }
    setWp (all.map (fun e => e.pg)) (modFold p (fun f => { f with seg1 := some g }) s)

/-! ### Commit digests and the log (14 R395 to R398, Table 14-5) -/

/-- COMMIT_DIGEST_COMPUTE: the digests of the commits of the last close (14 R397); with a page of them unreadable they never come. -/
def execCommitDigestCompute (part : BitVec 4) (s : State) : Res :=
  let p := part.toNat
  let f := (getPart s p).foldSt
  if f.pendDig.isEmpty || f.pendDig.any (fun d => d.2.isNone) then .next s
  else .next (modFold p (fun f => { f with haveDig := f.pendDig.map (fun d => shake256 16 (d.2.getD [])), haveTick := f.pendTick, pendDig := [] }) s)

/-- Digests not complete at the next close are abandoned. -/
def lateDigests (p : Nat) (s : State) : State :=
  let f := (getPart s p).foldSt
  if f.pendDig.isEmpty then s
  else raise 0 0 (some p) 0x7006 f.pendTick (modFold p (fun f => { f with pendDig := [] }) s)

/-- The logged tokens of a record's appends (R395): one without a place in the staging area is 0xFFFFFFFF. -/
def loggedTokens (p : Nat) (t : Option Tiers) (r : SeqRec) (s : State) : List Nat × State :=
  match t with
  | none => (List.replicate r.a 0xFFFFFFFF, s)
  | some t =>
  if t.tokLen < 4 * (r.offset + r.a) then (List.replicate r.a 0xFFFFFFFF, s)
  else
    let q := partRead p (t.tokBase + 4 * r.offset) (4 * r.a) s
    (if q.1 then List.replicate r.a 0xFFFFFFFF else (chunksOf 4 r.a q.2.1).map leNat, q.2.2)

/-- Jobs of the partition that ran in the tick. -/
def logJobs (s : State) (p : Nat) : List Job :=
  s.jobs.filter (fun j => decide (j.ent.part = p) && j.core.isSome && !(j.out = .refused || j.out = .deferred || j.out = .notPlaced || j.out = .none))

/-- The log entry of a sequence that left; `starch`: its partition runs in MODE starch. -/
def leftEntry (starch : Bool) (q : Seq) : LogSeq :=
  { seqid := q.seqid, a := 0, jidx := 0xFFF, join := false, done := q.done, starch := starch, left := true, lbase := q.len, tokens := [] }

/-- The sequence entries of a log record. -/
def logSeqs (p : Nat) (t : Option Tiers) (s : State) : List LogSeq × State :=
  let jobs := logJobs s p
  let recs := s.seqRecs.filter (fun r => !r.refused && (match poolAt s r.pool with
    | some q => decide (q.part = p) && !q.noFold
    | none => false))
  let a := recs.foldl (fun (a : List LogSeq × State) r =>
    let n := if r.committed then r.a else 0
    let k := if r.committed then loggedTokens p t r a.2 else ([], a.2)
    let q := seqAt s r.seqid
    let e : LogSeq := { seqid := r.seqid, a := n, jidx := (jobs.findIdx? (fun j => j.seqs.any (fun x => decide (x.1 = r.seqid) && x.2))).getD 0xFFF,
                        join := r.joined, done := (q.map (fun q => q.done)).getD false, starch := decide ((getPart s p).mode = 1), left := false,
                        lbase := r.len0, tokens := k.1 }
    (a.1 ++ [e], k.2)) ([], s)
  let left := (s.leaves.filterMap Prod.snd).filter (fun q => decide (q.part = p) && !(poolAt s q.pool).any (fun x => x.noFold))
  let left := left.map (leftEntry (decide ((getPart s p).mode = 1)))
  (a.1 ++ left, a.2)

/-- Bytes of a sequence entry. -/
def logSeqBytes (e : LogSeq) : List Byte :=
  let rest := (e.tokens.drop 1).map (natLe 4)
  let tail := rest.flatten
  natLe 8 (e.seqid + e.a % 65536 * 2 ^ 32 + e.jidx * 2 ^ 48 + b2n e.join * 2 ^ 60 + b2n e.done * 2 ^ 61 + b2n e.starch * 2 ^ 62 + b2n e.left * 2 ^ 63)
    ++ natLe 4 e.lbase ++ natLe 4 (e.tokens.headD 0) ++ padTo ((tail.length + 7) / 8 * 8) tail

/-- Bytes of a log record. -/
def logBytes (s : State) (p : Nat) (jobs : List LogJob) (seqs : List LogSeq) (digs : List (List Byte)) (digTick : Nat) : List Byte :=
  let plan := s.tick.plan
  let body := (jobs.map (fun j => natLe 8 j.jobid ++ natLe 8 j.seed.toNat ++ natLe 8 (j.stream.toNat % 2 ^ 32) ++ natLe 8 j.ctr.toNat)).flatten
    ++ (seqs.map logSeqBytes).flatten ++ digs.flatten
  let b := natLe 8 (0x474F4C4D + p * 2 ^ 32) ++ natLe 8 s.tick.now.toNat ++ natLe 8 ((plan.map (fun h => h.seq.toNat)).getD 0)
    ++ natLe 8 (128 + body.length + jobs.length * 2 ^ 32) ++ natLe 8 (seqs.length + digs.length * 2 ^ 16) ++ natLe 8 (if digs.isEmpty then 0 else digTick)
    ++ zeros 16 ++ ((plan.map (fun h => h.digest)).getD (zeros 32)) ++ zeros 32 ++ body
  wrB b 0x30 (shake256 16 b)

/-- The records of a sequence since it last joined, oldest first. -/
def seqLog (f : Fold) (id : Nat) : List (LogRec × LogSeq) :=
  f.logs.foldl (fun a r => match r.seqs.find? (fun e => decide (e.seqid = id) && !e.left) with
    | some e => if e.join then [(r, e)] else a ++ [(r, e)]
    | none => a) []

/-- A log area wraps over records: each held sequence of the partition that had joined by one of them raises LOG_WRAP (14 R398). -/
def logWrap (p : Nat) (recs : List LogRec) (s : State) : State :=
  let hit := s.seqs.filter (fun q => decide (q.part = p) && recs.any (fun r => decide (q.joinAt ≤ r.tick)))
  hit.foldl (fun s q => raise 0 0 (some p) 0x7007 q.seqid s) s

/-- Log records that a new one at [off, off + n), or the header of the space it skips, overwrites in the ring and in flash: one whose
copy tier 3 holds stays there (14 R398). -/
def wrapLog (p off n : Nat) (skip : Option Nat) (s : State) : State :=
  let f := (getPart s p).foldSt
  let gone (r : LogRec) : Bool := !r.gone && (overlap off n r.off r.bytes.length || skip.any (fun o => overlap o 64 r.off r.bytes.length))
  logWrap p (f.logs.filter gone) (modFold p (fun f => { f with
    logs := (f.logs.map (fun r => if gone r then { r with gone := true } else r)).filter (fun r => !r.gone || r.t3.isSome) }) s)

/-- The digests of the tick's commits are to be computed from the bytes committed (14 R397). -/
def pendDigests (p : Nat) (s : State) : List (Nat × Option (List Byte)) × State :=
  (s.seqRecs.filter (fun r => r.committed && !r.refused)).foldl (fun (a : List (Nat × Option (List Byte)) × State) r =>
    match poolAt s r.pool with
    | some q =>
      if decide (q.part = p) && !q.noFold then
        let m := commitRead q r.list r.len0 (r.len0 + r.a) a.2
        (a.1 ++ [(r.seqid, m.1)], m.2)
      else a
    | none => a) ([], s)

/-- Seal the log record of the tick (14 R396); with no TIERS record in effect no area takes it (log 52). -/
def sealLog (p : Nat) (s : State) : State :=
  let f := (getPart s p).foldSt
  let jobs : List LogJob := (logJobs s p).map (fun j => { jobid := j.ent.jobid, seed := j.seed0, stream := j.stream0, ctr := j.ctr0 })
  let q := logSeqs p f.tiers s
  let bs := logBytes s p jobs q.1 f.haveDig f.haveTick
  let area := (f.tiers.map (fun t => t.logLen)).getD 0
  let fits := decide (bs.length ≤ area)
  let pl := place area f.logPos bs.length
  let s := if fits then wrapLog p pl.1 bs.length pl.2.2 q.2 else q.2
  let d := pendDigests p s
  let r : LogRec := { tick := s.tick.now.toNat, jobs := jobs, seqs := q.1, digs := f.haveDig, digTick := f.haveTick, bytes := bs, off := pl.1,
                      skip := pl.2.2, flashOk := false, linkOk := false, gone := false, t3 := none }
  modFold p (fun f => { f with
    logs := if fits then f.logs ++ [r] else f.logs
    logPos := if fits then pl.2.1 else f.logPos
    digLast := if f.haveDig.isEmpty || !fits then f.digLast else f.haveTick
    haveDig := []
    pendDig := d.1
    pendTick := s.tick.now.toNat }) d.2

/-- The writes that put a log record into an area that begins at `base`, the skipped space marked first (14 R390, R396). -/
def logWrites (tier : Tier) (p base : Nat) (r : LogRec) : List (Nat × List Byte) :=
  let g : Segment := { first := r.tick, last := r.tick, pages := [], off := 0, bytes := 0, sent := false }
  (match r.skip with
    | some o => [(base + o, skipHeader tier p g)]
    | none => []) ++ [(base + r.off, r.bytes)]

/-- A record that flash or the partner still lacks, and may take now. -/
def logWaiting (s : State) (f : Fold) (r : LogRec) : Bool :=
  !r.gone && ((!r.flashOk && flashServes s) || (!r.linkOk && decide (f.t1State ≠ 2) && f.logTick.isNone))

/-- LOG_RECORD_WRITE: the oldest record not yet durable goes to the partner and to flash (14 R393, R396). -/
def execLogRecordWrite (part : BitVec 4) (s : State) : Res :=
  let p := part.toNat
  let f := (getPart s p).foldSt
  match f.tiers, f.logs.find? (logWaiting s f) with
  | some t, some r =>
    let s := if !r.flashOk && flashServes s then
        modFold p (fun f => logDurable { f with logs := f.logs.map (fun x => if x.tick = r.tick then { x with flashOk := true } else x) })
          ((logWrites .t2 p t.flOff r).foldl (fun s w => flashWrite p w.1 w.2 s) s)
      else s
    if !r.linkOk && decide (f.t1State ≠ 2) && f.logTick.isNone then
      let q := gSend (.log p) p t.partner ((logWrites .t1 p t.logOff r).map (fun w => (0, globalAddr t.partner t.fwin w.1, w.2)))
        (modFold p (fun f => { f with logTick := some r.tick }) s)
      .next (if q.1 = 0 then modFold p logAcked q.2 else if q.1 = 2 then foldBroken p q.2 else q.2)
    else .next s
  | _, _ => .next s

/-- Every T3EVERY ticks the records since the last copy go to the tier-3 log area, from a chunk boundary (14 R396; log 51); they are
copied when the last write is acknowledged. A record overwritten there raises LOG_WRAP too (R398). -/
def copyLog (p : Nat) (s : State) : State :=
  let f := (getPart s p).foldSt
  match f.tiers with
  | none => s
  | some t =>
    let rs := f.logs.filter (fun r => r.t3.isNone && !r.gone)
    let bs := (rs.map (fun r => r.bytes)).flatten
    let bs := padTo ((bs.length + 4095) / 4096 * 4096) bs
    if bs.isEmpty ∨ t.logLen < bs.length ∨ s.xfers.any (fun x => match x.owner with
        | .log3 n _ _ _ => decide (n = p)
        | _ => false) then s
    else
      let pl := place t.logLen f.t3Log bs.length
      let now := s.tick.now.toNat
      let g : Segment := { first := now, last := now, pages := [], off := 0, bytes := 0, sent := false }
      let s := match pl.2.2 with
        | some o => (t3Send .note p t o (padTo 4096 (skipHeader .t3 p g)) s).2
        | none => s
      let hit (r : LogRec) : Bool := r.t3.any (fun x => overlap pl.1 bs.length x.1 x.2 || pl.2.2.any (fun o => overlap o 64 x.1 x.2))
      let q := t3Send (.log3 p now pl.1 bs.length) p t pl.1 bs s
      if q.1 then logWrap p (f.logs.filter hit) (modFold p (fun f => overwriteLog3 pl.1 bs.length pl.2.2 { f with t3Log := pl.2.1 }) q.2) else s

/-- Close step 7 for a FOLD = 1 partition (14 R385, R394, R396, R397). -/
def closeFold (p : Nat) (s : State) : State :=
  let s := sealLog p (declareFold p (lateDigests p s))
  let f := (getPart s p).foldSt
  match f.tiers with
  | none => s
  | some t =>
    let now := s.tick.now.toNat
    let d2 := decide (t.t2every ≠ 0) && decide (now % t.t2every = 0)
    let d3 := decide (t.t3every ≠ 0) && decide (now % t.t3every = 0)
    let s := modFold p (fun f => { f with due2 := f.due2 || d2, due3 := f.due3 || d3 }) s
    startTier .t3 p (startTier .t2 p (if d3 then copyLog p s else s))

end Sys2Proof.Machine
end

