-- ==== Sys2Proof/Machine/Mend.lean ====
section
/-! DEFINITION. Ways back: restore and mending of sequences, refill of weights, zeroing, stores, and the FOLD status section
(09 R243, R249, 14 R384, R389, R399 to R405). -/

namespace Sys2Proof.Machine

open Sys2Proof

/-! ### The log as a restore reads it (14 R400, R401) -/

/-- L(t): the committed length of a sequence after tick t, taken from the log. -/
def lenAfter (f : Fold) (id t : Nat) : Nat :=
  (seqLog f id).foldl (fun n x => if x.1.tick ≤ t then x.2.lbase + x.2.a else n) 0

/-- The commit digest of a sequence's entry in a record, where it was logged. -/
def rangeDigest (f : Fold) (r : LogRec) (id : Nat) : Option (List Byte) :=
  match f.logs.find? (fun x => !x.digs.isEmpty && decide (x.digTick = r.tick)), (r.seqs.filter (fun e => decide (0 < e.a))).findIdx? (fun e => decide (e.seqid = id)) with
  | some x, some i => x.digs[i]?
  | _, _ => none

/-- A logged range matches its commit digest; one that is unverifiable does not. -/
def rangeExact (f : Fold) (p : Pool) (list : List Nat) (x : LogRec × LogSeq) (s : State) : Bool × State :=
  match rangeDigest f x.1 x.2.seqid with
  | some d =>
    let m := commitRead p list x.2.lbase (x.2.lbase + x.2.a) s
    (match m.1 with
      | some bs => decide (shake256 16 bs = d)
      | none => false, m.2)
  | none => (false, s)

/-- The ranges of a list that do not match. -/
def inexact (f : Fold) (p : Pool) (list : List Nat) (rs : List (LogRec × LogSeq)) (s : State) : List (LogRec × LogSeq) × State :=
  rs.foldl (fun (a : List (LogRec × LogSeq) × State) x =>
    let q := rangeExact f p list x a.2
    (if q.1 then a.1 else a.1 ++ [x], q.2)) ([], s)

/-- A range holds a slot byte in a page of list entry `i` of the restored pages. -/
def rangeWrote (p : Pool) (list : List Nat) (b : Rebuild) (e : LogSeq) : Bool :=
  (commitPages p list e.lbase (e.lbase + e.a)).any (fun x => b.wrote.any (fun w => decide (w.1 = x.2.1) && decide (w.2.1 = x.2.2)))

/-- LI after the check of the ranges below it that came from written pages (14 R401), or of all of them (R403). -/
def checkedLi (f : Fold) (p : Pool) (list : List Nat) (id : Nat) (b : Rebuild) (s : State) : Nat × State :=
  let rs := (seqLog f id).filter (fun x => decide (0 < x.2.a) && decide (x.2.lbase + x.2.a ≤ b.li)
    && (decide (b.check = .all) || rangeWrote p list b x.2))
  let q := inexact f p list rs s
  (q.1.foldl (fun n x => min n x.2.lbase) b.li, q.2)

/-- The logged token of a position. -/
def loggedToken (f : Fold) (id pos : Nat) : Option Nat :=
  (seqLog f id).reverse.findSome? (fun x => if x.2.lbase ≤ pos ∧ pos < x.2.lbase + x.2.a then x.2.tokens[pos - x.2.lbase]? else none)

/-! ### Rebuilds (14 R399 to R402) -/

/-- A row remap of the page's bank still runs. -/
def remapPending (s : State) (pg : Nat) : Bool :=
  let o := localOff (pg * pageSize)
  (getSlice s (sliceOf (pg * pageSize))).remaps.any (fun r => decide (r.1 % 16 = bankOf o) && decide (r.1 / 16 / 2 = dieOf o / 2) && decide (r.2.1 = rowOf o))

/-- Every page is written: the check, then the tokens to mend where a RESTORE record gave MTOK. A sequence that would have to mend
positions whose tokens no tier holds is KVLOST (14 R398, R401). -/
def finishPages (q : Seq) (b : Rebuild) (p : Pool) (list : List Nat) (s : State) : State :=
  let f := (getPart s q.part).foldSt
  let c := checkedLi f p list q.seqid b s
  let li := c.1
  let b := { b with li := li, check := .none }
  let toks := (List.range (b.lc - li)).map (fun i => loggedToken f q.seqid (li + i))
  let lost := toks.any Option.isNone
  if li = b.lc ∨ ¬ b.asked then modSeq q.seqid (fun v => { v with rebuild := some b, kvlost := v.kvlost || lost }) c.2
  else if lost then modSeq q.seqid (fun v => { v with rebuild := some b, kvlost := true, len := li }) c.2
  else
    let bs := ((toks.map (fun t => natLe 4 (t.getD 0))).flatten).take b.mtokLen
    modSeq q.seqid (fun v => { v with rebuild := some b, len := li }) (partWrite q.part b.mtok bs c.2).2

/-- Pages of an entry's group that are POISON. -/
def poisonPages (s : State) (p : Pool) (g : Nat) : List Nat :=
  (List.range (groupBytes p / 4096)).filter (fun k => isPoison s (pageOf (groupBase p g) + k))

/-- The newest tokens of a sequence in its durable records. -/
def durableTok (f : Fold) (id : Nat) : Nat :=
  (seqLog f id).foldl (fun t x => if x.1.flashOk && x.1.linkOk then x.2.tokens.getLastD t else t) 0

/-- The newest durable log entry of a sequence. -/
def durableEntry (f : Fold) (id : Nat) : Option LogSeq :=
  (f.logs.filter (fun r => r.flashOk && r.linkOk)).foldl (fun a r => match r.seqs.find? (fun e => decide (e.seqid = id)) with
    | some e => some e
    | none => a) none

/-- The pages that a rebuild is to restore, and those of an earlier one that it does not name (14 R399). -/
def mergeRestore (new old : List (Nat × Nat × Nat)) : List (Nat × Nat × Nat) :=
  new ++ old.filter (fun x => !new.any (fun y => decide (y.1 = x.1) && decide (y.2.1 = x.2.1)))

/-- The record whose group list a restore follows: the first of its sequence, in the sequence's pool and with groups of that pool. One
refused only because the module did not hold the sequence counts (14 R399). -/
def restoreRec (s : State) (id : Nat) (p : Pool) : Option SeqRec :=
  (s.seqRecs.find? (fun r => decide (r.seqid = id))).filter (fun r => decide (r.pool = p.pool) && r.list.all (fun g => decide (g < p.groups)))

/-- A RESTORE record that passes (14 R399): every page of the groups its sequence lists that is POISON or that the module does not
hold. -/
def startRestore (r : List Byte) (s : State) : State :=
  let h := rdN r 0 8
  let p := frPart r
  let id := bits h 63 32
  let pool := bits h 11 8
  let floor := max 1 (bits h 13 12)
  match poolAt s pool with
  | none => s
  | some pl =>
    let list := ((restoreRec s id pl).map (fun x => x.list)).getD []
    let held := seqAt s id
    let made : Option Seq := match held with
      | some q => if q.part = p ∧ q.pool = pool then some q else none
      | none => (durableEntry (getPart s p).foldSt id).bind (fun e => if e.left then none else
          some { seqid := id, pool := pool, part := p, len := e.lbase + e.a, done := e.done, tok := BitVec.ofNat 32 (durableTok (getPart s p).foldSt id),
                 approx := false, rebuild := none, kvlost := false, mended := false,
                 joinAt := ((seqLog (getPart s p).foldSt id).head?.map (fun x => x.1.tick)).getD s.tick.now.toNat })
    match made with
    | none => s
    | some q =>
      let fresh := held.isNone
      let s := if fresh then { s with seqs := s.seqs ++ [q] } else s
      let lc := (q.rebuild.map (fun b => b.lc)).getD q.len
      let pages := ((list.zip (List.range list.length)).map (fun e =>
        (if fresh then List.range (groupBytes pl / 4096) else poisonPages s pl e.1).map (fun k => (e.2, k, floor)))).flatten
      let pages := mergeRestore pages ((q.rebuild.map (fun b => b.pages)).getD [])
      let b : Rebuild := { lc := lc, li := (q.rebuild.map (fun b => b.li)).getD lc, floor := floor, pages := pages,
                           wrote := (q.rebuild.map (fun b => b.wrote)).getD [], mtok := bits (rdN r 8 8) 47 0, mtokLen := rdN r 0x10 8,
                           asked := true, opened := (q.rebuild.map (fun b => b.opened)).getD false,
                           check := if q.rebuild.any (fun b => b.check = .all) then .all else .written }
      let s := modSeq id (fun v => { v with rebuild := some b }) s
      if pages.isEmpty then finishPages q b pl list s else s

/-- The RESTORE records of the FOLD section, at open step 4; a pool used unfolded is treated as one of a FOLD = 0 partition (14 R383). -/
def applyRestores (recs : List (List Byte)) (s : State) : State :=
  ((List.range recs.length).zip recs).foldl (fun s x =>
    if frKind x.2 ≠ 3 then s
    else if foldRefused s none x.2 || (poolAt s (bits (rdN x.2 0 8) 11 8)).any (fun q => q.noFold) then raise 0 0 (some (frPart x.2)) 0x7002 x.1 s
    else startRestore x.2 s) s

/-- From the open after a restore started the sequence is REBUILDING (14 R399). -/
def openRebuilds (s : State) : State := { s with seqs := s.seqs.map (fun q => { q with rebuild := q.rebuild.map (fun b => { b with opened := true }) }) }

/-- A tier can be read now. -/
def tierReadable (s : State) (p : Nat) (tier : Tier) : Bool :=
  let f := (getPart s p).foldSt
  match tier, f.tiers with
  | _, none => false
  | .t1, some _ => decide (f.t1State ≠ 2)
  | .t2, some _ => flashOn s
  | .t3, some t => decide ((getQp s t.t3qp).st = .rts)

/-- Insert a version, newest first. -/
def newestInsert (v : Version) : List Version → List Version
  | [] => [v]
  | h :: t => if h.last < v.last then v :: h :: t else h :: newestInsert v t

/-- The complete versions of a page in a tier, newest first. -/
def versionsOf (f : Fold) (tier : Tier) (id entry page : Nat) : List Version :=
  (f.versions.filter (fun v => decide (v.tier = tier) && !v.lost && decide (v.seqid = id) && decide (v.entry = entry) && decide (v.page = page))).foldl
    (fun a v => newestInsert v a) []

/-- The first version whose digest holds, and how many failed before it. -/
def goodVersion (s : State) (p : Nat) : List Version → Option Version × Nat
  | [] => (none, 0)
  | v :: t =>
    if v.tier = .t1 || decide (shake256 16 (versionBytes s p v) = v.pdig) then (some v, 0)
    else let r := goodVersion s p t; (r.1, r.2 + 1)

/-- The best version of a page from tiers `ts` on (14 R400); each failed digest raises RESTORE_BAD. -/
def bestVersion (p pool id entry page lc : Nat) : List Tier → Option Version → State → Option Version × State
  | [], best, s => (best, s)
  | tier :: ts, best, s =>
    let f := (getPart s p).foldSt
    let r := if tierReadable s p tier then goodVersion s p (versionsOf f tier id entry page) else (none, 0)
    let s := (List.range r.2).foldl (fun s _ => raise 8 pool (some p) 0x7008 (tierNo tier) s) s
    let best := match best, r.1 with
      | none, v => v
      | some b, some v => if b.last < v.last then some v else some b
      | some b, none => some b
    match best with
    | some b => if lc ≤ lenAfter f id b.last then (best, s) else bestVersion p pool id entry page lc ts best s
    | none => bestVersion p pool id entry page lc ts best s

/-- What the fetch of a version takes of its partition's shares: the port to the partner, or the queue pair's (13 R368; log 80). -/
def fetchDebit (p : Nat) (tier : Tier) (s : State) : State :=
  match tier, (getPart s p).foldSt.tiers with
  | .t1, some t => match routePort s t.partner with
    | some q => debit p (200 + portNo q) pageSize s
    | none => s
  | .t3, some _ => debit p 204 sealedMsg s
  | _, _ => s

/-- RESTORE_PAGE: the next page of a sequence's rebuild (14 R400), written on behalf of its partition (13 R368). -/
def execRestorePage (seqid : Nat) (s : State) : Res :=
  match seqAt s seqid with
  | none => .next s
  | some q =>
    match q.rebuild, poolAt s q.pool with
    | some b, some pl =>
      match b.pages, restoreRec s seqid pl with
      | (i, k, t) :: rest, some r =>
        let pg := pageOf (groupBase pl (r.list.getD i 0)) + k
        if remapPending s pg ∨ (flashOn s ∧ ¬ flashServes s) then .next s
        else
          let ts := [Tier.t1, Tier.t2, Tier.t3].filter (fun x => decide (t ≤ tierNo x))
          let v := bestVersion q.part q.pool seqid i k b.lc ts none s
          let f := (getPart v.2 q.part).foldSt
          let r2 : Rebuild × State := match v.1 with
            | none => ({ b with pages := rest, li := min b.li (32 * i) }, v.2)
            | some x =>
              ({ b with pages := rest, wrote := b.wrote ++ [(i, k, tierNo x.tier)], li := min b.li (max (32 * i) (lenAfter f seqid x.last)) },
               chargeWrite q.part (pg * pageSize) pageSize
                 (memoTouch (pg * pageSize) pageSize (rewritePage pg (versionBytes v.2 q.part x) (fetchDebit q.part x.tier v.2))))
          let s := modSeq seqid (fun x => { x with rebuild := some r2.1 }) r2.2
          .next (if rest.isEmpty then finishPages q r2.1 pl r.list s else s)
      | _, _ => .next s
    | _, _ => .next s

/-- A rebuild whose ranges wait for the group list of a plan is checked at the first close that has it (14 R403). -/
def checkListed (s : State) (r : SeqRec) : State :=
  match seqAt s r.seqid, poolAt s r.pool with
  | some q, some p => match q.rebuild with
    | some b => if !r.refused && b.pages.isEmpty && decide (b.check = .all) then finishPages q b p r.list s else s
    | none => s
  | _, _ => s

/-- At close, the ranges that a mending sequence has fully appended are checked, and a rebuild that has reached Lc is complete
(14 R401, R402). -/
def mendClose (s : State) (r : SeqRec) : State :=
  let s := checkListed s r
  match seqAt s r.seqid, poolAt s r.pool with
  | some q, some p =>
    match q.rebuild with
    | none => s
    | some b =>
      if r.refused then s
      else
        let f := (getPart s q.part).foldSt
        let rs := (seqLog f r.seqid).filter (fun x => decide (0 < x.2.a) && decide (r.len0 < x.2.lbase + x.2.a) && decide (x.2.lbase + x.2.a ≤ q.len))
        let c := if b.li < b.lc then inexact f p r.list rs s else ([], s)
        let bad := c.1
        let s := bad.foldl (fun s x => if x.2.starch then raise 8 r.pool (some q.part) 0x7009 r.seqid s else s) c.2
        let done := b.pages.isEmpty && decide (b.check = .none) && decide (q.len = b.lc) && (b.asked || decide (b.li = b.lc))
        modSeq r.seqid (fun v => { v with
          approx := v.approx || !bad.isEmpty
          mended := v.mended || (done && decide (b.li < b.lc))
          rebuild := if done then none else some b }) s
  | _, _ => s

/-! ### The belfry's SRAM (14 R403) -/

/-- A parity error in the state of a held sequence: L, DONE and last token come from the newest durable log record since it joined; with
its last record not durable it is MENDING until its ranges verify, which waits for a plan that lists its groups. -/
def sramRestore (q : Seq) (s : State) : State :=
  let f := (getPart s q.part).foldSt
  let e := (((seqLog f q.seqid).filter (fun x => x.1.flashOk && x.1.linkOk)).getLast?).map Prod.snd
  let len := (e.map (fun e => e.lbase + e.a)).getD 0
  let q' : Seq := { q with len := len, done := (e.map (fun e => e.done)).getD false, tok := BitVec.ofNat 32 (durableTok f q.seqid) }
  let durable := (seqLog f q.seqid).getLast?.any (fun x => x.1.flashOk && x.1.linkOk)
  if durable then modSeq q.seqid (fun _ => q') s
  else
    let b : Rebuild := { lc := len, li := len, floor := 1, pages := [], wrote := [],
                         mtok := 0, mtokLen := 0, asked := false, opened := true, check := .all }
    let s := modSeq q.seqid (fun _ => { q' with rebuild := some b }) s
    match (poolAt s q.pool).bind (fun p => (restoreRec s q.seqid p).map (fun r => (p, r.list))) with
    | some x => finishPages q' b x.1 x.2 s
    | none => s

/-- The belfry checks its SRAM: which sequences show an error is open (log 99). -/
def sramCheck (s : State) : State :=
  let f := takeFree s
  s.seqs.foldl (fun s q => if Config.sramUpset f.1 q.seqid then sramRestore q s else s) f.2

/-! ### Way back of poisoned pages (09 R243, 14 R384) -/

/-- The refill entry that covers a page. -/
def refillOf' (f : Fold) (pg : Nat) : Option (Nat × Nat × Nat × W64) :=
  f.refill.find? (fun e => decide (e.1 ≤ pg * pageSize) && decide (pg * pageSize + pageSize ≤ e.1 + e.2.1))

/-- The pool of a partition one of whose KV frames a page holds, from the last plan's records. -/
def kvPool (s : State) (p pg : Nat) : Option Pool :=
  s.kvPools.find? (fun q => decide (q.part = p) && !q.off
    && (poolRuns q).any (fun r => decide (r.1 ≤ pg * pageSize) && decide (pg * pageSize < r.1 + r.2)))

/-- The sequence record that lists a page's group, with the list entry and the page within the group. -/
def listedPage (s : State) (q : Pool) (pg : Nat) : Option (Nat × Nat × Nat) :=
  s.seqRecs.findSome? (fun r =>
    if r.refused || decide (r.pool ≠ q.pool) then none
    else (r.list.findIdx? (fun g => decide (pageOf (groupBase q g) ≤ pg) && decide (pg < pageOf (groupBase q g) + groupBytes q / 4096))).map
      (fun i => (r.seqid, i, pg - pageOf (groupBase q (r.list.getD i 0)))))

/-- A poisoned KV page is restored (14 R399, R402). -/
def restorePoison (id i k : Nat) (s : State) : State :=
  modSeq id (fun q => { q with rebuild :=
    match q.rebuild with
    | none => some { lc := q.len, li := q.len, floor := 1, pages := [(i, k, 1)], wrote := [], mtok := 0, mtokLen := 0, asked := false, opened := false,
                     check := .written }
    | some b =>
      if b.pages.any (fun x => decide (x.1 = i) && decide (x.2.1 = k)) then some b
      else
        let t := ((b.wrote.find? (fun x => decide (x.1 = i) && decide (x.2.1 = k))).map (fun x => x.2.2 + 1)).getD b.floor
        some { b with pages := b.pages ++ [(i, k, t)], check := if b.check = .all then .all else .written, wrote := b.wrote.filter (fun x => !(decide (x.1 = i) && decide (x.2.1 = k))) } }) s

/-- The way back of a page is chosen. -/
def wayChosen (pg : Nat) (s : State) : State := { s with bonded := { s.bonded with wayDone := smapSet false s.bonded.wayDone pg true } }

/-- A page without a way back is zeroed; a save image it held a part of is lost (14 Table 14-1). -/
def zeroPage (p pg : Nat) (s : State) : State :=
  let a := pg * pageSize
  let s := memoTouch a pageSize (rewritePage pg (zeros pageSize) s)
  let s := { s with images := s.images.filter (fun i => !(decide (i.part = p) && overlap i.save imageSize a pageSize)) }
  raise 2 (sliceOf a) (some p) 0x3007 a s

/-- A page loses its only copy. -/
def weightLost (pg : Nat) (s : State) : State := raise 2 (sliceOf (pg * pageSize)) (some 0) 0x700B (pg * pageSize) (wayChosen pg s)

/-- Choose the way back of one POISON page at a close (09 R243, 14 Table 14-1). A KV page of a folded pool that no sequence of the plan
in effect lists waits (log 93). -/
def wayBack (s : State) (pg : Nat) : State :=
  let g := smapGet GranAttr.reset s.bonded.gran (granOf (pg * pageSize))
  let p := g.tag.toNat
  let v := getPart s p
  if smapGet false s.bonded.wayDone pg || !g.a then s
  else if p = 0 && (refillOf' v.foldSt pg).isNone then weightLost pg s
  else if rowRetired s pg || remapPending s pg || decide ((getSlice s (sliceOf (pg * pageSize))).st = .failed) then s
  else
    match refillOf' v.foldSt pg with
    | some e => if decide (p = 0) && decide (e.2.2.1 = 0) && !flashOn s then weightLost pg s else wayChosen pg s
    | none =>
      match kvPool s p pg with
      | none => zeroPage p pg s
      | some q =>
        match listedPage s q pg with
        | none => if v.fold && !q.noFold then s else zeroPage p pg s
        | some x =>
          if v.fold && !q.noFold then wayChosen pg (restorePoison x.1 x.2.1 x.2.2 s)
          else zeroPage p pg (modSeq x.1 (fun y => { y with kvlost := true }) s)

/-- The way back of every POISON page, and the remap list to module flash (09 R243, R249). -/
def closeRepairs (s : State) : State :=
  let s := ((s.bonded.poison.filter (fun e => e.2)).map Prod.fst).foldl wayBack s
  if flashServes s then { s with flashRows := s.flashRows ++ s.bonded.remapList, bonded := { s.bonded with remapList := [] } } else s

/-- POISON_PAGE_REFILL: the page is refetched from its refill copy and rewritten (14 R404; 19 R508). It is counted at its slice (09 R255);
the refill is background work and no partition is charged (20 Table 20-1). -/
def execPoisonPageRefill (page : Nat) (s : State) : Res :=
  unitRes (decide (page < 50331648)) (
    let a := page * pageSize
    let g := smapGet GranAttr.reset s.bonded.gran (granOf a)
    let p := g.tag.toNat
    if !isPoison s page || !g.a then s
    else match refillOf' (getPart s p).foldSt page with
      | none => if p = 0 && !smapGet false s.bonded.wayDone page then weightLost page s else s
      | some e =>
        if remapPending s page || rowRetired s page then s
        else if e.2.2.1 = 0 then
          if flashServes s then refillDone page (bStore a (flashRead s p (e.2.2.2.toNat + (a - e.1)) pageSize) s)
          else if p = 0 && !flashOn s && !smapGet false s.bonded.wayDone page then weightLost page s else s
        else if s.xfers.any (fun x => decide (x.owner = .refill page)) then s
        else (gRead (.refill page) true p (e.2.2.2.toNat + (a - e.1)) a pageSize s).2)

/-! ### Stores (14 R389) -/

/-- Copy the pages of a store, each read charged where the page lies: the bytes read, or the address of the page whose read failed. -/
def storePages (p : Nat) : Nat → Nat → State → List Byte × Option Nat × State
  | 0, _, s => ([], none, s)
  | n + 1, a, s =>
    let r := partRead p a pageSize s
    if r.1 then ([], some a, r.2.2)
    else
      let t := storePages p n (a + pageSize) r.2.2
      (r.2.1 ++ t.1, t.2.1, t.2.2)

/-- STORE_COMPLETE: the oldest store of a partition is programmed and read back, or stops at a parity error. -/
def execStoreComplete (part : BitVec 4) (s : State) : Res :=
  let p := part.toNat
  let f := (getPart s p).foldSt
  match f.stores with
  | [] => .next s
  | x :: rest =>
    if ¬ flashServes s then .next s
    else
      let r := storePages p (x.len / pageSize) x.bbase s
      let s := flashWrite p x.dst r.1 r.2.2
      .next (match r.2.1 with
        | none => modFold p (fun f => { f with stores := rest, storeDone := f.storeDone + 1 }) s
        | some a => raise 2 (sliceOf a) (some p) 0x700C a (modFold p (fun f => { f with stores := rest, storeFail := f.storeFail + 1 }) s))

/-! ### The FOLD status section (14 R405, Table 14-6) -/

/-- Positions that await mending. -/
def mendPositions (s : State) (p : Nat) : Nat :=
  (s.seqs.filter (fun q => decide (q.part = p))).foldl (fun n q => match q.rebuild with
    | some b => n + (if b.asked then b.lc - q.len else b.lc - b.li)
    | none => n) 0

/-- The entry of a partition. -/
def foldEntry (s : State) (p : Nat) : List Byte :=
  let f := (getPart s p).foldSt
  let rb := (s.seqs.filter (fun q => decide (q.part = p) && q.rebuild.isSome)).length
  natLe 4 (p + f.t1State * 16 + rb % 65536 * 65536) ++ natLe 4 f.nPage ++ natLe 4 f.touches ++ natLe 4 f.heldTouch ++ natLe 8 f.t1Last
    ++ natLe 8 f.t2Last ++ natLe 8 f.t3Last ++ natLe 8 f.digLast ++ natLe 8 f.logLast ++ natLe 4 (mendPositions s p)
    ++ natLe 2 f.storeDone ++ natLe 1 (min 255 f.stores.length) ++ natLe 1 (min 255 f.storeFail)

/-- The partitions that have an entry. -/
def foldParts (s : State) : List Nat :=
  (List.range 16).filter (fun p =>
    let v := getPart s p
    v.fold || !v.foldSt.stores.isEmpty || decide (v.foldSt.storeDone ≠ 0) || decide (v.foldSt.storeFail ≠ 0))

/-- The FOLD section. -/
def foldSection (s : State) : List Byte := ((foldParts s).map (foldEntry s)).flatten

/-- The counts of the tick start again. -/
def clearFoldCounts (s : State) : State :=
  (foldParts s).foldl (fun s p => modFold p (fun f => { f with storeDone := 0, storeFail := 0, touches := 0, heldTouch := 0 }) s) s

end Sys2Proof.Machine
end

