-- ==== Sys2Proof/Machine/Digest.lean ====
section
/-! DEFINITION. Result digests (15 R409, R415 to R420). -/

namespace Sys2Proof.Machine

open Sys2Proof

/-- The address of request record i (15 R416). -/
def digAddr (v : Part) (i : Nat) : Nat := bits v.dig.toNat 47 0 + 256 * i

/-- A range of a record: its address and length. -/
def digRange (r : List Byte) (off : Nat) : Nat × Nat := (bits (rdN r off 8) 47 0, rdN r (off + 8) 8)

/-- A range lies in extents; an empty one does. -/
def rangeOk (exts : List (Nat × Nat)) (x : Nat × Nat) : Bool := decide (x.2 = 0) || rangeIn exts x.1 x.2

/-- The ranges of a record lie where R418 asks. -/
def digRangesOk (s : State) (p : Nat) (r : List Byte) : Bool :=
  let own := (getPart s p).exts
  let p0 := (getPart s 0).exts
  rangeOk own (digRange r 0x08) && rangeOk own (digRange r 0x18)
    && [0x28, 0x38].all (fun o => rangeOk own (digRange r o) || rangeOk p0 (digRange r o))

/-- Write the J9's flags of a record's word 0, every other bit as the job wrote it (15 R416). -/
def digFlags (p addr flags : Nat) (r : List Byte) (s : State) : State :=
  let w := rdN r 0 8
  (partWrite p addr (natLe 8 (w - bits w 38 34 * 2 ^ 34 + flags)) s).2

/-- DONE. -/
def digDone : Nat := 2 ^ 34
/-- ORDERLOST. -/
def digLost : Nat := 2 ^ 35
/-- NOSTARCH. -/
def digNoStarch : Nat := 2 ^ 36
/-- REFUSED. -/
def digRefused : Nat := 2 ^ 37
/-- LATE. -/
def digLate : Nat := 2 ^ 38

/-- The flags that every record of the partition takes: whether float adds were applied on arrival, and whether it was no starch
partition (15 R409, R416). -/
def digState (lost starch : Bool) : Nat := (if lost then digLost else 0) + (if starch then 0 else digNoStarch)

/-- A request ends without digests: TICK, and its flags last. -/
def digEnd (p addr tick flags : Nat) (r : List Byte) (s : State) : State :=
  digFlags p addr (digDone + flags) r (partWrite p (addr + 0x48) (natLe 8 tick) s).2

/-- The record of a part at an index, where it asks to be served and does not wait already (15 R418; log 53). -/
def digAsked (s : State) (p i : Nat) : Option (List Byte) × State :=
  let v := getPart s p
  let a := digAddr v i
  if !rangeIn v.exts a 256 || s.digReqs.any (fun d => decide (d.part = p) && decide (d.addr = a)) then (none, s)
  else
    let r := partRead p a 256 s
    let w := rdN r.2.1 0 8
    (if r.1 || !bit w 32 || bit w 34 then none else some r.2.1, r.2.2)

/-- Take one record at a close. -/
def takeDigest (p i : Nat) (s : State) : State :=
  let q := digAsked s p i
  match q.1 with
  | none => q.2
  | some r =>
    let s := q.2
    let v := getPart s p
    let a := digAddr v i
    match s.jobs.find? (fun j => decide (j.ent.part = p) && decide (j.ent.jobid = rdN r 0 4) && j.out = .complete) with
    | none => digEnd p a s.tick.now.toNat (digRefused + digState v.lost (decide (v.mode = 1))) r s
    | some j =>
      if !digRangesOk s p r then digEnd p a s.tick.now.toNat (digRefused + digState v.lost (decide (v.mode = 1))) r s
      else
        let d : DigReq := { part := p, addr := a, rec' := r, tick := s.tick.now.toNat, core := j.core.getD 0, prog := j.prog, seed := j.start.seed,
                            stream := j.start.stream, ctr := j.start.ctr, plandig := j.start.plandig,
                            starch := decide (v.mode = 1), lost := v.lost }
        { s with digReqs := s.digReqs ++ [d] }

/-- At close, after step 7: requests unserved for 256 ticks are LATE, then new ones are taken (15 R418). -/
def closeDigests (s : State) : State :=
  let late (d : DigReq) : Bool := decide (d.tick + 256 ≤ s.tick.now.toNat)
  let old := s.digReqs.filter late
  let s := { s with digReqs := s.digReqs.filter (fun d => !late d) }
  let s := old.foldl (fun s d => digEnd d.part d.addr d.tick (digLate + digState d.lost d.starch) d.rec' s) s
  (List.range 16).foldl (fun s p =>
    let v := getPart s p
    if v.st = .active && bit v.dig.toNat 63 then (List.range (bits v.dig.toNat 59 48)).foldl (fun s i => takeDigest p i s) s else s) s

/-- Read a range for hashing, charged to the partition (13 R368); none where a byte cannot be read. -/
def digBytes (p : Nat) (x : Nat × Nat) (s : State) : Option (List Byte) × State :=
  if x.2 = 0 then (some [], s)
  else let r := partRead p x.1 x.2 s; (if r.1 then none else some r.2.1, r.2.2)

/-- LE64 of a length, then the bytes (15 R417). -/
def withLen (b : List Byte) : List Byte := natLe 8 b.length ++ b

/-- WGT, from a memo where one is valid (15 R419). -/
def digWeights (p : Nat) (r : List Byte) (s : State) : Option (List Byte) × State :=
  let x := digRange r 0x28
  let y := digRange r 0x38
  let key := [x.1, x.2, y.1, y.2]
  match s.memos.find? (fun m => decide (m.1 = key)) with
  | some m => (some m.2, s)
  | none =>
    let a := digBytes p x s
    let b := digBytes p y a.2
    match a.1, b.1 with
    | some a', some b' =>
      let h := shake256 32 (withLen a' ++ withLen b')
      (some h, { b.2 with memos := keepLast 16 (b.2.memos ++ [(key, h)]) })
    | _, _ => (none, b.2)

/-- "SJ9RD1". -/
def rdLabel : List Byte := [0x53, 0x4A, 0x39, 0x52, 0x44, 0x31]

/-- The fields the J9 writes for a request (15 R416, R417): INP's first bytes, OUTD, WGT and RD. -/
def digFields (d : DigReq) (wgt inp outd : List Byte) : List (Nat × List Byte) :=
  let rd := shake256 32 (rdLabel ++ d.prog ++ wgt ++ inp ++ (if bit (rdN d.rec' 0 8) 33 then d.plandig else []))
  [(0x48, natLe 8 d.tick), (0x50, rd), (0x70, outd), (0x90, d.prog), (0xB0, wgt), (0xD0, inp.take 16)]

/-- DIGEST_HASH: the oldest request, from the open after it was taken; a range that cannot be read puts it behind the others
until it is served or LATE (15 R418). -/
def execDigestHash (s : State) : Res :=
  match s.digReqs with
  | [] => .next s
  | d :: rest =>
    if s.tick.now.toNat ≤ d.tick then .next s
    else
      let w := digWeights d.part d.rec' s
      let i := digBytes d.part (digRange d.rec' 0x08) w.2
      let o := digBytes d.part (digRange d.rec' 0x18) i.2
      match w.1, i.1, o.1 with
      | some wgt, some ib, some ob =>
        let inp := shake256 32 (withLen ib ++ natLe 8 d.seed.toNat ++ natLe 8 d.stream.toNat ++ natLe 8 d.ctr.toNat)
        let s := (digFields d wgt inp (shake256 32 (withLen ob))).foldl (fun s f => (partWrite d.part (d.addr + f.1) f.2 s).2) { o.2 with digReqs := rest }
        .next (digFlags d.part d.addr (digDone + digState d.lost d.starch) d.rec' s)
      | _, _, _ => .next { o.2 with digReqs := rest ++ [d] }

end Sys2Proof.Machine
end

