-- ==== Sys2Proof/Machine/DmaOps.lean ====
section
/-! DEFINITION. `dma`, `dwait` and `dwaitall` (04 R132 to R134). Each meaning issues its word on its core (Machine/Issue.lean). -/

namespace Sys2Proof.Machine

open Sys2Proof

/-- `dma` (R132): Reads, checks and queues descriptors on a DMA channel. -/
def execDma (core : Nat) (h : Head) (o : FmtD) (s : State) : Res := issue core .dma (wordD .dma h o) 0 s

/-- `dwait` (R132): Holds issue until every earlier descriptor on a channel has completed. -/
def execDwait (core : Nat) (h : Head) (o : FmtD) (s : State) : Res := issue core .dwait (wordD .dwait h o) 0 s

/-- `dwaitall` (R132): Holds issue until every earlier descriptor on every channel has completed. -/
def execDwaitall (core : Nat) (h : Head) (o : FmtD) (s : State) : Res := issue core .dwaitall (wordD .dwaitall h o) 0 s

end Sys2Proof.Machine
end

