-- ==== Sys2Proof/Machine/MatrixOps.lean ====
section
/-! DEFINITION. The matrix instructions (04 R117 to R121). Each meaning issues its word on its core (Machine/Issue.lean). -/

namespace Sys2Proof.Machine

open Sys2Proof

/-- `mmac` (R149): Accumulates a 128 x K by K x 128 matrix product into an accumulator with grouped rounding. -/
def execMmac (core : Nat) (h : Head) (o : FmtM) (s : State) : Res := issue core .mmac (wordM .mmac h o) 0 s

/-- `mdrain` (R120): Converts an accumulator into S-space under the destination format and scale mode. -/
def execMdrain (core : Nat) (h : Head) (o : FmtM) (s : State) : Res := issue core .mdrain (wordM .mdrain h o) 0 s

/-- `mload` (R121): Loads an accumulator with f32 or i32 values from S-space. -/
def execMload (core : Nat) (h : Head) (o : FmtM) (s : State) : Res := issue core .mload (wordM .mload h o) 0 s

/-- `mzero` (R121): Zeroes an accumulator and sets its kind to f32. -/
def execMzero (core : Nat) (h : Head) (o : FmtM) (s : State) : Res := issue core .mzero (wordM .mzero h o) 0 s

end Sys2Proof.Machine
end

