-- ==== Sys2Proof/Machine/Power.lean ====
section
/-! DEFINITION. Power, heat, resets and bring-up (09 R252, 18 R488 to R490, 19 R506 to R518, 20 R532, R541, R543, 21 R548, R557). -/

namespace Sys2Proof.Machine

open Sys2Proof

/-! ### Sensors (19 R512, 09 R252; 20 Table 20-11, DET 11) -/

/-- A thermal injection acts on this unit now; 1 ms per count from the clk it was armed. -/
def thermInj (s : State) (kind idx : Nat) : Bool :=
  let t := s.test
  t.arm && decide (t.det.toNat = 11) && decide (t.unit = unitCode kind idx) && decide (s.clk < t.armAt + us (1000 * max 1 t.count.toNat))

/-- The offset it adds. -/
def thermOff (s : State) (kind idx : Nat) : Int := if thermInj s kind idx then sgn 8 s.test.injAddr.toNat else 0

/-- DONE counts the milliseconds it has acted; ARM clears after COUNT of them. -/
def thermDone (s : State) : State :=
  let t := s.test
  if t.arm && decide (t.det.toNat = 11) then
    let n := max 1 t.count.toNat
    let k := min n ((s.clk - t.armAt) / us 1000 + 1)
    let past := decide (t.armAt + us (1000 * n) ≤ s.clk)
    { s with test := { t with done := BitVec.ofNat 8 (if past then n else k), arm := !past } }
  else s

/-! ### Pre-emption by heat (19 R513, R514) -/

/-- A running job has issued no instruction yet. -/
def notStarted (s : State) (n : Nat) (j : CoreJob) : Bool :=
  match (findImage s j.part j.jobid), s.jobs[j.index]? with
  | some i, some b => if b.ent.kind then decide ((getCore s n).nseq = i.nseq) else decide ((getCore s n).nseq = 0)
  | _, _ => decide ((getCore s n).nseq = 0)

/-- Stop the job of core n: pre-empted, or DEFERRED where it has not begun. -/
def heatStop (s : State) (n : Nat) : State :=
  match (getCore s n).job with
  | none => s
  | some j =>
    if j.st ≠ .running then s
    else if notStarted s n j then
      let s' := setCore n { Core.reset with spadArb := (getCore s n).spadArb } s
      match s.jobs[j.index]? with
      | some b => { s' with jobs := s.jobs.set j.index { b with out := .deferred, seed0 := j.seed0, stream0 := j.stream0, ctr0 := j.ctr0 } }
      | none => s'
    else preempt n s

/-- Pre-empt a quad and drain its edge descriptors; it goes off with the last of them. -/
def heatQuad (q : Nat) (s : State) : State :=
  let s := (quadCores q).foldl heatStop s
  let v := getQuad s q
  if v.st = .off || v.st = .failed then s
  else settleQuads (setQuad q { v with wantOff := true, rampAt := s.clk } s)

/-- A slice takes a refresh step. -/
def setRefresh (inj : Bool) (n : Nat) (step : BitVec 2) (s : State) : State :=
  if (getSlice s n).refStep = step then s
  else raiseI inj 2 n none 0x3005 step.toNat (modSlice n (fun v => { v with refStep := step }) s)

/-- Module trip (19 R514). -/
def trip (inj : Bool) (s : State) : State :=
  if s.power.tripped then s
  else
    let s := raiseI inj 0 0 none 0xA006 (byteOf (tjMax s) + 256 * byteOf (tsMax s)) s
    let s := { s with power := { s.power with trip := true, tripped := true, tripCool := none, tripInj := inj } }
    let s := (List.range 25).foldl (fun s q => heatQuad q s) s
    tripOff ((List.range 100).foldl (fun s n => if (getSlice s n).refStep = 3 then s else setRefresh inj n 2 s) s)

/-- Since when every junction and every stack has stayed at or below 95 degrees. -/
def trackCool (s : State) : State :=
  let c : Option Nat := if tjMax s ≤ 95 ∧ tsMax s ≤ 95 then some (s.power.tripCool.getD s.clk) else none
  { s with power := { s.power with tripCool := c } }

/-- The step of a stack temperature. -/
def stackStep (t : Int) : BitVec 2 := if 105 < t then 3 else if 95 < t then 2 else if 85 < t then 1 else 0

/-- STACK_TEMP_SAMPLE: the hotter of a slice's two sensors sets its refresh step (09 R252). -/
def execStackTempSample (slice : Nat) (l0 l7 : Int) (s : State) : Res :=
  unitRes (decide (slice < 100)) (
    if !isUp s then s
    else
      let inj := thermInj s 2 slice
      let t := max l0 l7 + thermOff s 2 slice
      let s := modSlice slice (fun v => { v with
        temp := t
        above82 := if 82 < t then s.clk else v.above82
        above92 := if 92 < t then s.clk else v.above92
        above102 := if 102 < t then s.clk else v.above102 }) (thermDone s)
      let v := getSlice s slice
      let up := stackStep t
      let cool (above : Nat) : Bool := decide (above + us 10000 ≤ s.clk)
      let low : BitVec 2 := if s.power.tripped || !cool v.above92 then 2 else if !cool v.above82 then 1 else 0
      let down : BitVec 2 := if v.refStep = 3 && !cool v.above102 then 3 else if v.refStep.toNat ≤ low.toNat then v.refStep else low
      let s := trackCool (setRefresh inj slice (if v.refStep.toNat < up.toNat then up else if down.toNat < up.toNat then up else down) s)
      tripOff (if 105 < t then trip inj s else s))

/-- The thermal step a junction puts a quad into (19 Table 19-3): HOLD and EMERG are left at an open only. -/
def junctionStep (old : Therm) (t : Int) : Therm :=
  if 104 < t ∨ old = .emerg then .emerg
  else if 100 < t ∨ old = .hold then .hold
  else if 95 < t then .warn else .normal

/-- JUNCTION_SAMPLE: a quad's junction is read (19 R512 to R514). -/
def execJunctionSample (quad : Nat) (temp : Int) (s : State) : Res :=
  unitRes (decide (quad < 25)) (
    if !isUp s then s
    else
      let inj := thermInj s 3 quad
      let t := temp + thermOff s 3 quad
      let v := getQuad s quad
      let step := junctionStep v.step t
      let s := setQuad quad { v with
        temp := t
        step := step
        coolAt := if t ≤ 95 then some (v.coolAt.getD s.clk) else none } (thermDone s)
      let s :=
        if step = v.step then s
        else match step with
          | .normal => s
          | .warn => raiseI inj 3 quad none 0xA003 (byteOf t) s
          | .hold => raiseI inj 3 quad none 0xA004 (byteOf t) s
          | .emerg => heatQuad quad (raiseI inj 3 quad none 0xA005 (byteOf t) s)
      let s := trackCool s
      tripOff (settleQuads (if 107 < t then trip inj s else s)))

/-! ### Quads (19 R507, R509) -/

/-- A quad that has ramped is ON, or HELD where it is too hot to take jobs. -/
def quadReady (v : Quad) : DomSt := if v.step = .hold then .held else .on

/-- QUAD_RAMP_COMPLETE: 100 us after its ramp began the quad is ON. -/
def execQuadRampComplete (quad : Nat) (s : State) : Res :=
  unitRes (decide (quad < 25)) (
    let v := getQuad s quad
    if v.st ≠ .ramp then s
    else
      let s := passTo (v.rampAt + us 100) s
      if v.wantOff then quadOff quad s else setQuad quad { v with st := quadReady v } s)

/-- QUAD_CYCLE_OFF_END: after 1 ms off, a cycled quad ramps where its bit requests it. -/
def execQuadCycleOffEnd (quad : Nat) (s : State) : Res :=
  unitRes (decide (quad < 25)) (
    let v := getQuad s quad
    match v.cycleAt with
    | none => s
    | some t =>
      if v.st ≠ .off then s
      else
        let s := setQuad quad { v with cycleAt := none } (passTo (t + us 1000) s)
        if quadMay s quad then quadRamp quad s else s)

/-! ### Domains off (19 R506) and bring-up (19 R517, R518) -/

/-- What a reset leaves of the slices: one that has FAILED stays out of service until the module is replaced (09 R251). -/
def failedSlices (s : State) : SMap Slice :=
  (s.bonded.slices.filter (fun e => decide (e.2.st = .failed))).map (fun e => (e.1, { Slice.reset with st := .failed }))

/-- What a reset leaves of the tiers: module flash, the partners and the shared stores keep what they hold (14 R399, R400; log 80). Of the
keys it keeps fingerprints alone, which tell whether a later key opens what the shared store holds (18 R504). -/
def keptTiers (s : State) : List TierMem :=
  let seals (v : Part) : List (List Byte) := v.keys.host.map (fun k => shake256 32 k.material)
  let now := s.parts.filterMap (fun (e : Nat × Part) => e.2.foldSt.tiers.map (fun t =>
    ({ part := e.1, tiers := t, versions := e.2.foldSt.versions, logs := e.2.foldSt.logs, seals := seals e.2 } : TierMem)))
  now ++ s.tierMem.filter (fun m => !now.any (fun n => decide (n.part = m.part)))

/-- Every domain goes off at once; flash, fuses and boot slots keep their contents. `cause` is what the next boot reports. A bring-up that
had not reached step 3 has chosen no image yet (19 R517). -/
def domainsOff (cause : Nat) (s : State) : State :=
  let early := match s.boot with
    | .up t _ => decide (s.clk < t + us 15000)
    | .off => false
  { State.reset with
    pending := s.pending, clk := s.clk, free := s.free, nuid := s.nuid, outbox := s.outbox, fuseLo := s.fuseLo, fuseHi := s.fuseHi,
    flash := s.flash, flashRows := s.flashRows, tierMem := keptTiers s, bonded := { Bonded.reset with slices := failedSlices s },
    secure := { Secure.reset with minSvn := s.secure.minSvn, svn := s.secure.svn,
                                  pending := if early then s.power.prePend else s.secure.pending,
                                  slot := if early then s.power.preSlot else s.secure.slot,
                                  slotA := s.secure.slotA, slotB := s.secure.slotB }
    power := { Power.reset with input := s.power.input, cause := BitVec.ofNat 3 cause, mrstn := s.power.mrstn, strap0 := s.power.strap0,
                                strap1 := s.power.strap1, boundary := s.power.boundary } }

/-- The image of a slot is valid at this boot (18 R488). -/
def slotBoots (c : Secure) (sl : BitVec 1) : Bool :=
  let x := if sl = 0 then c.slotA else c.slotB
  x.valid && decide (c.minSvn.toNat ≤ x.svn.toNat)

/-- Choose the image to boot (18 R489, R490); none where neither slot is valid. -/
def chooseImage (c : Secure) : Option Secure :=
  let want := if c.pending then c.slot + 1 else c.slot
  let take (sl : BitVec 1) (fb : Bool) : Secure :=
    { c with slot := sl, fallback := fb, pending := false, svn := (if sl = 0 then c.slotA else c.slotB).svn }
  if slotBoots c want then some (take want false) else if slotBoots c (want + 1) then some (take (want + 1) true) else none

/-- µs that step 3 takes: the read at 200 MB/s and 12 ms, doubled on FALLBACK (19 Table 19-5). -/
def imageUs (c : Secure) : Nat := ((activeSlot c).bodyLen / 200 + 12000) * (if c.fallback then 2 else 1)

/-- The page of a row, by its local offset. -/
def pageOfRow (n bk row : Nat) : Nat :=
  let o := row * 2 ^ 18 + bk % 16 * 2 ^ 14 + bk / 16 * 2 ^ 11
  match addrOfLocal n o with
  | some a => pageOf a
  | none => reservePage n o

/-- The row lies in the device reserve, which has no B-space address. -/
def rowReserve (n row : Nat) : Bool := (addrOfLocal n (row * 2 ^ 18)).isNone

/-- A row of the remap list takes a spare again, or is retired, its bank out of spares and its page POISON (09 R247, R249). STATE is OK
after reset (Table 9-7). -/
def applyRow (s : State) (e : Nat × FailRow) : State :=
  let v := getSlice s e.1
  let bk := e.2.die.toNat * 16 + e.2.bank.toNat
  let used := smapGet 0 v.spares bk
  if e.2.outcome ≠ 2 ∧ used < 64 then setSlice e.1 { v with spares := smapSet 0 v.spares bk (used + 1) } s
  else
    let row := e.2.row.toNat
    -- a granule of the reserve with such a row stays out of use
    let out := if rowReserve e.1 row then v.reserveBad ++ [(bk, row)] else v.reserveBad
    setPoison (pageOfRow e.1 bk row)
      (setSlice e.1 { v with retired := v.retired ++ [(bk, row)], spares := smapSet 0 v.spares bk 64, reserveBad := out } s)

/-- Slice training (09 R250). -/
def trainSlices (u : BringUp) (s : State) : State :=
  u.badBonds.foldl (fun s b => if b.1 < 100 then
    modSlice b.1 (fun v => if 16 < b.2.length then { v with st := .failed } else { v with spareBonds := b.2.length }) s else s) s

/-- Refresh runs from the reset, at every slice in one phase (15 R412). -/
def startRefresh (s : State) : State := (List.range 100).foldl (fun s n => modSlice n (fun v => { v with refAt := s.clk }) s) s

/-- Steps 4 and 5 on, from a module whose image verifies: flash, host ports, memory, links, quads; tick 0 is due. -/
def bringUp (u : BringUp) (s : State) : State :=
  let s := { s with power := { s.power with
    preSlot := s.secure.slot, prePend := s.secure.pending, strap0 := u.straps.getLsbD 0, strap1 := u.straps.getLsbD 1 } }
  match chooseImage s.secure with
  | none => { s with boot := .up s.clk true, power := { s.power with belfrySt := .on } }
  | some c =>
    let s := { s with boot := .up s.clk false, secure := c }
    let s := { s with power := { s.power with belfrySt := .on, hostSt := .on, memSt := .on, linksSt := .on, flashSt := if u.flashOk then .on else .failed } }
    let s := if u.flashOk then s else raise 10 28 none 0x0006 0 s
    let s := allHports.foldl (fun s p => modHport p (fun v => { v with st := .training, since := s.clk }) s) s
    let s := startRefresh (trainSlices u s)
    let s := if u.flashOk then s.flashRows.foldl applyRow s else s
    let s := (List.range 25).foldl (fun s q =>
      if u.badQuads.contains q then raise 3 q none 0xA007 0 (modQuad q (fun v => { v with st := .failed }) s)
      else modQuad q (fun v => { v with st := .on }) s) s
    let due := s.clk + us (10000 + 5000 + imageUs c + 10000 + 20000 + 12600 + 2000)
    { s with tick := { s.tick with dueAt := due, nextAt := due } }

/-- The input lies in its range of 48 to 57 V (19, 21 R555). -/
def inputOk (v : BitVec 16) : Bool := decide (4800 ≤ v.toNat) && decide (v.toNat ≤ 5700)

/-- The input has a value. -/
def setInput (v : BitVec 16) (s : State) : State := { s with power := { s.power with input := v } }

/-- POWER_ON: the input rises into range; with MRST_N high the module is brought up (19 R517, 21 R557). -/
def execPowerOn (input : BitVec 16) (unit : BringUp) (s : State) : Res :=
  .next (if isUp s then s
    else
      let s := setInput input s
      if inputOk input && s.power.mrstn then bringUp unit s else s)

/-- MODULE_RESET: MRST_N has been low for `lowNs` (21 R548) and is low until MRST_N_RELEASE; from 1 to 10 us the choice is free (log 22). -/
def execModuleReset (lowNs : Nat) (s : State) : Res :=
  .next (
    let off (s : State) : State := if isUp s then domainsOff 1 s else s
    let s := { s with power := { s.power with mrstn := false } }
    if lowNs < 1000 then s
    else if 10000 ≤ lowNs then off s
    else
      let f := takeFree s
      if Config.freeNat f.1 % 2 = 0 then off f.2 else f.2)

/-- MRST_N_RELEASE: MRST_N rises; with the input in range step 1 begins (21 R557). -/
def execMrstNRelease (unit : BringUp) (s : State) : Res :=
  .next (if s.power.mrstn then s
    else
      let s := { s with power := { s.power with mrstn := true } }
      if !isUp s && inputOk s.power.input then bringUp unit s else s)

/-- The input is lost before a boot has begun or while its step 1 runs: the next start is a power-on, but for a thermal cut that no
boot has reported yet (19 R515, 21 R549, R557). -/
def inputLost (s : State) : State :=
  let cause := if s.power.cause = 3 then 3 else 0
  if isUp s then domainsOff cause s else { s with power := { s.power with cause := BitVec.ofNat 3 cause } }

/-- INPUT_UNDERVOLTAGE: the input is below 46 V for `lowUs` (19 R506, 21 R555); in step 1 it restarts the step however short it is
(R557). -/
def execInputUndervoltage (input : BitVec 16) (lowUs : Nat) (s : State) : Res :=
  .next (
    let s := setInput input s
    if 4600 ≤ input.toNat then s
    else if !isUp s || inStep1 s then inputLost s
    else if 1000 < lowUs then domainsOff 0 s else s)

/-- INPUT_LEAVES_RANGE: during step 1 it restarts the step (21 R557); later the excursions of R555 apply. -/
def execInputLeavesRange (input : BitVec 16) (s : State) : Res :=
  .next (
    let s := setInput input s
    if !inputOk input && (!isUp s || inStep1 s) then inputLost s else s)

/-- THERMAL_CUT: a junction above 115 degrees, read without any injected offset (19 R512, 20 R543). -/
def execThermalCut (quad : Nat) (temp : Int) (s : State) : Res :=
  unitRes (decide (quad < 25)) (if isUp s && decide (115 < temp) then domainsOff 3 s else s)

/-! ### Warm reset (19 R516) -/

/-- A slice through a warm reset: training, spare bonds and remaps are kept; a remap whose hold has not ended is in place, and none is
pending (09 Table 9-7; log 129). -/
def warmSlice (v : Slice) : Slice :=
  let u : Slice := { Slice.reset with
    st := if v.st = .failed then .failed else .ok
    temp := v.temp, spareBonds := v.spareBonds, spares := v.spares, retired := v.retired }
  -- rows of the reserve that waited for a reset take their spares now
  v.reserveBad.foldl (fun u r =>
    let used := smapGet 0 u.spares r.1
    if used < 64 then { u with spares := smapSet 0 u.spares r.1 (used + 1) }
    else { u with reserveBad := u.reserveBad ++ [r], retired := if u.retired.contains r then u.retired else u.retired ++ [r] }) u

/-- The queue pairs that are connected. -/
def liveQps (s : State) : List Nat := (s.host.qps.filter (fun e => decide (e.2.st = .rts) || decide (e.2.st = .connecting))).map Prod.fst

/-- The pages of retired rows are POISON. -/
def poisonRetired (s : State) : State :=
  (List.range 100).foldl (fun s n => (getSlice s n).retired.foldl (fun s r =>
    setPoison (pageOfRow n r.1 r.2) s) s) s

/-- The outcomes of steps 4 and 7 of a warm reset, which no command tells (free values, log 129): whether D28 starts, and the quads that
fail their self-test. -/
def warmFinds (s : State) : Bool × List Nat × State :=
  let f := takeFree s
  let w := (Config.freeWord f.1).toNat
  (!bit w 25, (List.range 25).filter (fun q => bit w q), f.2)

/-- No image verifies: the module does not leave reset (18 R489). No domain has gone off, and step 1 is not run again. -/
def noImageOf (b : Boot) : Boot :=
  match b with
  | .up t _ => .up t true
  | .off => .off

/-- WARM_RESET: once the status record of a WRST tick is sealed (19 R516). -/
def execWarmReset (s : State) : Res :=
  .next (
    if s.tick.phase ≠ .closed || !(s.tick.plan.map (fun h => h.wrst)).getD false || !s.tick.status.isEmpty then s
    else
      let s := (liveQps s).foldl (fun s q => emitQp q 1 (.dreq q) s) s
      let n := domainsOff 2 s
      match chooseImage n.secure with
      | none => { n with boot := noImageOf s.boot, power := { n.power with belfrySt := .on } }
      | some c =>
        let found := warmFinds n
        let n := found.2.2
        let keep (p : HPort) (x : HoPort) : HoPort :=
          let o := getHport s p
          { x with st := if o.st = .up then .up else .training, since := s.clk, mac := o.mac }
        let h := n.host
        let due := s.clk + us (imageUs c + 10000 + 1000 + 12600 + 2000)
        let slices : SMap Slice := (s.bonded.slices.map (fun (e : Nat × Slice) => (e.1, warmSlice e.2))).filter (fun e => e.2 ≠ Slice.reset)
        let quads : SMap Quad := smapOf Quad.reset 0 ((List.range 25).map (fun q =>
          { Quad.reset with st := if found.2.1.contains q then DomSt.failed else DomSt.on, temp := (getQuad s q).temp }))
        let flashSt : DomSt := if found.1 then .on else .failed
        let b : Bonded := { n.bonded with slices := slices, remapList := s.bonded.remapList }
        let w : Power := { n.power with belfrySt := .on, hostSt := .on, memSt := .on, linksSt := .on, flashSt := flashSt, quads := quads }
        let t : Tick := { n.tick with now := s.tick.now, first := false, dueAt := due, nextAt := due }
        let h' : HostEdge := { h with port0 := keep .h0 h.port0, port1 := keep .h1 h.port1, port2 := keep .h2 h.port2, port3 := keep .h3 h.port3 }
        let n := startRefresh (poisonRetired { n with boot := s.boot, secure := c, bonded := b, host := h', power := w, tick := t })
        let n := if found.1 then n else raise 10 28 none 0x0006 0 n
        found.2.1.foldl (fun s q => raise 3 q none 0xA007 0 s) n)

/-! ### The belfry watchdog (20 R532) -/

/-- A core with a job freezes; its job is reported ROLLEDBACK, however it stood (20 R532). -/
def freezeCore (s : State) (n : Nat) : State :=
  match (getCore s n).job with
  | none => s
  | some j => modCore n (fun c => { c with frozen := true, job := some (if j.st = .saved then j else { j with st := .rolledBack, endAt := if j.st = .running then s.clk else j.endAt }) }) s

/-- BELFRY_WATCHDOG: the belfry has not proved itself live for 10 ms (or an injection says so). -/
def execBelfryWatchdog (s : State) : Res :=
  .next (
    if !isUp s || s.test.wdDead then s
    else
      let inj := tmoInj s 5 0 0
      let s := if inj then injDone s else passTo (s.test.liveAt + us 10000) s
      let s := (List.range 100).foldl freezeCore s
      let now := s.tick.now.toNat
      let ticks := (s.test.wdTicks.filter (fun t => decide (now < t + 1000))) ++ [now]
      let r := ctrInc s.test.wdcnt
      let s := ovfEvent r.2 0x00080008 { s with test := { s.test with wdcnt := r.1, wdTicks := ticks } }
      let s := raiseI inj 0 0 none 0x0004 ticks.length s
      let s := if s.tick.phase = .run || s.tick.phase = .closing then (List.range 16).foldl (fun s p => abortTick p s) s else s
      let s := sramCheck { s with secure := { s.secure with update := none } }
      match chooseImage { s.secure with pending := false } with
      | none => { s with test := { s.test with wdDead := true } }
      | some c =>
        let t := s.clk + us (imageUs c)
        { s with
          secure := { c with pending := s.secure.pending }
          test := { s.test with wdUntil := t, liveAt := t, wdDead := decide (3 ≤ ticks.length) } })

/-! ### Firmware (18 R488, R490) -/

/-- A firmware image in P0's memory is valid: what it puts into a boot slot, all its bytes (18 R488, R490, Table 18-4). -/
def fwImage (src : Nat) (s : State) : Option FwSlot × State :=
  let h := belRead src 4096 s
  let hd := h.2.1
  let len := rdN hd 8 4
  if h.1 ∨ rdN hd 0 4 ≠ 0x31574653 ∨ rdN hd 4 2 ≠ 0x0100 ∨ len % 4096 ≠ 0 ∨ 33513472 < len
      ∨ ¬ rangeIn (getPart s 0).exts src (4096 + len + 29792) then (none, h.2.2)
  else
    let b := belRead (src + 4096) len h.2.2
    let g := belRead (src + 4096 + len) 29792 b.2.2
    let key := rdB hd 0x30 64
    let svn := rdN hd 6 2
    let ok := !b.1 && !g.1 && decide (shake256 32 key = shake256 32 Config.fwKey) && decide (shake256 32 b.2.1 = rdB hd 0x10 32)
      && Config.slhVerify key hd g.2.1 && decide (s.secure.minSvn.toNat ≤ svn)
    (if ok then some ⟨true, BitVec.ofNat 16 svn, len, hd ++ b.2.1 ++ g.2.1⟩ else none, g.2.2)

/-- FIRMWARE_UPDATE_COMPLETE: the image is validated and written into the inactive slot (18 R490). -/
def execFirmwareUpdateComplete (s : State) : Res :=
  .next (match s.secure.update with
    | none => s
    | some src =>
      let r := fwImage src s
      let s := { r.2 with secure := { r.2.secure with update := none } }
      match r.1 with
      | none => raise 0 0 none 0x0005 src s
      | some x =>
        { s with secure := { s.secure with
            pending := true
            slotA := if s.secure.slot = 0 then s.secure.slotA else x
            slotB := if s.secure.slot = 0 then x else s.secure.slotB } })

/-- FLASH_WEAR_LEVELLING: it takes time of the ONFI channels and changes no data (20 R523; log 9). -/
def execFlashWearLevelling (s : State) : Res := .next s

end Sys2Proof.Machine
end

