-- ==== Sys2Proof/Machine/Scalar.lean ====
section
/-! DEFINITION. The scalar instructions of groups 0x00 to 0x03 and 0x3F (04 R105 to R111). Each meaning issues its word on its core (Machine/Issue.lean). -/

namespace Sys2Proof.Machine

open Sys2Proof

/-- `add` (R105): Scalar 64-bit add of sSA and sSB or IMM into sSD; the all-zero word is the nop. -/
def execAdd (core : Nat) (h : Head) (o : FmtS) (s : State) : Res := issue core .add (wordS .add h o) 0 s

/-- `sub` (R105): Scalar 64-bit subtract into sSD. -/
def execSub (core : Nat) (h : Head) (o : FmtS) (s : State) : Res := issue core .sub (wordS .sub h o) 0 s

/-- `mul` (R105): Low 64 bits of the scalar product into sSD. -/
def execMul (core : Nat) (h : Head) (o : FmtS) (s : State) : Res := issue core .mul (wordS .mul h o) 0 s

/-- `mulh` (R105): High 64 bits of the signed scalar product into sSD. -/
def execMulh (core : Nat) (h : Head) (o : FmtS) (s : State) : Res := issue core .mulh (wordS .mulh h o) 0 s

/-- `mulhu` (R105): High 64 bits of the unsigned scalar product into sSD. -/
def execMulhu (core : Nat) (h : Head) (o : FmtS) (s : State) : Res := issue core .mulhu (wordS .mulhu h o) 0 s

/-- `and` (R105): Scalar bitwise AND into sSD. -/
def execAnd (core : Nat) (h : Head) (o : FmtS) (s : State) : Res := issue core .and (wordS .and h o) 0 s

/-- `or` (R105): Scalar bitwise OR into sSD. -/
def execOr (core : Nat) (h : Head) (o : FmtS) (s : State) : Res := issue core .or (wordS .or h o) 0 s

/-- `xor` (R105): Scalar bitwise XOR into sSD. -/
def execXor (core : Nat) (h : Head) (o : FmtS) (s : State) : Res := issue core .xor (wordS .xor h o) 0 s

/-- `shl` (R105): Scalar logical shift left by bits 5:0 of the second operand. -/
def execShl (core : Nat) (h : Head) (o : FmtS) (s : State) : Res := issue core .shl (wordS .shl h o) 0 s

/-- `shr` (R105): Scalar logical shift right. -/
def execShr (core : Nat) (h : Head) (o : FmtS) (s : State) : Res := issue core .shr (wordS .shr h o) 0 s

/-- `sra` (R105): Scalar arithmetic shift right. -/
def execSra (core : Nat) (h : Head) (o : FmtS) (s : State) : Res := issue core .sra (wordS .sra h o) 0 s

/-- `min` (R105): Scalar signed minimum. -/
def execMin (core : Nat) (h : Head) (o : FmtS) (s : State) : Res := issue core .min (wordS .min h o) 0 s

/-- `max` (R105): Scalar signed maximum. -/
def execMax (core : Nat) (h : Head) (o : FmtS) (s : State) : Res := issue core .max (wordS .max h o) 0 s

/-- `minu` (R105): Scalar unsigned minimum. -/
def execMinu (core : Nat) (h : Head) (o : FmtS) (s : State) : Res := issue core .minu (wordS .minu h o) 0 s

/-- `maxu` (R105): Scalar unsigned maximum. -/
def execMaxu (core : Nat) (h : Head) (o : FmtS) (s : State) : Res := issue core .maxu (wordS .maxu h o) 0 s

/-- `pcmp_eq` (R106): Sets pD to 1 when the two scalar operands are equal. -/
def execPcmpEq (core : Nat) (h : Head) (o : FmtS) (s : State) : Res := issue core .pcmpEq (wordS .pcmpEq h o) 0 s

/-- `pcmp_ne` (R106): Sets pD to 1 when the two scalar operands differ. -/
def execPcmpNe (core : Nat) (h : Head) (o : FmtS) (s : State) : Res := issue core .pcmpNe (wordS .pcmpNe h o) 0 s

/-- `pcmp_lt` (R106): Sets pD on a signed less-than comparison. -/
def execPcmpLt (core : Nat) (h : Head) (o : FmtS) (s : State) : Res := issue core .pcmpLt (wordS .pcmpLt h o) 0 s

/-- `pcmp_ge` (R106): Sets pD on a signed greater-or-equal comparison. -/
def execPcmpGe (core : Nat) (h : Head) (o : FmtS) (s : State) : Res := issue core .pcmpGe (wordS .pcmpGe h o) 0 s

/-- `pcmp_ltu` (R106): Sets pD on an unsigned less-than comparison. -/
def execPcmpLtu (core : Nat) (h : Head) (o : FmtS) (s : State) : Res := issue core .pcmpLtu (wordS .pcmpLtu h o) 0 s

/-- `pcmp_geu` (R106): Sets pD on an unsigned greater-or-equal comparison. -/
def execPcmpGeu (core : Nat) (h : Head) (o : FmtS) (s : State) : Res := issue core .pcmpGeu (wordS .pcmpGeu h o) 0 s

/-- `pand` (R106): pD := pA AND pB. -/
def execPand (core : Nat) (h : Head) (o : FmtS) (s : State) : Res := issue core .pand (wordS .pand h o) 0 s

/-- `por` (R106): pD := pA OR pB. -/
def execPor (core : Nat) (h : Head) (o : FmtS) (s : State) : Res := issue core .por (wordS .por h o) 0 s

/-- `pxor` (R106): pD := pA XOR pB. -/
def execPxor (core : Nat) (h : Head) (o : FmtS) (s : State) : Res := issue core .pxor (wordS .pxor h o) 0 s

/-- `pnot` (R106): pD := NOT pA. -/
def execPnot (core : Nat) (h : Head) (o : FmtS) (s : State) : Res := issue core .pnot (wordS .pnot h o) 0 s

/-- `ld_b` (R107): Loads one sign-extended byte from S-space into sSD. -/
def execLdB (core : Nat) (h : Head) (o : FmtS) (s : State) : Res := issue core .ldB (wordS .ldB h o) 0 s

/-- `ld_bu` (R107): Loads one zero-extended byte from S-space. -/
def execLdBu (core : Nat) (h : Head) (o : FmtS) (s : State) : Res := issue core .ldBu (wordS .ldBu h o) 0 s

/-- `ld_h` (R107): Loads a sign-extended halfword from S-space. -/
def execLdH (core : Nat) (h : Head) (o : FmtS) (s : State) : Res := issue core .ldH (wordS .ldH h o) 0 s

/-- `ld_hu` (R107): Loads a zero-extended halfword from S-space. -/
def execLdHu (core : Nat) (h : Head) (o : FmtS) (s : State) : Res := issue core .ldHu (wordS .ldHu h o) 0 s

/-- `ld_w` (R107): Loads a sign-extended word from S-space. -/
def execLdW (core : Nat) (h : Head) (o : FmtS) (s : State) : Res := issue core .ldW (wordS .ldW h o) 0 s

/-- `ld_wu` (R107): Loads a zero-extended word from S-space. -/
def execLdWu (core : Nat) (h : Head) (o : FmtS) (s : State) : Res := issue core .ldWu (wordS .ldWu h o) 0 s

/-- `ld_d` (R107): Loads a doubleword from S-space. -/
def execLdD (core : Nat) (h : Head) (o : FmtS) (s : State) : Res := issue core .ldD (wordS .ldD h o) 0 s

/-- `st_b` (R108): Stores one byte of sSD to S-space; visible to every later instruction. -/
def execStB (core : Nat) (h : Head) (o : FmtS) (s : State) : Res := issue core .stB (wordS .stB h o) 0 s

/-- `st_h` (R108): Stores a halfword to S-space. -/
def execStH (core : Nat) (h : Head) (o : FmtS) (s : State) : Res := issue core .stH (wordS .stH h o) 0 s

/-- `st_w` (R108): Stores a word to S-space. -/
def execStW (core : Nat) (h : Head) (o : FmtS) (s : State) : Res := issue core .stW (wordS .stW h o) 0 s

/-- `st_d` (R108): Stores a doubleword to S-space. -/
def execStD (core : Nat) (h : Head) (o : FmtS) (s : State) : Res := issue core .stD (wordS .stD h o) 0 s

/-- `crd` (R72): Reads a control or capability register by index into sSD. -/
def execCrd (core : Nat) (h : Head) (o : FmtS) (s : State) : Res := issue core .crd (wordS .crd h o) 0 s

/-- `cwr` (R72): Writes a control register by index; ASR as W1C, capability indices ILLEGAL. -/
def execCwr (core : Nat) (h : Head) (o : FmtS) (s : State) : Res := issue core .cwr (wordS .cwr h o) 0 s

/-- `mvm` (R109): Copies an m-register summary into sSD. -/
def execMvm (core : Nat) (h : Head) (o : FmtS) (s : State) : Res := issue core .mvm (wordS .mvm h o) 0 s

/-- `rdclk` (R109): Reads the clk elapsed since the current tick opened. -/
def execRdclk (core : Nat) (h : Head) (o : FmtS) (s : State) : Res := issue core .rdclk (wordS .rdclk h o) 0 s

/-- `rdtick` (R109): Reads the current tick number. -/
def execRdtick (core : Nat) (h : Head) (o : FmtS) (s : State) : Res := issue core .rdtick (wordS .rdtick h o) 0 s

/-- `li64` (R111): Loads the 64-bit immediate of word 1 into sSD. -/
def execLi64 (core : Nat) (h : Head) (o : FmtS) (imm64 : W64) (s : State) : Res := issue core .li64 (wordS .li64 h o) imm64 s

end Sys2Proof.Machine
end

