-- ==== Sys2Proof/Machine/Sideband.lean ====
section
/-! DEFINITION. The SMBus sideband (17 R476) and the TAP (21 R559, R560). -/

namespace Sys2Proof.Machine

open Sys2Proof

/-! ### SMBus (17 Table 17-5) -/

/-- The SMBus address that the straps select (17 R476, 21 R547). -/
def smbAddr (s : State) : BitVec 7 := BitVec.ofNat 7 (0x50 + 2 * b2n s.power.strap1 + b2n s.power.strap0)

/-- The packet error code of the SMBus standard: CRC-8 with x^8 + x^2 + x + 1 (PRESUMED, log 100). -/
def smbPec (bs : List Byte) : BitVec 8 :=
  bs.foldl (fun c b => (List.range 8).foldl (fun (c : BitVec 8) _ => if c.getLsbD 7 then (c <<< 1) ^^^ 0x07 else c <<< 1) (c ^^^ b)) 0

/-- An answer to a read command on the SMBus, with its PEC over address, command, address and data; no D29, no answer. -/
def smbAnswer (cmd : Nat) (bs : List Byte) (s : State) : State :=
  let a := 2 * (smbAddr s).toNat
  if isUp s then emit (.smb (smbAddr s) bs (smbPec ([BitVec.ofNat 8 a, BitVec.ofNat 8 cmd, BitVec.ofNat 8 (a + 1)] ++ bs))) s else s

/-- Read Word: the low byte first (log 54). -/
def smbWord (cmd v : Nat) (s : State) : State := smbAnswer cmd (natLe 2 v) s

/-- A temperature in units of 0.125 degrees, signed 16 bits. -/
def tempWord (t : Int) : Nat := (BitVec.ofInt 16 (8 * t)).toNat

/-- Command 0x00: part name, stepping, the MAC address of H0, serial number. -/
def identity (s : State) : List Byte :=
  [0x53, 0x4A, 0x39, 0x2D, 0x4D, 0x31, 0x39, 0x32, 0xB1, 0] ++ natLe 6 s.host.port0.mac.toNat ++ (List.range 16).map Config.serial

/-- The refresh step of the slice with the hottest stack temperature. -/
def hotStep (s : State) : Nat := (List.range 100).foldl (fun m n => if (getSlice s n).temp = tsMax s then max m (getSlice s n).refStep.toNat else m) 0

/-- SMB_IDENTITY: a Block Read, its byte count first (PRESUMED, log 100). -/
def execSmbIdentity (s : State) : Res := .next (smbAnswer 0x00 (natLe 1 32 ++ identity s) s)

/-- SMB_DIE_TEMP. -/
def execSmbDieTemp (s : State) : Res := .next (smbWord 0x10 (tempWord (tjMax s)) s)

/-- SMB_STACK_TEMP. -/
def execSmbStackTemp (s : State) : Res := .next (smbWord 0x11 (tempWord (tsMax s)) s)

/-- SMB_THERMAL_STATUS. -/
def execSmbThermalStatus (s : State) : Res := .next (smbWord 0x12 (hotStep s + 256 * b2n s.power.trip) s)

/-- SMB_PORT_STATE. -/
def execSmbPortState (s : State) : Res :=
  .next (smbWord 0x13 (hportStNo s.host.port0.st + 16 * hportStNo s.host.port1.st + 256 * hportStNo s.host.port2.st
    + 4096 * hportStNo s.host.port3.st) s)

/-- SMB_OTHER_NACK: every write and every other command. -/
def execSmbOtherNack (s : State) : Res := .next (if isUp s then emit (.smbNack (smbAddr s)) s else s)

/-! ### The TAP -/

/-- The TAP works while D29 is on (21 R559). -/
def tapOn (s : State) : Bool := isUp s

/-- An instruction is loaded into the TAP. -/
def loadTap (t : Tap) (s : State) : State := { s with tap := t }

/-- JTAG_BYPASS: every code but the other three. -/
def execJtagBypass (s : State) : Res := .next (if tapOn s then loadTap .bypass s else s)

/-- JTAG_IDCODE. -/
def execJtagIdcode (s : State) : Res := .next (if tapOn s then emit (.tdo 0xB0009147) (loadTap .idcode s) else s)

/-- Pins D1 to D13, D1 in bit 0 (21 Table 21-2, R549). The levels the board drives on the SMBus and JTAG pins are free (log 7). -/
def pinLevels (s : State) : BitVec 13 × State :=
  let f := takeFree s
  let m := (Config.freeWord f.1).toNat
  (BitVec.ofNat 13 (m % 4 + 4 * b2n s.power.strap0 + 8 * b2n s.power.strap1 + 16 * (m / 4 % 16) + 256 + 512 * b2n s.power.mrstn
    + 2048 * b2n (isUp s && !inStep1 s) + 4096 * b2n (!s.power.tripped)), f.2)

/-- Data shifted in stands in the boundary register. -/
def preload (v : BitVec 13) (s : State) : State := { s with power := { s.power with boundary := v } }

/-- SAMPLE/PRELOAD: the low-speed pins are sampled and shifted out, while data for the boundary register is shifted in. -/
def samplePins (data : BitVec 13) (s : State) : State :=
  let r := pinLevels s
  preload data (emit (.boundary r.1) r.2)

/-- JTAG_SAMPLE_PRELOAD: the row names no data, so what is preloaded is free (log 55). -/
def execJtagSamplePreload (s : State) : Res :=
  .next (if tapOn s then
      let f := takeFree s
      samplePins ((Config.freeWord f.1).setWidth 13) (loadTap .sample f.2)
    else s)

/-- JTAG_EXTEST: while MRST_N is low it drives the pins from the boundary register, and then with the data shifted in; at any other
time it acts as SAMPLE/PRELOAD (21 R560; log 55). -/
def execJtagExtest (drive : BitVec 13) (s : State) : Res :=
  .next (if !tapOn s then s
    else
      let s := loadTap .extest s
      if s.power.mrstn then samplePins drive s else emit (.drive drive) (preload drive (emit (.drive s.power.boundary) s)))

end Sys2Proof.Machine
end

