-- ==== Sys2Proof/Machine/Jobs.lean ====
section
/-! DEFINITION. Jobs at an open: their entries, placement and start (03 R73, R74, R95, 13 R353 to R356, R375, 15 R406, 18 R501). -/

namespace Sys2Proof.Machine

open Sys2Proof

/-- A job entry (13 Table 13-6). -/
def jobEntOf (b : List Byte) : JobEnt :=
  let w0 := rdN b 0 8
  let w1 := rdN b 8 8
  let w5 := rdN b 0x28 8
  let w6 := rdN b 0x30 8
  let wr := rdN b 0x50 8
  { jobid := bits w0 63 32, ringEn := bit w0 5, kind := bit w0 4, part := bits w0 3 0, imgLen := bits w1 50 32, entry := bits w1 18 0,
    image := bits (rdN b 0x10 8) 47 0, save := bits (rdN b 0x18 8) 47 0, args := bits (rdN b 0x20 8) 47 0, nseq := bits w5 63 48,
    sloff := bits w5 31 0, result := bits w6 37 19, view := bits w6 18 0, seed := BitVec.ofNat 64 (rdN b 0x38 8),
    stream := BitVec.ofNat 64 (rdN b 0x40 4), ctr := BitVec.ofNat 64 (rdN b 0x48 8), ring := bits wr 22 19, ringv := bits wr 18 0 }

/-- A sequence list entry: SEQID and APPEND (13 R353). -/
def listEntOf (b : List Byte) : Nat × Bool := (rdN b 0 4, bit (rdN b 0 8) 32)

/-- No fault. -/
def noFault : FaultRec := ⟨0, 0, 0, 0, 0, 0⟩

/-- A job of the tick before placement. -/
def freshJob (e : JobEnt) (l : List (Nat × Bool)) : Job :=
  { ent := e, seqs := l, core := none, out := .none, imgDrop := false, fault := noFault, runUs := 0, asr := 0, seed0 := 0, stream0 := 0,
    ctr0 := 0, prog := [], p0mask := 0, start := ⟨e.seed, e.stream, e.ctr, []⟩ }

/-- The case of R354 that refuses a job, 0 for none. `total` counts the SEQLISTS entries; the jobs before it are in the state. A save
area that is not 4 KiB aligned is no case of R354 and is taken as it stands (DESIGN CHOICE, log 109). -/
def jobCase (s : State) (total : Nat) (j : Job) : Nat :=
  let e := j.ent
  let x := (getPart s e.part).exts
  let ring := if e.ringEn then (ringBytes s e.ring).length else 0
  if (getPart s e.part).st ≠ .active ∨ s.tick.orphaned then 1
  else if ¬ e.kind ∧ ¬ (rangeOk x (e.image, e.imgLen) ∨ rangeOk (getPart s 0).exts (e.image, e.imgLen)) then 2
  else if ¬ rangeIn x e.save imageSize ∨ (¬ e.kind ∧ ¬ rangeIn x e.args 120) then 3
  else if ¬ e.kind ∧ spadSize < e.entry + e.imgLen then 4
  else if (e.nseq ≠ 0 ∧ (spadSize < e.view + (viewsOf s e.part j.seqs).length ∨ spadSize < e.result + 32 * e.nseq)) ∨ (e.ringEn ∧ spadSize < e.ringv + ring) then 5
  else if total < e.sloff + e.nseq then 6
  else if e.kind ∧ ¬ s.images.any (fun i => decide (i.part = e.part) && decide (i.jobid = e.jobid) && decide (i.save = e.save)) then 7
  else if s.jobs.any (fun o => decide (o.ent.part = e.part) && decide (o.ent.jobid = e.jobid)) then 8
  else 0

/-- A core can take a job (R354): enabled, its quad ON and not about to go off or too hot, no job yet. -/
def coreFree (s : State) (n : Nat) : Bool :=
  let q := getQuad s (quadOf n)
  coreEnabled s n && q.st = .on && !q.wantOff && q.step ≠ .hold && q.step ≠ .emerg && (getCore s n).job.isNone

/-- Place one job entry. -/
def placeJob (lists : List (Nat × Bool)) (s : State) (e : JobEnt) : State :=
  let j := freshJob e ((lists.drop e.sloff).take e.nseq)
  let idx := s.jobs.length
  let put (j : Job) (s : State) : State := { s with jobs := s.jobs ++ [j] }
  let c := jobCase s lists.length j
  if c ≠ 0 then put { j with out := .refused } (raise 11 idx (some e.part) 0x2002 c s)
  else if e.kind && imageBusy s e.part e.jobid then put { j with out := .deferred } s
  else match (List.range 100).find? (coreFree s) with
    | none => put { j with out := .notPlaced } s
    | some n =>
      let r : CoreJob := { index := idx, part := e.part, jobid := e.jobid, st := .running, startAt := s.clk, endAt := 0, seed0 := 0, stream0 := 0, ctr0 := 0 }
      put { j with core := some n } (setCore n { Core.reset with job := some r } s)

/-- Place the jobs of a plan in order (13 R342, step 5). -/
def placeJobs (ents lists : List (List Byte)) (s : State) : State := (ents.map jobEntOf).foldl (placeJob (lists.map listEntOf)) s

/-- A job at its first start: zeroed scratchpad, image, views, ring record, arguments and generator values. -/
def firstCore (s : State) (j : Job) (r : CoreJob) (img args : List Byte) (arb : BitVec 1) : Core :=
  let e := j.ent
  let c : Core := { Core.reset with
    job := some { r with seed0 := e.seed, stream0 := e.stream, ctr0 := e.ctr }
    pc := BitVec.ofNat 64 e.entry, sreg := smapOf 0 1 (leWords args), seed := e.seed, stream := e.stream, ctr := e.ctr, spadArb := arb }
  let c := spadPut e.view (viewsOf s e.part j.seqs) (spadPut e.entry img c)
  if e.ringEn then spadPut e.ringv (ringBytes s e.ring) c else c

/-- The slices of the P0 pages in a byte range, as a mask (14 R404). -/
def p0Slices (s : State) (a n : Nat) : BitVec 100 :=
  (pagesOf a n).foldl (fun m pg => if tagOf s (pg * pageSize) = 0 then m ||| BitVec.ofNat 100 (2 ^ sliceOf (pg * pageSize)) else m) 0

/-- First start of a placed job (03 R74, 13 R355, 18 R501). -/
def startFirst (n idx : Nat) (j : Job) (r : CoreJob) (arb : BitVec 1) (s : State) : State :=
  let e := j.ent
  let img := partRead e.part e.image e.imgLen s
  let args := partRead e.part e.args 120 img.2.2
  let prog := if img.1 then ([], args.2.2) else progOf e.image e.imgLen img.2.1 args.2.2
  if !img.1 && !progAllowed prog.2 e.part prog.1 then
    raise 11 idx (some e.part) 0x2002 9 (modJob idx (fun j => { j with out := .refused, prog := prog.1 }) (setCore n { Core.reset with spadArb := arb } prog.2))
  else
    let s := prog.2
    let drop := (findImage s e.part e.jobid).isSome
    let s := { s with images := s.images.filter (fun i => !(decide (i.part = e.part) && decide (i.jobid = e.jobid))) }
    let dig := (s.tick.plan.map (fun h => h.digest)).getD []
    let s := modJob idx (fun j => { j with imgDrop := drop, prog := prog.1, start := { j.start with plandig := dig } }) s
    let c := { firstCore s j r img.2.1 args.2.1 arb with p0mask := p0Slices s e.image e.imgLen ||| p0Slices s e.args 120 }
    if img.1 || args.1 then takeFault n 0 cPARITY 0 c.pc (setCore n c s) else spadWrote n [(0, spadSize)] (setCore n c s)

/-- Start one placed job (13 R342, step 7). -/
def startJob (s : State) (idx : Nat) : State :=
  match s.jobs[idx]? with
  | none => s
  | some j =>
    match j.core, j.out with
    | some n, .none =>
      match (getCore s n).job with
      | none => s
      | some r =>
        let mode := (getPart s j.ent.part).mode.toNat
        let arb := coreArb s n mode (decide (mode = 1))
        let r := { r with startAt := s.clk }
        if j.ent.kind then
          match findImage s j.ent.part j.ent.jobid with
          | some i =>
            modJob idx (fun j => { j with prog := i.prog, start := ⟨i.seed, i.stream, i.ctr, i.plandig⟩ }) (resumeJob n r i arb s)
          | none => s
        else startFirst n idx j r arb s
    | _, _ => s

/-- SPAD_ARB of the cores without a job (13 R375). -/
def idleArbs (s : State) : State :=
  (List.range 100).foldl (fun s n =>
    if (getCore s n).job.isSome then s
    else
      let a := coreArb s n s.tick.mode.toNat false
      if (getCore s n).spadArb = a then s else modCore n (fun c => { c with spadArb := a }) s) s

/-- Start every placed job, in plan order. -/
def startJobs (s : State) : State := idleArbs ((List.range s.jobs.length).foldl startJob s)

end Sys2Proof.Machine
end

