-- ==== Sys2Proof/Machine/Tick.lean ====
section
/-! DEFINITION. The tick: open, close, the status record and the bell source (13 R340 to R363, 16 R430, R446, 19 R514, R519). -/

namespace Sys2Proof.Machine

open Sys2Proof

/-! ### Markers (13 R350, 16 R446) -/

/-- A marker's payload (16 Table 16-8). -/
def markerPayload (bell tick period delay : Nat) : List Byte := padTo 240 (natLe 8 bell ++ natLe 8 tick ++ natLe 8 period ++ natLe 8 (delay % 2 ^ 32))

/-- Send a marker on every port in service but one. -/
def sendMarkers (skip : Option BPort) (pl : List Byte) (s : State) : State :=
  allPorts.foldl (fun s p => if decide (some p ≠ skip) && (getPort s p).st = .up then emitFlit p 2 0 0 pl s else s) s

/-- The bell source marks its open; DELAY is the time to the marker's departure (a free value, log 7). -/
def ringBell (s : State) : State :=
  if s.tick.isBell then
    let f := takeFree s
    sendMarkers none (markerPayload (chipNo f.2) f.2.tick.now.toNat f.2.tick.periodUs (Config.freeNat f.1)) f.2
  else s

/-! ### Open (13 R342, R348) -/

/-- A transfer of the routing of a tick that is over has no effect of its own any more (12 R336). -/
def pastRouting (x : Xfer) : Xfer :=
  match x.owner with
  | .dispatch _ _ _ => { x with owner := .note }
  | .sourceDone _ _ => { x with owner := .note }
  | .combine _ _ _ _ _ _ => { x with owner := .note }
  | .combineDone _ _ _ _ _ => { x with owner := .note }
  | _ => x

/-- What an open clears: the tick's jobs and records. -/
def clearTick (s : State) : State :=
  { s with
    xfers := s.xfers.map pastRouting
    cores := [], jobs := [], pools := [], seqRecs := [], leaves := [], rings := [], layers := [], routes := []
    parts := (s.parts.map (fun (e : Nat × Part) => (e.1, { e.2 with lost := false }))).filter (fun e => e.2 ≠ Part.reset)
    windows := (s.windows.map (fun (e : Nat × Window) => (e.1, { e.2 with evented := false }))).filter (fun e => e.2 ≠ Window.reset)
    links := { s.links with
      portN := { s.links.portN with parts := [] }, portE := { s.links.portE with parts := [] }
      portS := { s.links.portS with parts := [] }, portW := { s.links.portW with parts := [] } }
    tick := { s.tick with retrained := false, preempted := false } }

/-- What a close clears once the status record shows it: the per-tick counts, and the limits and the range of the event records. What
happens between a close and the next open counts for the tick that opens then (13 R343, 20 R525, R536; log 128). -/
def clearCounts (s : State) : State :=
  { s with
    parts := (s.parts.map (fun (e : Nat × Part) => (e.1, { e.2 with overrun := 0, aborted := 0, tabort := false }))).filter (fun e => e.2 ≠ Part.reset)
    events := { s.events with perCode := [], first := 0, last := 0 } }

/-- LOAD in effect ends at the next open (13 R371). -/
def endLoad (s : State) : State := modPart 0 (fun v => { v with load := false }) s

/-- A quad at an open (19 R512): one in HOLD takes no job from here; HOLD and EMERG are left after 10 ms at or below 95 degrees. -/
def openQuad (s : State) (q : Nat) : State :=
  let v := getQuad s q
  let cool := match v.coolAt with
    | some t => decide (t + us 10000 ≤ s.clk)
    | none => false
  match v.step with
  | .hold =>
    if cool then setQuad q { v with step := .normal, st := if v.st = .held then .on else v.st } s
    else setQuad q { v with st := if v.st = .on then .held else v.st } s
  | .emerg =>
    if cool then
      let s := setQuad q { v with step := .normal } s
      if quadMay s q then quadRamp q s else s
    else s
  | _ => s

/-- A module trip ends (19 R514): every domain comes back as the plan in effect has it; enabled ports train. -/
def endTrip (s : State) : State :=
  let cool := match s.power.tripCool with
    | some t => decide (t + us 10000 ≤ s.clk)
    | none => false
  if !s.power.tripped || !cool then s
  else
    let s := { s with power := { s.power with
      tripped := false, tripCool := none
      linksSt := if s.power.links then .on else s.power.linksSt
      flashSt := if s.power.flash && s.power.flashSt = .off then .on else s.power.flashSt } }
    let s := (List.range 25).foldl (fun s q => if quadMay s q then quadRamp q s else s) s
    allPorts.foldl (fun s p => if (getPort s p).en && (getPort s p).st = .disabled && portsAllowed s then modPort p (fun v => { v with st := .training, since := s.clk }) s else s) s

/-- Some quad is ON (19 R519). -/
def someQuad (s : State) : Bool := (List.range 25).any (fun q => (getQuad s q).st = .on)

/-- The tick number, times and lateness of an open that was due at `due` (13 R344). -/
def openTimes (due : Nat) (s : State) : State :=
  let t := s.tick
  let late := decide (t.lateNext ≠ 0)
  let r := if late then ctrInc t.late else (t.late, false)
  ovfEvent r.2 0x00010030 { s with tick := { t with
    now := if t.first then 0 else t.now + 1
    first := false
    openAt := s.clk, runAt := s.clk, refillAt := s.clk, dueAt := due, isLate := late, lateUs := (t.lateNext + 1199) / 1200, lateNext := 0
    late := r.1, phase := .run, marked := none } }

/-- An idle open (13 R348, R349): `counts` where it counts in MISSED. -/
def openIdle (counts : Bool) (s : State) : State :=
  let r := ctrInc s.tick.idle
  let missed := if counts then s.tick.idleRun + 1 else s.tick.idleRun
  let s := ovfEvent r.2 0x00010020 { s with tick := { s.tick with
    idle := r.1, isIdle := true, plan := none, idleRun := missed, missed := min missed 255, next := .none, fetchSeq := 0 } }
  let s := if s.tick.mode = 3 then s else { s with test := { s.test with arm := false } }
  let s := freeParts s
  let s := if counts && decide (missed = 8) then raise 0 0 none 0x1003 8 { s with tick := { s.tick with orphaned := true } } else s
  ringBell (idleArbs s)

/-- The plan header in effect (13 R340). -/
def openHeader (b : List Byte) (s : State) : State :=
  let t := s.tick
  let hdr : PlanHdr := { seq := BitVec.ofNat 64 (plSeq b), digest := plDigest b, wrst := plWrst b }
  { s with tick := { t with
    isIdle := false, missed := 0, idleRun := 0, orphaned := false, next := .none, fetchSeq := 0
    pleadUs := plPlead b, closewUs := plClosew b, periodUs := plPeriod b
    plan := some hdr } }

/-- The bell source that the plan names, once its writes have given this module its chip identifier (13 R342, R350). -/
def openBell (b : List Byte) (s : State) : State :=
  let t := s.tick
  let bell := BitVec.ofNat 10 (plBell b)
  let own := plBellen b && decide (plBell b = chipNo s)
  let keep := plBellen b && !own && t.bellen && decide (t.bell = bell)
  { s with tick := { t with
    bellen := plBellen b, bell := bell, isBell := own, aligned := t.aligned && keep, bellLost := t.bellLost && keep } }

/-- A plan takes effect: the steps of R342. What its writes clear is answered too, for the end of the open (00 R16). -/
def openPlan (b : List Byte) (s : State) : List (Nat × Nat) × State :=
  let recs := planRecs b
  let q := openConfig b (openHeader b s)
  let s := openBell b q.2
  let s := (recs 3).foldl applyPart (freeParts s)
  let s := applyFolds (recs 13) ((recs 12).foldl applyRing ((recs 5).foldl applyWin (applyKeys 0 (recs 4) s)))
  let s := (recs 6).foldl applyPool s
  let s := applySeqs 0 (recs 8) ((recs 7).foldl applyLeave { s with kvPools := s.pools })
  let s := applyRestores (recs 13) s
  let s := applyLayers (recs 11) (placeJobs (recs 9) (recs 10) s)
  (q.1, ringBell (startJobs s))

/-- A tick opens, due at `due` (13 R342, R348, R349; 19 R514, R519; 20 R532), but for what the plan's writes clear, which is answered. -/
def openWork (due : Nat) (s : State) : List (Nat × Nat) × State :=
  let next := s.tick.next
  let dog := decide (due < s.test.wdUntil)
  let s := openRebuilds (endLoad (openTimes due (clearTick s)))
  let s := endTrip (tripOff (settleQuads ((List.range 25).foldl openQuad s)))
  let now := s.tick.now.toNat
  let s := match next with
    | .none => raise 0 0 none 0x1001 now s
    | .fetching => raise 0 0 none 0x1001 now s
    | .invalid c inj => raiseI inj 0 0 none 0x1002 c s
    | .valid _ => s
  let r : List (Nat × Nat) × State :=
    if s.power.tripped then
      ([], openIdle false (raiseI s.power.tripInj 0 0 none 0xA006 (byteOf (tjMax s) + 256 * byteOf (tsMax s)) s))
    else if dog || !someQuad s then ([], openIdle true s)
    else match next with
      | .valid b => openPlan b s
      | _ => ([], openIdle true s)
  let s := r.2
  (r.1, { s with tick := { s.tick with nextAt := due + us s.tick.periodUs }, test := { s.test with liveAt := max s.clk s.test.liveAt } })

/-- A tick opens: the J9's own changes first, then what the plan's writes clear (00 R16). -/
def openTick (due : Nat) (s : State) : State :=
  let r := openWork due s
  openClears r.1 r.2

/-- The module opens ticks: it is up from a valid image, its belfry runs, and no tick is in progress. -/
def mayOpen (s : State) : Bool :=
  (match s.boot with
    | .up _ none' => !none'
    | .off => false) && !s.test.wdDead && (s.tick.phase = .before || s.tick.phase = .closed)

/-- The module follows another's markers (13 R350). -/
def follows (s : State) : Bool := s.tick.bellen && !s.tick.isBell

/-- The open that a marker brings: the follower takes the marker's PERIOD. It opened when the marker's source did (`at'`): elapsed time
counts from there (13 R350, 16 R446). -/
def openMarked (at' due period : Nat) (s : State) : State :=
  let r := openWork due s
  let s := { r.2 with tick := { r.2.tick with openAt := at', refillAt := at' } }
  openClears r.1 (if !follows s then s
    else
      let s := if s.tick.periodUs = period then s else raise 0 0 none 0x1005 period s
      { s with tick := { s.tick with periodUs := period, nextAt := due + us period } })

/-- TICK_OPEN: the module's own timer opens a tick; a follower's open that waited for its close comes with it too. -/
def execTickOpen (s : State) : Res :=
  .next (if !mayOpen s then s
    else if follows s then (match s.tick.marked with
      | some period => openMarked s.clk s.tick.nextAt period s
      | none => s)
    else openTick s.tick.nextAt (passTo s.tick.nextAt s))

/-! ### Close (13 R343) -/

/-- Step 1: running jobs are pre-empted and counted as overruns (13 R355). -/
def overrunCore (s : State) (n : Nat) : State :=
  match (getCore s n).job with
  | none => s
  | some j =>
    if j.st ≠ .running then s
    else
      let s := preempt n s
      match (getCore s n).job with
      | some j' =>
        if j'.st = .saved then
          let r := ctrInc s.tick.overrun
          let s := modPart j.part (fun v => { v with overrun := v.overrun + 1 }) s
          ovfEvent r.2 0x00010028 { s with tick := { s.tick with overrun := r.1, preempted := true } }
        else s
      | none => s

/-- Something a job of the tick left running on its core still runs (13 R343, step 2; 11 R292). -/
def closeWaits (s : State) : Bool :=
  s.cores.any (fun e => match e.2.job with
    | some j => !(j.st = .saved) && !coreIdle e.2
    | none => false)

/-- OUTCOME (13 Table 13-10). -/
def outcomeNo (o : JobOutcome) : Nat :=
  match o with
  | .complete => 0
  | .faulted => 1
  | .rolledBack => 2
  | .preempted => 3
  | .deferred => 4
  | .notPlaced => 5
  | .refused => 6
  | .aborted => 7
  | .none => 5

/-- A job of the tick whose entry reports a run (13 Table 13-10). -/
def jobRan (o : JobOutcome) : Bool :=
  match o with
  | .complete => true
  | .faulted => true
  | .rolledBack => true
  | .preempted => true
  | .deferred => false
  | .notPlaced => false
  | .refused => false
  | .aborted => true
  | .none => false

/-- The job status entry of tick `tk`, entry `i` (13 Table 13-10). A field that the spec gives no meaning for the entry's
outcome is open: the fault PC without a fault, the trap code of another fault, and the fields of a run for a job that did
not run (log 59). -/
def jobEntry (tk i : Nat) (j : Job) : List Byte :=
  let f := j.fault
  let open64 (ok : Bool) (k v : Nat) : Nat := if ok then v else Config.openField tk i k % 2 ^ 64
  let ran := jobRan j.out
  natLe 8 (j.ent.jobid + (j.core.getD 127) * 2 ^ 32 + j.ent.part * 2 ^ 40 + outcomeNo j.out * 2 ^ 44 + f.code % 256 * 2 ^ 48 + b2n j.imgDrop * 2 ^ 56)
    ++ natLe 8 (open64 (decide (f.code = cTRAP)) 0 f.trap % 65536 + min f.more 65535 * 2 ^ 16 + j.runUs * 2 ^ 32)
    ++ natLe 8 (open64 (decide (f.code ≠ 0)) 1 f.fpc.toNat) ++ natLe 8 (open64 ran 2 f.spc.toNat) ++ natLe 8 (open64 ran 3 j.asr.toNat)
    ++ natLe 8 (open64 ran 4 j.seed0.toNat) ++ natLe 8 (open64 ran 5 j.stream0.toNat % 2 ^ 32) ++ natLe 8 (open64 ran 6 j.ctr0.toNat)

/-- The PARTITIONS section (13 R363). -/
def partSection (s : State) : List Byte :=
  ((List.range 16).map (fun n =>
    let v := getPart s n
    natLe 8 (partWord v + b2n v.tabort * 2 ^ 63) ++ natLe 4 v.overrun ++ natLe 4 v.aborted)).flatten

/-- The sections of the status record: type, records, bytes (13 R362). -/
def statusSections (s : State) : List (Nat × Nat × List Byte) :=
  let q := seqSection s
  let f := foldSection s
  [(1, s.jobs.length, (s.jobs.zipIdx.map (fun x => jobEntry s.tick.now.toNat x.2 x.1)).flatten), (2, q.length / 32, q), (3, 16, partSection s), (4, s.layers.length, routeSection s), (5, f.length / 64, f)]

/-- The directory entries and bodies of sections from an offset. -/
def statusDir : Nat → List (Nat × Nat × List Byte) → List Byte × List Byte
  | _, [] => ([], [])
  | off, x :: t =>
    let r := statusDir (off + x.2.2.length) t
    (natLe 8 (x.1 + x.2.1 * 2 ^ 16) ++ natLe 4 off ++ natLe 4 x.2.2.length ++ r.1, x.2.2 ++ r.2)

/-- The status record, sealed (13 Table 13-9). -/
def statusRecord (s : State) : List Byte :=
  let t := s.tick
  let secs := statusSections s
  let d := statusDir 0x100 secs
  let st := if t.isIdle then (if t.orphaned then 2 else 1) else 0
  natLe 8 (t.now.toNat + 1) ++ natLe 8 (0x100 + d.2.length + 0x0100 * 2 ^ 32 + st * 2 ^ 48 + t.mode.toNat * 2 ^ 56 + b2n t.isLate * 2 ^ 58 + b2n t.bellLost * 2 ^ 59)
    ++ natLe 8 ((t.plan.map (fun h => h.seq.toNat)).getD 0) ++ natLe 4 t.idleRun ++ natLe 4 t.lateUs ++ ((t.plan.map (fun h => h.digest)).getD (zeros 32))
    ++ natLe 8 s.events.first.toNat ++ natLe 8 s.events.last.toNat ++ natLe 8 t.fetchSeq.toNat ++ natLe 8 secs.length ++ zeros 32
    ++ padTo 0x80 d.1 ++ d.2

/-- Status slot of a record (13 R362). -/
def statusVa (o : Owner) (rec : List Byte) : Nat := o.statVa.toNat + (rdN rec 0 8 - 1) % 8 * o.statSlot

/-- The key of a status record not yet sealed: its tick, T + 1 as its first word holds it. -/
def statusKey (rec : List Byte) : Nat := rdN rec 0 8

/-- Step 8: SEAL 0, then the body; the seal follows its acknowledgement. Nothing is written without a session whose handshake
is complete (17 R464). -/
def writeStatus (s : State) : State :=
  match if ownerDone s then ownerQp s else none with
  | none => s
  | some o =>
    let rec' := (statusRecord s).take o.statSlot
    let va := statusVa o rec'
    let s := ownerWrite .note va o.statRkey (zeros 8) s
    let s := ownerWrite (.status (statusKey rec')) (va + 8) o.statRkey (rec'.drop 8) s
    { s with tick := { s.tick with status := s.tick.status ++ [(rec', false)] } }

/-- STATUS_SEAL: every body write of the oldest record whose body is acknowledged has come back, and its seal goes (13 R362). A record
whose session has ended is not sealed. -/
def execStatusSeal (s : State) : Res :=
  .next (match if belfryRuns s then s.tick.status.find? (fun r => r.2) else none with
    | none => s
    | some r =>
      let s := { s with tick := { s.tick with status := s.tick.status.filter (fun x => statusKey x.1 ≠ statusKey r.1) } }
      match ownerQp s with
      | some o => ownerWrite .note (statusVa o r.1) o.statRkey (r.1.take 8) s
      | none => s)

/-- Codes that were limited raise EVT_SUPPRESSED, once each (20 R536). -/
def suppressedEvents (s : State) : State :=
  s.events.perCode.foldl (fun s e => if 256 < e.2 then pushEvent 0 0 none 0x0003 (e.1 + (e.2 - 256) * 2 ^ 32) false s else s) s

/-- Images of resumed jobs that have ended (13 R355). -/
def dropImages (s : State) : State :=
  { s with images := s.images.filter (fun i => !s.jobs.any (fun j =>
      j.ent.kind && decide (j.ent.part = i.part) && decide (j.ent.jobid = i.jobid) && (j.out = .complete || j.out = .faulted))) }

/-- AUDIT flits (16 R430). -/
def sendAudits (s : State) : State :=
  allPorts.foldl (fun s p => if portLive (getPort s p).st then emitFlit p 4 0 0 (auditPayload (getPort s p)) s else s) s

/-- CLOSE_LATE (13 R344). -/
def closeLate (s : State) : State :=
  if s.clk ≤ s.tick.nextAt then s
  else
    let d := s.clk - s.tick.nextAt
    raise 0 0 none 0x1004 ((d + 1199) / 1200) { s with tick := { s.tick with lateNext := d } }

/-- Steps 3 to 8. -/
def finishClose (s : State) : State :=
  let s := sendAudits { s with tick := { s.tick with phase := .closed } }
  let s := (List.range 100).foldl (fun s n => if (getSlice s n).addLog.isEmpty then s else applyAddLog n s) s
  let s := checkRouteBooks (checkKvBooks s)
  let s := (List.range 100).foldl (fun s n => settleJob n s) s
  let recs := s.seqRecs
  let s := recs.foldl mendClose (recs.foldl commitSeq s)
  let s := closeRepairs s
  let s := (List.range 16).foldl (fun s p => if (getPart s p).fold && (getPart s p).st = .active then closeFold p s else s) s
  let s := dropImages (closeDigests s)
  let s := clearCounts (writeStatus (suppressedEvents (closeLate s)))
  let s := tripOff (settleQuads (clearFoldCounts s))
  { s with test := { s.test with liveAt := max s.clk s.test.liveAt } }

/-- CLOSE: at the deadline, every hand-off of a routing request read before its core is stopped. A close that waits in step 2 goes on
with the command again: the bound of step 2 has then passed, and what still runs in the pipes keeps it waiting (log 98). -/
def closeTick (s : State) : State :=
  match s.tick.phase with
  | .run =>
    let s := clearDone (readAllHands s)
    let s := endRouting ((List.range 100).foldl overrunCore s)
    if closeWaits s then { s with tick := { s.tick with phase := .closing } } else finishClose s
  | .closing =>
    if !closeWaits s then finishClose s
    else
      let s := (List.range 100).foldl expireCore (passTo (deadline s.tick + us (tmoDma s)) s)
      if closeWaits s then s else finishClose s
  | _ => s

/-- CLOSE. A close that falls into a reset of the belfry comes after it (20 R532; log 128). -/
def execClose (s : State) : Res :=
  .next (if s.test.wdDead then s
    else
      let s := passTo s.test.wdUntil s
      if s.tick.phase = .run then closeTick (passTo (deadline s.tick) s) else closeTick s)

/-! ### Followers (13 R350 to R352) -/

/-- A follower takes the first copy of a marker from BELL, forwards it and opens; a tick still running closes first. -/
def takeMarker (p : BPort) (pl : List Byte) (s : State) : State :=
  let bell := rdN pl 0 8 % 1024
  let tick := rdN pl 8 8
  let period := rdN pl 16 8 % 2 ^ 18
  let pd := (getPort s p).pdelay.toNat
  let delay := rdN pl 24 4 + pd
  if !follows s || decide (bell ≠ s.tick.bell.toNat) || decide (s.tick.markTick = some (BitVec.ofNat 64 tick)) then s
  else
    let f := takeFree s
    let s := sendMarkers (some p) (markerPayload bell tick period (delay + Config.freeNat f.1)) f.2
    let s := { s with tick := { s.tick with markTick := some (BitVec.ofNat 64 tick) } }
    let mine := if s.tick.first then 0 else s.tick.now.toNat + 1
    let due := s.clk - delay * 12 / 10
    -- a marker of the other parity passes: the tick in progress lasts until the one after it (R351)
    if !s.tick.aligned && decide (mine % 2 ≠ tick % 2) then { s with tick := { s.tick with nextAt := due + us period } }
    else
      let s := { s with tick := { s.tick with aligned := true, bellLost := false, nextAt := due } }
      let s := if s.tick.phase = .run then closeTick s else s
      if mayOpen s then openMarked due due period s else { s with tick := { s.tick with marked := some period } }

/-- TICK_MARKER: a MARKER flit arrives on a port. -/
def execTickMarker (port : BPort) (flit : List Byte) (s : State) : Res :=
  .next (if !hears s port then s
    else if !flitGood flit then discardFlit port flit s
    else
      let s := flitTake port flit s
      if flitType flit ≠ 2 then s else takeMarker port (rdB flit 8 240) s)

/-- MARK_LOST: no marker within 2 us of a follower's expected open; it opens on its own timer (13 R352). -/
def execMarkLost (s : State) : Res :=
  .next (if !mayOpen s || !follows s || s.tick.marked.isSome then s
    else
      let due := s.tick.nextAt
      let period := s.tick.periodUs
      let s := passTo (due + us 2) s
      let s := { s with tick := { s.tick with bellLost := true, aligned := false } }
      let bell := s.tick.bell.toNat
      let r := openWork due s
      let s := raise 0 0 none 0x1006 bell r.2
      openClears r.1 (if s.tick.isIdle && follows s then { s with tick := { s.tick with periodUs := period, nextAt := due + us period } } else s))

end Sys2Proof.Machine
end

