-- ==== Sys2Proof/Machine/VectorOps.lean ====
section
/-! DEFINITION. The vector instructions and `vtopk`, `rgsum` (04 R122 to R130). Each meaning issues its word on its core (Machine/Issue.lean). -/

namespace Sys2Proof.Machine

open Sys2Proof

/-- `vadd` (R123): Lane-wise integer add with optional saturation. -/
def execVadd (core : Nat) (h : Head) (o : FmtV) (s : State) : Res := issue core .vadd (wordV .vadd h o) 0 s

/-- `vsub` (R123): Lane-wise integer subtract with optional saturation. -/
def execVsub (core : Nat) (h : Head) (o : FmtV) (s : State) : Res := issue core .vsub (wordV .vsub h o) 0 s

/-- `vmul` (R123): Lane-wise integer multiply, low bits or saturated. -/
def execVmul (core : Nat) (h : Head) (o : FmtV) (s : State) : Res := issue core .vmul (wordV .vmul h o) 0 s

/-- `vmulh` (R123): Lane-wise integer multiply, high part shifted and optionally saturated. -/
def execVmulh (core : Nat) (h : Head) (o : FmtV) (s : State) : Res := issue core .vmulh (wordV .vmulh h o) 0 s

/-- `vand` (R123): Lane-wise bitwise AND. -/
def execVand (core : Nat) (h : Head) (o : FmtV) (s : State) : Res := issue core .vand (wordV .vand h o) 0 s

/-- `vor` (R123): Lane-wise bitwise OR. -/
def execVor (core : Nat) (h : Head) (o : FmtV) (s : State) : Res := issue core .vor (wordV .vor h o) 0 s

/-- `vxor` (R123): Lane-wise bitwise XOR. -/
def execVxor (core : Nat) (h : Head) (o : FmtV) (s : State) : Res := issue core .vxor (wordV .vxor h o) 0 s

/-- `vandn` (R123): Lane-wise TA AND NOT TB. -/
def execVandn (core : Nat) (h : Head) (o : FmtV) (s : State) : Res := issue core .vandn (wordV .vandn h o) 0 s

/-- `vnot` (R123): Lane-wise bitwise NOT. -/
def execVnot (core : Nat) (h : Head) (o : FmtV) (s : State) : Res := issue core .vnot (wordV .vnot h o) 0 s

/-- `vshl` (R123): Lane-wise logical shift left. -/
def execVshl (core : Nat) (h : Head) (o : FmtV) (s : State) : Res := issue core .vshl (wordV .vshl h o) 0 s

/-- `vshr` (R123): Lane-wise logical shift right. -/
def execVshr (core : Nat) (h : Head) (o : FmtV) (s : State) : Res := issue core .vshr (wordV .vshr h o) 0 s

/-- `vsra` (R123): Lane-wise arithmetic shift right. -/
def execVsra (core : Nat) (h : Head) (o : FmtV) (s : State) : Res := issue core .vsra (wordV .vsra h o) 0 s

/-- `vrotl` (R123): Lane-wise rotate left. -/
def execVrotl (core : Nat) (h : Head) (o : FmtV) (s : State) : Res := issue core .vrotl (wordV .vrotl h o) 0 s

/-- `vimin` (R123): Lane-wise signed integer minimum. -/
def execVimin (core : Nat) (h : Head) (o : FmtV) (s : State) : Res := issue core .vimin (wordV .vimin h o) 0 s

/-- `vimax` (R123): Lane-wise signed integer maximum. -/
def execVimax (core : Nat) (h : Head) (o : FmtV) (s : State) : Res := issue core .vimax (wordV .vimax h o) 0 s

/-- `vfadd` (R187): Lane-wise f32 addition. -/
def execVfadd (core : Nat) (h : Head) (o : FmtV) (s : State) : Res := issue core .vfadd (wordV .vfadd h o) 0 s

/-- `vfsub` (R187): Lane-wise f32 subtraction. -/
def execVfsub (core : Nat) (h : Head) (o : FmtV) (s : State) : Res := issue core .vfsub (wordV .vfsub h o) 0 s

/-- `vfmul` (R187): Lane-wise f32 multiplication. -/
def execVfmul (core : Nat) (h : Head) (o : FmtV) (s : State) : Res := issue core .vfmul (wordV .vfmul h o) 0 s

/-- `vfma` (R187): Lane-wise f32 fused multiply-add, rounded once. -/
def execVfma (core : Nat) (h : Head) (o : FmtV) (s : State) : Res := issue core .vfma (wordV .vfma h o) 0 s

/-- `vfmin` (R45): Lane-wise IEEE minimum. -/
def execVfmin (core : Nat) (h : Head) (o : FmtV) (s : State) : Res := issue core .vfmin (wordV .vfmin h o) 0 s

/-- `vfmax` (R45): Lane-wise IEEE maximum. -/
def execVfmax (core : Nat) (h : Head) (o : FmtV) (s : State) : Res := issue core .vfmax (wordV .vfmax h o) 0 s

/-- `vfcmp` (R124): Lane-wise quiet f32 comparison writing an all-ones or zero mask. -/
def execVfcmp (core : Nat) (h : Head) (o : FmtV) (s : State) : Res := issue core .vfcmp (wordV .vfcmp h o) 0 s

/-- `vsel` (R124): Lane-wise bitwise select of TA or TB on TC. -/
def execVsel (core : Nat) (h : Head) (o : FmtV) (s : State) : Res := issue core .vsel (wordV .vsel h o) 0 s

/-- `vneg` (R124): Flips the sign bit of each lane. -/
def execVneg (core : Nat) (h : Head) (o : FmtV) (s : State) : Res := issue core .vneg (wordV .vneg h o) 0 s

/-- `vabs` (R124): Clears the sign bit of each lane. -/
def execVabs (core : Nat) (h : Head) (o : FmtV) (s : State) : Res := issue core .vabs (wordV .vabs h o) 0 s

/-- `vcpsgn` (R124): Takes magnitude of TA and sign of TB per lane. -/
def execVcpsgn (core : Nat) (h : Head) (o : FmtV) (s : State) : Res := issue core .vcpsgn (wordV .vcpsgn h o) 0 s

/-- `vexp2` (R188): Lane-wise 2^x on the transcendental unit. -/
def execVexp2 (core : Nat) (h : Head) (o : FmtV) (s : State) : Res := issue core .vexp2 (wordV .vexp2 h o) 0 s

/-- `vlog2` (R188): Lane-wise log2 on the transcendental unit. -/
def execVlog2 (core : Nat) (h : Head) (o : FmtV) (s : State) : Res := issue core .vlog2 (wordV .vlog2 h o) 0 s

/-- `vrcp` (R188): Lane-wise reciprocal on the transcendental unit. -/
def execVrcp (core : Nat) (h : Head) (o : FmtV) (s : State) : Res := issue core .vrcp (wordV .vrcp h o) 0 s

/-- `vrsqrt` (R188): Lane-wise reciprocal square root on the transcendental unit. -/
def execVrsqrt (core : Nat) (h : Head) (o : FmtV) (s : State) : Res := issue core .vrsqrt (wordV .vrsqrt h o) 0 s

/-- `vtanh` (R188): Lane-wise tanh on the transcendental unit. -/
def execVtanh (core : Nat) (h : Head) (o : FmtV) (s : State) : Res := issue core .vtanh (wordV .vtanh h o) 0 s

/-- `vld` (R125): Loads tile rows from S-space, decoding format and scales to f32 or i32. -/
def execVld (core : Nat) (h : Head) (o : FmtV) (s : State) : Res := issue core .vld (wordV .vld h o) 0 s

/-- `vst` (R126): Converts tile rows to a format and writes them to S-space, optionally block-quantising. -/
def execVst (core : Nat) (h : Head) (o : FmtV) (s : State) : Res := issue core .vst (wordV .vst h o) 0 s

/-- `vcvti` (R125): Converts f32 lanes to i32 under ACR.RND. -/
def execVcvti (core : Nat) (h : Head) (o : FmtV) (s : State) : Res := issue core .vcvti (wordV .vcvti h o) 0 s

/-- `vcvtf` (R125): Converts i32 lanes to f32 under ACR.RND. -/
def execVcvtf (core : Nat) (h : Head) (o : FmtV) (s : State) : Res := issue core .vcvtf (wordV .vcvtf h o) 0 s

/-- `vred_row` (R189): Reduces each processed row into lane 0 of the same row. -/
def execVredRow (core : Nat) (h : Head) (o : FmtV) (s : State) : Res := issue core .vredRow (wordV .vredRow h o) 0 s

/-- `vred_col` (R190): Reduces each lane over the processed rows into row ROW0. -/
def execVredCol (core : Nat) (h : Head) (o : FmtV) (s : State) : Res := issue core .vredCol (wordV .vredCol h o) 0 s

/-- `vredall` (R193): Reduces all lanes of the processed rows into an m-register summary. -/
def execVredall (core : Nat) (h : Head) (o : FmtV) (s : State) : Res := issue core .vredall (wordV .vredall h o) 0 s

/-- `vcmpcnt` (R193): Counts lanes meeting a comparison with a scalar into an m-register. -/
def execVcmpcnt (core : Nat) (h : Head) (o : FmtV) (s : State) : Res := issue core .vcmpcnt (wordV .vcmpcnt h o) 0 s

/-- `vqapp` (R197): Quantises keys and values into KV page slots with B16 scales. -/
def execVqapp (core : Nat) (h : Head) (o : FmtV) (s : State) : Res := issue core .vqapp (wordV .vqapp h o) 0 s

/-- `vsmstat` (R194): Updates the running softmax maximum and writes the correction factor. -/
def execVsmstat (core : Nat) (h : Head) (o : FmtV) (s : State) : Res := issue core .vsmstat (wordV .vsmstat h o) 0 s

/-- `vsmexp` (R195): Writes 2^(x-M) per lane and updates the running sum. -/
def execVsmexp (core : Nat) (h : Head) (o : FmtV) (s : State) : Res := issue core .vsmexp (wordV .vsmexp h o) 0 s

/-- `vrng` (R128): Fills tile lanes with counter-generator words and advances SRCTR. -/
def execVrng (core : Nat) (h : Head) (o : FmtV) (s : State) : Res := issue core .vrng (wordV .vrng h o) 0 s

/-- `vmov` (R129): Copies tile rows. -/
def execVmov (core : Nat) (h : Head) (o : FmtV) (s : State) : Res := issue core .vmov (wordV .vmov h o) 0 s

/-- `vbcast` (R129): Broadcasts bits 31:0 of an s-register into every lane. -/
def execVbcast (core : Nat) (h : Head) (o : FmtV) (s : State) : Res := issue core .vbcast (wordV .vbcast h o) 0 s

/-- `vzero` (R129): Zeroes every lane of the processed rows. -/
def execVzero (core : Nat) (h : Head) (o : FmtV) (s : State) : Res := issue core .vzero (wordV .vzero h o) 0 s

/-- `vtopk` (R196): Selects the top k expert scores per token row with tie and NaN rules. -/
def execVtopk (core : Nat) (h : Head) (o : FmtV) (s : State) : Res := issue core .vtopk (wordV .vtopk h o) 0 s

/-- `rgsum` (R316): Packs top-k rows into 64-byte token records in S-space. -/
def execRgsum (core : Nat) (h : Head) (o : FmtV) (s : State) : Res := issue core .rgsum (wordV .rgsum h o) 0 s

end Sys2Proof.Machine
end

