-- ==== Sys2Proof/Machine/Dispatch.lean ====
section
/-! DEFINITION. The meaning of every command: one arm per constructor. -/

namespace Sys2Proof.Machine

open Sys2Proof

def exec (i : Instr) (s : State) : Host.Outcome State Fault Refusal :=
  match i with
  | .add core h o => Sys2Proof.Machine.execAdd core h o s
  | .sub core h o => Sys2Proof.Machine.execSub core h o s
  | .mul core h o => Sys2Proof.Machine.execMul core h o s
  | .mulh core h o => Sys2Proof.Machine.execMulh core h o s
  | .mulhu core h o => Sys2Proof.Machine.execMulhu core h o s
  | .and core h o => Sys2Proof.Machine.execAnd core h o s
  | .or core h o => Sys2Proof.Machine.execOr core h o s
  | .xor core h o => Sys2Proof.Machine.execXor core h o s
  | .shl core h o => Sys2Proof.Machine.execShl core h o s
  | .shr core h o => Sys2Proof.Machine.execShr core h o s
  | .sra core h o => Sys2Proof.Machine.execSra core h o s
  | .min core h o => Sys2Proof.Machine.execMin core h o s
  | .max core h o => Sys2Proof.Machine.execMax core h o s
  | .minu core h o => Sys2Proof.Machine.execMinu core h o s
  | .maxu core h o => Sys2Proof.Machine.execMaxu core h o s
  | .pcmpEq core h o => Sys2Proof.Machine.execPcmpEq core h o s
  | .pcmpNe core h o => Sys2Proof.Machine.execPcmpNe core h o s
  | .pcmpLt core h o => Sys2Proof.Machine.execPcmpLt core h o s
  | .pcmpGe core h o => Sys2Proof.Machine.execPcmpGe core h o s
  | .pcmpLtu core h o => Sys2Proof.Machine.execPcmpLtu core h o s
  | .pcmpGeu core h o => Sys2Proof.Machine.execPcmpGeu core h o s
  | .pand core h o => Sys2Proof.Machine.execPand core h o s
  | .por core h o => Sys2Proof.Machine.execPor core h o s
  | .pxor core h o => Sys2Proof.Machine.execPxor core h o s
  | .pnot core h o => Sys2Proof.Machine.execPnot core h o s
  | .ldB core h o => Sys2Proof.Machine.execLdB core h o s
  | .ldBu core h o => Sys2Proof.Machine.execLdBu core h o s
  | .ldH core h o => Sys2Proof.Machine.execLdH core h o s
  | .ldHu core h o => Sys2Proof.Machine.execLdHu core h o s
  | .ldW core h o => Sys2Proof.Machine.execLdW core h o s
  | .ldWu core h o => Sys2Proof.Machine.execLdWu core h o s
  | .ldD core h o => Sys2Proof.Machine.execLdD core h o s
  | .stB core h o => Sys2Proof.Machine.execStB core h o s
  | .stH core h o => Sys2Proof.Machine.execStH core h o s
  | .stW core h o => Sys2Proof.Machine.execStW core h o s
  | .stD core h o => Sys2Proof.Machine.execStD core h o s
  | .crd core h o => Sys2Proof.Machine.execCrd core h o s
  | .cwr core h o => Sys2Proof.Machine.execCwr core h o s
  | .mvm core h o => Sys2Proof.Machine.execMvm core h o s
  | .rdclk core h o => Sys2Proof.Machine.execRdclk core h o s
  | .rdtick core h o => Sys2Proof.Machine.execRdtick core h o s
  | .li64 core h o imm64 => Sys2Proof.Machine.execLi64 core h o imm64 s
  | .brCond core h o => Sys2Proof.Machine.execBrCond core h o s
  | .call core h o => Sys2Proof.Machine.execCall core h o s
  | .jr core h o => Sys2Proof.Machine.execJr core h o s
  | .bdnz core h o => Sys2Proof.Machine.execBdnz core h o s
  | .ssigAdd core h o => Sys2Proof.Machine.execSsigAdd core h o s
  | .ssigSet core h o => Sys2Proof.Machine.execSsigSet core h o s
  | .swait core h o => Sys2Proof.Machine.execSwait core h o s
  | .swaitRelease core => Sys2Proof.Machine.execSwaitRelease core s
  | .lfence core h o => Sys2Proof.Machine.execLfence core h o s
  | .lfenceRelease core => Sys2Proof.Machine.execLfenceRelease core s
  | .halt core h o => Sys2Proof.Machine.execHalt core h o s
  | .strap core h o => Sys2Proof.Machine.execStrap core h o s
  | .mmac core h o => Sys2Proof.Machine.execMmac core h o s
  | .mdrain core h o => Sys2Proof.Machine.execMdrain core h o s
  | .mload core h o => Sys2Proof.Machine.execMload core h o s
  | .mzero core h o => Sys2Proof.Machine.execMzero core h o s
  | .vadd core h o => Sys2Proof.Machine.execVadd core h o s
  | .vsub core h o => Sys2Proof.Machine.execVsub core h o s
  | .vmul core h o => Sys2Proof.Machine.execVmul core h o s
  | .vmulh core h o => Sys2Proof.Machine.execVmulh core h o s
  | .vand core h o => Sys2Proof.Machine.execVand core h o s
  | .vor core h o => Sys2Proof.Machine.execVor core h o s
  | .vxor core h o => Sys2Proof.Machine.execVxor core h o s
  | .vandn core h o => Sys2Proof.Machine.execVandn core h o s
  | .vnot core h o => Sys2Proof.Machine.execVnot core h o s
  | .vshl core h o => Sys2Proof.Machine.execVshl core h o s
  | .vshr core h o => Sys2Proof.Machine.execVshr core h o s
  | .vsra core h o => Sys2Proof.Machine.execVsra core h o s
  | .vrotl core h o => Sys2Proof.Machine.execVrotl core h o s
  | .vimin core h o => Sys2Proof.Machine.execVimin core h o s
  | .vimax core h o => Sys2Proof.Machine.execVimax core h o s
  | .vfadd core h o => Sys2Proof.Machine.execVfadd core h o s
  | .vfsub core h o => Sys2Proof.Machine.execVfsub core h o s
  | .vfmul core h o => Sys2Proof.Machine.execVfmul core h o s
  | .vfma core h o => Sys2Proof.Machine.execVfma core h o s
  | .vfmin core h o => Sys2Proof.Machine.execVfmin core h o s
  | .vfmax core h o => Sys2Proof.Machine.execVfmax core h o s
  | .vfcmp core h o => Sys2Proof.Machine.execVfcmp core h o s
  | .vsel core h o => Sys2Proof.Machine.execVsel core h o s
  | .vneg core h o => Sys2Proof.Machine.execVneg core h o s
  | .vabs core h o => Sys2Proof.Machine.execVabs core h o s
  | .vcpsgn core h o => Sys2Proof.Machine.execVcpsgn core h o s
  | .vexp2 core h o => Sys2Proof.Machine.execVexp2 core h o s
  | .vlog2 core h o => Sys2Proof.Machine.execVlog2 core h o s
  | .vrcp core h o => Sys2Proof.Machine.execVrcp core h o s
  | .vrsqrt core h o => Sys2Proof.Machine.execVrsqrt core h o s
  | .vtanh core h o => Sys2Proof.Machine.execVtanh core h o s
  | .vld core h o => Sys2Proof.Machine.execVld core h o s
  | .vst core h o => Sys2Proof.Machine.execVst core h o s
  | .vcvti core h o => Sys2Proof.Machine.execVcvti core h o s
  | .vcvtf core h o => Sys2Proof.Machine.execVcvtf core h o s
  | .vredRow core h o => Sys2Proof.Machine.execVredRow core h o s
  | .vredCol core h o => Sys2Proof.Machine.execVredCol core h o s
  | .vredall core h o => Sys2Proof.Machine.execVredall core h o s
  | .vcmpcnt core h o => Sys2Proof.Machine.execVcmpcnt core h o s
  | .vqapp core h o => Sys2Proof.Machine.execVqapp core h o s
  | .vsmstat core h o => Sys2Proof.Machine.execVsmstat core h o s
  | .vsmexp core h o => Sys2Proof.Machine.execVsmexp core h o s
  | .vrng core h o => Sys2Proof.Machine.execVrng core h o s
  | .vmov core h o => Sys2Proof.Machine.execVmov core h o s
  | .vbcast core h o => Sys2Proof.Machine.execVbcast core h o s
  | .vzero core h o => Sys2Proof.Machine.execVzero core h o s
  | .vtopk core h o => Sys2Proof.Machine.execVtopk core h o s
  | .rgsum core h o => Sys2Proof.Machine.execRgsum core h o s
  | .rdisp core h o => Sys2Proof.Machine.execRdisp core h o s
  | .rcomb core h o => Sys2Proof.Machine.execRcomb core h o s
  | .dma core h o => Sys2Proof.Machine.execDma core h o s
  | .dwait core h o => Sys2Proof.Machine.execDwait core h o s
  | .dwaitall core h o => Sys2Proof.Machine.execDwaitall core h o s
  | .dwaitRelease core => Sys2Proof.Machine.execDwaitRelease core s
  | .issueStallEnd core => Sys2Proof.Machine.execIssueStallEnd core s
  | .queuedInstrStart core q => Sys2Proof.Machine.execQueuedInstrStart core q s
  | .instrComplete core u => Sys2Proof.Machine.execInstrComplete core u s
  | .mangleBlockDecode core => Sys2Proof.Machine.execMangleBlockDecode core s
  | .dmaDescriptorStart core ch => Sys2Proof.Machine.execDmaDescriptorStart core ch s
  | .dmaDescriptorComplete core slot => Sys2Proof.Machine.execDmaDescriptorComplete core slot s
  | .dmaDescriptorTimeout core slot => Sys2Proof.Machine.execDmaDescriptorTimeout core slot s
  | .networkRequestTimeout core slot => Sys2Proof.Machine.execNetworkRequestTimeout core slot s
  | .remoteCompletionTimeout uid => Sys2Proof.Machine.execRemoteCompletionTimeout uid s
  | .dispatchTimeout req => Sys2Proof.Machine.execDispatchTimeout req s
  | .rowRemapDone slice => Sys2Proof.Machine.execRowRemapDone slice s
  | .sliceRetrain slice => Sys2Proof.Machine.execSliceRetrain slice s
  | .sliceRetrainRelease slice => Sys2Proof.Machine.execSliceRetrainRelease slice s
  | .refreshHold slice => Sys2Proof.Machine.execRefreshHold slice s
  | .stackTempSample slice l0 l7 => Sys2Proof.Machine.execStackTempSample slice l0 l7 s
  | .patrolScrub slice granule upset => Sys2Proof.Machine.execPatrolScrub slice granule upset s
  | .junctionSample quad temp => Sys2Proof.Machine.execJunctionSample quad temp s
  | .thermalCut quad temp => Sys2Proof.Machine.execThermalCut quad temp s
  | .tickOpen => Sys2Proof.Machine.execTickOpen s
  | .storeComplete part => Sys2Proof.Machine.execStoreComplete part s
  | .tstLoopEnd errors => Sys2Proof.Machine.execTstLoopEnd errors s
  | .planFetch => Sys2Proof.Machine.execPlanFetch s
  | .planArrival bytes => Sys2Proof.Machine.execPlanArrival bytes s
  | .close => Sys2Proof.Machine.execClose s
  | .statusSeal => Sys2Proof.Machine.execStatusSeal s
  | .warmReset => Sys2Proof.Machine.execWarmReset s
  | .foldSegmentStream part => Sys2Proof.Machine.execFoldSegmentStream part s
  | .foldSegmentComplete part tier => Sys2Proof.Machine.execFoldSegmentComplete part tier s
  | .logRecordWrite part => Sys2Proof.Machine.execLogRecordWrite part s
  | .commitDigestCompute part => Sys2Proof.Machine.execCommitDigestCompute part s
  | .restorePage seqid => Sys2Proof.Machine.execRestorePage seqid s
  | .digestHash => Sys2Proof.Machine.execDigestHash s
  | .poisonPageRefill page => Sys2Proof.Machine.execPoisonPageRefill page s
  | .attributeWriteComplete granule => Sys2Proof.Machine.execAttributeWriteComplete granule s
  | .granuleScrubComplete granule => Sys2Proof.Machine.execGranuleScrubComplete granule s
  | .drainExpiry target => Sys2Proof.Machine.execDrainExpiry target s
  | .pendingKeyExpire part => Sys2Proof.Machine.execPendingKeyExpire part s
  | .routeAdmit layer => Sys2Proof.Machine.execRouteAdmit layer s
  | .sourceDonePoll layer => Sys2Proof.Machine.execSourceDonePoll layer s
  | .combineCollectDone req => Sys2Proof.Machine.execCombineCollectDone req s
  | .tickMarker port flit => Sys2Proof.Machine.execTickMarker port flit s
  | .markLost => Sys2Proof.Machine.execMarkLost s
  | .flitData port flit => Sys2Proof.Machine.execFlitData port flit s
  | .flitNak port flit => Sys2Proof.Machine.execFlitNak port flit s
  | .flitCtrl port flit => Sys2Proof.Machine.execFlitCtrl port flit s
  | .flitIdle port flit => Sys2Proof.Machine.execFlitIdle port flit s
  | .replayTimeout port => Sys2Proof.Machine.execReplayTimeout port s
  | .txnWrite => Sys2Proof.Machine.execTxnWrite s
  | .txnAdd => Sys2Proof.Machine.execTxnAdd s
  | .txnRead => Sys2Proof.Machine.execTxnRead s
  | .txnReadrsp => Sys2Proof.Machine.execTxnReadrsp s
  | .txnAcks => Sys2Proof.Machine.execTxnAcks s
  | .txnRefuse => Sys2Proof.Machine.execTxnRefuse s
  | .acksFlush chip => Sys2Proof.Machine.execAcksFlush chip s
  | .portTraining port => Sys2Proof.Machine.execPortTraining port s
  | .portTrainingComplete port res => Sys2Proof.Machine.execPortTrainingComplete port res s
  | .portDownRetry port => Sys2Proof.Machine.execPortDownRetry port s
  | .portRetrain port => Sys2Proof.Machine.execPortRetrain port s
  | .portRetrainComplete port res => Sys2Proof.Machine.execPortRetrainComplete port res s
  | .fecErrorWindow port lane errors => Sys2Proof.Machine.execFecErrorWindow port lane errors s
  | .laneLockLoss port lane => Sys2Proof.Machine.execLaneLockLoss port lane s
  | .rocePacket port pkt => Sys2Proof.Machine.execRocePacket port pkt s
  | .arpFrame port arp => Sys2Proof.Machine.execArpFrame port arp s
  | .ndFrame port nd => Sys2Proof.Machine.execNdFrame port nd s
  | .icmpEchoRequest port v6 dst payload => Sys2Proof.Machine.execIcmpEchoRequest port v6 dst payload s
  | .pfcFrame port prio quanta => Sys2Proof.Machine.execPfcFrame port prio quanta s
  | .unsupportedFrame port why => Sys2Proof.Machine.execUnsupportedFrame port why s
  | .cmReq port req => Sys2Proof.Machine.execCmReq port req s
  | .cmRtu qp => Sys2Proof.Machine.execCmRtu qp s
  | .cmDreq qp => Sys2Proof.Machine.execCmDreq qp s
  | .cmDrep qp => Sys2Proof.Machine.execCmDrep qp s
  | .qpDreqTimeout qp => Sys2Proof.Machine.execQpDreqTimeout qp s
  | .cspaceRdmaRead qp va len => Sys2Proof.Machine.execCspaceRdmaRead qp va len s
  | .hostRdmaWrite qp rkey va data => Sys2Proof.Machine.execHostRdmaWrite qp rkey va data s
  | .hostRdmaRead qp rkey va len => Sys2Proof.Machine.execHostRdmaRead qp rkey va len s
  | .unsupportedRdmaOp qp => Sys2Proof.Machine.execUnsupportedRdmaOp qp s
  | .rdmaReadResponse qp data => Sys2Proof.Machine.execRdmaReadResponse qp data s
  | .roceAck qp => Sys2Proof.Machine.execRoceAck qp s
  | .roceNak qp seqErr => Sys2Proof.Machine.execRoceNak qp seqErr s
  | .roceAckTimeout qp => Sys2Proof.Machine.execRoceAckTimeout qp s
  | .cnpReceive qp => Sys2Proof.Machine.execCnpReceive qp s
  | .cnpRateRaise qp => Sys2Proof.Machine.execCnpRateRaise qp s
  | .hostPortTrained port => Sys2Proof.Machine.execHostPortTrained port s
  | .hostLinkLoss port => Sys2Proof.Machine.execHostLinkLoss port s
  | .ownerHelloPoll hello => Sys2Proof.Machine.execOwnerHelloPoll hello s
  | .ownerHelloTimeout => Sys2Proof.Machine.execOwnerHelloTimeout s
  | .eventRecordWrite => Sys2Proof.Machine.execEventRecordWrite s
  | .smbIdentity => Sys2Proof.Machine.execSmbIdentity s
  | .smbDieTemp => Sys2Proof.Machine.execSmbDieTemp s
  | .smbStackTemp => Sys2Proof.Machine.execSmbStackTemp s
  | .smbThermalStatus => Sys2Proof.Machine.execSmbThermalStatus s
  | .smbPortState => Sys2Proof.Machine.execSmbPortState s
  | .smbOtherNack => Sys2Proof.Machine.execSmbOtherNack s
  | .jtagBypass => Sys2Proof.Machine.execJtagBypass s
  | .jtagIdcode => Sys2Proof.Machine.execJtagIdcode s
  | .jtagSamplePreload => Sys2Proof.Machine.execJtagSamplePreload s
  | .jtagExtest drive => Sys2Proof.Machine.execJtagExtest drive s
  | .powerOn input unit => Sys2Proof.Machine.execPowerOn input unit s
  | .moduleReset lowNs => Sys2Proof.Machine.execModuleReset lowNs s
  | .inputUndervoltage input lowUs => Sys2Proof.Machine.execInputUndervoltage input lowUs s
  | .belfryWatchdog => Sys2Proof.Machine.execBelfryWatchdog s
  | .quadRampComplete quad => Sys2Proof.Machine.execQuadRampComplete quad s
  | .quadCycleOffEnd quad => Sys2Proof.Machine.execQuadCycleOffEnd quad s
  | .regulatorRefill => Sys2Proof.Machine.execRegulatorRefill s
  | .pfcPauseExpiry port prio => Sys2Proof.Machine.execPfcPauseExpiry port prio s
  | .hostPortTrainingFailed port => Sys2Proof.Machine.execHostPortTrainingFailed port s
  | .mrstNRelease unit => Sys2Proof.Machine.execMrstNRelease unit s
  | .inputLeavesRange input => Sys2Proof.Machine.execInputLeavesRange input s
  | .flashWearLevelling => Sys2Proof.Machine.execFlashWearLevelling s
  | .firmwareUpdateComplete => Sys2Proof.Machine.execFirmwareUpdateComplete s
  | .attestationReportSigned => Sys2Proof.Machine.execAttestationReportSigned s

end Sys2Proof.Machine
end

