-- ==== Sys2Proof/Machine/Step.lean ====
section
/-! DEFINITION. One step: the command at the front of the queue, or one clk of idling. -/

namespace Sys2Proof.Machine

open Sys2Proof

/-- One step. On an empty queue one clk passes and nothing else happens (DESIGN CHOICE, log 1). -/
def step (s : State) : Host.Outcome State Fault Refusal :=
  match s.pending with
  | [] => .next { s with clk := s.clk + 1 }
  | c :: rest => exec c { s with pending := rest }

/-- The command of a word put at the front of the queue; unchanged where the word spells none. -/
def State.withFetchWord (s : State) (nbits w : Nat) : State :=
  match decodeTableWord nbits w with
  | some c => { s with pending := c :: s.pending }
  | none => s

end Sys2Proof.Machine
end

