-- ==== Sys2Proof/WellFormed.lean ====
section
/-! DEFINITION. The commands that something can send: unit numbers within the module (00 R4, Table 0-2), bit patterns of the lengths
that the spec gives. The meanings do not rest on these checks: a command that names no unit of the module stops by name,
and a message of another length has the effect the spec gives a malformed one. -/

namespace Sys2Proof

/-- The module has 100 cores (00 R4, Table 0-2). -/
def coreOk (n : Nat) : Bool := decide (n < 100)
/-- The module has 100 slices (00 R4, Table 0-2). -/
def sliceOk (n : Nat) : Bool := decide (n < 100)
/-- The module has 25 quads (00 R4, Table 0-2). -/
def quadOk (n : Nat) : Bool := decide (n < 25)
/-- A flit has 256 B (16 R425); an uncorrectable codeword arrives as no bytes (log 17). -/
def flitOk (f : List Byte) : Bool := decide (f.length = 256) || f.isEmpty
/-- A training names lanes of the port: 16 and a spare, lane 16 (16 R422). -/
def trainOk (r : TrainResult) : Bool := r.failing.all (fun l => decide (l < 17))
/-- What bring-up finds concerns slices and quads of the module. -/
def unitOk (u : BringUp) : Bool := u.badBonds.all (fun e => sliceOk e.1) && u.badQuads.all quadOk

/-- A command that something can send. -/
def Instr.wf : Instr → Bool
  | .add core _ _ => coreOk core
  | .sub core _ _ => coreOk core
  | .mul core _ _ => coreOk core
  | .mulh core _ _ => coreOk core
  | .mulhu core _ _ => coreOk core
  | .and core _ _ => coreOk core
  | .or core _ _ => coreOk core
  | .xor core _ _ => coreOk core
  | .shl core _ _ => coreOk core
  | .shr core _ _ => coreOk core
  | .sra core _ _ => coreOk core
  | .min core _ _ => coreOk core
  | .max core _ _ => coreOk core
  | .minu core _ _ => coreOk core
  | .maxu core _ _ => coreOk core
  | .pcmpEq core _ _ => coreOk core
  | .pcmpNe core _ _ => coreOk core
  | .pcmpLt core _ _ => coreOk core
  | .pcmpGe core _ _ => coreOk core
  | .pcmpLtu core _ _ => coreOk core
  | .pcmpGeu core _ _ => coreOk core
  | .pand core _ _ => coreOk core
  | .por core _ _ => coreOk core
  | .pxor core _ _ => coreOk core
  | .pnot core _ _ => coreOk core
  | .ldB core _ _ => coreOk core
  | .ldBu core _ _ => coreOk core
  | .ldH core _ _ => coreOk core
  | .ldHu core _ _ => coreOk core
  | .ldW core _ _ => coreOk core
  | .ldWu core _ _ => coreOk core
  | .ldD core _ _ => coreOk core
  | .stB core _ _ => coreOk core
  | .stH core _ _ => coreOk core
  | .stW core _ _ => coreOk core
  | .stD core _ _ => coreOk core
  | .crd core _ _ => coreOk core
  | .cwr core _ _ => coreOk core
  | .mvm core _ _ => coreOk core
  | .rdclk core _ _ => coreOk core
  | .rdtick core _ _ => coreOk core
  | .li64 core _ _ _ => coreOk core
  | .brCond core _ _ => coreOk core
  | .call core _ _ => coreOk core
  | .jr core _ _ => coreOk core
  | .bdnz core _ _ => coreOk core
  | .ssigAdd core _ _ => coreOk core
  | .ssigSet core _ _ => coreOk core
  | .swait core _ _ => coreOk core
  | .swaitRelease core => coreOk core
  | .lfence core _ _ => coreOk core
  | .lfenceRelease core => coreOk core
  | .halt core _ _ => coreOk core
  | .strap core _ _ => coreOk core
  | .mmac core _ _ => coreOk core
  | .mdrain core _ _ => coreOk core
  | .mload core _ _ => coreOk core
  | .mzero core _ _ => coreOk core
  | .vadd core _ _ => coreOk core
  | .vsub core _ _ => coreOk core
  | .vmul core _ _ => coreOk core
  | .vmulh core _ _ => coreOk core
  | .vand core _ _ => coreOk core
  | .vor core _ _ => coreOk core
  | .vxor core _ _ => coreOk core
  | .vandn core _ _ => coreOk core
  | .vnot core _ _ => coreOk core
  | .vshl core _ _ => coreOk core
  | .vshr core _ _ => coreOk core
  | .vsra core _ _ => coreOk core
  | .vrotl core _ _ => coreOk core
  | .vimin core _ _ => coreOk core
  | .vimax core _ _ => coreOk core
  | .vfadd core _ _ => coreOk core
  | .vfsub core _ _ => coreOk core
  | .vfmul core _ _ => coreOk core
  | .vfma core _ _ => coreOk core
  | .vfmin core _ _ => coreOk core
  | .vfmax core _ _ => coreOk core
  | .vfcmp core _ _ => coreOk core
  | .vsel core _ _ => coreOk core
  | .vneg core _ _ => coreOk core
  | .vabs core _ _ => coreOk core
  | .vcpsgn core _ _ => coreOk core
  | .vexp2 core _ _ => coreOk core
  | .vlog2 core _ _ => coreOk core
  | .vrcp core _ _ => coreOk core
  | .vrsqrt core _ _ => coreOk core
  | .vtanh core _ _ => coreOk core
  | .vld core _ _ => coreOk core
  | .vst core _ _ => coreOk core
  | .vcvti core _ _ => coreOk core
  | .vcvtf core _ _ => coreOk core
  | .vredRow core _ _ => coreOk core
  | .vredCol core _ _ => coreOk core
  | .vredall core _ _ => coreOk core
  | .vcmpcnt core _ _ => coreOk core
  | .vqapp core _ _ => coreOk core
  | .vsmstat core _ _ => coreOk core
  | .vsmexp core _ _ => coreOk core
  | .vrng core _ _ => coreOk core
  | .vmov core _ _ => coreOk core
  | .vbcast core _ _ => coreOk core
  | .vzero core _ _ => coreOk core
  | .vtopk core _ _ => coreOk core
  | .rgsum core _ _ => coreOk core
  | .rdisp core _ _ => coreOk core
  | .rcomb core _ _ => coreOk core
  | .dma core _ _ => coreOk core
  | .dwait core _ _ => coreOk core
  | .dwaitall core _ _ => coreOk core
  | .dwaitRelease core => coreOk core
  | .issueStallEnd core => coreOk core
  | .queuedInstrStart core _ => coreOk core
  | .instrComplete core _ => coreOk core
  | .mangleBlockDecode core => coreOk core
  | .dmaDescriptorStart core _ => coreOk core
  | .dmaDescriptorComplete core slot => coreOk core && decide (slot.slot < 64)
  | .dmaDescriptorTimeout core slot => coreOk core && decide (slot < 72)
  | .networkRequestTimeout core slot => coreOk core && decide (slot < 72)
  | .remoteCompletionTimeout _ => true
  | .dispatchTimeout _ => true
  | .rowRemapDone slice => sliceOk slice
  | .sliceRetrain slice => sliceOk slice
  | .sliceRetrainRelease slice => sliceOk slice
  | .refreshHold slice => sliceOk slice
  | .stackTempSample slice _ _ => sliceOk slice
  | .patrolScrub slice granule upset => sliceOk slice && decide (granule < 64487424) && upset.all (fun k => decide (k.1 < 32))
  | .junctionSample quad _ => quadOk quad
  | .thermalCut quad _ => quadOk quad
  | .tickOpen => true
  | .storeComplete _ => true
  | .tstLoopEnd _ => true
  | .planFetch => true
  | .planArrival bytes => decide (bytes.length ≤ 4194304)
  | .close => true
  | .statusSeal => true
  | .warmReset => true
  | .foldSegmentStream _ => true
  | .foldSegmentComplete _ _ => true
  | .logRecordWrite _ => true
  | .commitDigestCompute _ => true
  | .restorePage seqid => decide (seqid < 2 ^ 32)
  | .digestHash => true
  | .poisonPageRefill page => decide (page < 50331648)
  | .attributeWriteComplete granule => decide (granule < 98304)
  | .granuleScrubComplete granule => decide (granule < 98304)
  | .drainExpiry target => match target with
    | .quad q => quadOk q
    | _ => true
  | .pendingKeyExpire _ => true
  | .routeAdmit layer => decide (layer < 65536)
  | .sourceDonePoll layer => decide (layer < 65536)
  | .combineCollectDone _ => true
  | .tickMarker _ flit => flitOk flit
  | .markLost => true
  | .flitData _ flit => flitOk flit
  | .flitNak _ flit => flitOk flit
  | .flitCtrl _ flit => flitOk flit
  | .flitIdle _ flit => flitOk flit
  | .replayTimeout _ => true
  | .txnWrite => true
  | .txnAdd => true
  | .txnRead => true
  | .txnReadrsp => true
  | .txnAcks => true
  | .txnRefuse => true
  | .acksFlush _ => true
  | .portTraining _ => true
  | .portTrainingComplete _ res => trainOk res
  | .portDownRetry _ => true
  | .portRetrain _ => true
  | .portRetrainComplete _ res => trainOk res
  | .fecErrorWindow _ lane _ => decide (lane < 17)
  | .laneLockLoss _ lane => decide (lane < 17)
  | .rocePacket _ _ => true
  | .arpFrame _ _ => true
  | .ndFrame _ _ => true
  | .icmpEchoRequest _ v6 dst _ => v6 || decide (dst.toNat < 2 ^ 32)
  | .pfcFrame _ _ _ => true
  | .unsupportedFrame _ _ => true
  | .cmReq _ req => decide (req.priv.length = 92) && decide (1 ≤ req.mtu.toNat) && decide (req.mtu.toNat ≤ 5)
  | .cmRtu _ => true
  | .cmDreq _ => true
  | .cmDrep _ => true
  | .qpDreqTimeout _ => true
  | .cspaceRdmaRead _ _ len => decide (len < 2 ^ 32)
  | .hostRdmaWrite _ _ _ data => decide (data.length < 2 ^ 32)
  | .hostRdmaRead _ _ _ len => decide (len < 2 ^ 32)
  | .unsupportedRdmaOp _ => true
  | .rdmaReadResponse _ _ => true
  | .roceAck _ => true
  | .roceNak _ _ => true
  | .roceAckTimeout _ => true
  | .cnpReceive _ => true
  | .cnpRateRaise _ => true
  | .hostPortTrained _ => true
  | .hostLinkLoss _ => true
  | .ownerHelloPoll hello => decide (hello.length = 64)
  | .ownerHelloTimeout => true
  | .eventRecordWrite => true
  | .smbIdentity => true
  | .smbDieTemp => true
  | .smbStackTemp => true
  | .smbThermalStatus => true
  | .smbPortState => true
  | .smbOtherNack => true
  | .jtagBypass => true
  | .jtagIdcode => true
  | .jtagSamplePreload => true
  | .jtagExtest _ => true
  | .powerOn _ unit => unitOk unit
  | .moduleReset _ => true
  | .inputUndervoltage _ _ => true
  | .belfryWatchdog => true
  | .quadRampComplete quad => quadOk quad
  | .quadCycleOffEnd quad => quadOk quad
  | .regulatorRefill => true
  | .pfcPauseExpiry _ _ => true
  | .hostPortTrainingFailed _ => true
  | .mrstNRelease unit => unitOk unit
  | .inputLeavesRange _ => true
  | .flashWearLevelling => true
  | .firmwareUpdateComplete => true
  | .attestationReportSigned => true

end Sys2Proof
end

