-- ==== Sys2Proof/Safety.lean ====
section
/-! DEFINITION. What a safe run is, and the words the statements are written in: when a core can issue, what state then follows. -/

namespace Sys2Proof

open Sys2Proof.Machine

/-- The outcome is a next state. -/
def isNext {σ φ ρ : Type} : Host.Outcome σ φ ρ → Bool
  | .next _ => true
  | _ => false

/-- `k` steps from `s` end in a next state. -/
def safeRun (k : Nat) (s : State) : Bool := isNext (core.run k s)

end Sys2Proof

namespace Sys2Proof.Machine

/-- Bonded memory is in canonical form: addresses strictly rising, no byte listed that reads as an unlisted one does. -/
def Memory.wf (s : State) : Bool := smapWf 0 s.bonded.mem

end Sys2Proof.Machine

namespace Sys2Proof.Claims

open Sys2Proof Sys2Proof.Machine

/-! ### Canonical forms -/

/-- The sparse parts of the state that statements read after a change are in canonical form. -/
structure Inv (s : State) : Prop where
  mem     : Memory.wf s = true
  cores   : smapWf Core.reset s.cores = true
  slices  : smapWf Slice.reset s.bonded.slices = true
  parts   : smapWf Part.reset s.parts = true
  quads   : smapWf Quad.reset s.power.quads = true
  qps     : smapWf Qp.reset s.host.qps = true
  buckets : smapWf 0 s.buckets = true
  gran    : smapWf GranAttr.reset s.bonded.gran = true
  wp      : smapWf false s.bonded.wp = true
  poison  : smapWf false s.bonded.poison = true

/-! ### A core that can issue -/

/-- The command answers the next state `t`. -/
abbrev Goes (c : Instr) (s t : State) : Prop := exec c s = .next t

/-- The `len` bytes at the PC are read: aligned, within S-space, under no range in flight, of good parity (03 R74, R75). -/
def fetched (c : Core) (len : Nat) : Bool :=
  decide (c.pc.toNat % 8 = 0) && decide (c.pc.toNat + len ≤ 0x60000)
    && !trkHit c (some ⟨false, 0, c.pc.toNat / 32 * 32, (c.pc.toNat + len - 1) / 32 * 32 + 31⟩)
    && !spadParity c c.pc.toNat len

/-- ... and hold a word of the profile (03 R65, R78). -/
def fetchOk (c : Core) (len : Nat) : Bool := fetched c len && !unlisted c

/-- Core `n` runs a job, its quad is on, nothing holds its issue, and the word at its PC is fetched, legal, and waits for no
predicate register (03 R73 to R85). -/
def arrives (s : State) (n : Nat) (o : Op) (w : W64) : Bool :=
  let c := getCore s n
  decide (n < 100) && canIssue s n && decide (c.hold = .none) && fetchOk c (if o = .li64 then 16 else 8) && legal o w
    && !(inFlight c).any (boardHit c [100 + fld w 50 48] [])

/-- ... and its predicate holds (03 R84). -/
def ready (s : State) (n : Nat) (o : Op) (w : W64) : Bool := arrives s n o w && predHolds (getCore s n) w

/-- ... and no instruction in flight reads or writes a register it needs (03 R73). -/
def seqReady (s : State) (n : Nat) (o : Op) (w : W64) : Bool :=
  let c := getCore s n
  ready s n o w && !(inFlight c).any (boardHit c (regsRead o w) (regsWritten o w))

/-- The state in which only core `n` differs, changed by `g`. -/
def coreNow (n : Nat) (g : Core → Core) (s : State) : State :=
  { s with cores := smapSet Core.reset s.cores n (g (smapGet Core.reset s.cores n)) }

/-- Core `n` changed by `g`, its instruction of `k` bytes issued: the PC moves past it, the next issue number is taken. -/
def past (n k : Nat) (g : Core → Core) (s : State) : State :=
  coreNow n (fun c => { g c with pc := c.pc + BitVec.ofNat 64 k, nseq := c.nseq + 1, hold := .none }) s

/-- A signal sets semaphore `k` of core `m` to what `g` makes of it; a `swait` held for that semaphore remembers the value (04 R113, 10
R269). -/
def signalled (m k : Nat) (g : W64 → W64) (s : State) : State :=
  coreNow m (fun c => let v := g (smapGet 0 c.sems k); swaitSees k v { c with sems := smapSet 0 c.sems k v }) s

/-- The job `j` of core `n` ends at this clk with a fault of the word at its PC; nothing else changes (03 R87). -/
def ended (n code trap : Nat) (j : CoreJob) (s : State) : State :=
  coreNow n (fun c => { c with
    fault := some { seq := c.nseq, code := code, trap := trap, fpc := c.pc, spc := c.pc, more := 0 }
    hold := .none
    job := some { j with st := .faulted, endAt := s.clk } }) s

/-- The frame of a message at a host port (17 R465). -/
def framed (s : State) (p : HPort) (m : HostMsg) : Output := .host p (vlanOf (getHport s p)) (markOf s.host m) m

/-- The frame of a message of a queue pair. -/
def said (s : State) (q : Nat) (m : HostMsg) : Output := framed s (getQp s q).port m

/-- Nothing keeps frames of a host port back: its priority is not paused, and none waits (17 R466). -/
def sends (s : State) (p : HPort) : Bool := !portPaused s p && (getHport s p).txq.isEmpty

/-- Core `n` jumps to `pc`. -/
def jump (n : Nat) (pc : W64) (g : Core → Core) (s : State) : State :=
  coreNow n (fun c => { g c with pc := pc, nseq := c.nseq + 1, hold := .none }) s

/-- The second operand of format S: sSB, or IMM sign-extended (04 R105). -/
def second (c : Core) (f : FmtS) : W64 := if f.i = 1 then f.imm.signExtend 64 else sRead c f.sb.toNat

/-- The address of a load or store (04 R107). -/
def memAddr (c : Core) (f : FmtS) : Nat := (sRead c f.sa.toNat + f.imm.signExtend 64).toNat

/-- A naturally aligned access of `k` bytes that no range in flight conflicts with (04 R107, R135, R136). -/
def accOk (c : Core) (wr : Bool) (a k : Nat) : Bool :=
  decide (a % k = 0) && decide (a + k ≤ 0x60000) && !trkHit c (some ⟨wr, 0, a / 32 * 32, (a + k - 1) / 32 * 32 + 31⟩)

/-! ### Queued instructions -/

/-- Issue of a queued instruction (04 R100, R101, R110): its tracker entries are registered, it takes ACR and the generator's
registers with it, SRCTR moves by its draws, and it waits in its queue. -/
def queued (n : Nat) (o : Op) (w : W64) (rs : List (Option Range × Option Range)) (s : State) : State :=
  let c := getCore s n
  let u : Uop := { seq := c.nseq, pc := c.pc, word := w, acr := c.acr, seed := c.seed, stream := c.stream, ctr := c.ctr, sv := [],
                   done := 0, startAt := 0 }
  past n 8 (fun c =>
    let c := { c with trk := c.trk ++ mkEntries c.nseq rs
                      ctr := c.ctr + BitVec.ofNat 64 (drawsOf o w (ctlOf c.acr).rnd) }
    if opFmt o = .M then { c with mq := c.mq ++ [u] } else { c with vq := c.vq ++ [u] }) s

/-- The vector instructions, `vtopk` and `rgsum` with their commands. -/
def vectorRows (n : Nat) (h : Head) (f : FmtV) : List (Op × Instr) :=
  [(Op.vadd, Instr.vadd n h f), (Op.vsub, Instr.vsub n h f), (Op.vmul, Instr.vmul n h f), (Op.vmulh, Instr.vmulh n h f), (Op.vand, Instr.vand n h f),
   (Op.vor, Instr.vor n h f), (Op.vxor, Instr.vxor n h f), (Op.vandn, Instr.vandn n h f), (Op.vnot, Instr.vnot n h f), (Op.vshl, Instr.vshl n h f),
   (Op.vshr, Instr.vshr n h f), (Op.vsra, Instr.vsra n h f), (Op.vrotl, Instr.vrotl n h f), (Op.vimin, Instr.vimin n h f), (Op.vimax, Instr.vimax n h f)] ++
  [(Op.vfadd, Instr.vfadd n h f), (Op.vfsub, Instr.vfsub n h f), (Op.vfmul, Instr.vfmul n h f), (Op.vfma, Instr.vfma n h f), (Op.vfmin, Instr.vfmin n h f),
   (Op.vfmax, Instr.vfmax n h f), (Op.vfcmp, Instr.vfcmp n h f), (Op.vsel, Instr.vsel n h f), (Op.vneg, Instr.vneg n h f), (Op.vabs, Instr.vabs n h f),
   (Op.vcpsgn, Instr.vcpsgn n h f), (Op.vexp2, Instr.vexp2 n h f), (Op.vlog2, Instr.vlog2 n h f), (Op.vrcp, Instr.vrcp n h f), (Op.vrsqrt, Instr.vrsqrt n h f),
   (Op.vtanh, Instr.vtanh n h f)] ++
  [(Op.vld, Instr.vld n h f), (Op.vst, Instr.vst n h f), (Op.vcvti, Instr.vcvti n h f), (Op.vcvtf, Instr.vcvtf n h f), (Op.vredRow, Instr.vredRow n h f),
   (Op.vredCol, Instr.vredCol n h f), (Op.vredall, Instr.vredall n h f), (Op.vcmpcnt, Instr.vcmpcnt n h f), (Op.vqapp, Instr.vqapp n h f),
   (Op.vsmstat, Instr.vsmstat n h f), (Op.vsmexp, Instr.vsmexp n h f), (Op.vrng, Instr.vrng n h f), (Op.vmov, Instr.vmov n h f), (Op.vbcast, Instr.vbcast n h f),
   (Op.vzero, Instr.vzero n h f), (Op.vtopk, Instr.vtopk n h f), (Op.rgsum, Instr.rgsum n h f)]

/-- The matrix instructions with their commands. -/
def matrixRows (n : Nat) (h : Head) (f : FmtM) : List (Op × Instr) :=
  [(Op.mmac, Instr.mmac n h f), (Op.mdrain, Instr.mdrain n h f), (Op.mload, Instr.mload n h f), (Op.mzero, Instr.mzero n h f)]

/-! ### The instructions by format -/

/-- The scalar instructions of groups 0x00 to 0x03 with their commands. -/
def scalarRows (n : Nat) (h : Head) (f : FmtS) : List (Op × Instr) :=
  [(Op.add, Instr.add n h f), (Op.sub, Instr.sub n h f), (Op.mul, Instr.mul n h f), (Op.mulh, Instr.mulh n h f), (Op.mulhu, Instr.mulhu n h f),
   (Op.and, Instr.and n h f), (Op.or, Instr.or n h f), (Op.xor, Instr.xor n h f), (Op.shl, Instr.shl n h f), (Op.shr, Instr.shr n h f),
   (Op.sra, Instr.sra n h f), (Op.min, Instr.min n h f), (Op.max, Instr.max n h f), (Op.minu, Instr.minu n h f), (Op.maxu, Instr.maxu n h f)] ++
  [(Op.pcmpEq, Instr.pcmpEq n h f), (Op.pcmpNe, Instr.pcmpNe n h f), (Op.pcmpLt, Instr.pcmpLt n h f), (Op.pcmpGe, Instr.pcmpGe n h f), (Op.pcmpLtu, Instr.pcmpLtu n h f),
   (Op.pcmpGeu, Instr.pcmpGeu n h f), (Op.pand, Instr.pand n h f), (Op.por, Instr.por n h f), (Op.pxor, Instr.pxor n h f), (Op.pnot, Instr.pnot n h f)] ++
  [(Op.ldB, Instr.ldB n h f), (Op.ldBu, Instr.ldBu n h f), (Op.ldH, Instr.ldH n h f), (Op.ldHu, Instr.ldHu n h f), (Op.ldW, Instr.ldW n h f),
   (Op.ldWu, Instr.ldWu n h f), (Op.ldD, Instr.ldD n h f), (Op.stB, Instr.stB n h f), (Op.stH, Instr.stH n h f), (Op.stW, Instr.stW n h f),
   (Op.stD, Instr.stD n h f), (Op.crd, Instr.crd n h f), (Op.cwr, Instr.cwr n h f), (Op.mvm, Instr.mvm n h f), (Op.rdclk, Instr.rdclk n h f),
   (Op.rdtick, Instr.rdtick n h f)]

/-- The branches with their commands. -/
def branchRows (n : Nat) (h : Head) (f : FmtB) : List (Op × Instr) :=
  [(Op.brCond, Instr.brCond n h f), (Op.call, Instr.call n h f), (Op.jr, Instr.jr n h f), (Op.bdnz, Instr.bdnz n h f)]

/-- The sync and routing instructions of format Y with their commands. -/
def syncRows (n : Nat) (h : Head) (f : FmtY) : List (Op × Instr) :=
  [(Op.ssigAdd, Instr.ssigAdd n h f), (Op.ssigSet, Instr.ssigSet n h f), (Op.swait, Instr.swait n h f), (Op.lfence, Instr.lfence n h f), (Op.halt, Instr.halt n h f),
   (Op.strap, Instr.strap n h f), (Op.rdisp, Instr.rdisp n h f), (Op.rcomb, Instr.rcomb n h f)]

/-- The DMA instructions with their commands. -/
def dmaRows (n : Nat) (h : Head) (f : FmtD) : List (Op × Instr) :=
  [(Op.dma, Instr.dma n h f), (Op.dwait, Instr.dwait n h f), (Op.dwaitall, Instr.dwaitall n h f)]

/-- Every Rowyn instruction with its word and its command, operands as given. -/
def coreRows (n : Nat) (h : Head) (f : FmtS) (b : FmtB) (m : FmtM) (v : FmtV) (d : FmtD) (y : FmtY) (x : W64) : List (Op × W64 × Instr) :=
  (scalarRows n h f).map (fun r => (r.1, wordS r.1 h f, r.2)) ++ (branchRows n h b).map (fun r => (r.1, wordB r.1 h b, r.2)) ++
  (matrixRows n h m).map (fun r => (r.1, wordM r.1 h m, r.2)) ++ (vectorRows n h v).map (fun r => (r.1, wordV r.1 h v, r.2)) ++
  (dmaRows n h d).map (fun r => (r.1, wordD r.1 h d, r.2)) ++ (syncRows n h y).map (fun r => (r.1, wordY r.1 h y, r.2)) ++
  [(Op.li64, wordS .li64 h f, Instr.li64 n h f x)]

/-- Bytes of an instruction: two words in format X (03 R83). -/
def bytesOf (o : Op) : Nat := if o = .li64 then 16 else 8

end Sys2Proof.Claims
end

