-- ==== Sys2Proof/Certificates/Slice0/Obligations.lean ====
section
/-! DEFINITION. The statements for the provers, family by family. -/

open Sys2Proof Sys2Proof.Machine Sys2Proof.Claims

/-! ### The block -/

/-- A step takes the command at the front of the queue and is `exec` of it with the queue's rest; on an empty queue only the clk
advances (the model's choice, log 1). -/
def Obligations.StepRunsTheFrontCommand : Prop :=
  (∀ (c : Instr) (rest : List Instr) (s : State), s.pending = c :: rest → step s = exec c { s with pending := rest })
  ∧ (∀ s : State, s.pending = [] → step s = .next { s with clk := s.clk + 1 })

/-- Every command that something can send is carried out: the only stop is a unit that does not exist. -/
def Obligations.WellFormedCommandsComplete : Prop :=
  ∀ (c : Instr) (s : State), c.wf = true → ∃ t : State, Goes c s t

/-! ### Scalar instructions -/

/-- Scalar arithmetic (04 R105, Table 4-1): what each function writes to sSD, nothing else changing but the PC. -/
def Obligations.ScalarArithmetic : Prop :=
  ∀ (s : State) (n : Nat) (h : Head) (f : FmtS),
    let c := getCore s n
    let a := sRead c f.sa.toNat
    let b := second c f
    let k := b.toNat % 64
    let res (v : W64) : State := past n 8 (sWrite f.sd.toNat v) s
    let ok (o : Op) : Prop := seqReady s n o (wordS o h f) = true
    (ok .add → Goes (.add n h f) s (res (a + b)))
    ∧ (ok .sub → Goes (.sub n h f) s (res (a - b)))
    ∧ (ok .mul → Goes (.mul n h f) s (res (a * b)))
    ∧ (ok .mulh → Goes (.mulh n h f) s (res (BitVec.ofInt 64 (a.toInt * b.toInt / 2 ^ 64))))
    ∧ (ok .mulhu → Goes (.mulhu n h f) s (res (BitVec.ofNat 64 (a.toNat * b.toNat / 2 ^ 64))))
    ∧ (ok .and → Goes (.and n h f) s (res (a &&& b)))
    ∧ (ok .or → Goes (.or n h f) s (res (a ||| b)))
    ∧ (ok .xor → Goes (.xor n h f) s (res (a ^^^ b)))
    ∧ (ok .shl → Goes (.shl n h f) s (res (a <<< k)))
    ∧ (ok .shr → Goes (.shr n h f) s (res (a >>> k)))
    ∧ (ok .sra → Goes (.sra n h f) s (res (a.sshiftRight k)))
    ∧ (ok .min → Goes (.min n h f) s (res (if a.toInt < b.toInt then a else b)))
    ∧ (ok .max → Goes (.max n h f) s (res (if a.toInt < b.toInt then b else a)))
    ∧ (ok .minu → Goes (.minu n h f) s (res (if a.toNat < b.toNat then a else b)))
    ∧ (ok .maxu → Goes (.maxu n h f) s (res (if a.toNat < b.toNat then b else a)))

/-- Comparisons and predicate logic (04 R106, Table 4-2): what is written to pD. -/
def Obligations.PredicateInstructions : Prop :=
  ∀ (s : State) (n : Nat) (h : Head) (f : FmtS),
    let c := getCore s n
    let a := sRead c f.sa.toNat
    let b := second c f
    let p := pRead c f.sa.toNat
    let q := pRead c f.sb.toNat
    let res (v : Bool) : State := past n 8 (pWrite f.sd.toNat v) s
    let ok (o : Op) : Prop := seqReady s n o (wordS o h f) = true
    (ok .pcmpEq → Goes (.pcmpEq n h f) s (res (decide (a = b))))
    ∧ (ok .pcmpNe → Goes (.pcmpNe n h f) s (res (decide (a ≠ b))))
    ∧ (ok .pcmpLt → Goes (.pcmpLt n h f) s (res (decide (a.toInt < b.toInt))))
    ∧ (ok .pcmpGe → Goes (.pcmpGe n h f) s (res (decide (b.toInt ≤ a.toInt))))
    ∧ (ok .pcmpLtu → Goes (.pcmpLtu n h f) s (res (decide (a.toNat < b.toNat))))
    ∧ (ok .pcmpGeu → Goes (.pcmpGeu n h f) s (res (decide (b.toNat ≤ a.toNat))))
    ∧ (ok .pand → Goes (.pand n h f) s (res (p && q)))
    ∧ (ok .por → Goes (.por n h f) s (res (p || q)))
    ∧ (ok .pxor → Goes (.pxor n h f) s (res (p != q)))
    ∧ (ok .pnot → Goes (.pnot n h f) s (res (!p)))

/-- s0 and p0 are constants: they read 0 and 1 and writes to them change nothing; a write to another s-register changes that register's
entry alone, a write to another p-register reads back and leaves the rest (03 R69). -/
def Obligations.ConstantRegisters : Prop :=
  ∀ (c : Core),
    (sRead c 0 = 0 ∧ pRead c 0 = true)
    ∧ (∀ v, sWrite 0 v c = c) ∧ (∀ v, pWrite 0 v c = c)
    ∧ (∀ r v, r ≠ 0 → sWrite r v c = { c with sreg := smapSet 0 c.sreg r v })
    ∧ (∀ r v, r ≠ 0 → v ≠ 0 → sRead (sWrite r v c) r = v ∧ ∀ r', r' ≠ r → sRead (sWrite r v c) r' = sRead c r')
    ∧ (∀ r r' v, 0 < r → r < 8 → r' < 8 → pRead (pWrite r v c) r' = if r' = r then v else pRead c r')

/-- Loads and stores (04 R107, R108, Table 4-3): an aligned load of good parity writes the bytes, sign- or zero-extended, to sSD; an aligned
store puts the low bytes of sSD, little-endian and with good parity, at the address computed (no injection armed for these bytes). -/
def Obligations.LoadsAndStores : Prop :=
  (∀ (s : State) (n : Nat) (h : Head) (f : FmtS),
     let c := getCore s n
     let a := memAddr c f
     let x (k : Nat) : Nat := leNat (spadBytes c a k)
     let res (v : W64) : State := past n 8 (sWrite f.sd.toNat v) s
     let ok (o : Op) (k : Nat) : Prop :=
       seqReady s n o (wordS o h f) = true ∧ accOk c false a k = true ∧ spadParity c a k = false
     (ok .ldB 1 → Goes (.ldB n h f) s (res ((BitVec.ofNat 8 (x 1)).signExtend 64)))
     ∧ (ok .ldBu 1 → Goes (.ldBu n h f) s (res (BitVec.ofNat 64 (x 1))))
     ∧ (ok .ldH 2 → Goes (.ldH n h f) s (res ((BitVec.ofNat 16 (x 2)).signExtend 64)))
     ∧ (ok .ldHu 2 → Goes (.ldHu n h f) s (res (BitVec.ofNat 64 (x 2))))
     ∧ (ok .ldW 4 → Goes (.ldW n h f) s (res ((BitVec.ofNat 32 (x 4)).signExtend 64)))
     ∧ (ok .ldWu 4 → Goes (.ldWu n h f) s (res (BitVec.ofNat 64 (x 4))))
     ∧ (ok .ldD 8 → Goes (.ldD n h f) s (res (BitVec.ofNat 64 (x 8)))))
  ∧ (∀ (s : State) (n : Nat) (h : Head) (f : FmtS),
       let c := getCore s n
       let a := memAddr c f
       let v := sRead c f.sd.toNat
       let res (k : Nat) : State :=
         past n 8 (fun c => { c with spad := smapPut 0 c.spad a (natLe k v.toNat), spadBad := smapClear c.spadBad a (a + k) }) s
       let ok (o : Op) (k : Nat) : Prop :=
         seqReady s n o (wordS o h f) = true ∧ accOk c true a k = true ∧ s.test.arm = false ∧ smapWf Core.reset s.cores = true
       (ok .stB 1 → Goes (.stB n h f) s (res 1))
       ∧ (ok .stH 2 → Goes (.stH n h f) s (res 2))
       ∧ (ok .stW 4 → Goes (.stW n h f) s (res 4))
       ∧ (ok .stD 8 → Goes (.stD n h f) s (res 8)))

/-- A load or store whose address is misaligned, or runs past the scratchpad, ends the job with SADDR at its address; nothing is
stored (04 R135, 03 R87). -/
def Obligations.MisalignedAccessFaults : Prop :=
  ∀ (s : State) (n : Nat) (h : Head) (f : FmtS) (j : CoreJob) (o : Op) (i : Instr) (k : Nat),
    (o, i, k) ∈ [(Op.ldB, Instr.ldB n h f, 1), (Op.ldBu, Instr.ldBu n h f, 1), (Op.ldH, Instr.ldH n h f, 2), (Op.ldHu, Instr.ldHu n h f, 2),
      (Op.ldW, Instr.ldW n h f, 4), (Op.ldWu, Instr.ldWu n h f, 4), (Op.ldD, Instr.ldD n h f, 8), (Op.stB, Instr.stB n h f, 1), (Op.stH, Instr.stH n h f, 2),
      (Op.stW, Instr.stW n h f, 4), (Op.stD, Instr.stD n h f, 8)] →
    seqReady s n o (wordS o h f) = true → (getCore s n).job = some j → (getCore s n).fault = none →
    (memAddr (getCore s n) f % k ≠ 0 ∨ 0x60000 < memAddr (getCore s n) f + k) →
    Goes i s (ended n 2 0 j s)

/-- Control registers, clocks and long immediates (03 R72, 04 R109 to R111). -/
def Obligations.ControlRegistersAndImmediates : Prop :=
  ∀ (s : State) (n : Nat) (h : Head) (f : FmtS) (x : W64),
    let c := getCore s n
    let v := sRead c f.sa.toNat
    let res (v : W64) : State := past n 8 (sWrite f.sd.toNat v) s
    let ok (o : Op) : Prop := seqReady s n o (wordS o h f) = true
    let idle : Prop := (inFlight c).any (fun u => setsFlags (uopOp u)) = false
    let there : Prop := n < 100 ∧ canIssue s n = true ∧ c.hold = .none ∧ fetchOk c 8 = true ∧ c.fault = none
    let refused (j : CoreJob) : State := ended n 1 0 j s
    (ok .crd → f.imm = 0 → Goes (.crd n h f) s (res c.acr))
    ∧ (ok .crd → f.imm = 1 → idle → Goes (.crd n h f) s (res c.asr))
    ∧ (ok .crd → f.imm = 2 → Goes (.crd n h f) s (res c.seed))
    ∧ (ok .crd → f.imm = 3 → Goes (.crd n h f) s (res c.stream))
    ∧ (ok .crd → f.imm = 4 → Goes (.crd n h f) s (res c.ctr))
    ∧ (ok .crd → f.imm = 16 → Goes (.crd n h f) s (res (BitVec.ofNat 64 (0xB1 * 2 ^ 56 + 9 * 2 ^ 32 + 1 * 2 ^ 24 + 1200))))
    ∧ (ok .crd → f.imm = 17 → Goes (.crd n h f) s
        (res (BitVec.ofNat 64 (64 * 2 ^ 48 + 48 * 2 ^ 40 + 8 * 2 ^ 32 + 64 * 2 ^ 24 + 96 * 2 ^ 16 + 100 * 2 ^ 8 + n))))
    ∧ (ok .crd → f.imm = 18 → Goes (.crd n h f) s
        (res (BitVec.ofNat 64 (0x3FF * 2 ^ 48 + 512 * 2 ^ 32 + 128 * 2 ^ 24 + 128 * 2 ^ 16 + 1 * 2 ^ 12 + 2 * 2 ^ 8 + 4 * 2 ^ 4 + 2))))
    ∧ (ok .crd → f.imm = 19 → Goes (.crd n h f) s
        (res (BitVec.ofNat 64 (0x7FF * 2 ^ 48 + 128 * 2 ^ 32 + 32 * 2 ^ 24 + 8 * 2 ^ 16 + 8 * 2 ^ 8 + 32))))
    ∧ (ok .crd → f.imm = 20 → Goes (.crd n h f) s (res (BitVec.ofNat 64 (384 * 2 ^ 32 + 32 * 2 ^ 24 + 32 * 2 ^ 16 + 676))))
    ∧ (there → 4 < f.imm.toNat → (f.imm.toNat < 16 ∨ 20 < f.imm.toNat) → ∀ j, c.job = some j → Goes (.crd n h f) s (refused j))
    ∧ (ok .cwr → f.imm = 0 → Goes (.cwr n h f) s (past n 8 (fun c => { c with acr := v &&& 0xF }) s))
    ∧ (ok .cwr → f.imm = 1 → idle → Goes (.cwr n h f) s (past n 8 (fun c => { c with asr := c.asr &&& ~~~ v }) s))
    ∧ (ok .cwr → f.imm = 2 → Goes (.cwr n h f) s (past n 8 (fun c => { c with seed := v }) s))
    ∧ (ok .cwr → f.imm = 3 → Goes (.cwr n h f) s (past n 8 (fun c => { c with stream := v &&& 0xFFFFFFFF }) s))
    ∧ (ok .cwr → f.imm = 4 → Goes (.cwr n h f) s (past n 8 (fun c => { c with ctr := v }) s))
    ∧ (there → 4 < f.imm.toNat → ∀ j, c.job = some j → Goes (.cwr n h f) s (refused j))
    ∧ (ok .mvm → Goes (.mvm n h f) s (res (mRead c f.sa.toNat)))
    ∧ (ok .rdclk → Goes (.rdclk n h f) s (res (BitVec.ofNat 64 (s.clk - s.tick.openAt))))
    ∧ (ok .rdtick → Goes (.rdtick n h f) s (res s.tick.now))
    ∧ (ok .li64 → Goes (.li64 n h f x) s (past n 16 (sWrite f.sd.toNat x) s))

/-! ### Control flow and synchronisation -/

/-- Branches (04 R112, 03 Table 3-12): the target is the branch's own address plus OFFSET times 8. -/
def Obligations.Branches : Prop :=
  ∀ (s : State) (n : Nat) (h : Head) (f : FmtB),
    let c := getCore s n
    let tgt := c.pc + (f.offset.signExtend 64 <<< 3)
    let a := if f.ka = 1 then mRead c f.ra.toNat else sRead c f.ra.toNat
    let b := if f.kb = 1 then mRead c f.rb.toNat else sRead c f.rb.toNat
    let ok (o : Op) : Prop := seqReady s n o (wordB o h f) = true
    let br (t : Bool) : Prop := Goes (.brCond n h f) s (if t then jump n tgt id s else past n 8 id s)
    (ok .brCond → f.cond = 0 → br true)
    ∧ (ok .brCond → f.cond = 1 → br (decide (a = b)))
    ∧ (ok .brCond → f.cond = 2 → br (decide (a ≠ b)))
    ∧ (ok .brCond → f.cond = 3 → br (decide (a.toInt < b.toInt)))
    ∧ (ok .brCond → f.cond = 4 → br (decide (b.toInt ≤ a.toInt)))
    ∧ (ok .brCond → f.cond = 5 → br (decide (a.toNat < b.toNat)))
    ∧ (ok .brCond → f.cond = 6 → br (decide (b.toNat ≤ a.toNat)))
    ∧ (ok .brCond → ∀ (k i : Nat), (k, i) ∈ [(7, 2), (8, 5), (9, 0), (11, 6)] → f.cond.toNat = k →
        br (fCond i (a.toNat % 2 ^ 32) (b.toNat % 2 ^ 32)))
    ∧ (ok .brCond → f.cond = 10 →
        br (fCond 1 (a.toNat % 2 ^ 32) (b.toNat % 2 ^ 32) || fCond 6 (a.toNat % 2 ^ 32) (b.toNat % 2 ^ 32)))
    ∧ (ok .call → Goes (.call n h f) s (jump n tgt (sWrite f.ra.toNat (c.pc + 8)) s))
    ∧ (ok .jr → Goes (.jr n h f) s (jump n (sRead c f.ra.toNat) id s))
    ∧ (ok .bdnz → Goes (.bdnz n h f) s
        (if sRead c f.ra.toNat - 1 = 0 then past n 8 (sWrite f.ra.toNat (sRead c f.ra.toNat - 1)) s
         else jump n tgt (sWrite f.ra.toNat (sRead c f.ra.toNat - 1)) s))

/-- Signals (04 R113, 10 R267, R268): once every earlier access is complete, a semaphore of a core that holds a job of the same partition is
increased or set; a core on which no job of the partition was placed in the tick gives PROT; where one was placed and has left the core with
no image kept, the signal changes nothing but the PC (the model's choice, log 131). -/
def Obligations.SignalInstructions : Prop :=
  ∀ (s : State) (n : Nat) (h : Head) (f : FmtY),
    let c := getCore s n
    let m := if f.core.toNat = 127 then n else f.core.toNat
    let v := sRead c f.sv.toNat
    let k := f.sem.toNat
    let ok (o : Op) : Prop := seqReady s n o (wordY o h f) = true ∧ allDone c = true
    (runsPart s m (partOfCore s n) = true →
      (ok .ssigAdd → Goes (.ssigAdd n h f) s (signalled m k (· + v) (past n 8 id s)))
      ∧ (ok .ssigSet → Goes (.ssigSet n h f) s (signalled m k (fun _ => v) (past n 8 id s))))
    ∧ (∀ jid, runsPart s m (partOfCore s n) = false → placedJob s m (partOfCore s n) = some jid →
      findImage s (partOfCore s n) jid = none →
      (ok .ssigAdd → Goes (.ssigAdd n h f) s (past n 8 id s)) ∧ (ok .ssigSet → Goes (.ssigSet n h f) s (past n 8 id s)))
    ∧ (∀ j, placedJob s m (partOfCore s n) = none → c.job = some j → c.fault = none → smapWf Core.reset s.cores = true →
      ∀ (o : Op) (i : Instr), (o, i) ∈ [(Op.ssigAdd, Instr.ssigAdd n h f), (Op.ssigSet, Instr.ssigSet n h f)] → ok o →
        ∃ t, Goes i s t ∧ (getCore t n).job = some { j with st := .faulted, endAt := s.clk } ∧ (getCore t n).sems = c.sems ∧
          (getCore t n).fault = some { seq := c.nseq, code := 4, trap := 0, fpc := c.pc, spc := c.pc + 8, more := 0 } ∧
          (∀ m', m' ≠ n → getCore t m' = getCore s m'))

/-- Waits (04 R101, R113, R132; 10 R269, R272): issue goes on where the condition holds and is held with the PC in place where it does not;
a core held by a wait whose condition holds, or held for a value the semaphore took meanwhile, goes on past it; a stalled word is tried
again. -/
def Obligations.WaitsAndTheirEnds : Prop :=
  (∀ (s : State) (n : Nat) (h : Head) (f : FmtY) (d : FmtD),
     let c := getCore s n
     let m := smapGet 0 c.sems f.sem.toNat
     let v := sRead c f.sv.toNat
     let held (x : Hold) : State := coreNow n (fun c => { c with hold := x }) s
     (seqReady s n .swait (wordY .swait h f) = true → f.cond = 0 →
         Goes (.swait n h f) s (if m = v then past n 8 id s else held (.swait (wordY .swait h f) [])))
     ∧ (seqReady s n .swait (wordY .swait h f) = true → f.cond = 1 →
         Goes (.swait n h f) s (if v.toNat ≤ m.toNat then past n 8 id s else held (.swait (wordY .swait h f) [])))
     ∧ (seqReady s n .lfence (wordY .lfence h f) = true →
         Goes (.lfence n h f) s (if (allDescs c).all (fun x => !dEdgeWrite x.2) then past n 8 id s else held .lfence))
     ∧ (seqReady s n .dwait (wordD .dwait h d) = true →
         Goes (.dwait n h d) s (if (allDescs c).all (fun x => decide (x.1 ≠ d.ch.toNat)) then past n 8 id s else held (.dwait d.ch.toNat)))
     ∧ (seqReady s n .dwaitall (wordD .dwaitall h d) = true →
         Goes (.dwaitall n h d) s (if allDescs c = [] then past n 8 id s else held .dwaitall)))
  ∧ (∀ (s : State) (n : Nat), n < 100 → canIssue s n = true →
       let c := getCore s n
       (∀ w seen, c.hold = .swait w seen → (waitHolds c w = true ∨ ∃ m ∈ seen, waitMeets c w m = true) →
           Goes (.swaitRelease n) s (past n 8 id s))
       ∧ (c.hold = .lfence → (allDescs c).all (fun x => !dEdgeWrite x.2) = true → Goes (.lfenceRelease n) s (past n 8 id s))
       ∧ (∀ ch, c.hold = .dwait ch → (allDescs c).all (fun x => decide (x.1 ≠ ch)) = true → Goes (.dwaitRelease n) s (past n 8 id s))
       ∧ (c.hold = .dwaitall → allDescs c = [] → Goes (.dwaitRelease n) s (past n 8 id s))
       ∧ (∀ h f, c.hold = .stall (wordS .add h f) 0 → seqReady (coreNow n (fun c => { c with hold := .none }) s) n .add (wordS .add h f) = true →
           smapWf Core.reset s.cores = true → c.hands = [] →
           Goes (.issueStallEnd n) s (past n 8 (sWrite f.sd.toNat (sRead c f.sa.toNat + second c f)) s)))

/-- `halt` ends the job, `strap` raises TRAP with the low 16 bits of sSV (03 R87, R99; 04 R113). That the PC stays at an issued `halt`
is the model's own choice (log 123); no rule says where it stands then. -/
def Obligations.HaltAndTrap : Prop :=
  ∀ (s : State) (n : Nat) (h : Head) (f : FmtY) (j : CoreJob), (getCore s n).job = some j →
    (seqReady s n .halt (wordY .halt h f) = true →
      Goes (.halt n h f) s (coreNow n (fun c => { c with hold := .none, job := some { j with st := .halted, endAt := s.clk } }) s))
    ∧ (seqReady s n .strap (wordY .strap h f) = true → (getCore s n).fault = none →
      Goes (.strap n h f) s (ended n 7 ((sRead (getCore s n) f.sv.toNat).toNat % 65536) j s))

/-- Every instruction whose predicate is false issues and has no effect but to move the PC, a `dma` with a legal list among them; the
predicate holds when pPRED, negated by PN, is 1, with p0 always or never (03 R84). -/
def Obligations.FalsePredicateSkips : Prop :=
  ∀ (n : Nat) (h : Head) (f : FmtS) (b : FmtB) (m : FmtM) (v : FmtV) (d : FmtD) (y : FmtY) (x : W64) (o : Op) (w : W64) (i : Instr),
    (o, w, i) ∈ coreRows n h f b m v d y x →
    (∀ s : State, arrives s n o w = true → predHolds (getCore s n) w = false →
      (o = .dma → let c := getCore s n
        let a := (sRead c d.sdesc.toNat).toNat
        let k := 64 * (d.ndesc.toNat + 1)
        a % 64 = 0 ∧ a + k ≤ 0x60000 ∧ trkHit c (some ⟨false, 0, a, a + k - 1⟩) = false ∧ (descList (spadBytes c a k)).all (dLegal s n) = true) →
      Goes i s (past n (bytesOf o) id s))
    ∧ (∀ c : Core, predHolds c w = (pRead c h.pred.toNat != decide (h.pn = 1)))
    ∧ (∀ c : Core, h.pred = 0 → predHolds c w = decide (h.pn = 0))

/-- A fetched word that names no instruction of the profile or is not legal ends the job with ILLEGAL at its address, whatever its
predicate and whichever its instruction; so does a `dma` whose list holds a descriptor that is not legal (03 R65, R85, R87; 04 R133). -/
def Obligations.IllegalWordFaults : Prop :=
  ∀ (s : State) (n : Nat) (h : Head) (f : FmtS) (b : FmtB) (m : FmtM) (v : FmtV) (d : FmtD) (y : FmtY) (x : W64) (o : Op) (w : W64) (i : Instr)
      (j : CoreJob),
    (o, w, i) ∈ coreRows n h f b m v d y x → n < 100 → canIssue s n = true → (getCore s n).hold = .none →
    (getCore s n).job = some j → (getCore s n).fault = none →
    (fetched (getCore s n) (bytesOf o) = true → (unlisted (getCore s n) = true ∨ legal o w = false) → Goes i s (ended n 1 0 j s))
    ∧ (o = .dma → arrives s n o w = true → (getCore s n).dq.length < 4 →
      let c := getCore s n
      let a := (sRead c d.sdesc.toNat).toNat
      let k := 64 * (d.ndesc.toNat + 1)
      a % 64 = 0 → a + k ≤ 0x60000 → trkHit c (some ⟨false, 0, a, a + k - 1⟩) = false → spadParity c a k = false →
      (descList (spadBytes c a k)).all (dLegal s n) = false → Goes i s (ended n 1 0 j s))

/-! ### Queued instructions -/

/-- Matrix and vector instructions issue into their queue where it has room (4 and 8 entries), their operands lie in the scratchpad, and
the tracker has room; where the queue is full they wait at issue with the PC in place (04 R100, R101, R110, R136; 08 R223). -/
def Obligations.QueuedInstructionsIssue : Prop :=
  (∀ (s : State) (n : Nat) (h : Head) (o : Op) (i : Instr) (rs : List (Option Range × Option Range)),
     (∀ f : FmtM, (o, i) ∈ matrixRows n h f → ready s n o (wordM o h f) = true → (getCore s n).mq.length < 4 →
       opRanges o (wordM o h f) (getCore s n) = some rs → (getCore s n).trk.length + rs.length ≤ 48 →
       Goes i s (queued n o (wordM o h f) rs s))
     ∧ (∀ f : FmtV, (o, i) ∈ vectorRows n h f → ready s n o (wordV o h f) = true → (getCore s n).vq.length < 8 →
       opRanges o (wordV o h f) (getCore s n) = some rs → (getCore s n).trk.length + rs.length ≤ 48 →
       Goes i s (queued n o (wordV o h f) rs s)))
  ∧ (∀ (s : State) (n : Nat) (h : Head) (o : Op) (i : Instr),
       (∀ f : FmtM, (o, i) ∈ matrixRows n h f → ready s n o (wordM o h f) = true → (getCore s n).mq.length = 4 →
         Goes i s (coreNow n (fun c => { c with hold := .stall (wordM o h f) 0 }) s))
       ∧ (∀ f : FmtV, (o, i) ∈ vectorRows n h f → ready s n o (wordV o h f) = true → (getCore s n).vq.length = 8 →
         Goes i s (coreNow n (fun c => { c with hold := .stall (wordV o h f) 0 }) s)))

/-- `dma` reads its descriptors at once; where all are legal and lie in their spaces, and the tables have room, they wait in the
DMA queue with their ranges registered (04 R132 to R134; 08 R223, R227, R229). That the list is read at issue is the model's choice (log 16). -/
def Obligations.DmaInstructionIssues : Prop :=
  ∀ (s : State) (n : Nat) (h : Head) (f : FmtD),
    let c := getCore s n
    let a := (sRead c f.sdesc.toNat).toNat
    let k := f.ndesc.toNat + 1
    let ds := descList (spadBytes c a (64 * k))
    let u : Uop := { seq := c.nseq, pc := c.pc, word := wordD .dma h f, acr := c.acr, seed := c.seed, stream := c.stream, ctr := c.ctr,
                     sv := [sRead c f.sdesc.toNat], done := 0, startAt := 0 }
    ready s n .dma (wordD .dma h f) = true → c.dq.length < 4 → a % 64 = 0 → a + 64 * k ≤ 0x60000 →
    trkHit c (some ⟨false, 0, a, a + 64 * k - 1⟩) = false → spadParity c a (64 * k) = false →
    ds.all (dLegal s n) = true → ds.all dInSpace = true → (allDescs c).length + k ≤ 64 → c.trk.length + k ≤ 48 →
    Goes (.dma n h f) s (past n 8 (fun c => { c with
      trk := c.trk ++ mkEntries c.nseq (ds.map dRanges)
      dq := c.dq ++ [{ op := u, ch := f.ch.toNat, descs := ds, read := 0 }] }) s)

/-! ### Pipes -/

/-- The head of a queue starts once its pipe is free and its registers and ranges are clear; it reads its s-registers then (04 R102,
R103; 07 R185). The head of the DMA queue enters its channel (08 R215). The number of a descriptor is the model's own (log 16). -/
def Obligations.QueuedInstructionStarts : Prop :=
  ∀ (s : State) (n : Nat) (u : Uop) (t : List Uop) (o : Op), n < 100 → coreOn s n = true → (getCore s n).frozen = false →
    (getCore s n).hands = [] →
    let c := getCore s n
    let v (o : Op) : Uop := { u with sv := captureS o u.word c, startAt := s.clk }
    (wordOp u.word = some o → regsFree c u = true → rangesFree c u.seq = true →
      (opFmt o = .V → c.vq = u :: t → c.vector = none →
        Goes (.queuedInstrStart n .vector) s (coreNow n (fun c => { c with vector := some (v o), vq := t }) s))
      ∧ (o = .mmac → mPR u.word = false → c.mq = u :: t → c.array = none →
        Goes (.queuedInstrStart n .matrix) s (coreNow n (fun c => { c with array := some (v o), mq := t }) s))
      ∧ (o ∈ [Op.mdrain, .mload, .mzero] → c.mq = u :: t → c.port = none →
        Goes (.queuedInstrStart n .matrix) s (coreNow n (fun c => { c with port := some (v o), mq := t }) s)))
    ∧ (∀ (q : DmaWait) (r : List DmaWait) (d : List W64), c.dq = q :: r → q.descs = [d] → q.read = 0 → smapWf Core.reset s.cores = true →
        Goes (.queuedInstrStart n .dma) s { coreNow n (fun c => { c with
          dq := r
          descs := c.descs ++ [{ seq := q.op.seq, sub := 0, pc := q.op.pc, ch := q.ch, words := d, st := .queued, startAt := 0,
                                 turnAt := 0, heldFor := 0, addPos := c.addPos, uid := s.nuid, buf := [] }]
          addPos := if dFloatAdd d then c.addPos + 1 else c.addPos }) s with nuid := s.nuid + 1 })

/-- One row of an integer or logic vector instruction (04 R123, Table 4-8): each lane of TD in the row is the function of the lanes of TA
and TB, wrapping without a flag, or clamped to the signed width of the saturating code with SAT set where a lane clamps; the pipe is free
and the ranges released. -/
def Obligations.VectorIntegerRow : Prop :=
  (∀ (s : State) (n : Nat) (h : Head) (f : FmtV) (u : Uop) (o : Op) (g : W32 → W32 → W32),
     (o, g) ∈ ([(Op.vadd, fun a b => a + b), (Op.vsub, fun a b => a - b), (Op.vmul, fun a b => a * b),
       (Op.vmulh, fun a b => BitVec.ofInt 32 (a.toInt * b.toInt / 2 ^ 32)), (Op.vand, fun a b => a &&& b), (Op.vor, fun a b => a ||| b),
       (Op.vxor, fun a b => a ^^^ b), (Op.vandn, fun a b => a &&& ~~~b), (Op.vnot, fun a _ => ~~~a),
       (Op.vshl, fun a b => a <<< (b.toNat % 32)), (Op.vshr, fun a b => a >>> (b.toNat % 32)),
       (Op.vsra, fun a b => a.sshiftRight (b.toNat % 32)), (Op.vrotl, fun a b => a.rotateLeft (b.toNat % 32)),
       (Op.vimin, fun a b => if b.toInt < a.toInt then b else a), (Op.vimax, fun a b => if a.toInt < b.toInt then b else a)] :
         List (Op × (W32 → W32 → W32))) →
     n < 100 → coreOn s n = true → (getCore s n).frozen = false → (getCore s n).vector = some u → u.word = wordV o h f →
     u.done = 0 → f.nrow = 0 → f.imm = 0 →
     let row (c : Core) (t : Nat) : List W32 := smapRun 0 c.tile (t * 4096 + f.row0.toNat * 128) 128
     Goes (.instrComplete n .vector) s (coreNow n (fun c => { c with
       tile := smapPut 0 c.tile (f.td.toNat * 4096 + f.row0.toNat * 128) (List.zipWith g (row c f.ta.toNat) (row c f.tb.toNat))
       vector := none
       trk := c.trk.filter (fun e => e.seq ≠ u.seq) }) s))
  ∧ (∀ (s : State) (n : Nat) (h : Head) (f : FmtV) (u : Uop) (o : Op) (g : Int → Int → Int) (w : Nat),
       (o, g) ∈ ([(Op.vadd, fun a b => a + b), (Op.vsub, fun a b => a - b), (Op.vmul, fun a b => a * b)] : List (Op × (Int → Int → Int))) →
       (f.imm, w) ∈ ([(1, 8), (2, 16), (3, 32)] : List (BitVec 12 × Nat)) →
       n < 100 → coreOn s n = true → (getCore s n).frozen = false → (getCore s n).vector = some u → u.word = wordV o h f →
       u.done = 0 → f.nrow = 0 →
       let row (c : Core) (t : Nat) : List W32 := smapRun 0 c.tile (t * 4096 + f.row0.toNat * 128) 128
       let exact (c : Core) : List Int := List.zipWith (fun a b => g a.toInt b.toInt) (row c f.ta.toNat) (row c f.tb.toNat)
       Goes (.instrComplete n .vector) s (coreNow n (fun c => { c with
         tile := smapPut 0 c.tile (f.td.toNat * 4096 + f.row0.toNat * 128)
           ((exact c).map (fun x => BitVec.ofInt 32 (max (-2 ^ (w - 1)) (min (2 ^ (w - 1) - 1) x))))
         asr := c.asr ||| (if (exact c).any (fun x => decide (x < -2 ^ (w - 1)) || decide (2 ^ (w - 1) - 1 < x)) then 32 else 0)
         vector := none
         trk := c.trk.filter (fun e => e.seq ≠ u.seq) }) s))

/-- Copies, broadcasts, zeroes and sign operations of one row (04 R124, Tables 4-9, 4-10), and integer summaries into an m-register: the
wrapped sum of every lane, sign-extended; the exclusive or, zero-extended (07 R190, R193; 04 R127). -/
def Obligations.VectorMovesAndSummaries : Prop :=
  (∀ (s : State) (n : Nat) (h : Head) (f : FmtV) (u : Uop) (o : Op) (g : W64 → List W32 → List W32),
     (o, g) ∈ ([(Op.vmov, fun _ a => a), (Op.vzero, fun _ _ => List.replicate 128 0),
       (Op.vbcast, fun v _ => List.replicate 128 (v.setWidth 32)), (Op.vneg, fun _ a => a.map (fun x => x ^^^ 0x80000000)),
       (Op.vabs, fun _ a => a.map (fun x => x &&& 0x7FFFFFFF))] : List (Op × (W64 → List W32 → List W32))) →
     n < 100 → coreOn s n = true → (getCore s n).frozen = false → (getCore s n).vector = some u → u.word = wordV o h f →
     u.done = 0 → f.nrow = 0 → f.imm = 0 →
     Goes (.instrComplete n .vector) s (coreNow n (fun c => { c with
       tile := smapPut 0 c.tile (f.td.toNat * 4096 + f.row0.toNat * 128)
         (g (u.sv.getD 0 0) (smapRun 0 c.tile (f.ta.toNat * 4096 + f.row0.toNat * 128) 128))
       vector := none
       trk := c.trk.filter (fun e => e.seq ≠ u.seq) }) s))
  ∧ (∀ (s : State) (n : Nat) (h : Head) (f : FmtV) (u : Uop),
       n < 100 → coreOn s n = true → (getCore s n).frozen = false → (getCore s n).vector = some u → u.word = wordV .vredall h f →
       u.done = 0 →
       let lanes (c : Core) : List W32 := ((List.range (f.nrow.toNat + 1)).map (fun k =>
         smapRun 0 c.tile (f.ta.toNat * 4096 + (f.row0.toNat + k) * 128) 128)).flatten
       let res (v : Core → W64) : State := coreNow n (fun c => { c with
         mreg := smapSet 0 c.mreg f.md.toNat (v c)
         vector := none
         trk := c.trk.filter (fun e => e.seq ≠ u.seq) }) s
       (f.imm = 8 → Goes (.instrComplete n .vector) s (res (fun c => ((lanes c).foldl (· + ·) 0).signExtend 64)))
       ∧ (f.imm = 4 → Goes (.instrComplete n .vector) s (res (fun c => ((lanes c).foldl (· ^^^ ·) 0).zeroExtend 64))))

/-- An i8 `mmac` accumulates exact integer products, modulo 2^32, over an accumulator of kind i32 or from zero (05 R149, R153, R154; 04
R117 to R119): A holds rows of K bytes, B holds K rows of 128 bytes. `mzero` clears its accumulator and makes it f32 (04 R121). -/
def Obligations.IntegerMatrixProduct : Prop :=
  (∀ (s : State) (n : Nat) (h : Head) (f : FmtM) (u : Uop),
     let c := getCore s n
     let a := nthW u.sv 0
     let b := nthW u.sv 2
     let k := f.k.toNat
     let base := f.acc.toNat * 16384
     let old (i j : Nat) : Int := if f.clr = 1 then 0 else ((smapRun 0 c.acc (base + i * 128) 128).getD j 0).toInt
     let dot (i j : Nat) : Int := ((List.range k).map (fun x =>
       ((spadBytes c a (128 * k)).getD (i * k + x) 0).toInt * ((spadBytes c b (128 * k)).getD (x * 128 + j) 0).toInt)).sum
     n < 100 → coreOn s n = true → c.frozen = false → c.array = some u → u.word = wordM .mmac h f → u.done = 0 →
     f.fa = 8 → f.fb = 8 → f.sma = 0 → f.smb = 0 → f.ta = 0 → f.tb = 0 → f.pr = 0 → (f.clr = 1 ∨ accInt c f.acc.toNat = true) →
     spadParity c a (128 * k) = false → spadParity c b (128 * k) = false →
     ∃ t, Goes (.instrComplete n .array) s t ∧ ∃ c', t = coreNow n (fun _ => c') s ∧
       c'.acc = smapPut 0 c.acc base ((List.range 16384).map (fun p => BitVec.ofInt 32 (old (p / 128) (p % 128) + dot (p / 128) (p % 128))))
       ∧ accInt c' f.acc.toNat = true ∧ c'.array = none ∧ c'.trk = c.trk.filter (fun e => e.seq ≠ u.seq)
       ∧ c'.sreg = c.sreg ∧ c'.mreg = c.mreg ∧ c'.tile = c.tile ∧ c'.spad = c.spad ∧ c'.asr = c.asr ∧ c'.pc = c.pc)
  ∧ (∀ (s : State) (n : Nat) (h : Head) (f : FmtM) (u : Uop),
       n < 100 → coreOn s n = true → (getCore s n).frozen = false → (getCore s n).port = some u → u.word = wordM .mzero h f →
       ∃ t, Goes (.instrComplete n .port) s t ∧ ∃ c', t = coreNow n (fun _ => c') s ∧
         c'.acc = smapClear (getCore s n).acc (f.acc.toNat * 16384) (f.acc.toNat * 16384 + 16384)
         ∧ c'.kind.getLsbD f.acc.toNat = false ∧ c'.port = none ∧ c'.trk = (getCore s n).trk.filter (fun e => e.seq ≠ u.seq)
         ∧ c'.sreg = (getCore s n).sreg ∧ c'.tile = (getCore s n).tile ∧ c'.spad = (getCore s n).spad ∧ c'.asr = (getCore s n).asr)

/-- MANGLE_BLOCK_DECODE: one block enters the elastic queue (06 R173 to R177): the weights, and the address of the next block, with the
granule in which it begins kept (10 R266); with the last block of a stream the decoder is idle and the B range released (04 R136). An idle
decoder first takes up the pressed `mmac` at the head of the matrix queue, with the table that its operand names, whose range is released.
What the sums' order leaves open takes new free values (the model's own counter). -/
def Obligations.MangleDecodesABlock : Prop :=
  ∀ (s : State) (n : Nat) (hd blk : List Byte) (ws : List (BitVec 16)),
    let c := getCore s n
    let res (r : Core → Core) (g : Mangle → Mangle) : State :=
      { coreNow n (fun c => { r c with mangle := g c.mangle }) s with free := s.free + 32768 }
    let block (bytes : Nat → Option (List Byte)) (table : List Byte) (word : W64) : Prop :=
      bytes 8 = some hd ∧ rdN hd 0 1 ≤ clenMax (pressFmt word) ∧ bytes (8 + planeLen (pressFmt word) + rdN hd 0 1) = some blk ∧
      blockWeights table (pressFmt word) blk = some ws
    let next (addr : Nat) (word : W64) : Nat := addr + (8 + planeLen (pressFmt word) + rdN hd 0 1)
    n < 100 → coreOn s n = true → c.frozen = false → c.array = none → c.mangle.queue.length < 32 →
    (c.mangle.word ≠ 0 → c.mangle.dead = false → block (streamBytes c) c.mangle.table c.mangle.word →
      (2 * (c.mangle.index + 1) ≠ mK c.mangle.word → Goes (.mangleBlockDecode n) s (res id (fun m => { m with
        addr := next m.addr m.word, last := lastGranule c (next m.addr m.word), index := m.index + 1, queue := m.queue ++ [(m.seq, ws)] })))
      ∧ (2 * (c.mangle.index + 1) = mK c.mangle.word → Goes (.mangleBlockDecode n) s (res (releaseRange c.mangle.seq 1 false) (fun m => { m with
        table := [], word := 0, addr := 0, index := 0, dead := false, last := [], queue := m.queue ++ [(m.seq, ws)] }))))
    ∧ (∀ u rest table, c.mangle.word = 0 → c.mq = u :: rest → uopOp u = .mmac → isPressed u = true → c.mangle.begun ≤ u.seq → u.sv = [] →
      pressReady c u = true → opnd c (sAddr c (mSB u.word + 1)) 64 = some table → tblValid table (pressFmt u.word) = true →
      block (opnd c (sAddr c (mSB u.word))) table u.word → mK u.word ≠ 2 → u.word ≠ 0 →
      let nx := next (sAddr c (mSB u.word)) u.word
      Goes (.mangleBlockDecode n) s (res (releaseRange u.seq 1 true) (fun m => { m with
        table := table, word := u.word, seq := u.seq, addr := nx, index := 1, dead := false, told := false, begun := u.seq + 1,
        last := if nx % 32 = 0 then [] else spadBytes c (nx / 32 * 32) 32, queue := m.queue ++ [(u.seq, ws)] })))

/-! ### Slices of bonded memory -/

/-- Row remaps, retrains and refresh holds (09 R247, R248, R251; 15 R412): what each does to its slice. The pending remap that is done
first ends; a retrain, at the start of the run phase, takes the next spare bond; with none left the slice is FAILED. No data changes. -/
def Obligations.SliceRepairAndRefresh : Prop :=
  ∀ (s : State) (n : Nat), n < 100 →
    let v := getSlice s n
    let due : Prop := s.tick.phase = .run ∧ s.clk = s.tick.runAt ∧ belfryRuns s = true ∧ s.tick.retrained = false ∧ (retrainWaiting s).head? = some n ∧ v.holdAt = none
    (∀ r ∈ v.remaps, v.holdAt = none → (∀ x ∈ v.remaps, x ≠ r → r.2.2.2 < x.2.2.2) → v.remaps.Nodup →
      Goes (.rowRemapDone n) s (setSlice n { v with remaps := v.remaps.erase r } { s with clk := max s.clk r.2.2.2 }))
    ∧ (due → v.spareBonds < 16 →
      Goes (.sliceRetrain n) s (setSlice n { v with st := .retrain, holdAt := some s.clk } { s with tick := { s.tick with retrained := true } }))
    ∧ (due → 16 ≤ v.spareBonds →
      Goes (.sliceRetrain n) s (raise 2 n none 0x3004 0 (setSlice n { v with st := .failed, retrainReq := false, holdAt := none }
        { s with tick := { s.tick with retrained := true } })))
    ∧ (∀ t, v.st = .retrain → v.holdAt = some t → ∃ s' v', Goes (.sliceRetrainRelease n) s s' ∧
        s'.bonded = (setSlice n v' s).bonded ∧ v'.st = (if v.degraded then .degraded else .ok) ∧ v'.holdAt = none ∧
        v'.spareBonds = v.spareBonds + 1 ∧ v'.retrainReq = false ∧ v'.retired = v.retired ∧ v'.remaps = v.remaps ∧ v'.addLog = v.addLog ∧
        s'.clk = max s.clk (t + 48000))
    ∧ Goes (.refreshHold n) s (setSlice n { v with refAt := v.refAt + (if v.refStep = 0 then 4700 else if v.refStep = 1 then 2350 else 1175) }
        { s with clk := max s.clk (v.refAt + (if v.refStep = 0 then 4700 else if v.refStep = 1 then 2350 else 1175)) })

/-- A stack temperature raises the refresh step of its slice at 85 and 95 degrees, and at or below 105 degrees nothing trips (09 R252); a
junction sample up to 104 degrees sets its quad's thermal step at 95 and 100 degrees (19 R512, R513, Table 19-3). -/
def Obligations.TemperatureSteps : Prop :=
  (∀ (s : State) (n : Nat) (a b : Int),
     let t := max a b
     let step : BitVec 2 := if 95 < t then 2 else if 85 < t then 1 else 0
     n < 100 → isUp s = true → s.test.arm = false → s.power.tripped = false → t ≤ 105 → smapWf Slice.reset s.bonded.slices = true →
     (getSlice s n).refStep.toNat ≤ step.toNat →
     ∃ s', Goes (.stackTempSample n a b) s s' ∧ (getSlice s' n).temp = t ∧ (getSlice s' n).refStep = step ∧
       s'.power.tripped = false ∧ s'.bonded.mem = s.bonded.mem ∧ s'.cores = s.cores ∧
       (∀ m, m ≠ n → getSlice s' m = getSlice s m))
  ∧ (∀ (s : State) (q : Nat) (x : Int),
       let v := getQuad s q
       q < 25 → isUp s = true → s.test.arm = false → s.power.tripped = false → v.step = .normal → x ≤ 104 →
       smapWf Quad.reset s.power.quads = true → (∀ k, k < 25 → (getQuad s k).wantOff = false) →
       ∃ t, Goes (.junctionSample q x) s t ∧ t.power.quads = smapSet Quad.reset s.power.quads q { v with
           temp := x
           step := if 100 < x then .hold else if 95 < x then .warn else .normal
           coolAt := if x ≤ 95 then some (v.coolAt.getD s.clk) else none }
         ∧ t.cores = s.cores ∧ t.bonded = s.bonded ∧ t.power.tripped = false)

/-- The patrol scrub of a granule (09 R239, R240, R242): bytes of good parity are read and counted, nothing else changes; with one bit of
a byte flipped, data or parity, the page is POISON; with two bits of a byte flipped the data is changed and nothing is noticed. Which bits
flipped is the command's operand (log 11). -/
def Obligations.PatrolScrubReads : Prop :=
  ∀ (s : State) (n g a : Nat), n < 100 → g < 64487424 →
    (getSlice s n).scrubpm ≠ 0 → (getSlice s n).st ≠ .failed → bankHeld (getSlice s n) (g * 32) = false →
    addrOfLocal n (g * 32) = some a → isPoison s (a / 4096) = false → smapGet 0 s.bonded.attrBad (a / 4096) = 0 →
    let read (s : State) : State := setSlice n { getSlice s n with rdBytes := (getSlice s n).rdBytes + 32 } s
    (badByte s (a / 32 * 32) 32 = none → Goes (.patrolScrub n g []) s (read s))
    ∧ (∀ k i j, k < 32 → i < j → j < 9 → badByte s (a / 32 * 32) 32 = none →
      Goes (.patrolScrub n g [(k, 2 ^ i + 2 ^ j)]) s (read { s with bonded := { s.bonded with
        mem := smapSet 0 s.bonded.mem (a + k) (smapGet 0 s.bonded.mem (a + k) ^^^ (2 ^ i + 2 ^ j : BitVec 9).setWidth 8) } }))
    ∧ (∀ k i, k < 32 → i < 9 → s.bonded.bad = [] → s.bonded.poison = [] →
        ∃ t, Goes (.patrolScrub n g [(k, 2 ^ i)]) s t ∧ smapGet false t.bonded.poison (a / 4096) = true)

/-! ### Quads, power and resets -/

/-- Thermal cuts, resets and losses of input (19 R506, R512; 21 R548, R555, R557): what takes the module down, what does not, what stays, and
the cause reported; of the stack only that a slice has FAILED (09 R251). That bonded memory reads 0 after a loss is the model's choice (log 10). -/
def Obligations.ResetsAndCuts : Prop :=
  let emptied (s t : State) : Prop := t.bonded = { Bonded.reset with
    slices := (s.bonded.slices.filter (fun e => decide (e.2.st = .failed))).map (fun e => (e.1, { Slice.reset with st := .failed })) }
  (∀ (s : State) (q : Nat) (x : Int), q < 25 → isUp s = true →
     (115 < x → ∃ t, Goes (.thermalCut q x) s t ∧ t.boot = .off ∧ t.power.cause = 3 ∧ t.cores = [] ∧ emptied s t ∧
       t.parts = State.reset.parts ∧ t.fuseLo = s.fuseLo ∧ t.fuseHi = s.fuseHi ∧ t.flash = s.flash ∧ t.pending = s.pending)
     ∧ (x ≤ 115 → Goes (.thermalCut q x) s s))
  ∧ (∀ (s : State) (v : BitVec 16) (k : Nat), isUp s = true →
       let down (t : State) (cause : BitVec 3) : Prop := t.boot = .off ∧ t.power.cause = cause ∧ t.cores = [] ∧ emptied s t ∧
         t.host.qps = [] ∧ t.fuseLo = s.fuseLo ∧ t.fuseHi = s.fuseHi ∧ t.flash = s.flash
       let withInput : State := { s with power := { s.power with input := v } }
       (10000 ≤ k → ∃ t, Goes (.moduleReset k) s t ∧ down t 1 ∧ t.power.mrstn = false)
       ∧ (k < 1000 → Goes (.moduleReset k) s { s with power := { s.power with mrstn := false } })
       ∧ (∀ t0 b, s.boot = .up t0 b → t0 + 12000000 ≤ s.clk →
           (v.toNat < 4600 → 1000 < k → ∃ t, Goes (.inputUndervoltage v k) s t ∧ down t 0)
           ∧ (v.toNat < 4600 → k ≤ 1000 → Goes (.inputUndervoltage v k) s withInput)
           ∧ Goes (.inputLeavesRange v) s withInput)
       ∧ (∀ t0 b, s.boot = .up t0 b → s.clk < t0 + 12000000 →
           let cause : BitVec 3 := if s.power.cause = 3 then 3 else 0
           (v.toNat < 4600 → ∃ t, Goes (.inputUndervoltage v k) s t ∧ down t cause ∧ t.power.input = v)
           ∧ (v.toNat < 4800 ∨ 5700 < v.toNat → ∃ t, Goes (.inputLeavesRange v) s t ∧ down t cause ∧ t.power.input = v)))

/-- Quads come on 100 us after their ramp began; a cycled quad ramps again after 1 ms off where its bit asks for it (19 R507, R509). -/
def Obligations.QuadPower : Prop :=
  ∀ (s : State) (q : Nat), q < 25 → smapWf Quad.reset s.power.quads = true →
    let v := getQuad s q
    (v.st = .ramp → v.wantOff = false → Goes (.quadRampComplete q) s
      (setQuad q { v with st := if v.step = .hold then .held else .on } { s with clk := max s.clk (v.rampAt + 120000) }))
    ∧ (∀ c, v.cycleAt = some c → v.st = .off → v.step ≠ .emerg → s.power.tripped = false → s.power.quadEn.getLsbD q = true →
      Goes (.quadCycleOffEnd q) s (setQuad q { v with st := .ramp, cycleAt := none, rampAt := max s.clk (c + 1200000) }
        { s with clk := max s.clk (c + 1200000) }))
    ∧ (∀ c, v.cycleAt = some c → v.st = .off → s.power.quadEn.getLsbD q = false →
      Goes (.quadCycleOffEnd q) s (setQuad q { v with cycleAt := none } { s with clk := max s.clk (c + 1200000) }))

/-- Power-on and the release of MRST_N bring the module up where its input is in range: the image is chosen, every domain but the
quads that fail comes on, the fuses stay; with no valid image it stays in reset (18 R488, R489; 19 R517, Table 19-5; 21 R557). That the domains come on at once is the model's
choice (log 69). -/
def Obligations.BringUpStarts : Prop :=
  ∀ (s : State) (v : BitVec 16) (u : BringUp), isUp s = false → 4800 ≤ v.toNat → v.toNat ≤ 5700 →
    let up (t : State) : Prop := t.boot = .up s.clk false ∧ t.power.belfrySt = .on ∧ t.power.hostSt = .on ∧ t.power.memSt = .on ∧
      t.power.linksSt = .on ∧ t.power.flashSt = (if u.flashOk then .on else .failed) ∧ t.fuseLo = s.fuseLo ∧ t.fuseHi = s.fuseHi ∧
      t.clk < t.tick.dueAt
    let stuck (t : State) : Prop := t.boot = .up s.clk true ∧ t.power.belfrySt = .on
    let strapped (t : State) : Prop := t.power.strap0 = u.straps.getLsbD 0 ∧ t.power.strap1 = u.straps.getLsbD 1
    (s.power.mrstn = true → ∃ t, Goes (.powerOn v u) s t ∧ t.power.input = v ∧ strapped t ∧
      (if (chooseImage s.secure).isSome then up t else stuck t))
    ∧ (s.power.mrstn = false → s.power.input = v → ∃ t, Goes (.mrstNRelease u) s t ∧ t.power.mrstn = true ∧ strapped t ∧
      (if (chooseImage s.secure).isSome then up t else stuck t))

/-- WARM_RESET, once the status record of a tick whose plan asks for it is sealed: memory, cores, partitions and queue pairs are
cleared; the tick number, the slices' spare bonds and row repairs, the fuses and the flash stay, and no power domain has gone off (19 R516). Time is
the model's (log 9). -/
def Obligations.WarmResetKeeps : Prop :=
  ∀ (s : State) (p : PlanHdr), s.tick.phase = .closed → s.tick.plan = some p → p.wrst = true → s.tick.status = [] →
    (chooseImage s.secure).isSome = true → smapWf Slice.reset s.bonded.slices = true →
    ∃ t, Goes .warmReset s t ∧ t.boot = s.boot ∧ t.bonded.mem = [] ∧ t.bonded.gran = [] ∧ t.cores = [] ∧
      t.parts = State.reset.parts ∧ t.host.qps = [] ∧ t.tick.now = s.tick.now ∧ t.tick.phase = .before ∧ t.power.cause = 2 ∧
      t.fuseLo = s.fuseLo ∧ t.fuseHi = s.fuseHi ∧ t.flash = s.flash ∧
      (∀ n, n < 100 → getSlice t n = { warmSlice (getSlice s n) with refAt := s.clk })

/-- The belfry watchdog: the count goes up, every core that holds a job freezes and the job is reported ROLLEDBACK, in a tick every
partition's tick is aborted, and the belfry is back after the read of its image (20 R532). With no sequence
its SRAM holds nothing to restore. Time is the model's (log 9). -/
def Obligations.BelfryWatchdog : Prop :=
  ∀ (s : State) (c : Secure), isUp s = true → s.test.wdDead = false → s.test.arm = false → s.test.wdTicks = [] →
    s.test.wdcnt.count ≠ BitVec.allOnes 32 → chooseImage { s.secure with pending := false } = some c →
    smapWf Core.reset s.cores = true → smapWf Part.reset s.parts = true → s.seqs = [] →
    ∃ t, Goes .belfryWatchdog s t ∧ (s.tick.phase = .run ∨ s.tick.phase = .closing → ∀ p, p < 16 → (getPart t p).tabort = true) ∧
      (∀ n j, n < 100 → (getCore s n).job = some j → j.st ≠ .saved → (getCore t n).frozen = true ∧
        (getCore t n).job = some { j with st := .rolledBack, endAt := if j.st = .running then t.clk else j.endAt }) ∧ t.test.wdcnt = { s.test.wdcnt with count := s.test.wdcnt.count + 1 } ∧ t.test.wdDead = false ∧
      t.test.wdUntil = t.clk + 1200 * imageUs c ∧ t.clk = max s.clk (s.test.liveAt + 12000000) ∧ t.bonded = s.bonded

/-! ### The sideband and the TAP -/

/-- The SMBus answers at the address of the straps while D29 is powered and changes nothing else (17 R476, Table 17-5; 21 R547); the TAP
gives BYPASS, IDCODE, a sample of the pins while data enters the boundary register, and EXTEST, which while MRST_N is low drives the pins
from the register and then with the data shifted in, and otherwise acts as SAMPLE/PRELOAD (21 R559, R560). The order of the bytes of a
word, the count byte and the PEC of an answer, and the data of SAMPLE/PRELOAD are the model's choices (logs 54, 55, 100). -/
def Obligations.SidebandAndTap : Prop :=
  (∀ s : State, isUp s = true →
     let said (o : Output) : State := { s with outbox := s.outbox ++ [o] }
     let addr : BitVec 7 := BitVec.ofNat 7 (0x50 + (if s.power.strap1 then 2 else 0) + (if s.power.strap0 then 1 else 0))
     let pec (cmd : Nat) (bs : List Byte) : BitVec 8 :=
       smbPec ([BitVec.ofNat 8 (2 * addr.toNat), BitVec.ofNat 8 cmd, BitVec.ofNat 8 (2 * addr.toNat + 1)] ++ bs)
     let read (cmd : Nat) (bs : List Byte) : Output := .smb addr bs (pec cmd bs)
     let port (x : HoPort) : Nat := match x.st with | .disabled => 0 | .training => 1 | .up => 2 | .down => 3 | .loop => 4
     Goes .smbIdentity s (said (read 0 ([32, 0x53, 0x4A, 0x39, 0x2D, 0x4D, 0x31, 0x39, 0x32, 0xB1, 0] ++ natLe 6 s.host.port0.mac.toNat
       ++ (List.range 16).map Config.serial)))
     ∧ Goes .smbDieTemp s (said (read 0x10 (natLe 2 (BitVec.ofInt 16 (8 * tjMax s)).toNat)))
     ∧ Goes .smbStackTemp s (said (read 0x11 (natLe 2 (BitVec.ofInt 16 (8 * tsMax s)).toNat)))
     ∧ Goes .smbThermalStatus s (said (read 0x12 (natLe 2 (hotStep s + (if s.power.trip then 256 else 0)))))
     ∧ Goes .smbPortState s (said (read 0x13 (natLe 2
         (port s.host.port0 + 16 * port s.host.port1 + 256 * port s.host.port2 + 4096 * port s.host.port3))))
     ∧ Goes .smbOtherNack s (said (.smbNack addr)))
  ∧ (∀ (s : State) (d : BitVec 13),
       isUp s = true →
         let loaded (o : List Output) (v : BitVec 13) : State :=
           { s with outbox := s.outbox ++ o, power := { s.power with boundary := v } }
         Goes .jtagBypass s { s with tap := .bypass }
         ∧ Goes .jtagIdcode s { s with tap := .idcode, outbox := s.outbox ++ [.tdo 0xB0009147] }
         ∧ (∃ b v, Goes .jtagSamplePreload s { loaded [.boundary b] v with tap := .sample, free := s.free + 2 }
             ∧ b.getLsbD 9 = s.power.mrstn)
         ∧ (s.power.mrstn = true → ∃ b, Goes (.jtagExtest d) s { loaded [.boundary b] d with tap := .extest, free := s.free + 1 }
             ∧ b.getLsbD 9 = true)
         ∧ (s.power.mrstn = false → Goes (.jtagExtest d) s { loaded [.drive s.power.boundary, .drive d] d with tap := .extest }))

/-! ### Ticks and plans -/

/-- An open on the module's own timer with no valid plan is an idle tick: the number goes up (0 at the first open after reset), the opens are
counted, no plan is in effect, every core starts empty; an open with a valid plan, in a module with a quad ON, puts the plan's header in
effect and ends the idle count (13 R340, R342, R348, R349). Time is the model's (log 1). -/
def Obligations.TickOpens : Prop :=
  (∀ (s : State) (b : Nat), s.boot = .up b false → s.test.wdDead = false → (s.tick.phase = .before ∨ s.tick.phase = .closed) →
     s.tick.bellen = false → s.tick.next = .none → s.power.tripped = false →
     ∃ t, Goes .tickOpen s t ∧ t.tick.now = (if s.tick.first then 0 else s.tick.now + 1) ∧ t.tick.first = false ∧ t.tick.phase = .run ∧
       t.tick.isIdle = true ∧ t.tick.plan = none ∧ t.tick.idleRun = s.tick.idleRun + 1 ∧ t.tick.missed = min (s.tick.idleRun + 1) 255 ∧
       t.clk = max s.clk s.tick.nextAt ∧ t.tick.openAt = t.clk ∧ t.tick.nextAt = s.tick.nextAt + 1200 * s.tick.periodUs ∧
       t.jobs = [] ∧ (∀ n, (getCore t n).job = none))
  ∧ (∀ (s : State) (b : Nat) (p : List Byte), s.boot = .up b false → s.test.wdDead = false →
       (s.tick.phase = .before ∨ s.tick.phase = .closed) → s.tick.bellen = false → s.tick.next = .valid p → s.power.tripped = false →
       s.test.wdUntil ≤ s.tick.nextAt → smapWf Quad.reset s.power.quads = true →
       (∃ q, q < 25 ∧ (getQuad s q).st = .on ∧ (getQuad s q).step = .normal ∧ (getQuad s q).wantOff = false) →
       ∃ t, Goes .tickOpen s t ∧ t.tick.now = (if s.tick.first then 0 else s.tick.now + 1) ∧ t.tick.phase = .run ∧ t.tick.isIdle = false ∧
         t.tick.missed = 0 ∧ t.tick.next = .none ∧
         t.tick.plan = some { seq := BitVec.ofNat 64 (plSeq p), digest := plDigest p, wrst := plWrst p })

/-- The plan slot's first 384 bytes are read at the fetch point, and what arrives is checked: a valid plan waits for the open and its
SEQ becomes LASTSEQ; an invalid one leaves LASTSEQ as it was (13 R345, R347). -/
def Obligations.PlanFetchAndArrival : Prop :=
  ∀ (s : State) (o : Owner) (p : List Byte), s.host.owner = some o → (getQp s o.qp).st = .rts → s.tick.phase = .run →
    (s.tick.next = .none → o.done = true → sends s (getQp s o.qp).port = true → ∃ t, Goes .planFetch s t ∧ t.tick.next = .fetching ∧ t.clk = max s.clk (fetchPoint s.tick) ∧
      t.outbox = s.outbox ++ [said s o.qp (.hostRead o.qp (BitVec.ofNat 64 (o.planVa.toNat + (s.tick.now.toNat + 1) % 2 * o.planSlot)) o.planRkey 0x180)])
    ∧ (s.tick.next = .fetching → s.test.arm = false → plLen p ≤ p.length → ∃ t, Goes (.planArrival p) s t ∧
      t.tick.fetchSeq = BitVec.ofNat 64 (plSeq p) ∧ t.bonded = s.bonded ∧ t.cores = s.cores ∧
      (if planCase s o.planSlot false p = 0
        then t.tick.next = .valid (p.take (plLen p)) ∧ t.tick.lastSeq = BitVec.ofNat 64 (plSeq p) ∧ t.tick.anySeq = true
        else t.tick.next = .invalid (planCase s o.planSlot false p) false ∧ t.tick.lastSeq = s.tick.lastSeq ∧
          t.tick.anySeq = s.tick.anySeq))

/-- A plan is valid only with its magic, its length, the tick it is for, a SEQ above the last, legal times and its digest (13 R341,
R347). -/
def Obligations.ValidPlanConditions : Prop :=
  ∀ (s : State) (slot : Nat) (p : List Byte), planCase s slot false p = 0 →
    rdN p 0 4 = 0x4E414C50 ∧ rdN p 4 2 = 0x0100 ∧ 0x180 ≤ rdN p 8 4 ∧ rdN p 8 4 ≤ 0x400000 ∧ rdN p 8 4 ≤ slot ∧
    rdN p 0x10 8 = (s.tick.now.toNat + 1) % 2 ^ 64 ∧ (s.tick.anySeq = true → s.tick.lastSeq.toNat < rdN p 0x18 8) ∧
    100 ≤ plPeriod p ∧ plPeriod p ≤ 250000 ∧ 20 ≤ plClosew p ∧ plClosew p ≤ plPeriod p / 2 ∧ plClosew p ≤ 65535 ∧ 10 ≤ plPlead p ∧
    plPlead p + 10 + plClosew p ≤ plPeriod p ∧
    shake256 32 (wrB (p.take (rdN p 8 4)) 0x40 (zeros 32)) = rdB p 0x40 32

/-- The close of a tick with no job on a core ends the tick at its deadline or later; the seal of a status record follows the
acknowledgement of its body, the oldest acknowledged record first; with the session gone it goes nowhere (13 R343, R362). Time is the
model's (log 1). -/
def Obligations.CloseAndSeal : Prop :=
  ∀ s : State,
    (s.tick.phase = .run → s.cores = [] → s.test.wdDead = false → ∃ t, Goes .close s t ∧ t.tick.phase = .closed ∧ deadline s.tick ≤ t.clk ∧
      t.tick.now = s.tick.now)
    ∧ (∀ r, s.tick.status.find? (fun x => x.2) = some (r, true) → belfryRuns s = true →
      let rest := s.tick.status.filter (fun x => decide (rdN x.1 0 8 ≠ rdN r 0 8))
      (s.host.owner = none → Goes .statusSeal s { s with tick := { s.tick with status := rest } })
      ∧ (∀ o, s.host.owner = some o → (getQp s o.qp).st = .rts → sends s (getQp s o.qp).port = true → ∃ t, Goes .statusSeal s t ∧ t.tick.status = rest ∧
          t.outbox = s.outbox ++ [said s o.qp (.hostWrite o.qp (BitVec.ofNat 64 (o.statVa.toNat + (rdN r 0 8 - 1) % 8 * o.statSlot)) o.statRkey
            (r.take 8))]))

/-- A follower: a good marker from the bell it follows opens its tick, once for each of the bell's ticks; with no marker within 2 us of
the open it expects, it opens on its own timer and is no longer aligned (13 R350 to R352). The tick that lets a marker pass
is the model's form (log 74). -/
def Obligations.FollowersAndMarkers : Prop :=
  ∀ (s : State) (b : Nat) (p : BPort) (f : List Byte), s.boot = .up b false → s.test.wdDead = false →
    (s.tick.phase = .before ∨ s.tick.phase = .closed) → s.tick.bellen = true → s.tick.isBell = false → s.tick.next = .none →
    s.power.tripped = false →
    (hears s p = true → flitGood f = true → flitType f = 2 → rdN (rdB f 8 240) 0 8 % 1024 = s.tick.bell.toNat →
      s.tick.markTick ≠ some (BitVec.ofNat 64 (rdN (rdB f 8 240) 8 8)) → s.tick.aligned = true →
      ∃ t, Goes (.tickMarker p f) s t ∧ t.tick.phase = .run ∧ t.tick.markTick = some (BitVec.ofNat 64 (rdN (rdB f 8 240) 8 8)) ∧
        t.tick.now = (if s.tick.first then 0 else s.tick.now + 1) ∧ t.tick.periodUs = rdN (rdB f 8 240) 16 8 % 2 ^ 18 ∧
        t.tick.bellLost = false)
    ∧ (s.tick.marked = none → ∃ t, Goes .markLost s t ∧ t.tick.phase = .run ∧ t.tick.bellLost = true ∧ t.tick.aligned = false ∧
        t.tick.now = (if s.tick.first then 0 else s.tick.now + 1) ∧ t.clk = max s.clk (s.tick.nextAt + 2400) ∧
        t.tick.periodUs = s.tick.periodUs ∧ t.tick.nextAt = s.tick.nextAt + 1200 * s.tick.periodUs)

/-- The end of a loop-back test: it stops, its errors are counted, the slices it held go on (20 R540). A firmware update ends: a valid image
goes into the inactive slot and waits for the next boot, any other raises FW_REFUSED (18 R488, R490). Wear levelling changes no data (20
R523). -/
def Obligations.TestAndFirmware : Prop :=
  (∀ (s : State) (a k : Nat), s.test.loopAt = some a → s.test.loopErr.count.toNat + k < 2 ^ 32 → smapWf Slice.reset s.bonded.slices = true →
     ∃ t, Goes (.tstLoopEnd k) s t ∧ t.test.loopAt = none ∧ t.test.loopErr.count.toNat = s.test.loopErr.count.toNat + k ∧
       t.clk = max s.clk (a + 1200000) ∧ (∀ n, n < 100 → (getSlice s n).looped = true → (getSlice t n).looped = false ∧ (getSlice t n).holdAt = none) ∧
       t.bonded.mem = s.bonded.mem)
  ∧ ((∀ (s : State) (src : Nat), s.secure.update = some src → ∃ t, Goes .firmwareUpdateComplete s t ∧ t.secure.update = none ∧
         t.secure.slot = s.secure.slot ∧ t.secure.svn = s.secure.svn ∧
         match (fwImage src s).1 with
         | some x => t.secure.pending = true ∧ (if s.secure.slot = 0 then t.secure.slotB = x ∧ t.secure.slotA = s.secure.slotA
             else t.secure.slotA = x ∧ t.secure.slotB = s.secure.slotB)
         | none => t.secure.slotA = s.secure.slotA ∧ t.secure.slotB = s.secure.slotB ∧ t.secure.pending = s.secure.pending)
     ∧ (∀ s : State, Goes .flashWearLevelling s s))

/-! ### DMA -/

/-- DMA_DESCRIPTOR_START lets the next descriptor of a channel begin; then the channels take turns, and a descriptor within one granule on
either side moves its bytes in one turn and completes: from the scratchpad to bonded memory, and back; no other byte of the destination
changes (08 R215 to R218, Table 8-8; 09 R237). That turns are taken at its completion is the model's choice (log 18). -/
def Obligations.LocalDescriptorMoves : Prop :=
  ∀ (s : State) (n : Nat) (ch : BitVec 3) (j : CoreJob) (d : Desc),
    let c := getCore s n
    let w := d.words
    n < 100 → c.job = some j → dmaRuns s n = true → s.test.arm = false → smapWf Core.reset s.cores = true →
    (c.hands = [] → channelHead c ch.toNat = some d → d.st = .queued → descFree c d = true → dEdge w = false →
      Goes (.dmaDescriptorStart n ch) s (coreNow n (fun c => { c with
        descs := c.descs.map (fun x => if x.seq = d.seq ∧ x.sub = d.sub then { d with startAt := s.clk, turnAt := s.clk, st := .moving 0 } else x) }) s))
    ∧ (c.descs = [d] → d.st = .moving 0 → d.buf = [] → d.ch < 8 → dEdge w = false → dSEMEN w = false → s.waiters = [] → dOP w = 0 → dN1 w = 1 →
      dN2 w = 1 → 0 < dLEN w → dSRC w % 32 + dLEN w ≤ 32 → dDST w % 32 + dLEN w ≤ 32 → smapWf 0 s.bonded.mem = true →
      smapWf 0 s.buckets = true → (turnDebits n w [gran32 (dSRC w)] (dDST w)).all (fun x => decide (1024 * 64 ≤ tokens s j.part x.1)) = true →
      (dSSP w = 0 → dDSP w = 2 → mustHold s (dDST w) (n, d.seq, d.sub) = false → spadParity c (dSRC w) (dLEN w) = false →
        bCheck s j.part (dDST w) true = 0 → isPoison s (pageOf (dDST w)) = false → smapGet false s.bonded.wp (pageOf (dDST w)) = false →
        ∃ t, Goes (.dmaDescriptorComplete n ⟨0, []⟩) s t ∧ (getCore t n).descs = [] ∧
          (∀ x, smapGet 0 t.bonded.mem x = if dDST w ≤ x ∧ x < dDST w + dLEN w then (spadBytes c (dSRC w) (dLEN w)).getD (x - dDST w) 0
            else smapGet 0 s.bonded.mem x))
      ∧ (dSSP w = 2 → dDSP w = 0 → mustHold s (gran32 (dSRC w)) (n, d.seq, d.sub) = false → bCheck s j.part (dSRC w) false = 0 →
        isPoison s (pageOf (dSRC w)) = false → badByte s (gran32 (dSRC w)) 32 = none →
        ∃ t, Goes (.dmaDescriptorComplete n ⟨0, []⟩) s t ∧ (getCore t n).descs = [] ∧
          (getCore t n).spad = smapPut 0 c.spad (dDST w) (bBytes s (dSRC w) (dLEN w)) ∧ t.bonded.mem = s.bonded.mem))

/-- Completion of a descriptor removes it and releases its range; with SEMEN it adds 1 to the semaphore it names (08 R220, R226). -/
def Obligations.DescriptorCompletes : Prop :=
  ∀ (s : State) (n slot : Nat) (d : Desc) (j : CoreJob), n < 100 → (getCore s n).descs[slot]? = some d → d.st = .complete →
    (getCore s n).descs.find? (fun x => decide (x.seq = d.seq) && decide (x.sub = d.sub)) = some d →
    (getCore s n).job = some j → j.st = .running → s.tick.phase = .run → smapWf Core.reset s.cores = true →
    (∀ e ∈ s.bonded.slices, (n, d.seq, d.sub) ∉ e.2.heldQ) → (dSEMEN d.words = false ∨ dSCORE d.words = 127) →
    let t : State := { coreNow n (fun c => { c with
      descs := c.descs.filter (fun x => ¬ (x.seq = d.seq ∧ x.sub = d.sub))
      trk := c.trk.filter (fun e => ¬ (e.seq = d.seq ∧ e.sub = d.sub)) }) s with
        waiters := s.waiters.filter (fun w => ¬ (w.core = n ∧ w.seq = d.seq ∧ w.sub = d.sub)) }
    Goes (.dmaDescriptorComplete n ⟨slot, []⟩) s (if dSEMEN d.words then signalled n (dSEM d.words) (· + 1) t else t)

/-- The time limits of the DMA, the network and the routing (20 R528, R531, Table 20-4): what is late is removed and its job takes
TIMEOUT; the limit in effect is the register's, never below its floor; a descriptor's counts from its start, a network request's from its
injection, and time held does not count. The times count from where log 70 says. -/
def Obligations.TimeLimits : Prop :=
  ∀ (s : State) (n slot : Nat) (j : CoreJob), n < 100 → (getCore s n).job = some j → (getCore s n).fault = none → j.st = .running →
    smapWf Core.reset s.cores = true → s.power.tripped = false →
    let faulted (t : State) (seq : Nat) (pc : W64) : Prop :=
      (getCore t n).fault = some { seq := seq, code := 6, trap := 0, fpc := pc, spc := (getCore s n).pc, more := 0 } ∧
      (getCore t n).job = some { j with st := .faulted, endAt := t.clk }
    let net := max 5 s.test.net.toNat
    let dma := max (max 10 s.test.dma.toNat) (2 * net)
    let remote := 10 * max 10 s.test.rem.toNat
    let disp := max (10 * max 10 s.test.disp.toNat) (max remote dma)
    (∀ d k, (getCore s n).descs[slot]? = some d → d.st = .moving k → descHeld s n d k = false →
      (∃ t, Goes (.dmaDescriptorTimeout n slot) s t ∧ faulted t d.seq d.pc ∧ t.clk = max s.clk (d.startAt + d.heldFor + 1200 * dma) ∧
        (getCore t n).descs = (getCore s n).descs.filter (fun x => ¬ (x.seq = d.seq ∧ x.sub = d.sub)))
      ∧ (∃ t, Goes (.networkRequestTimeout n slot) s t ∧ faulted t d.seq d.pc ∧ t.clk = max s.clk (d.turnAt + 1200 * net) ∧
        (getCore t n).descs = (getCore s n).descs.filter (fun x => ¬ (x.seq = d.seq ∧ x.sub = d.sub))))
    ∧ (∀ x chip seq sub d, s.xfers = [x] → x.via = .link chip → x.owner = .desc n seq sub →
      (getCore s n).descs.find? (fun d => decide (d.seq = seq) && decide (d.sub = sub)) = some d →
      (∀ q, q < 25 → (getQuad s q).wantOff = false) → xferHeld s x = false →
      ∃ t, Goes (.remoteCompletionTimeout x.uid) s t ∧ faulted t d.seq d.pc ∧ t.xfers = [] ∧
        t.clk = max s.clk (x.lastAt + x.heldFor + 1200 * remote))
    ∧ (∀ i r, s.routes[i]? = some r → r.core = n → s.tick.phase = .run → (∀ e ∈ s.cores, e.2.hands = []) →
      r.issued + r.heldFor + 1200 * disp < deadline s.tick →
      ∃ t, Goes (.dispatchTimeout i) s t ∧ faulted t r.seq r.pc ∧ t.routes = s.routes.eraseIdx i ∧
        t.clk = max s.clk (r.issued + r.heldFor + 1200 * disp))

/-- A refill gives every bucket its share of one microsecond, up to four of them (13 R367, Table 13-12); the next is due 1 us later. No
flit waits for its tokens at a port. -/
def Obligations.RegulatorRefill : Prop :=
  ∀ s : State, smapWf 0 s.buckets = true → (∀ p, (getPort s p).regq = []) →
    ∃ t, Goes .regulatorRefill s t ∧ t.tick.refillAt = s.tick.refillAt + 1200 ∧ t.clk = max s.clk (s.tick.refillAt + 1200) ∧
      (∀ p u, p < 16 → u < 205 → tokens t p u = min (tokens s p u + refillOf (getPart s p).shares u) (4 * refillOf (getPart s p).shares u)) ∧
      t.cores = s.cores ∧ t.bonded = s.bonded ∧ t.parts = s.parts

/-! ### Expert routing -/

/-- Admission never gives an expert more rows than its quota (12 R323). -/
def Obligations.AdmissionKeepsQuotas : Prop :=
  ∀ (l : Layer) (e : Nat) (x : Expert), l.experts[e]? = some x →
    (((admitSlots l).1).filter (fun y => (y.st = .admitted || y.st = .overflow) && decide (y.exp = e))).length ≤ x.quota

/-- Dispatch and combine requests (12 R317, R321, R322, R332; 08 R227): the instruction issues with its record's range registered, and the
record waits at the belfry; the belfry reads it and releases the range; a good request of an enabled layer of the job's partition is then
pending, its tokens read. That the belfry reads it with the core's next command is the model's choice (log 71). -/
def Obligations.RoutingRequests : Prop :=
  ∀ (s : State) (n : Nat) (h : Head) (f : FmtY) (j : CoreJob) (l : Layer) (x : HandOff),
    let c := getCore s n
    let a := (sRead c f.sv.toNat).toNat
    let ntok := bits (leNat (spadBytes c a 8)) 31 16
    let free (k : Nat) : Prop := a % 64 = 0 ∧ a + k ≤ 0x60000 ∧ trkHit c (some ⟨false, 0, a, a + 63⟩) = false ∧
      trkHit c (some ⟨false, 0, a, a + k - 1⟩) = false ∧ c.trk.length < 48
    let waits (comb : Bool) (k : Nat) : State := past n 8 (fun c => { c with
      trk := c.trk ++ [{ seq := c.nseq, sub := 0, r1 := some ⟨false, 0, a, a + k - 1⟩, r2 := none }]
      hands := c.hands ++ [{ seq := c.nseq, pc := c.pc, comb := comb, sem := f.sem.toNat, addr := a, len := k, at' := s.clk }] }) s
    (seqReady s n .rdisp (wordY .rdisp h f) = true → free (64 + 64 * ntok) → Goes (.rdisp n h f) s (waits false (64 + 64 * ntok)))
    ∧ (seqReady s n .rcomb (wordY .rcomb h f) = true → free 64 → Goes (.rcomb n h f) s (waits true 64))
    ∧ (let hd := leNat (spadBytes c x.addr 8)
       let r (kind exp : Nat) : RouteReq :=
         { core := n, jobid := j.jobid, part := j.part, seq := x.seq, pc := x.pc, sem := x.sem, layer := bits hd 15 0,
           kind := kind, exp := exp, issued := x.at', heldFor := 0, srcs := [], got := [], begun := [] }
       n < 100 → c.hands = [x] → c.hold = .none → c.job = some j → spadParity c x.addr x.len = false → s.test.arm = false →
       smapWf Core.reset s.cores = true → layerAt s (bits hd 15 0) = some l → l.st = .open → l.part = j.part →
       let read (t : State) : Prop := (getCore t n).hands = [] ∧ (getCore t n).trk = c.trk.filter (fun e => decide (e.seq ≠ x.seq)) ∧
         (getCore t n).sems = c.sems
       (x.comb = false → x.len = 64 + 64 * bits hd 31 16 → 0 < bits hd 31 16 → bits hd 31 16 ≤ 4096 → bits hd 47 32 < l.nreq →
         l.reqs.contains (bits hd 47 32) = false →
         ∃ t l', Goes (.issueStallEnd n) s t ∧ read t ∧ t.routes = s.routes ++ [r 0 0] ∧ layerAt t (bits hd 15 0) = some l' ∧
           l'.reqs = l.reqs ++ [bits hd 47 32] ∧ l'.tokens.length = l.tokens.length + bits hd 31 16)
       ∧ (x.comb = true → x.len = 64 → bits hd 33 32 = 0 →
         ∃ t, Goes (.issueStallEnd n) s t ∧ read t ∧ t.routes = s.routes ++ [r 1 (bits hd 31 16)] ∧ t.layers = s.layers))

/-- The layer whose requests were complete first is admitted (12 R321, R323); a layer whose sources are done signals its waiting cores, once
(R330); a collect is done when every live expert has added its word (R334). -/
def Obligations.RoutingProgress : Prop :=
  ∀ (s : State) (i : Nat) (l : Layer), layerAt s i = some l → s.tick.phase = .run → (∀ e ∈ s.cores, e.2.hands = []) →
    let clean (a : Nat) : Prop := a % 8 = 0 ∧ isPoison s (a / 4096) = false ∧ smapGet 0 s.bonded.attrBad (a / 4096) = 0 ∧ badByte s (a / 32 * 32) 32 = none ∧
      rangeIn (getPart s l.part).exts a 8 = true
    (admitNext s l = true → ∃ t l', Goes (.routeAdmit i) s t ∧ layerAt t i = some l' ∧ l'.st = .admitted)
    ∧ (∀ a, l.st = .admitted → l.lsemSent = false → localG s (globalAddr (chipNo s) l.lwin (pairWord s l.doneOff)) 8 = some a → clean a →
      sourcesDone s l (leNat (bBytes s a 8)) = true → smapWf Core.reset s.cores = true →
      ∃ t, Goes (.sourceDonePoll i) s t ∧ (layerAt t i).map (fun x => x.lsemSent) = some true ∧
        (∀ n, n < 100 → (getCore t n).sems = (let m := (getCore s n).sems
          if l.wait.getLsbD n && runsPart s n l.part then smapSet 0 m l.lsem (smapGet 0 m l.lsem + 1) else m)))
    ∧ (∀ k r j, s.routes[k]? = some r → r.layer = i → r.kind = 1 → l.st = .admitted → clean (pairWord s l.cdone) →
      leNat (bBytes s (pairWord s l.cdone) 8) = liveExperts l → (∀ x ∈ l.slots, x.st = .admitted ∨ x.st = .overflow) →
      (getCore s r.core).job = some j → j.part = r.part → j.jobid = r.jobid → j.st = .running →
      ∃ t, Goes (.combineCollectDone k) s t ∧ t.routes = s.routes.eraseIdx k ∧ (layerAt t i).map (fun x => x.combined) = some true ∧
        t.cores = (signalled r.core r.sem (· + 1) s).cores ∧ t.bonded.mem = s.bonded.mem)

/-! ### The fold -/

/-- The fold: the stream takes WP off its pages, and frees the touch pages once it is sent; a tier-2 segment is complete when its COMPLETE
word is written; a log record goes to flash; a commit's digests become known; a store is programmed from its pages (14 R386, R389, R390,
R391, R393, R394, R396, R397). -/
def Obligations.FoldOutputs : Prop :=
  ∀ (s : State) (n : BitVec 4) (t : Tiers),
    let p := n.toNat
    let f := (getPart s p).foldSt
    smapWf Part.reset s.parts = true → f.tiers = some t →
    (∀ g, f.seg1 = some g → g.sent = false → s.tick.phase = .run → foldMoving s p = false → t.partner ≠ chipNo s → s.bonded.bad = [] →
      s.bonded.attrBad = [] → smapWf false s.bonded.wp = true →
      ∃ s', Goes (.foldSegmentStream n) s s' ∧ ((getPart s' p).foldSt.touchUsed = if foldMoving s' p then f.touchUsed else []) ∧
        (∀ e ∈ g.pages, pageRebuilt s e.1 = false → smapGet false s'.bonded.wp e.1.pg = false) ∧ s'.cores = s.cores ∧
        s'.bonded.mem = s.bonded.mem)
    ∧ (∀ g, f.seg2 = some g → g.sent = true → flashServes s = true → ∃ s', Goes (.foldSegmentComplete n .t2) s s' ∧
        (getPart s' p).foldSt.seg2 = none ∧ (getPart s' p).foldSt.t2Last = g.last ∧
        s'.flash = (flashWrite p (t.flOff + t.logLen + g.off + 0x28) (natLe 8 (g.last + 1)) s).flash ∧ s'.bonded = s.bonded ∧ s'.cores = s.cores)
    ∧ (∀ r, f.logs.find? (logWaiting s f) = some r → r.flashOk = false → flashServes s = true → r.linkOk = true → r.skip = none →
        ∃ s', Goes (.logRecordWrite n) s s' ∧ s'.flash = (flashWrite p (t.flOff + r.off) r.bytes s).flash ∧
          (∀ x ∈ (getPart s' p).foldSt.logs, x.tick = r.tick → x.flashOk = true) ∧ f.logLast ≤ (getPart s' p).foldSt.logLast ∧
          r.tick ≤ (getPart s' p).foldSt.logLast ∧ s'.bonded = s.bonded)
    ∧ (f.pendDig ≠ [] → (∀ d ∈ f.pendDig, d.2.isSome = true) → Goes (.commitDigestCompute n) s (modFold p (fun f => { f with
        haveDig := f.pendDig.map (fun d => shake256 16 (d.2.getD [])), haveTick := f.pendTick, pendDig := [] }) s))
    ∧ (∀ x rest bs s0, f.stores = x :: rest → flashServes s = true → storePages p (x.len / 4096) x.bbase s = (bs, none, s0) →
        ∃ s', Goes (.storeComplete n) s s' ∧ s' = modFold p (fun f => { f with stores := rest, storeDone := f.storeDone + 1 })
          (flashWrite p x.dst bs s0))

/-- The ways back: a page of a rebuild takes the content of its best version, else is passed over; a POISON page with a refill copy in
flash takes that copy; the oldest digest request is served (09 R243; 14 R400, R404; 15 R417, R418). -/
def Obligations.PagesAndDigests : Prop :=
  (∀ (s s0 : State) (id : Nat) (q : Seq) (r : SeqRec) (b : Rebuild) (pl : Pool) (e : Nat × Nat × Nat) (y : Nat × Nat × Nat)
      (rest : List (Nat × Nat × Nat)) (x : Version),
    seqAt s id = some q → q.rebuild = some b → poolAt s q.pool = some pl → restoreRec s id pl = some r →
    b.pages = e :: y :: rest →
    let pg := pageOf (groupBase pl (r.list.getD e.1 0)) + e.2.1
    remapPending s pg = false → s.test.arm = false → (flashOn s = true → flashServes s = true) →
    bestVersion q.part q.pool id e.1 e.2.1 b.lc ([Tier.t1, .t2, .t3].filter (fun x => decide (e.2.2 ≤ tierNo x))) none s = (some x, s0) →
    ∃ t, Goes (.restorePage id) s t ∧ t.bonded.mem = smapPut 0 s0.bonded.mem (pg * 4096) (versionBytes s0 q.part x) ∧
      (∀ q', seqAt t id = some q' → q'.rebuild.map (fun b => b.pages) = some (y :: rest)))
  ∧ (∀ (s : State) (pg : Nat) (e : Nat × Nat × Nat × W64),
    let g := smapGet GranAttr.reset s.bonded.gran (pg * 4096 / 0x200000)
    pg < 50331648 → isPoison s pg = true → g.a = true → remapPending s pg = false → rowRetired s pg = false →
    refillOf' (getPart s g.tag.toNat).foldSt pg = some e → e.2.2.1 = 0 → flashServes s = true → smapWf false s.bonded.poison = true →
    ∃ t, Goes (.poisonPageRefill pg) s t ∧
      t.bonded.mem = smapPut 0 s.bonded.mem (pg * 4096) (flashRead s g.tag.toNat (e.2.2.2.toNat + (pg * 4096 - e.1)) 4096) ∧
      smapGet false t.bonded.poison pg = false ∧ t.cores = s.cores)
  ∧ (∀ (s : State) (d : DigReq) (rest : List DigReq), s.digReqs = d :: rest → d.tick < s.tick.now.toNat → s.memos = [] →
    [0x08, 0x18, 0x28, 0x38].all (fun o => decide ((digRange d.rec' o).2 = 0)) = true →
    (∀ k, k < 256 → isPoison s ((d.addr + k) / 4096) = false ∧ smapGet 0 s.bonded.attrBad ((d.addr + k) / 4096) = 0 ∧ smapGet false s.bonded.wp ((d.addr + k) / 4096) = false) →
    s.test.arm = false → smapWf 0 s.bonded.mem = true → d.prog.length = 32 →
    let none64 := natLe 8 0
    let wgt := shake256 32 (none64 ++ none64)
    let inp := shake256 32 (none64 ++ natLe 8 d.seed.toNat ++ natLe 8 d.stream.toNat ++ natLe 8 d.ctr.toNat)
    let rd := shake256 32 ([0x53, 0x4A, 0x39, 0x52, 0x44, 0x31] ++ d.prog ++ wgt ++ inp ++ (if bit (rdN d.rec' 0 8) 33 then d.plandig else []))
    ∃ t, Goes .digestHash s t ∧ t.digReqs = rest ∧ smapRun 0 t.bonded.mem (d.addr + 0x48) 8 = natLe 8 d.tick ∧
      smapRun 0 t.bonded.mem (d.addr + 0x50) 32 = rd ∧ smapRun 0 t.bonded.mem (d.addr + 0x70) 32 = shake256 32 none64 ∧
      (∀ a, a < d.addr ∨ d.addr + 256 ≤ a → smapGet 0 t.bonded.mem a = smapGet 0 s.bonded.mem a))

/-! ### Partitions -/

/-- The timed effects of partitions, windows and keys: an assigned granule's attributes are written, a released granule is scrubbed to
zero, a drain ends after 200 us, a pending key expires after 1,024 ticks (13 R366, R378 to R380; 16 R443; 18 R486). -/
def Obligations.PartitionTimers : Prop :=
  (∀ (s : State) (g n : Nat), g < 98304 → smapWf GranAttr.reset s.bonded.gran = true → smapWf false s.bonded.wp = true → smapWf Part.reset s.parts = true →
    (findPart s (fun p => p.pend.contains g) = some n → ∃ t, Goes (.attributeWriteComplete g) s t ∧
      smapGet GranAttr.reset t.bonded.gran g = { a := true, ro := decide (n = 0), tag := BitVec.ofNat 4 n } ∧
      (∀ k, k ≠ g → smapGet GranAttr.reset t.bonded.gran k = smapGet GranAttr.reset s.bonded.gran k) ∧
      (∀ pg, smapGet false t.bonded.wp pg = if pg / 512 = g then false else smapGet false s.bonded.wp pg) ∧
      (getPart t n).pend = (getPart s n).pend.filter (· ≠ g) ∧ t.bonded.mem = s.bonded.mem ∧ t.cores = s.cores))
  ∧ (∀ (s : State) (g n : Nat), g < 98304 → smapWf 0 s.bonded.mem = true → smapWf Part.reset s.parts = true →
    findPart s (fun p => p.scrub.contains g) = some n → ∃ t, Goes (.granuleScrubComplete g) s t ∧
      (∀ a, smapGet 0 t.bonded.mem a = if a / 0x200000 = g then 0 else smapGet 0 s.bonded.mem a) ∧
      (getPart t n).scrub = (getPart s n).scrub.filter (· ≠ g) ∧ t.cores = s.cores)
  ∧ (∀ (s : State) (w : BitVec 6) (a : Nat), (getWin s w.toNat).closing = some a → s.links.held = [] → s.power.tripped = false →
    Goes (.drainExpiry (.window w)) s { s with
      clk := max s.clk (a + 240000)
      windows := smapSet Window.reset s.windows w.toNat { Window.reset with evented := (getWin s w.toNat).evented } })
  ∧ (∀ (s : State) (n : BitVec 4) (a : Nat), (getPart s n.toNat).drainAt = some a → smapWf Part.reset s.parts = true → s.xfers = [] → s.host.qps = [] →
    (∀ q, q < 25 → (getQuad s q).wantOff = false) → s.power.tripped = false →
    ∃ t, Goes (.drainExpiry (.teardown n)) s t ∧ (getPart t n.toNat).st = .scrub ∧ (getPart t n.toNat).exts = [] ∧
      (getPart t n.toNat).keys = Keys.reset ∧ (getPart t n.toNat).scrub = (getPart s n.toNat).scrub ++ extGrans (getPart s n.toNat).exts ∧
      t.clk = max s.clk (a + 240000) ∧ t.bonded.mem = s.bonded.mem ∧
      (∀ g, g ∈ extGrans (getPart s n.toNat).exts → ∀ e ∈ t.bonded.gran, e.1 ≠ g))
  ∧ (∀ (s : State) (n : BitVec 4), let k := (getPart s n.toNat).keys
    (k.pending.isSome = true → k.pendAt + 1024 ≤ s.tick.now.toNat →
      Goes (.pendingKeyExpire n) s { s with parts := smapSet Part.reset s.parts n.toNat { getPart s n.toNat with keys := { k with pending := none, pendRd := [] } } })
    ∧ (k.pending.isSome = true → s.tick.now.toNat < k.pendAt + 1024 → Goes (.pendingKeyExpire n) s s))

/-! ### The peer edge -/

/-- Flits at a port that exchanges them: a bad one is counted and dropped; a good one returns its credits and releases the replay
buffer up to its ACK; DATA is taken only in SEQ order and delivered where it names this chip; a NAK and the time limit replay, the
sixteenth time the port goes DOWN; an AUDIT that disagrees asks for a retrain and aborts ticks (16 R426, R428, R430 to R433, R439). The byte lists are the model's form of flits (log 17). -/
def Obligations.PeerFlits : Prop :=
  ∀ (s : State) (p : BPort) (f : List Byte), hears s p = true →
    let v := getPort s p
    let w := rdN f 0 8
    let cvc := bits w 39 37
    let acked := v.replay.any (fun e => decide (e.1.toNat = flitAck f))
    let kept := if acked then (v.replay.dropWhile (fun e => decide (e.1.toNat ≠ flitAck f))).drop 1 else v.replay
    let runs := if acked then 0 else v.replays
    (flitGood f = false → v.crcerr.count ≠ BitVec.allOnes 32 → v.fecunc.count ≠ BitVec.allOnes 32 →
      ∀ c ∈ [Instr.flitData p f, Instr.flitNak p f, Instr.flitCtrl p f, Instr.flitIdle p f], ∃ t, Goes c s t ∧
        (getPort t p).crcerr = { v.crcerr with count := v.crcerr.count + 1 } ∧ (getPort t p).rxSeq = v.rxSeq ∧ (getPort t p).credits = v.credits ∧
        (getPort t p).replay = v.replay ∧ t.links.rx = s.links.rx ∧ t.bonded = s.bonded ∧ t.cores = s.cores)
    ∧ (flitGood f = true → flitType f = 1 → BitVec.ofNat 12 (flitSeq f) = v.rxSeq + 1 → txnChip (txnRead ((f.drop 8).take 240)) = chipNo s →
      (txnRead ((f.drop 8).take 240)).opc.toNat < 6 →
      ∃ t, Goes (.flitData p f) s t ∧ (getPort t p).rxSeq = v.rxSeq + 1 ∧ (getPort t p).rxFlits = v.rxFlits + 1 ∧
        t.links.rx = s.links.rx ++ [{ txn := txnRead ((f.drop 8).take 240), inbuf := some (portNo p, flitVc f) }] ∧ t.bonded = s.bonded ∧ t.cores = s.cores)
    ∧ (flitGood f = true → flitType f = 1 → BitVec.ofNat 12 (flitSeq f) ≠ v.rxSeq + 1 →
      ∃ t, Goes (.flitData p f) s t ∧ (getPort t p).rxSeq = v.rxSeq ∧ (getPort t p).nakSent = true ∧ t.links.rx = s.links.rx)
    ∧ (v.txq = [] → v.regq = [] →
      (flitGood f = true → flitType f = 0 → ∃ t, Goes (.flitIdle p f) s t ∧ (getPort t p).replay = kept ∧
        (getPort t p).credits = smapSet 0 v.credits cvc (smapGet 0 v.credits cvc + bits w 36 29) ∧ t.links.rx = s.links.rx)
      ∧ (flitGood f = true → flitType f = 3 → kept ≠ [] → runs < 15 → ∃ t, Goes (.flitNak p f) s t ∧ (getPort t p).replay = kept ∧
        (getPort t p).replays = runs + 1 ∧ (getPort t p).st = v.st)
      ∧ (v.st = .up → v.replay ≠ [] → v.replays < 15 → ∃ t, Goes (.replayTimeout p) s t ∧ (getPort t p).replay = v.replay ∧
        (getPort t p).replays = v.replays + 1 ∧ (getPort t p).st = .up ∧ t.clk = max s.clk (v.lastAck + 900)))
    ∧ (v.st = .up → v.replay ≠ [] → 15 ≤ v.replays → ∃ t, Goes (.replayTimeout p) s t ∧ (getPort t p).st = .down ∧ (getPort t p).replay = [])
    ∧ (flitGood f = true → flitType f = 4 → rdN (rdB f 8 240) 0 8 = 1 → smapWf Part.reset s.parts = true →
      (auditBad v (rdB f 8 240) = none → ∃ t, Goes (.flitCtrl p f) s t ∧ (getPort t p).retrainReq = v.retrainReq ∧ t.parts = s.parts)
      ∧ (auditBad v (rdB f 8 240) ≠ none → ∃ t, Goes (.flitCtrl p f) s t ∧ (getPort t p).retrainReq = true ∧ (getPort t p).resetCred = true ∧
          (∀ e ∈ v.parts, (getPart t e.1).tabort = true) ∧ t.bonded = s.bonded))

/-- Transactions for this module: a WRITE that passes its checks stores its enabled bytes, an integer ADD combines them, a READ is
answered with what the memory holds, a refused one changes no memory and is counted; response data and acknowledgements advance the
transfer they name, a refusal ends it, and its job takes REMOTE, or PARITY for reason 7 (16 R434 to R437, R442, R444, R445; 09 R253). -/
def Obligations.PeerTransactions : Prop :=
  ∀ (s : State) (x : Txn),
    let a := (getWin s (txnWin x)).base + txnOff x
    let good (p a n : Nat) : Prop := s.test.arm = false ∧ 0 < n ∧ s.bonded.bad = [] ∧
      (pagesOf a n).all (fun pg => !smapGet false s.bonded.wp pg) = true ∧ mustWait s p a n true = false
    let part := (getWin s (txnWin x)).part.toNat
    let rest (opc : Nat) : List RxTxn := dropFirst (fun r => decide (r.txn.opc.toNat = opc)) s.links.rx
    let out (t : State) (p : BPort) : List Txn := ((getPort t p).replay.map Prod.snd ++ (getPort t p).txq ++ (getPort t p).regq).map (fun f => f.txn)
    s.links.held = [] →
    (nextTxn s 0 = some x → arrival s x = 0 → good part a (txnLen x) → smapWf 0 s.bonded.mem = true → (txnBytes x).length = txnLen x →
      ∃ t, Goes .txnWrite s t ∧ t.links.rx = rest 0 ∧ t.cores = s.cores ∧
        (∀ y, smapGet 0 t.bonded.mem y = if a ≤ y ∧ y < a + txnLen x then (txnBytes x).getD (y - a) 0 else smapGet 0 s.bonded.mem y))
    ∧ (nextTxn s 1 = some x → arrival s x = 0 → good part a (txnLen x) → (txnBytes x).length = txnLen x → a % 32 + txnLen x ≤ 32 →
      2 < x.aop.toNat → bCheck s part a true = 0 → isPoison s (a / 4096) = false →
      ∃ t, Goes .txnAdd s t ∧ t.links.rx = rest 1 ∧ t.cores = s.cores ∧
        t.bonded.mem = smapPut 0 s.bonded.mem a (addBytes x.aop.toNat (txnLen x) (bBytes s a (txnLen x)) (txnBytes x)))
    ∧ (∀ p, nextTxn s 2 = some x → arrival s x = 0 → s.bonded.bad = [] → 0 < x.rlen.toNat →
      let a := (getWin s (txnWin x)).base + reachOff x
      mustWait s part a x.rlen.toNat false = false → routePort s x.src.toNat = some p → portLive (getPort s p).st = true → (getPort s p).drainAt = none →
      (∀ g ∈ granules a x.rlen.toNat, isPoison s (g / 4096) = false) →
      ∃ t, Goes .txnRead s t ∧ t.links.rx = rest 2 ∧ t.bonded.mem = s.bonded.mem ∧ t.cores = s.cores ∧
        (∀ y ∈ responses s x (bBytes s a x.rlen.toNat), y ∈ out t p))
    ∧ (∀ k i, (k, i) ∈ [(0, Instr.txnWrite), (1, Instr.txnAdd), (2, Instr.txnRead)] → nextTxn s k = some x → arrival s x ≠ 0 → s.layers = [] → s.bonded.attrBad = [] →
      s.links.refused.count ≠ BitVec.allOnes 32 →
      ∃ t, Goes i s t ∧ t.links.rx = rest k ∧ t.bonded = s.bonded ∧ t.links.refused.count = s.links.refused.count + 1)
    ∧ (∀ z n seq sub, nextTxn s 3 = some x → s.xfers.find? (fun y => y.read && decide (y.tag = x.tag) && decide (y.via = .link x.src.toNat)) = some z →
      z.owner = .desc n seq sub → z.acked + txnLen x < z.total →
      let a := bits x.dest.toNat 47 0 / 32 * 32 + x.foff.toNat
      good z.part a (txnLen x) → (txnBytes x).length = txnLen x → a % 32 + txnLen x ≤ 32 → s.power.tripped = false → bCheck s z.part a true = 0 → isPoison s (a / 4096) = false →
      ∃ t, Goes .txnReadrsp s t ∧ t.links.rx = rest 3 ∧ t.bonded.mem = smapPut 0 s.bonded.mem a (txnBytes x) ∧
        t.xfers = s.xfers.map (fun y => if y.uid = z.uid then { z with acked := z.acked + txnLen x } else y))
    ∧ (∀ z tag k, nextTxn s 4 = some x → txnRecs x = [(tag, k)] →
      s.xfers.find? (fun y => !y.read && decide (y.tag.toNat = tag % 2 ^ 24) && decide (y.via = .link x.src.toNat)) = some z → 0 < k → z.acked + k < z.total → s.power.tripped = false →
      ∃ t, Goes .txnAcks s t ∧ t.links.rx = rest 4 ∧ t.bonded = s.bonded ∧ t.cores = s.cores ∧
        t.xfers = s.xfers.map (fun y => if y.uid = z.uid then { z with acked := z.acked + k } else y))
    ∧ (∀ z r k n seq sub d j, nextTxn s 5 = some x → txnRecs x = [(r, k)] → s.xfers = [z] → z.tag.toNat = r % 2 ^ 24 → z.via = .link x.src.toNat →
      z.owner = .desc n seq sub → n < 100 → (getCore s n).descs.find? (fun d => decide (d.seq = seq) && decide (d.sub = sub)) = some d →
      (getCore s n).job = some j → (getCore s n).fault = none → j.st = .running → smapWf Core.reset s.cores = true →
      (∀ q, q < 25 → (getQuad s q).wantOff = false) → s.power.tripped = false →
      ∃ t, Goes .txnRefuse s t ∧ t.xfers = [] ∧ t.links.rx = rest 5 ∧ t.bonded = s.bonded ∧
        (getCore t n).fault = some { seq := d.seq, code := if bits r 31 24 = 7 then 5 else 8, trap := 0, fpc := d.pc, spc := (getCore s n).pc, more := 0 })
    ∧ (∀ g gs p, s.links.acks = g :: gs → g.chip < 1024 → routePort s g.chip = some p →
      portLive (getPort s p).st = true → (getPort s p).drainAt = none →
      ∃ t, Goes (.acksFlush (BitVec.ofNat 10 g.chip)) s t ∧ t.links.acks = gs ∧ t.clk = max s.clk (g.since + 120) ∧
        recsTxn 4 (chipNo s) g.chip (g.recs.map (fun r => (r.1.toNat, r.2))) ∈ out t p)

/-- Training and retraining of a port: an enabled port trains, comes UP at its neighbour, is MISWIRED at any other chip, and uses the
spare lane for one failing lane; a failure takes it DOWN, and after 1 ms it trains again, or is FAILED after the third; errors above the
threshold and lost lock ask for a retrain, one port at a time (16 R447 to R450, Tables 16-9, 16-10). That every failure counts in TRIES is the model's
choice (log 72). -/
def Obligations.PortTrainingRules : Prop :=
  ∀ (s : State) (p : BPort) (r : TrainResult) (lane k : Nat),
    let v := getPort s p
    let bad := r.failing.filter (fun l => decide (l < 16))
    let spareBad := r.failing.any (fun l => decide (16 ≤ l))
    (v.st = .disabled → v.en = true → v.drainAt = none → portsAllowed s = true →
      Goes (.portTraining p) s (setPort p { v with st := .training, since := s.clk } s))
    ∧ (v.st = .training → r.ok = true → (bad = [] ∨ (∃ l, bad = [l]) ∧ spareBad = false) →
      ∃ t, Goes (.portTrainingComplete p r) s t ∧ (getPort t p).peer = r.peer ∧ (getPort t p).pdelay = r.pdelay ∧
        (getPort t p).subst = (match bad with
          | [] => 31
          | l :: _ => BitVec.ofNat 5 l) ∧
        (getPort t p).txSeq = 0 ∧ (getPort t p).rxSeq = 0 ∧ (∀ c, c < 8 → smapGet 0 (getPort t p).credits c = 1024) ∧
        (getPort t p).st = (if r.peer.toNat = neighbour s p then .up else .miswired) ∧
        (getPort t p).tries = (if r.peer.toNat = neighbour s p then 0 else v.tries) ∧ t.bonded = s.bonded ∧ t.cores = s.cores)
    ∧ (v.st = .training → (r.ok = false ∨ 1 < bad.length ∨ (bad.length = 1 ∧ spareBad = true)) → v.replay = [] → v.txq = [] → v.regq = [] →
      ∃ t, Goes (.portTrainingComplete p r) s t ∧ (getPort t p).st = .down ∧ (getPort t p).since = s.clk ∧
        (getPort t p).tries.toNat = min 3 (v.tries.toNat + 1))
    ∧ (v.st = .down → Goes (.portDownRetry p) s
        (setPort p { v with st := if v.tries = 3 then .failed else .training, since := max s.clk (v.since + 1200000) }
          { s with clk := max s.clk (v.since + 1200000) }))
    ∧ (v.st = .up → v.retrainReq = true → belfryRuns s = true → (∀ q, (getPort s q).st ≠ .retrain) →
      Goes (.portRetrain p) s (setPort p { v with st := .retrain, since := s.clk } s))
    ∧ (∀ sub : BitVec 5, v.st = .retrain → r.ok = true → v.badLanes = [] → v.replay = [] → s.test.arm = false →
      (bad = [] ∧ sub = v.subst ∧ (v.subst = 31 ∨ r.failing.contains 16 = false)
        ∨ (∃ l, bad = [l] ∧ sub = BitVec.ofNat 5 l) ∧ v.subst = 31 ∧ r.failing.contains 16 = false) →
      ∃ t, Goes (.portRetrainComplete p r) s t ∧ (getPort t p).st = .up ∧ (getPort t p).retrainReq = false ∧ (getPort t p).subst = sub ∧
        (getPort t p).pdelay = r.pdelay ∧ t.bonded = s.bonded ∧ t.cores = s.cores)
    ∧ (v.st = .retrain → r.ok = false → v.replay = [] → v.txq = [] → v.regq = [] →
      ∃ t, Goes (.portRetrainComplete p r) s t ∧ (getPort t p).st = .down ∧ (getPort t p).since = s.clk ∧ t.bonded = s.bonded ∧ t.cores = s.cores)
    ∧ (v.st = .up →
      (∃ t, Goes (.fecErrorWindow p lane k) s t ∧ t = setPort p (getPort t p) s ∧ (getPort t p).fecCorr = v.fecCorr + BitVec.ofNat 64 k ∧
        (getPort t p).retrainReq = (v.retrainReq || decide (v.serth.toNat < k)) ∧ (getPort t p).st = .up)
      ∧ Goes (.laneLockLoss p lane) s (setPort p { v with retrainReq := true, badLanes := if v.badLanes.contains lane then v.badLanes else v.badLanes ++ [lane] } s))

/-! ### The host edge -/

/-- Frames at a port: none is received unless it is UP, and one in loop-back only counts what is wrong with its test traffic; a good one is answered where the port answers its kind and drops nothing; a bad
one is counted; a pause holds its priority for 512 bit times a quantum (17 R456, R457, R466). The quantum is the standard's (log 14). -/
def Obligations.HostFrames : Prop :=
  ∀ (s : State) (p : HPort) (k : RocePacket) (a : ArpFrame) (nd : NdFrame) (v6 : Bool) (dst : BitVec 128) (bs : List Byte) (prio : BitVec 3)
      (quanta : BitVec 16) (why : DropReason),
    let v := getHport s p
    let frames : List Instr := [.rocePacket p k, .arpFrame p a, .ndFrame p nd, .icmpEchoRequest p v6 dst bs, .pfcFrame p prio quanta, .unsupportedFrame p why]
    let got (g : HoPort → HoPort) : State := setHport p (g { v with rx := v.rx + 1 }) s
    let answered (m : HostMsg) (t : State) : Prop := t.outbox = s.outbox ++ [framed s p m] ∧ (getHport t p).rx = v.rx + 1 ∧ (getHport t p).tx = v.tx + 1 ∧
      t.bonded = s.bonded ∧ t.cores = s.cores ∧ t.host.qps = s.host.qps
    (v.st ≠ .up → v.st ≠ .loop → ∀ c ∈ frames, Goes c s s)
    ∧ (v.st = .loop → v.drop.count ≠ BitVec.allOnes 32 →
      (∀ c ∈ [Instr.arpFrame p a, Instr.ndFrame p nd, Instr.icmpEchoRequest p v6 dst bs, Instr.pfcFrame p prio quanta], Goes c s s)
      ∧ Goes (.unsupportedFrame p why) s (setHport p { v with drop := { v.drop with count := v.drop.count + 1 } } s)
      ∧ Goes (.rocePacket p k) s (if k.fcsOk && k.ipOk && k.icrcOk then s else setHport p { v with drop := { v.drop with count := v.drop.count + 1 } } s))
    ∧ (v.st = .up → s.test.arm = false → v.drop.count ≠ BitVec.allOnes 32 → v.icrc.count ≠ BitVec.allOnes 32 → v.fecunc.count ≠ BitVec.allOnes 32 →
      (k.fcsOk = true → k.ipOk = true → k.len ≤ 4352 → k.icrcOk = true → k.ce = false → Goes (.rocePacket p k) s (got id))
      ∧ ((k.fcsOk = false ∨ k.ipOk = false ∨ 4352 < k.len) → Goes (.rocePacket p k) s (got (fun v => { v with drop := { v.drop with count := v.drop.count + 1 } })))
      ∧ (k.fcsOk = true → k.ipOk = true → k.len ≤ 4352 → k.icrcOk = false →
        Goes (.rocePacket p k) s (got (fun v => { v with icrc := { v.icrc with count := v.icrc.count + 1 } })))
      ∧ (k.fcsOk = true → k.ipOk = true → k.len ≤ 4352 → k.icrcOk = true → k.ce = true → (getQp s k.qp.toNat).st ≠ .free → s.host.ecn = true →
        (∀ t, (getQp s k.qp.toNat).cnpSent = some t → t + 60000 ≤ s.clk) → sends s (getQp s k.qp.toNat).port = true →
        ∃ t, Goes (.rocePacket p k) s t ∧ t.outbox = s.outbox ++ [said s k.qp.toNat (.cnp k.qp.toNat)] ∧ t.bonded = s.bonded ∧ t.cores = s.cores)
      ∧ (sends s p = true → a.request = true → v.ip4 ≠ 0 → a.targetIp = v.ip4 → ∃ t, Goes (.arpFrame p a) s t ∧ answered (.arpReply v.ip4 v.mac) t ∧
          (a.senderIp.setWidth 128, a.senderMac) ∈ (getHport t p).peers)
      ∧ ((a.request = false ∨ v.ip4 = 0 ∨ a.targetIp ≠ v.ip4) → Goes (.arpFrame p a) s (got (fun v => { v with
          peers := v.peers.filter (fun e => e.1 ≠ a.senderIp.setWidth 128) ++ [(a.senderIp.setWidth 128, a.senderMac)] })))
      ∧ (sends s p = true → nd.solicit = true → ((v.ip6 ≠ 0 ∧ nd.targetIp = v.ip6) ∨ nd.targetIp = linkLocal v.mac) → ∃ t, Goes (.ndFrame p nd) s t ∧
          answered (.ndAdvert nd.targetIp v.mac) t)
      ∧ (sends s p = true → echoLen s p v6 bs.length ≤ 4352 →
          (if v6 then (v.ip6 ≠ 0 ∧ dst = v.ip6) ∨ dst = linkLocal v.mac else v.ip4 ≠ 0 ∧ dst = v.ip4.setWidth 128) →
          ∃ t, Goes (.icmpEchoRequest p v6 dst bs) s t ∧ answered (.echoReply bs) t)
      ∧ (4352 < echoLen s p v6 bs.length → Goes (.icmpEchoRequest p v6 dst bs) s (got (fun v => { v with drop := { v.drop with count := v.drop.count + 1 } })))
      ∧ (echoLen s p v6 bs.length ≤ 4352 → v6 = false → dst ≠ v.ip4.setWidth 128 → Goes (.icmpEchoRequest p v6 dst bs) s (got id))
      ∧ (v.txq = [] → Goes (.pfcFrame p prio quanta) s (got (fun v => if v.pfcen.getLsbD prio.toNat then
          { v with pauses := smapSet 0 v.pauses prio.toNat (if quanta = 0 then 0 else s.clk + quanta.toNat * 1536 / 1000) } else v)))
      ∧ Goes (.unsupportedFrame p why) s (got (fun v => if why = .icrc then { v with icrc := { v.icrc with count := v.icrc.count + 1 } }
          else if why = .codeword then { v with drop := { v.drop with count := v.drop.count + 1 }, fecunc := { v.fecunc with count := v.fecunc.count + 1 } }
          else { v with drop := { v.drop with count := v.drop.count + 1 } })))
    ∧ (v.txq = [] → smapGet 0 v.pauses prio.toNat ≠ 0 → Goes (.pfcPauseExpiry p prio) s
        (setHport p { v with pauses := smapSet 0 v.pauses prio.toNat 0 } { s with clk := max s.clk (smapGet 0 v.pauses prio.toNat) }))

/-- Ports and connections: a trained port is UP, a lost link trains again; an accepted REQ takes the lowest FREE queue pair and RTU makes
it RTS; a refused one is answered with its code; DREQ is answered and closes, DREP or 1 ms frees (17 R459, R460, R463, R474, R563). That the session is held from the REQ on is the model's choice (log 67). -/
def Obligations.PortsAndConnections : Prop :=
  ∀ (s : State) (p : HPort) (r : CmReq) (n : BitVec 12),
    let v := getHport s p
    let q := n.toNat
    let x := getQp s q
    (v.st = .training → v.en = true → s.power.hostSt = .on → Goes (.hostPortTrained p) s (setHport p { v with st := .up } s))
    ∧ (v.st = .training → Goes (.hostPortTrainingFailed p) s
        (setHport p { v with st := if v.en && decide (v.loop.toNat = 0 ∨ 4 ≤ v.loop.toNat) then .training else .down, since := s.clk } s))
    ∧ (v.st = .up → Goes (.hostLinkLoss p) s (setHport p { v with st := .training, since := s.clk } s))
    ∧ (v.st ≠ .up → Goes (.cmReq p r) s s)
    ∧ (∀ m, v.st = .up → sends s p = true → reqCode s r.priv = 0 → 2 ≤ m → m < 4096 → (getQp s m).st = .free → (∀ i, 2 ≤ i → i < m → (getQp s i).st ≠ .free) →
        smapWf Qp.reset s.host.qps = true →
        ∃ t, Goes (.cmReq p r) s t ∧ (getQp t m).st = .connecting ∧ (getQp t m).port = p ∧ (getQp t m).rqpn = r.rqpn ∧
          (getQp t m).owner = decide (rdN r.priv 0 1 = 1) ∧ (getQp t m).part.toNat = rdN r.priv 1 1 % 16 ∧
          t.outbox = s.outbox ++ (if v.peers.any (fun e => decide (e.1 = r.peer)) then [] else
            [framed s p (if r.peer.toNat < 2 ^ 32 then .arpRequest (r.peer.setWidth 32) v.mac else .ndSolicit r.peer v.mac)])
            ++ [framed s p (.rep m (min 5 r.mtu.toNat))] ∧ (∀ i, i ≠ m → getQp t i = getQp s i) ∧
          t.host.owner = (if rdN r.priv 0 1 = 1 then some (ownerOf m r.priv) else s.host.owner) ∧ t.bonded = s.bonded)
    ∧ (∀ c, v.st = .up → sends s p = true → reqCode s r.priv = c → 0 < c →
        ∃ t, Goes (.cmReq p r) s t ∧ t.outbox = s.outbox ++ [framed s p (.rej c)] ∧ t.host.qps = s.host.qps ∧ t.host.owner = s.host.owner)
    ∧ (privOk r.priv = false → reqCode s r.priv = 5)
    ∧ (privOk r.priv = true → rdN r.priv 0 1 = 1 → s.host.owner ≠ none → reqCode s r.priv = 1)
    ∧ (privOk r.priv = true → rdN r.priv 0 1 = 2 → (getPart s (rdN r.priv 1 1)).st ≠ .active → reqCode s r.priv = 2)
    ∧ (x.st = .connecting → x.owner = false → Goes (.cmRtu n) s (setQp q { x with st := .rts } s))
    ∧ (∀ o, x.st = .connecting → x.owner = true → s.host.owner = some o → smapWf Qp.reset s.host.qps = true →
        ∃ t, Goes (.cmRtu n) s t ∧ (getQp t q).st = .rts ∧ t.host.owner = some { o with rtuAt := some s.clk, pollAt := s.clk + 1200000 })
    ∧ ((x.st = .rts ∨ x.st = .connecting) → sends s x.port = true → smapWf Qp.reset s.host.qps = true →
        ∃ t, Goes (.cmDreq n) s t ∧ t.outbox = s.outbox ++ [said s q (.drep q)] ∧ (getQp t q).st = .closing ∧ (getQp t q).closeAt = some s.clk)
    ∧ (∀ a, x.dreqAt = some a →
        let freed (s : State) : State := setQp q Qp.reset { s with xfers := s.xfers.filter (fun x => decide (x.via ≠ .qp q)) }
        Goes (.cmDrep n) s (freed s) ∧ Goes (.qpDreqTimeout n) s (freed { s with clk := max s.clk (a + 1200000) }))

/-- Requests of hosts: the owner reads C-space by whole registers; a window of P0 is written and read as plaintext, any other through
sealed chunks, and a chunk that does not open changes nothing; what a check refuses changes no memory and takes the queue pair to ERROR
(17 R461, R463, R469, R470, R472, R473). -/
def Obligations.HostAccesses : Prop :=
  ∀ (s : State) (n : BitVec 12) (rkey : W32) (va : W64) (data : List Byte) (len : Nat),
    let q := n.toNat
    let w := getWin s (bits rkey.toNat 5 0)
    let p := w.part.toNat
    let base := if p = 0 then w.base + va.toNat else w.base + va.toNat / 4128 * 4096
    let clean (a k : Nat) : Prop := s.test.arm = false ∧ s.bonded.bad = [] ∧ smapWf 0 s.bonded.mem = true ∧
      (pagesOf a k).all (fun pg => !smapGet false s.bonded.wp pg) = true
    let wrote (t : State) (a : Nat) (bs : List Byte) : Prop :=
      ∀ y, smapGet 0 t.bonded.mem y = if a ≤ y ∧ y < a + bs.length then bs.getD (y - a) 0 else smapGet 0 s.bonded.mem y
    let failed (t : State) : Prop := (getQp t q).st = .error ∧ t.bonded.mem = s.bonded.mem ∧ t.cores = s.cores
    (getQp s q).st = .rts → smapWf Qp.reset s.host.qps = true → sends s (getQp s q).port = true →
    ((getQp s q).owner = true → va.toNat % 8 = 0 → len % 8 = 0 → len ≤ 4096 →
      ∃ t, (Goes (.cspaceRdmaRead n va len) s t ∧ (rkey = 0x10000 → Goes (.hostRdmaRead n rkey va len) s t)) ∧
        t.outbox = s.outbox ++ [said s q (.readReply q (cBytes s va.toNat (len / 8)))] ∧ t.bonded = s.bonded ∧ t.cores = s.cores)
    ∧ (((getQp s q).owner = false ∨ va.toNat % 8 ≠ 0 ∨ len % 8 ≠ 0 ∨ 4096 < len) → s.xfers = [] →
      ∃ t, Goes (.cspaceRdmaRead n va len) s t ∧ failed t ∧ t.outbox = s.outbox ++ [said s q (.nakAccess q), said s q (.dreq q)])
    ∧ (rkey ≠ 0x10000 → hostCheck s q rkey.toNat va.toNat data.length true = 0 → 0 < data.length → clean base (hostReach p va.toNat data.length).2 →
      (p = 0 → ∃ t, Goes (.hostRdmaWrite n rkey va data) s t ∧ wrote t base data ∧ t.outbox = s.outbox ++ [said s q (.ack q)] ∧ t.cores = s.cores)
      ∧ (p ≠ 0 → data.length = 4128 → s.xfers = [] → s.host.tagFail.count ≠ BitVec.allOnes 32 → ∃ t, Goes (.hostRdmaWrite n rkey va data) s t ∧
        match openChunk s p data with
        | some pt => pt.length = 4096 → wrote t base pt ∧ t.outbox = s.outbox ++ [said s q (.ack q)]
        | none => failed t ∧ t.host.tagFail.count = s.host.tagFail.count + 1))
    ∧ (rkey ≠ 0x10000 → hostCheck s q rkey.toNat va.toNat len false = 0 → clean base (hostReach p va.toNat len).2 →
      (∀ g ∈ granules base (hostReach p va.toNat len).2, isPoison s (g / 4096) = false) →
      (p = 0 → ∃ t, Goes (.hostRdmaRead n rkey va len) s t ∧ t.outbox = s.outbox ++ [said s q (.readReply q (bBytes s base len))] ∧
        t.bonded.mem = s.bonded.mem ∧ t.cores = s.cores)
      ∧ (∀ k, p ≠ 0 → len = 4128 → sealKey s p = some k →
        let iv := natLe 2 (chipNo s) ++ natLe 10 k.counter
        let x := gcmSeal k.material iv (natLe 1 p ++ natLe 4 k.keyid.toNat) (bBytes s base 4096)
        ∃ t, Goes (.hostRdmaRead n rkey va len) s t ∧ t.bonded.mem = s.bonded.mem ∧
          t.outbox = s.outbox ++ [said s q (.readReply q (x.1 ++ iv ++ natLe 4 k.keyid.toNat ++ x.2))]))
    ∧ (rkey ≠ 0x10000 → s.xfers = [] → s.bonded.attrBad = [] →
      (hostCheck s q rkey.toNat va.toNat data.length true ≠ 0 → ∃ t, Goes (.hostRdmaWrite n rkey va data) s t ∧ failed t)
      ∧ (hostCheck s q rkey.toNat va.toNat len false ≠ 0 → ∃ t, Goes (.hostRdmaRead n rkey va len) s t ∧ failed t))
    ∧ (∃ t, Goes (.unsupportedRdmaOp n) s t ∧ t.outbox = s.outbox ++ [said s q (.nakInvalid q)] ∧ t.bonded = s.bonded ∧ (getQp t q).st = .rts)

/-- AES-256-GCM opens what it seals (17 R469). -/
def Obligations.SealedBytesOpen : Prop :=
  ∀ (key iv aad pt : List Byte), key.length = 32 → iv.length = 12 →
    gcmOpen key iv aad (gcmSeal key iv aad pt).1 (gcmSeal key iv aad pt).2 = some pt

/-- The J9 as requester: RDMA_READ_RESPONSE lands where its descriptor says; ROCE_ACK advances the oldest write; ROCE_NAK for a
sequence error and ROCE_ACK_TIMEOUT retransmit until the retries are used up; then, or by another NAK, the queue pair goes to ERROR; CNP_RECEIVE halves the rate, at most once in 50 us, and CNP_RATE_RAISE raises it after 50 us without one (17 R463,
R466). -/
def Obligations.HostRequester : Prop :=
  ∀ (s : State) (n : BitVec 12) (data : List Byte),
    let q := n.toNat
    let v := getQp s q
    let failed (t : State) : Prop := (getQp t q).st = .error ∧ t.bonded = s.bonded ∧ t.cores = s.cores
    v.st = .rts → smapWf Qp.reset s.host.qps = true → sends s v.port = true →
    (∀ x c seq sub a k, s.xfers.find? (fun x => x.read && decide (x.via = .qp q) && decide (xferOut x ≠ 0)) = some x →
      (∀ y ∈ s.xfers, y.todo = []) → x.owner = .desc c seq sub → x.part = 0 →
      xferRuns s x = [(a, k)] → 0 < data.length → x.acked + data.length ≤ k → x.acked + data.length < x.total →
      (a + x.acked) % 32 + data.length ≤ 32 → bCheck s 0 (a + x.acked) true = 0 → isPoison s ((a + x.acked) / 4096) = false →
      smapGet false s.bonded.wp ((a + x.acked) / 4096) = false → s.test.arm = false →
      ∃ t, Goes (.rdmaReadResponse n data) s t ∧ t.bonded.mem = smapPut 0 s.bonded.mem (a + x.acked) data ∧ t.cores = s.cores ∧
        t.xfers = s.xfers.map (fun y => if y.uid = x.uid then { x with acked := x.acked + data.length, bytes := [] } else y))
    ∧ (∀ x, oldestWrite s q = some x → x.acked + 1 < x.total →
      ∃ t, Goes (.roceAck n) s t ∧ t.xfers = s.xfers.map (fun y => if y.uid = x.uid then { x with acked := x.acked + 1 } else y) ∧
        (getQp t q).retries = 0 ∧ (getQp t q).st = .rts ∧ t.bonded = s.bonded ∧ t.cores = s.cores)
    ∧ (v.retries < s.host.retry.toNat → ∃ t, Goes (.roceNak n true) s t ∧ t.outbox = s.outbox ++ [said s q (.resend q)] ∧ (getQp t q).st = .rts ∧
      (getQp t q).retries = v.retries + 1 ∧ t.bonded = s.bonded)
    ∧ (∀ seqErr, s.xfers = [] → (seqErr = false ∨ s.host.retry.toNat ≤ v.retries) → ∃ t, Goes (.roceNak n seqErr) s t ∧ failed t ∧
      t.outbox = s.outbox ++ [said s q (.dreq q)])
    ∧ (0 < qpOut s q → v.retries < s.host.retry.toNat → ∃ t, Goes (.roceAckTimeout n) s t ∧ t.outbox = s.outbox ++ [said s q (.resend q)] ∧
      (getQp t q).retries = v.retries + 1 ∧ t.clk = max s.clk (v.waitAt + 49152 * 2 ^ s.host.ackto.toNat / 10) ∧ t.bonded = s.bonded)
    ∧ (∀ o, s.xfers = [] → s.host.owner = some o → o.qp = q → s.tick.next = .fetching → s.host.retry.toNat ≤ v.retries →
      ∃ t, Goes (.roceAckTimeout n) s t ∧ failed t ∧ t.host.owner = none ∧ t.tick.next = .none)
    ∧ ((∀ a, v.cnpAt = some a → a + 60000 ≤ s.clk) → ∃ t, Goes (.cnpReceive n) s t ∧ (getQp t q).rate = max 1000000 (v.rate / 2) ∧
      (getQp t q).cnpAt = some s.clk ∧ (getHport t v.port).cnp = (getHport s v.port).cnp + 1)
    ∧ (∀ a, v.cnpAt = some a → s.clk < a + 60000 → ∃ t, Goes (.cnpReceive n) s t ∧ (getQp t q).rate = v.rate)
    ∧ (∃ t, Goes (.cnpRateRaise n) s t ∧ (getQp t q).rate = min 50000000 (v.rate + 2500000) ∧ t.clk = max s.clk (v.raiseAt + 60000) ∧ t.bonded = s.bonded)

/-- The owner session: a valid hello queues the owner report, a session with none for 1 s ends; signed reports and event records go to the
owner's areas, records in order (17 R464; 18 R492 to R494; 20 R533, R535). The signature is an opaque function (log 15). -/
def Obligations.OwnerSession : Prop :=
  ∀ (s : State) (o : Owner) (h : List Byte), s.host.owner = some o → (getQp s o.qp).st = .rts → smapWf Qp.reset s.host.qps = true →
    sends s (getQp s o.qp).port = true →
    (∀ a, o.hello = false → o.rtuAt = some a → ∃ t b, Goes (.ownerHelloPoll h) s t ∧
      t.outbox = s.outbox ++ [said s o.qp (.hostRead o.qp o.hsVa o.hsRkey 64)] ∧ t.clk = max s.clk o.pollAt ∧ t.bonded = s.bonded ∧
      t.secure.reports = s.secure.reports ++ (if helloOk h then [(0, b)] else []) ∧ (helloOk h = true → rdB b 0x20 32 = rdB h 32 32) ∧
      t.host.owner = some { o with pollAt := t.clk + 1200000, hello := helloOk h })
    ∧ (∀ a, o.hello = false → o.rtuAt = some a → s.xfers = [] → ∃ t, Goes .ownerHelloTimeout s t ∧ t.host.owner = none ∧
      (getQp t o.qp).st = .error ∧ t.clk = max s.clk (a + 1200000000) ∧ t.outbox = s.outbox ++ [said s o.qp (.dreq o.qp)])
    ∧ (∀ slot body rest, s.secure.reports = (slot, body) :: rest → rdN body 6 1 = 1 → ∃ t, Goes .attestationReportSigned s t ∧
      t.secure.reports = rest ∧
      let b := wrB body 0x10 (natLe 8 s.tick.now.toNat)
      t.outbox = s.outbox ++ [said s o.qp (.hostWrite o.qp (BitVec.ofNat 64 (o.hsVa.toNat + reportOff slot)) o.hsRkey
        (b ++ padTo 49856 ((Config.slhSign Config.dik b).take 49856)))])
    ∧ (o.done = true → belfryRuns s = true → s.events.lost = 0 → ∃ t, Goes .eventRecordWrite s t ∧ t.events.queue = [] ∧
      t.outbox = s.outbox ++ s.events.queue.map (fun r =>
        said s o.qp (.hostWrite o.qp (BitVec.ofNat 64 (o.evVa.toNat + r.seq.toNat % (o.evLen / 32) * 32)) o.evRkey (eventBytes r))) ∧ t.bonded = s.bonded)

/-! ### Events, memory, words, reset, invariant -/

/-- Events: while a session is complete a record joins the queue with the next number, at most 256 of a code in a tick and 4,096 waiting;
the rest are counted; with no session only the number advances (20 R533, R535, R536). -/
def Obligations.EventsAreQueued : Prop :=
  ∀ (s : State) (kind idx code arg : Nat) (part : Option Nat),
    let e := s.events
    let k := smapGet 0 e.perCode code
    let t := raise kind idx part code arg s
    let r : EvRec := { seq := e.next, tick := s.tick.now, unit := BitVec.ofNat 16 (kind * 4096 + idx % 4096), inj := false, pv := part.isSome,
                       part := BitVec.ofNat 4 (part.getD 0), code := BitVec.ofNat 16 code, arg := BitVec.ofNat 64 arg }
    (ownerDone s = true → k < 256 → e.queue.length < 4096 → t.events.queue = e.queue ++ [r] ∧ t.events.next = e.next + 1 ∧
        t.events.dropped = e.dropped ∧ t.events.suppressed = e.suppressed)
    ∧ (ownerDone s = true → k < 256 → 4096 ≤ e.queue.length → e.dropped.count ≠ BitVec.allOnes 32 → t.events.queue = e.queue ∧
        t.events.dropped.count = e.dropped.count + 1 ∧ t.events.next = e.next)
    ∧ (256 ≤ k → e.suppressed.count ≠ BitVec.allOnes 32 → t.events.queue = e.queue ∧ t.events.suppressed.count = e.suppressed.count + 1 ∧
        t.events.next = e.next)
    ∧ (ownerDone s = false → k < 256 → t.events.queue = e.queue ∧ t.events.next = e.next + 1)
    ∧ t.bonded = s.bonded ∧ t.cores = s.cores ∧ t.parts = s.parts

/-- A store of bytes reads back and leaves every other byte; the zeroing of a granule leaves every byte outside it (09 R233, R237; 13
R380). Zero where nothing was written is the model's choice (log 10). -/
def Obligations.MemoryReadsBack : Prop :=
  ∀ (s : State) (a g : Nat) (bs : List Byte), Memory.wf s = true →
    bBytes (bPut a bs s) a bs.length = bs
    ∧ (∀ x, smapGet 0 (bPut a bs s).bonded.mem x = if a ≤ x ∧ x < a + bs.length then bs.getD (x - a) 0 else smapGet 0 s.bonded.mem x)
    ∧ (∀ x, smapGet 0 (zeroGranule g s).bonded.mem x = if x / 0x200000 = g then 0 else smapGet 0 s.bonded.mem x)

/-- No bit of an instruction is lost: words of formats S, B, M, V, D and Y are equal only where the operation, the predicate and every
operand are, and the operation is read back from its group and function (03 R65, Tables 3-8, 3-11). -/
def Obligations.WordsAreDistinct : Prop :=
  ∀ (o o' : Op) (h h' : Head),
    (∀ f f', wordS o h f = wordS o' h' f' → o = o' ∧ h = h' ∧ f = f')
    ∧ (∀ f f', wordB o h f = wordB o' h' f' → o = o' ∧ h = h' ∧ f = f')
    ∧ (∀ f f', wordM o h f = wordM o' h' f' → o = o' ∧ h = h' ∧ f = f')
    ∧ (∀ f f', wordV o h f = wordV o' h' f' → o = o' ∧ h = h' ∧ f = f')
    ∧ (∀ f f', wordD o h f = wordD o' h' f' → o = o' ∧ h = h' ∧ f = f')
    ∧ (∀ f f', wordY o h f = wordY o' h' f' → o = o' ∧ h = h' ∧ f = f')

/-- Reset: the values the spec gives, and a state in canonical form (13 R341, R364; 16 R443, R454; 17 R477; 18 R487; 19 R520; 20 R531,
R537). -/
def Obligations.ResetState : Prop :=
  let s := State.reset
  Inv s ∧ s.pending = [] ∧ s.boot = .off ∧ s.bonded.mem = [] ∧ s.bonded.poison = [] ∧ s.bonded.wp = [] ∧ s.outbox = []
    ∧ s.tick.now = 0 ∧ s.tick.periodUs = 1000 ∧ s.tick.closewUs = 20 ∧ s.tick.pleadUs = 200
    ∧ (getPart s 0).st = .active ∧ (∀ p, 0 < p → p < 16 → (getPart s p).st = .free ∧ (getPart s p).exts = [] ∧ (getPart s p).keys = Keys.reset)
    ∧ (∀ n, n < 64 → (getWin s n).openW = false) ∧ (∀ p, (getPort s p).st = .disabled ∧ (getPort s p).serth = 4096 ∧ (getPort s p).subst = 31)
    ∧ (∀ p, (getHport s p).st = .training ∧ (getHport s p).en = true) ∧ (∀ q, q < 4096 → (getQp s q).st = .free)
    ∧ s.host.dscp = 26 ∧ s.host.cnpDscp = 48 ∧ s.host.ackto = 6 ∧ s.host.retry = 3 ∧ s.host.ecn = true
    ∧ s.power.quadEn = 0x1FFFFFF ∧ s.power.links = true ∧ s.power.flash = true
    ∧ s.test.disp = 500 ∧ s.test.rem = 200 ∧ s.test.dma = 500 ∧ s.test.net = 50 ∧ s.test.arm = false
    ∧ s.events.next = 1 ∧ s.events.queue = [] ∧ s.links.xdim = 0 ∧ s.links.ydim = 0

/-- Every step keeps the canonical forms: bonded memory, the cores, the slices, the partitions, the quads, the queue pairs, the token
buckets (the model's own form of its state). It is the model's own form (log 10). -/
def Obligations.StepKeepsInv : Prop :=
  ∀ s t : State, Inv s → step s = .next t → Inv t
end

