-- ==== Sys2Proof/Laws/SMap.lean ====
section
/-! SUPPORT. Sparse maps in canonical form: what a read gives after a write, and that writes keep the form. -/

namespace Sys2Proof.Laws

open Sys2Proof Sys2Proof.Machine

variable {α : Type} [DecidableEq α]

/-- The canonical form, said once: every listed key lies above `lo`, keys rise, no default is listed. -/
def Canon (d : α) : Nat → SMap α → Prop
  | _, [] => True
  | lo, (k, v) :: t => lo ≤ k ∧ v ≠ d ∧ Canon d (k + 1) t

omit [DecidableEq α] in
theorem Canon.weaken {d : α} {lo lo' : Nat} {m : SMap α} (h : Canon d lo m) (hl : lo' ≤ lo) : Canon d lo' m := by
  cases m with
  | nil => trivial
  | cons e t => exact ⟨Nat.le_trans hl h.1, h.2⟩

theorem canon_of_wf (d : α) : ∀ m : SMap α, smapWf d m = true → Canon d 0 m
  | [], _ => trivial
  | [(k, v)], h => by simpa [smapWf, Canon] using h
  | (k, v) :: (k', v') :: t, h => by
    simp only [smapWf, Bool.and_eq_true, decide_eq_true_eq] at h
    have ih := canon_of_wf d _ h.2
    exact ⟨Nat.zero_le _, h.1.1, h.1.2, ih.2⟩

theorem wf_of_canon (d : α) : ∀ (m : SMap α) (lo : Nat), Canon d lo m → smapWf d m = true
  | [], _, _ => rfl
  | [(k, v)], _, h => by simpa [smapWf] using h.2.1
  | (k, v) :: (k', v') :: t, lo, h => by
    simp only [smapWf, Bool.and_eq_true, decide_eq_true_eq]
    exact ⟨⟨h.2.1, h.2.2.1⟩, wf_of_canon d _ (k + 1) h.2.2⟩

theorem wf_iff_canon (d : α) (m : SMap α) : smapWf d m = true ↔ Canon d 0 m :=
  ⟨canon_of_wf d m, wf_of_canon d m 0⟩

omit [DecidableEq α] in
theorem get_below {d : α} {lo : Nat} {m : SMap α} (h : Canon d lo m) {n : Nat} (hn : n < lo) : smapGet d m n = d := by
  cases m with
  | nil => rfl
  | cons e t =>
    obtain ⟨k, v⟩ := e
    have := h.1
    simp [smapGet, show n ≠ k by omega, show n < k by omega]

theorem canon_set {d : α} : ∀ {m : SMap α} {lo : Nat} (n : Nat) (v : α), Canon d lo m → lo ≤ n → Canon d lo (smapSet d m n v)
  | [], lo, n, v, _, hl => by
    by_cases hv : v = d <;> simp [smapSet, hv, Canon, hl]
  | (k, w) :: t, lo, n, v, h, hl => by
    obtain ⟨h1, h2, h3⟩ := h
    simp only [smapSet]
    split
    · split
      · exact ⟨h1, h2, h3⟩
      · rename_i hv
        exact ⟨hl, hv, ⟨by omega, h2, h3⟩⟩
    · split
      · split
        · exact h3.weaken (by omega)
        · rename_i hv
          exact ⟨hl, hv, h3.weaken (by omega)⟩
      · exact ⟨h1, h2, canon_set n v h3 (by omega)⟩

theorem get_set {d : α} : ∀ {m : SMap α} {lo : Nat} (n n' : Nat) (v : α), Canon d lo m →
    smapGet d (smapSet d m n v) n' = if n' = n then v else smapGet d m n'
  | [], lo, n, n', v, _ => by
    by_cases hv : v = d
    · simp [smapSet, hv, smapGet]
    · by_cases h : n' = n <;> simp [smapSet, hv, smapGet, h]
  | (k, w) :: t, lo, n, n', v, h => by
    obtain ⟨h1, h2, h3⟩ := h
    have hb : ∀ x, x ≤ k → smapGet d t x = d := fun x hx => get_below h3 (by omega)
    simp only [smapSet]
    split
    · rename_i hnk
      split
      · rename_i hv
        by_cases h' : n' = n
        · simp [smapGet, h', hv, hnk, show n ≠ k by omega]
        · simp [h']
      · simp only [smapGet]
        by_cases h' : n' = n
        · simp [h']
        · simp only [h', if_false]
          by_cases h'' : n' < n
          · simp [h'', show n' ≠ k by omega, show n' < k by omega]
          · simp [h'']
    · split
      · rename_i hnk heq
        subst heq
        split
        · rename_i hv
          by_cases h' : n' = n
          · simp [h', hv, hb n (Nat.le_refl _)]
          · simp only [smapGet, h', if_false]
            split
            · exact hb _ (by omega)
            · rfl
        · simp [smapGet]
          by_cases h' : n' = n <;> simp [h']
      · rename_i hnk heq
        simp only [smapGet]
        by_cases h' : n' = k
        · simp [h', show ¬ k = n from fun e => heq e.symm]
        · simp only [h', if_false]
          by_cases h'' : n' < k
          · simp [h'', show n' ≠ n by omega]
          · simp only [h'', if_false]
            exact get_set n n' v h3

/-- A write after a write to the same key. -/
theorem set_set {d : α} : ∀ {m : SMap α} {lo : Nat} (n : Nat) (v v' : α), Canon d lo m →
    smapSet d (smapSet d m n v) n v' = smapSet d m n v'
  | [], lo, n, v, v', _ => by
    by_cases hv : v = d <;> by_cases hv' : v' = d <;> simp [smapSet, hv, hv']
  | (k, w) :: t, lo, n, v, v', h => by
    obtain ⟨h1, h2, h3⟩ := h
    simp only [smapSet]
    split
    · rename_i hnk
      split
      · simp [smapSet, hnk]
      · simp [smapSet]
    · split
      · rename_i hnk heq
        subst heq
        split
        · rename_i hv
          cases t with
          | nil => by_cases hv' : v' = d <;> simp [smapSet, hv']
          | cons e t =>
            obtain ⟨k', w'⟩ := e
            have := h3.1
            by_cases hv' : v' = d <;> simp [smapSet, hv', show n < k' by omega]
        · simp [smapSet]
      · rename_i hnk heq
        simp [smapSet, hnk, heq, set_set n v v' h3]

omit [DecidableEq α] in
theorem canon_below {d : α} : ∀ {m : SMap α} {lo : Nat} (n : Nat), Canon d lo m → Canon d lo (smapBelow m n)
  | [], _, _, _ => trivial
  | (k, w) :: t, lo, n, h => by
    simp only [smapBelow, List.filter_cons]
    split
    · exact ⟨h.1, h.2.1, canon_below n h.2.2⟩
    · exact (canon_below n h.2.2).weaken (by have := h.1; omega)

omit [DecidableEq α] in
theorem canon_from {d : α} : ∀ {m : SMap α} {lo : Nat} (n : Nat), Canon d lo m → Canon d (max lo n) (smapFrom m n)
  | [], _, _, _ => trivial
  | (k, w) :: t, lo, n, h => by
    simp only [smapFrom, List.filter_cons]
    split
    · rename_i hk
      have hk : n ≤ k := of_decide_eq_true hk
      refine ⟨by have := h.1; omega, h.2.1, ?_⟩
      exact (canon_from (lo := k + 1) n h.2.2).weaken (by omega)
    · exact (canon_from (lo := k + 1) n h.2.2).weaken (by have := h.1; omega)

theorem canon_of : ∀ {d : α} (vs : List α) (b : Nat), Canon d b (smapOf d b vs)
  | _, [], _ => trivial
  | d, v :: vs, b => by
    simp only [smapOf]
    split
    · exact (canon_of vs (b + 1)).weaken (by omega)
    · rename_i hv
      exact ⟨Nat.le_refl _, hv, canon_of vs (b + 1)⟩

/-- Every listed key lies below `hi`. -/
def Under (hi : Nat) (m : SMap α) : Prop := ∀ e ∈ m, e.1 < hi

omit [DecidableEq α] in
theorem under_below (m : SMap α) (n : Nat) : Under n (smapBelow m n) := by
  intro e he
  simpa [smapBelow] using (List.mem_filter.mp he).2

theorem under_of (d : α) : ∀ (vs : List α) (b : Nat), Under (b + vs.length) (smapOf d b vs)
  | [], _ => by intro e he; cases he
  | v :: vs, b => by
    have ih := under_of d vs (b + 1)
    intro e he
    simp only [smapOf] at he
    split at he
    · have := ih e he; simp only [List.length_cons]; omega
    · rcases List.mem_cons.mp he with rfl | he
      · simp
      · have := ih e he; simp only [List.length_cons]; omega

omit [DecidableEq α] in
theorem canon_append {d : α} : ∀ {m m' : SMap α} {lo hi : Nat}, Canon d lo m → Under hi m → Canon d hi m' → lo ≤ hi →
    Canon d lo (m ++ m')
  | [], _, _, _, _, _, h', hl => h'.weaken hl
  | (k, v) :: t, m', lo, hi, h, hu, h', hl => by
    have hk : k < hi := hu (k, v) (by simp)
    exact ⟨h.1, h.2.1, canon_append h.2.2 (fun e he => hu e (by simp [he])) h' (by omega)⟩

/-- Writing a run keeps the canonical form. -/
theorem canon_put {d : α} {m : SMap α} (b : Nat) (vs : List α) (h : Canon d 0 m) : Canon d 0 (smapPut d m b vs) := by
  refine canon_append (hi := b + vs.length) ?_ ?_ ((canon_from _ h).weaken (by omega)) (by omega)
  · exact canon_append (hi := b) (canon_below b h) (under_below m b) (canon_of vs b) (by omega)
  · intro e he
    rcases List.mem_append.mp he with he | he
    · have := under_below m b e he; omega
    · exact under_of d vs b e he

omit [DecidableEq α] in
/-- Clearing a run keeps the canonical form. -/
theorem canon_clear {d : α} {m : SMap α} (lo hi : Nat) (hl : lo ≤ hi) (h : Canon d 0 m) : Canon d 0 (smapClear m lo hi) :=
  canon_append (hi := lo) (canon_below lo h) (under_below m lo) ((canon_from hi h).weaken (by omega)) (by omega)

omit [DecidableEq α] in
theorem get_append {d : α} : ∀ {m m' : SMap α} {lo hi : Nat}, Canon d lo m → Under hi m → Canon d hi m' → ∀ n,
    smapGet d (m ++ m') n = if n < hi then smapGet d m n else smapGet d m' n
  | [], m', _, hi, _, _, h', n => by
    by_cases hn : n < hi
    · simp [smapGet, hn, get_below h' hn]
    · simp [hn]
  | (k, v) :: t, m', lo, hi, h, hu, h', n => by
    have hk : k < hi := hu (k, v) (by simp)
    have ih := get_append h.2.2 (fun e he => hu e (by simp [he])) h' n
    simp only [List.cons_append, smapGet]
    split
    · rename_i e; simp [e, hk]
    · split
      · simp [show n < hi by omega]
      · exact ih

omit [DecidableEq α] in
theorem get_below_filter {d : α} : ∀ {m : SMap α} {lo : Nat} (b n : Nat), Canon d lo m → n < b →
    smapGet d (smapBelow m b) n = smapGet d m n
  | [], _, _, _, _, _ => rfl
  | (k, v) :: t, lo, b, n, h, hn => by
    simp only [smapBelow, List.filter_cons]
    split
    · simp only [smapGet]
      split
      · rfl
      · split
        · rfl
        · exact get_below_filter b n h.2.2 hn
    · rename_i hk
      have hk : ¬ k < b := fun e => hk (decide_eq_true e)
      have : smapGet d (smapBelow t b) n = d :=
        get_below (lo := k + 1) (canon_below b h.2.2) (by omega)
      simp only [smapBelow] at this
      simp [this, smapGet, show n ≠ k by omega, show n < k by omega]

omit [DecidableEq α] in
theorem get_from_filter {d : α} : ∀ {m : SMap α} {lo : Nat} (b n : Nat), Canon d lo m → b ≤ n →
    smapGet d (smapFrom m b) n = smapGet d m n
  | [], _, _, _, _, _ => rfl
  | (k, v) :: t, lo, b, n, h, hn => by
    simp only [smapFrom, List.filter_cons]
    split
    · simp only [smapGet]
      split
      · rfl
      · split
        · rfl
        · exact get_from_filter b n h.2.2 hn
    · rename_i hk
      have hk : ¬ b ≤ k := fun e => hk (decide_eq_true e)
      simp only [smapGet, show n ≠ k by omega, show ¬ n < k by omega, if_false]
      exact get_from_filter b n h.2.2 hn

theorem get_of {d : α} : ∀ (vs : List α) (b n : Nat), smapGet d (smapOf d b vs) n = if b ≤ n then vs.getD (n - b) d else d
  | [], b, n => by simp [smapOf, smapGet]
  | v :: vs, b, n => by
    have ih := get_of (d := d) vs (b + 1) n
    simp only [smapOf]
    split
    · rename_i hv
      rw [ih]
      by_cases h : b + 1 ≤ n
      · simp only [h, if_true, show b ≤ n by omega, show n - b = (n - (b + 1)) + 1 by omega, List.getD_cons_succ]
      · by_cases hb : b = n
        · subst hb; simp [hv]
        · simp [h, show ¬ b ≤ n by omega]
    · simp only [smapGet]
      split
      · rename_i e; subst e; simp
      · split
        · simp [show ¬ b ≤ n by omega]
        · rw [ih]
          simp only [show b + 1 ≤ n by omega, show b ≤ n by omega, if_true, show n - b = (n - (b + 1)) + 1 by omega,
            List.getD_cons_succ]

/-- A read after a write of a run: the bytes written inside it, the old ones outside it. -/
theorem get_put {d : α} {m : SMap α} (b : Nat) (vs : List α) (h : Canon d 0 m) (n : Nat) :
    smapGet d (smapPut d m b vs) n = if b ≤ n ∧ n < b + vs.length then vs.getD (n - b) d else smapGet d m n := by
  have c1 := canon_below b h
  have u1 := under_below m b
  have c2 : Canon d b (smapOf d b vs) := canon_of vs b
  have c12 : Canon d 0 (smapBelow m b ++ smapOf d b vs) := canon_append c1 u1 c2 (by omega)
  have u12 : Under (b + vs.length) (smapBelow m b ++ smapOf d b vs) := by
    intro e he
    rcases List.mem_append.mp he with he | he
    · have := u1 e he; omega
    · exact under_of d vs b e he
  have c3 : Canon d (b + vs.length) (smapFrom m (b + vs.length)) := (canon_from _ h).weaken (by omega)
  rw [smapPut, get_append c12 u12 c3, get_append c1 u1 c2, get_of]
  by_cases h1 : n < b
  · simp [h1, show n < b + vs.length by omega, show ¬ b ≤ n by omega, get_below_filter b n h h1]
  · by_cases h2 : n < b + vs.length
    · simp [h1, h2, show b ≤ n by omega]
    · have := get_from_filter (b + vs.length) n h (by omega)
      simp [h2, this]

omit [DecidableEq α] in
theorem walk_eq {d : α} : ∀ (n : Nat) {m : SMap α} {a : Nat}, Canon d a m →
    smapWalk d m a n = (List.range n).map (fun i => smapGet d m (a + i))
  | 0, _, _, _ => by simp [smapWalk]
  | n + 1, [], a, h => by
    have ih := walk_eq (d := d) n (m := []) (a := a + 1) trivial
    simp only [smapWalk, ih, List.range_succ_eq_map, List.map_cons, List.map_map]
    simp [smapGet, Function.comp_def]
  | n + 1, (k, v) :: t, a, h => by
    obtain ⟨h1, h2, h3⟩ := h
    simp only [smapWalk]
    split
    · rename_i hk
      subst hk
      rw [walk_eq n h3, List.range_succ_eq_map, List.map_cons, List.map_map]
      congr 1
      · simp [smapGet]
      · apply List.map_congr_left
        intro i _
        simp only [Function.comp_apply, smapGet, show k + i.succ ≠ k by omega, show ¬ k + i.succ < k by omega, if_false]
        congr 1; omega
    · rename_i hk
      rw [walk_eq n (m := (k, v) :: t) (a := a + 1) ⟨by omega, h2, h3⟩, List.range_succ_eq_map, List.map_cons, List.map_map]
      congr 1
      · simp [smapGet, show a ≠ k by omega, show a < k by omega]
      · apply List.map_congr_left
        intro i _
        simp only [Function.comp_apply, Nat.succ_eq_add_one]
        congr 1; omega

omit [DecidableEq α] in
/-- A run is the reads of its keys. -/
theorem run_eq {d : α} {m : SMap α} (a n : Nat) (h : Canon d 0 m) :
    smapRun d m a n = (List.range n).map (fun i => smapGet d m (a + i)) := by
  rw [smapRun, walk_eq n ((canon_from a h).weaken (by omega))]
  apply List.map_congr_left
  intro i _
  exact get_from_filter a (a + i) h (by omega)

end Sys2Proof.Laws
end

