-- ==== Sys2Proof/Laws/State.lean ====
section
/-! SUPPORT. What each update of the state leaves as it was: one lemma a field. -/

namespace Sys2Proof.Laws

open Sys2Proof Sys2Proof.Machine

variable (s : State)
section setCore
variable (n : Nat) (c : Core)
@[simp] theorem setCore_pending : (setCore n c s).pending = s.pending := rfl
@[simp] theorem setCore_clk : (setCore n c s).clk = s.clk := rfl
@[simp] theorem setCore_free : (setCore n c s).free = s.free := rfl
@[simp] theorem setCore_nuid : (setCore n c s).nuid = s.nuid := rfl
@[simp] theorem setCore_outbox : (setCore n c s).outbox = s.outbox := rfl
@[simp] theorem setCore_boot : (setCore n c s).boot = s.boot := rfl
@[simp] theorem setCore_fuseLo : (setCore n c s).fuseLo = s.fuseLo := rfl
@[simp] theorem setCore_fuseHi : (setCore n c s).fuseHi = s.fuseHi := rfl
@[simp] theorem setCore_bonded : (setCore n c s).bonded = s.bonded := rfl
@[simp] theorem setCore_parts : (setCore n c s).parts = s.parts := rfl
@[simp] theorem setCore_windows : (setCore n c s).windows = s.windows := rfl
@[simp] theorem setCore_tick : (setCore n c s).tick = s.tick := rfl
@[simp] theorem setCore_conf : (setCore n c s).conf = s.conf := rfl
@[simp] theorem setCore_jobs : (setCore n c s).jobs = s.jobs := rfl
@[simp] theorem setCore_images : (setCore n c s).images = s.images := rfl
@[simp] theorem setCore_pools : (setCore n c s).pools = s.pools := rfl
@[simp] theorem setCore_kvPools : (setCore n c s).kvPools = s.kvPools := rfl
@[simp] theorem setCore_seqs : (setCore n c s).seqs = s.seqs := rfl
@[simp] theorem setCore_seqRecs : (setCore n c s).seqRecs = s.seqRecs := rfl
@[simp] theorem setCore_leaves : (setCore n c s).leaves = s.leaves := rfl
@[simp] theorem setCore_rings : (setCore n c s).rings = s.rings := rfl
@[simp] theorem setCore_layers : (setCore n c s).layers = s.layers := rfl
@[simp] theorem setCore_routes : (setCore n c s).routes = s.routes := rfl
@[simp] theorem setCore_xfers : (setCore n c s).xfers = s.xfers := rfl
@[simp] theorem setCore_buckets : (setCore n c s).buckets = s.buckets := rfl
@[simp] theorem setCore_waiters : (setCore n c s).waiters = s.waiters := rfl
@[simp] theorem setCore_links : (setCore n c s).links = s.links := rfl
@[simp] theorem setCore_host : (setCore n c s).host = s.host := rfl
@[simp] theorem setCore_power : (setCore n c s).power = s.power := rfl
@[simp] theorem setCore_secure : (setCore n c s).secure = s.secure := rfl
@[simp] theorem setCore_events : (setCore n c s).events = s.events := rfl
@[simp] theorem setCore_test : (setCore n c s).test = s.test := rfl
@[simp] theorem setCore_digReqs : (setCore n c s).digReqs = s.digReqs := rfl
@[simp] theorem setCore_memos : (setCore n c s).memos = s.memos := rfl
@[simp] theorem setCore_flash : (setCore n c s).flash = s.flash := rfl
@[simp] theorem setCore_flashRows : (setCore n c s).flashRows = s.flashRows := rfl
@[simp] theorem setCore_tierMem : (setCore n c s).tierMem = s.tierMem := rfl
@[simp] theorem setCore_tap : (setCore n c s).tap = s.tap := rfl
end setCore

section modCore
variable (n : Nat) (f : Core → Core)
@[simp] theorem modCore_pending : (modCore n f s).pending = s.pending := rfl
@[simp] theorem modCore_clk : (modCore n f s).clk = s.clk := rfl
@[simp] theorem modCore_free : (modCore n f s).free = s.free := rfl
@[simp] theorem modCore_nuid : (modCore n f s).nuid = s.nuid := rfl
@[simp] theorem modCore_outbox : (modCore n f s).outbox = s.outbox := rfl
@[simp] theorem modCore_boot : (modCore n f s).boot = s.boot := rfl
@[simp] theorem modCore_fuseLo : (modCore n f s).fuseLo = s.fuseLo := rfl
@[simp] theorem modCore_fuseHi : (modCore n f s).fuseHi = s.fuseHi := rfl
@[simp] theorem modCore_bonded : (modCore n f s).bonded = s.bonded := rfl
@[simp] theorem modCore_parts : (modCore n f s).parts = s.parts := rfl
@[simp] theorem modCore_windows : (modCore n f s).windows = s.windows := rfl
@[simp] theorem modCore_tick : (modCore n f s).tick = s.tick := rfl
@[simp] theorem modCore_conf : (modCore n f s).conf = s.conf := rfl
@[simp] theorem modCore_jobs : (modCore n f s).jobs = s.jobs := rfl
@[simp] theorem modCore_images : (modCore n f s).images = s.images := rfl
@[simp] theorem modCore_pools : (modCore n f s).pools = s.pools := rfl
@[simp] theorem modCore_kvPools : (modCore n f s).kvPools = s.kvPools := rfl
@[simp] theorem modCore_seqs : (modCore n f s).seqs = s.seqs := rfl
@[simp] theorem modCore_seqRecs : (modCore n f s).seqRecs = s.seqRecs := rfl
@[simp] theorem modCore_leaves : (modCore n f s).leaves = s.leaves := rfl
@[simp] theorem modCore_rings : (modCore n f s).rings = s.rings := rfl
@[simp] theorem modCore_layers : (modCore n f s).layers = s.layers := rfl
@[simp] theorem modCore_routes : (modCore n f s).routes = s.routes := rfl
@[simp] theorem modCore_xfers : (modCore n f s).xfers = s.xfers := rfl
@[simp] theorem modCore_buckets : (modCore n f s).buckets = s.buckets := rfl
@[simp] theorem modCore_waiters : (modCore n f s).waiters = s.waiters := rfl
@[simp] theorem modCore_links : (modCore n f s).links = s.links := rfl
@[simp] theorem modCore_host : (modCore n f s).host = s.host := rfl
@[simp] theorem modCore_power : (modCore n f s).power = s.power := rfl
@[simp] theorem modCore_secure : (modCore n f s).secure = s.secure := rfl
@[simp] theorem modCore_events : (modCore n f s).events = s.events := rfl
@[simp] theorem modCore_test : (modCore n f s).test = s.test := rfl
@[simp] theorem modCore_digReqs : (modCore n f s).digReqs = s.digReqs := rfl
@[simp] theorem modCore_memos : (modCore n f s).memos = s.memos := rfl
@[simp] theorem modCore_flash : (modCore n f s).flash = s.flash := rfl
@[simp] theorem modCore_flashRows : (modCore n f s).flashRows = s.flashRows := rfl
@[simp] theorem modCore_tierMem : (modCore n f s).tierMem = s.tierMem := rfl
@[simp] theorem modCore_tap : (modCore n f s).tap = s.tap := rfl
end modCore

section setSlice
variable (n : Nat) (v : Slice)
@[simp] theorem setSlice_pending : (setSlice n v s).pending = s.pending := rfl
@[simp] theorem setSlice_clk : (setSlice n v s).clk = s.clk := rfl
@[simp] theorem setSlice_free : (setSlice n v s).free = s.free := rfl
@[simp] theorem setSlice_nuid : (setSlice n v s).nuid = s.nuid := rfl
@[simp] theorem setSlice_outbox : (setSlice n v s).outbox = s.outbox := rfl
@[simp] theorem setSlice_boot : (setSlice n v s).boot = s.boot := rfl
@[simp] theorem setSlice_fuseLo : (setSlice n v s).fuseLo = s.fuseLo := rfl
@[simp] theorem setSlice_fuseHi : (setSlice n v s).fuseHi = s.fuseHi := rfl
@[simp] theorem setSlice_cores : (setSlice n v s).cores = s.cores := rfl
@[simp] theorem setSlice_parts : (setSlice n v s).parts = s.parts := rfl
@[simp] theorem setSlice_windows : (setSlice n v s).windows = s.windows := rfl
@[simp] theorem setSlice_tick : (setSlice n v s).tick = s.tick := rfl
@[simp] theorem setSlice_conf : (setSlice n v s).conf = s.conf := rfl
@[simp] theorem setSlice_jobs : (setSlice n v s).jobs = s.jobs := rfl
@[simp] theorem setSlice_images : (setSlice n v s).images = s.images := rfl
@[simp] theorem setSlice_pools : (setSlice n v s).pools = s.pools := rfl
@[simp] theorem setSlice_kvPools : (setSlice n v s).kvPools = s.kvPools := rfl
@[simp] theorem setSlice_seqs : (setSlice n v s).seqs = s.seqs := rfl
@[simp] theorem setSlice_seqRecs : (setSlice n v s).seqRecs = s.seqRecs := rfl
@[simp] theorem setSlice_leaves : (setSlice n v s).leaves = s.leaves := rfl
@[simp] theorem setSlice_rings : (setSlice n v s).rings = s.rings := rfl
@[simp] theorem setSlice_layers : (setSlice n v s).layers = s.layers := rfl
@[simp] theorem setSlice_routes : (setSlice n v s).routes = s.routes := rfl
@[simp] theorem setSlice_xfers : (setSlice n v s).xfers = s.xfers := rfl
@[simp] theorem setSlice_buckets : (setSlice n v s).buckets = s.buckets := rfl
@[simp] theorem setSlice_waiters : (setSlice n v s).waiters = s.waiters := rfl
@[simp] theorem setSlice_links : (setSlice n v s).links = s.links := rfl
@[simp] theorem setSlice_host : (setSlice n v s).host = s.host := rfl
@[simp] theorem setSlice_power : (setSlice n v s).power = s.power := rfl
@[simp] theorem setSlice_secure : (setSlice n v s).secure = s.secure := rfl
@[simp] theorem setSlice_events : (setSlice n v s).events = s.events := rfl
@[simp] theorem setSlice_test : (setSlice n v s).test = s.test := rfl
@[simp] theorem setSlice_digReqs : (setSlice n v s).digReqs = s.digReqs := rfl
@[simp] theorem setSlice_memos : (setSlice n v s).memos = s.memos := rfl
@[simp] theorem setSlice_flash : (setSlice n v s).flash = s.flash := rfl
@[simp] theorem setSlice_flashRows : (setSlice n v s).flashRows = s.flashRows := rfl
@[simp] theorem setSlice_tierMem : (setSlice n v s).tierMem = s.tierMem := rfl
@[simp] theorem setSlice_tap : (setSlice n v s).tap = s.tap := rfl
@[simp] theorem setSlice_bonded_mem : (setSlice n v s).bonded.mem = s.bonded.mem := rfl
@[simp] theorem setSlice_bonded_bad : (setSlice n v s).bonded.bad = s.bonded.bad := rfl
@[simp] theorem setSlice_bonded_gran : (setSlice n v s).bonded.gran = s.bonded.gran := rfl
@[simp] theorem setSlice_bonded_poison : (setSlice n v s).bonded.poison = s.bonded.poison := rfl
@[simp] theorem setSlice_bonded_wp : (setSlice n v s).bonded.wp = s.bonded.wp := rfl
@[simp] theorem setSlice_bonded_attrBad : (setSlice n v s).bonded.attrBad = s.bonded.attrBad := rfl
@[simp] theorem setSlice_bonded_poisoned : (setSlice n v s).bonded.poisoned = s.bonded.poisoned := rfl
@[simp] theorem setSlice_bonded_wayDone : (setSlice n v s).bonded.wayDone = s.bonded.wayDone := rfl
@[simp] theorem setSlice_bonded_remapList : (setSlice n v s).bonded.remapList = s.bonded.remapList := rfl
end setSlice

section modSlice
variable (n : Nat) (f : Slice → Slice)
@[simp] theorem modSlice_pending : (modSlice n f s).pending = s.pending := rfl
@[simp] theorem modSlice_clk : (modSlice n f s).clk = s.clk := rfl
@[simp] theorem modSlice_free : (modSlice n f s).free = s.free := rfl
@[simp] theorem modSlice_nuid : (modSlice n f s).nuid = s.nuid := rfl
@[simp] theorem modSlice_outbox : (modSlice n f s).outbox = s.outbox := rfl
@[simp] theorem modSlice_boot : (modSlice n f s).boot = s.boot := rfl
@[simp] theorem modSlice_fuseLo : (modSlice n f s).fuseLo = s.fuseLo := rfl
@[simp] theorem modSlice_fuseHi : (modSlice n f s).fuseHi = s.fuseHi := rfl
@[simp] theorem modSlice_cores : (modSlice n f s).cores = s.cores := rfl
@[simp] theorem modSlice_parts : (modSlice n f s).parts = s.parts := rfl
@[simp] theorem modSlice_windows : (modSlice n f s).windows = s.windows := rfl
@[simp] theorem modSlice_tick : (modSlice n f s).tick = s.tick := rfl
@[simp] theorem modSlice_conf : (modSlice n f s).conf = s.conf := rfl
@[simp] theorem modSlice_jobs : (modSlice n f s).jobs = s.jobs := rfl
@[simp] theorem modSlice_images : (modSlice n f s).images = s.images := rfl
@[simp] theorem modSlice_pools : (modSlice n f s).pools = s.pools := rfl
@[simp] theorem modSlice_kvPools : (modSlice n f s).kvPools = s.kvPools := rfl
@[simp] theorem modSlice_seqs : (modSlice n f s).seqs = s.seqs := rfl
@[simp] theorem modSlice_seqRecs : (modSlice n f s).seqRecs = s.seqRecs := rfl
@[simp] theorem modSlice_leaves : (modSlice n f s).leaves = s.leaves := rfl
@[simp] theorem modSlice_rings : (modSlice n f s).rings = s.rings := rfl
@[simp] theorem modSlice_layers : (modSlice n f s).layers = s.layers := rfl
@[simp] theorem modSlice_routes : (modSlice n f s).routes = s.routes := rfl
@[simp] theorem modSlice_xfers : (modSlice n f s).xfers = s.xfers := rfl
@[simp] theorem modSlice_buckets : (modSlice n f s).buckets = s.buckets := rfl
@[simp] theorem modSlice_waiters : (modSlice n f s).waiters = s.waiters := rfl
@[simp] theorem modSlice_links : (modSlice n f s).links = s.links := rfl
@[simp] theorem modSlice_host : (modSlice n f s).host = s.host := rfl
@[simp] theorem modSlice_power : (modSlice n f s).power = s.power := rfl
@[simp] theorem modSlice_secure : (modSlice n f s).secure = s.secure := rfl
@[simp] theorem modSlice_events : (modSlice n f s).events = s.events := rfl
@[simp] theorem modSlice_test : (modSlice n f s).test = s.test := rfl
@[simp] theorem modSlice_digReqs : (modSlice n f s).digReqs = s.digReqs := rfl
@[simp] theorem modSlice_memos : (modSlice n f s).memos = s.memos := rfl
@[simp] theorem modSlice_flash : (modSlice n f s).flash = s.flash := rfl
@[simp] theorem modSlice_flashRows : (modSlice n f s).flashRows = s.flashRows := rfl
@[simp] theorem modSlice_tierMem : (modSlice n f s).tierMem = s.tierMem := rfl
@[simp] theorem modSlice_tap : (modSlice n f s).tap = s.tap := rfl
@[simp] theorem modSlice_bonded_mem : (modSlice n f s).bonded.mem = s.bonded.mem := rfl
@[simp] theorem modSlice_bonded_bad : (modSlice n f s).bonded.bad = s.bonded.bad := rfl
@[simp] theorem modSlice_bonded_gran : (modSlice n f s).bonded.gran = s.bonded.gran := rfl
@[simp] theorem modSlice_bonded_poison : (modSlice n f s).bonded.poison = s.bonded.poison := rfl
@[simp] theorem modSlice_bonded_wp : (modSlice n f s).bonded.wp = s.bonded.wp := rfl
@[simp] theorem modSlice_bonded_attrBad : (modSlice n f s).bonded.attrBad = s.bonded.attrBad := rfl
@[simp] theorem modSlice_bonded_poisoned : (modSlice n f s).bonded.poisoned = s.bonded.poisoned := rfl
@[simp] theorem modSlice_bonded_wayDone : (modSlice n f s).bonded.wayDone = s.bonded.wayDone := rfl
@[simp] theorem modSlice_bonded_remapList : (modSlice n f s).bonded.remapList = s.bonded.remapList := rfl
end modSlice

section setPart
variable (n : Nat) (p : Part)
@[simp] theorem setPart_pending : (setPart n p s).pending = s.pending := rfl
@[simp] theorem setPart_clk : (setPart n p s).clk = s.clk := rfl
@[simp] theorem setPart_free : (setPart n p s).free = s.free := rfl
@[simp] theorem setPart_nuid : (setPart n p s).nuid = s.nuid := rfl
@[simp] theorem setPart_outbox : (setPart n p s).outbox = s.outbox := rfl
@[simp] theorem setPart_boot : (setPart n p s).boot = s.boot := rfl
@[simp] theorem setPart_fuseLo : (setPart n p s).fuseLo = s.fuseLo := rfl
@[simp] theorem setPart_fuseHi : (setPart n p s).fuseHi = s.fuseHi := rfl
@[simp] theorem setPart_cores : (setPart n p s).cores = s.cores := rfl
@[simp] theorem setPart_bonded : (setPart n p s).bonded = s.bonded := rfl
@[simp] theorem setPart_windows : (setPart n p s).windows = s.windows := rfl
@[simp] theorem setPart_tick : (setPart n p s).tick = s.tick := rfl
@[simp] theorem setPart_conf : (setPart n p s).conf = s.conf := rfl
@[simp] theorem setPart_jobs : (setPart n p s).jobs = s.jobs := rfl
@[simp] theorem setPart_images : (setPart n p s).images = s.images := rfl
@[simp] theorem setPart_pools : (setPart n p s).pools = s.pools := rfl
@[simp] theorem setPart_kvPools : (setPart n p s).kvPools = s.kvPools := rfl
@[simp] theorem setPart_seqs : (setPart n p s).seqs = s.seqs := rfl
@[simp] theorem setPart_seqRecs : (setPart n p s).seqRecs = s.seqRecs := rfl
@[simp] theorem setPart_leaves : (setPart n p s).leaves = s.leaves := rfl
@[simp] theorem setPart_rings : (setPart n p s).rings = s.rings := rfl
@[simp] theorem setPart_layers : (setPart n p s).layers = s.layers := rfl
@[simp] theorem setPart_routes : (setPart n p s).routes = s.routes := rfl
@[simp] theorem setPart_xfers : (setPart n p s).xfers = s.xfers := rfl
@[simp] theorem setPart_buckets : (setPart n p s).buckets = s.buckets := rfl
@[simp] theorem setPart_waiters : (setPart n p s).waiters = s.waiters := rfl
@[simp] theorem setPart_links : (setPart n p s).links = s.links := rfl
@[simp] theorem setPart_host : (setPart n p s).host = s.host := rfl
@[simp] theorem setPart_power : (setPart n p s).power = s.power := rfl
@[simp] theorem setPart_secure : (setPart n p s).secure = s.secure := rfl
@[simp] theorem setPart_events : (setPart n p s).events = s.events := rfl
@[simp] theorem setPart_test : (setPart n p s).test = s.test := rfl
@[simp] theorem setPart_digReqs : (setPart n p s).digReqs = s.digReqs := rfl
@[simp] theorem setPart_memos : (setPart n p s).memos = s.memos := rfl
@[simp] theorem setPart_flash : (setPart n p s).flash = s.flash := rfl
@[simp] theorem setPart_flashRows : (setPart n p s).flashRows = s.flashRows := rfl
@[simp] theorem setPart_tierMem : (setPart n p s).tierMem = s.tierMem := rfl
@[simp] theorem setPart_tap : (setPart n p s).tap = s.tap := rfl
end setPart

section modPart
variable (n : Nat) (f : Part → Part)
@[simp] theorem modPart_pending : (modPart n f s).pending = s.pending := rfl
@[simp] theorem modPart_clk : (modPart n f s).clk = s.clk := rfl
@[simp] theorem modPart_free : (modPart n f s).free = s.free := rfl
@[simp] theorem modPart_nuid : (modPart n f s).nuid = s.nuid := rfl
@[simp] theorem modPart_outbox : (modPart n f s).outbox = s.outbox := rfl
@[simp] theorem modPart_boot : (modPart n f s).boot = s.boot := rfl
@[simp] theorem modPart_fuseLo : (modPart n f s).fuseLo = s.fuseLo := rfl
@[simp] theorem modPart_fuseHi : (modPart n f s).fuseHi = s.fuseHi := rfl
@[simp] theorem modPart_cores : (modPart n f s).cores = s.cores := rfl
@[simp] theorem modPart_bonded : (modPart n f s).bonded = s.bonded := rfl
@[simp] theorem modPart_windows : (modPart n f s).windows = s.windows := rfl
@[simp] theorem modPart_tick : (modPart n f s).tick = s.tick := rfl
@[simp] theorem modPart_conf : (modPart n f s).conf = s.conf := rfl
@[simp] theorem modPart_jobs : (modPart n f s).jobs = s.jobs := rfl
@[simp] theorem modPart_images : (modPart n f s).images = s.images := rfl
@[simp] theorem modPart_pools : (modPart n f s).pools = s.pools := rfl
@[simp] theorem modPart_kvPools : (modPart n f s).kvPools = s.kvPools := rfl
@[simp] theorem modPart_seqs : (modPart n f s).seqs = s.seqs := rfl
@[simp] theorem modPart_seqRecs : (modPart n f s).seqRecs = s.seqRecs := rfl
@[simp] theorem modPart_leaves : (modPart n f s).leaves = s.leaves := rfl
@[simp] theorem modPart_rings : (modPart n f s).rings = s.rings := rfl
@[simp] theorem modPart_layers : (modPart n f s).layers = s.layers := rfl
@[simp] theorem modPart_routes : (modPart n f s).routes = s.routes := rfl
@[simp] theorem modPart_xfers : (modPart n f s).xfers = s.xfers := rfl
@[simp] theorem modPart_buckets : (modPart n f s).buckets = s.buckets := rfl
@[simp] theorem modPart_waiters : (modPart n f s).waiters = s.waiters := rfl
@[simp] theorem modPart_links : (modPart n f s).links = s.links := rfl
@[simp] theorem modPart_host : (modPart n f s).host = s.host := rfl
@[simp] theorem modPart_power : (modPart n f s).power = s.power := rfl
@[simp] theorem modPart_secure : (modPart n f s).secure = s.secure := rfl
@[simp] theorem modPart_events : (modPart n f s).events = s.events := rfl
@[simp] theorem modPart_test : (modPart n f s).test = s.test := rfl
@[simp] theorem modPart_digReqs : (modPart n f s).digReqs = s.digReqs := rfl
@[simp] theorem modPart_memos : (modPart n f s).memos = s.memos := rfl
@[simp] theorem modPart_flash : (modPart n f s).flash = s.flash := rfl
@[simp] theorem modPart_flashRows : (modPart n f s).flashRows = s.flashRows := rfl
@[simp] theorem modPart_tierMem : (modPart n f s).tierMem = s.tierMem := rfl
@[simp] theorem modPart_tap : (modPart n f s).tap = s.tap := rfl
end modPart

section setWin
variable (n : Nat) (w : Window)
@[simp] theorem setWin_pending : (setWin n w s).pending = s.pending := rfl
@[simp] theorem setWin_clk : (setWin n w s).clk = s.clk := rfl
@[simp] theorem setWin_free : (setWin n w s).free = s.free := rfl
@[simp] theorem setWin_nuid : (setWin n w s).nuid = s.nuid := rfl
@[simp] theorem setWin_outbox : (setWin n w s).outbox = s.outbox := rfl
@[simp] theorem setWin_boot : (setWin n w s).boot = s.boot := rfl
@[simp] theorem setWin_fuseLo : (setWin n w s).fuseLo = s.fuseLo := rfl
@[simp] theorem setWin_fuseHi : (setWin n w s).fuseHi = s.fuseHi := rfl
@[simp] theorem setWin_cores : (setWin n w s).cores = s.cores := rfl
@[simp] theorem setWin_bonded : (setWin n w s).bonded = s.bonded := rfl
@[simp] theorem setWin_parts : (setWin n w s).parts = s.parts := rfl
@[simp] theorem setWin_tick : (setWin n w s).tick = s.tick := rfl
@[simp] theorem setWin_conf : (setWin n w s).conf = s.conf := rfl
@[simp] theorem setWin_jobs : (setWin n w s).jobs = s.jobs := rfl
@[simp] theorem setWin_images : (setWin n w s).images = s.images := rfl
@[simp] theorem setWin_pools : (setWin n w s).pools = s.pools := rfl
@[simp] theorem setWin_kvPools : (setWin n w s).kvPools = s.kvPools := rfl
@[simp] theorem setWin_seqs : (setWin n w s).seqs = s.seqs := rfl
@[simp] theorem setWin_seqRecs : (setWin n w s).seqRecs = s.seqRecs := rfl
@[simp] theorem setWin_leaves : (setWin n w s).leaves = s.leaves := rfl
@[simp] theorem setWin_rings : (setWin n w s).rings = s.rings := rfl
@[simp] theorem setWin_layers : (setWin n w s).layers = s.layers := rfl
@[simp] theorem setWin_routes : (setWin n w s).routes = s.routes := rfl
@[simp] theorem setWin_xfers : (setWin n w s).xfers = s.xfers := rfl
@[simp] theorem setWin_buckets : (setWin n w s).buckets = s.buckets := rfl
@[simp] theorem setWin_waiters : (setWin n w s).waiters = s.waiters := rfl
@[simp] theorem setWin_links : (setWin n w s).links = s.links := rfl
@[simp] theorem setWin_host : (setWin n w s).host = s.host := rfl
@[simp] theorem setWin_power : (setWin n w s).power = s.power := rfl
@[simp] theorem setWin_secure : (setWin n w s).secure = s.secure := rfl
@[simp] theorem setWin_events : (setWin n w s).events = s.events := rfl
@[simp] theorem setWin_test : (setWin n w s).test = s.test := rfl
@[simp] theorem setWin_digReqs : (setWin n w s).digReqs = s.digReqs := rfl
@[simp] theorem setWin_memos : (setWin n w s).memos = s.memos := rfl
@[simp] theorem setWin_flash : (setWin n w s).flash = s.flash := rfl
@[simp] theorem setWin_flashRows : (setWin n w s).flashRows = s.flashRows := rfl
@[simp] theorem setWin_tierMem : (setWin n w s).tierMem = s.tierMem := rfl
@[simp] theorem setWin_tap : (setWin n w s).tap = s.tap := rfl
end setWin

section setQuad
variable (n : Nat) (q : Quad)
@[simp] theorem setQuad_pending : (setQuad n q s).pending = s.pending := rfl
@[simp] theorem setQuad_clk : (setQuad n q s).clk = s.clk := rfl
@[simp] theorem setQuad_free : (setQuad n q s).free = s.free := rfl
@[simp] theorem setQuad_nuid : (setQuad n q s).nuid = s.nuid := rfl
@[simp] theorem setQuad_outbox : (setQuad n q s).outbox = s.outbox := rfl
@[simp] theorem setQuad_boot : (setQuad n q s).boot = s.boot := rfl
@[simp] theorem setQuad_fuseLo : (setQuad n q s).fuseLo = s.fuseLo := rfl
@[simp] theorem setQuad_fuseHi : (setQuad n q s).fuseHi = s.fuseHi := rfl
@[simp] theorem setQuad_cores : (setQuad n q s).cores = s.cores := rfl
@[simp] theorem setQuad_bonded : (setQuad n q s).bonded = s.bonded := rfl
@[simp] theorem setQuad_parts : (setQuad n q s).parts = s.parts := rfl
@[simp] theorem setQuad_windows : (setQuad n q s).windows = s.windows := rfl
@[simp] theorem setQuad_tick : (setQuad n q s).tick = s.tick := rfl
@[simp] theorem setQuad_conf : (setQuad n q s).conf = s.conf := rfl
@[simp] theorem setQuad_jobs : (setQuad n q s).jobs = s.jobs := rfl
@[simp] theorem setQuad_images : (setQuad n q s).images = s.images := rfl
@[simp] theorem setQuad_pools : (setQuad n q s).pools = s.pools := rfl
@[simp] theorem setQuad_kvPools : (setQuad n q s).kvPools = s.kvPools := rfl
@[simp] theorem setQuad_seqs : (setQuad n q s).seqs = s.seqs := rfl
@[simp] theorem setQuad_seqRecs : (setQuad n q s).seqRecs = s.seqRecs := rfl
@[simp] theorem setQuad_leaves : (setQuad n q s).leaves = s.leaves := rfl
@[simp] theorem setQuad_rings : (setQuad n q s).rings = s.rings := rfl
@[simp] theorem setQuad_layers : (setQuad n q s).layers = s.layers := rfl
@[simp] theorem setQuad_routes : (setQuad n q s).routes = s.routes := rfl
@[simp] theorem setQuad_xfers : (setQuad n q s).xfers = s.xfers := rfl
@[simp] theorem setQuad_buckets : (setQuad n q s).buckets = s.buckets := rfl
@[simp] theorem setQuad_waiters : (setQuad n q s).waiters = s.waiters := rfl
@[simp] theorem setQuad_links : (setQuad n q s).links = s.links := rfl
@[simp] theorem setQuad_host : (setQuad n q s).host = s.host := rfl
@[simp] theorem setQuad_secure : (setQuad n q s).secure = s.secure := rfl
@[simp] theorem setQuad_events : (setQuad n q s).events = s.events := rfl
@[simp] theorem setQuad_test : (setQuad n q s).test = s.test := rfl
@[simp] theorem setQuad_digReqs : (setQuad n q s).digReqs = s.digReqs := rfl
@[simp] theorem setQuad_memos : (setQuad n q s).memos = s.memos := rfl
@[simp] theorem setQuad_flash : (setQuad n q s).flash = s.flash := rfl
@[simp] theorem setQuad_flashRows : (setQuad n q s).flashRows = s.flashRows := rfl
@[simp] theorem setQuad_tierMem : (setQuad n q s).tierMem = s.tierMem := rfl
@[simp] theorem setQuad_tap : (setQuad n q s).tap = s.tap := rfl
@[simp] theorem setQuad_power_quadEn : (setQuad n q s).power.quadEn = s.power.quadEn := rfl
@[simp] theorem setQuad_power_links : (setQuad n q s).power.links = s.power.links := rfl
@[simp] theorem setQuad_power_flash : (setQuad n q s).power.flash = s.power.flash := rfl
@[simp] theorem setQuad_power_linksSt : (setQuad n q s).power.linksSt = s.power.linksSt := rfl
@[simp] theorem setQuad_power_hostSt : (setQuad n q s).power.hostSt = s.power.hostSt := rfl
@[simp] theorem setQuad_power_memSt : (setQuad n q s).power.memSt = s.power.memSt := rfl
@[simp] theorem setQuad_power_flashSt : (setQuad n q s).power.flashSt = s.power.flashSt := rfl
@[simp] theorem setQuad_power_belfrySt : (setQuad n q s).power.belfrySt = s.power.belfrySt := rfl
@[simp] theorem setQuad_power_trip : (setQuad n q s).power.trip = s.power.trip := rfl
@[simp] theorem setQuad_power_tripped : (setQuad n q s).power.tripped = s.power.tripped := rfl
@[simp] theorem setQuad_power_tripCool : (setQuad n q s).power.tripCool = s.power.tripCool := rfl
@[simp] theorem setQuad_power_input : (setQuad n q s).power.input = s.power.input := rfl
@[simp] theorem setQuad_power_cause : (setQuad n q s).power.cause = s.power.cause := rfl
@[simp] theorem setQuad_power_mrstn : (setQuad n q s).power.mrstn = s.power.mrstn := rfl
@[simp] theorem setQuad_power_strap0 : (setQuad n q s).power.strap0 = s.power.strap0 := rfl
@[simp] theorem setQuad_power_strap1 : (setQuad n q s).power.strap1 = s.power.strap1 := rfl
end setQuad

section modQuad
variable (n : Nat) (f : Quad → Quad)
@[simp] theorem modQuad_pending : (modQuad n f s).pending = s.pending := rfl
@[simp] theorem modQuad_clk : (modQuad n f s).clk = s.clk := rfl
@[simp] theorem modQuad_free : (modQuad n f s).free = s.free := rfl
@[simp] theorem modQuad_nuid : (modQuad n f s).nuid = s.nuid := rfl
@[simp] theorem modQuad_outbox : (modQuad n f s).outbox = s.outbox := rfl
@[simp] theorem modQuad_boot : (modQuad n f s).boot = s.boot := rfl
@[simp] theorem modQuad_fuseLo : (modQuad n f s).fuseLo = s.fuseLo := rfl
@[simp] theorem modQuad_fuseHi : (modQuad n f s).fuseHi = s.fuseHi := rfl
@[simp] theorem modQuad_cores : (modQuad n f s).cores = s.cores := rfl
@[simp] theorem modQuad_bonded : (modQuad n f s).bonded = s.bonded := rfl
@[simp] theorem modQuad_parts : (modQuad n f s).parts = s.parts := rfl
@[simp] theorem modQuad_windows : (modQuad n f s).windows = s.windows := rfl
@[simp] theorem modQuad_tick : (modQuad n f s).tick = s.tick := rfl
@[simp] theorem modQuad_conf : (modQuad n f s).conf = s.conf := rfl
@[simp] theorem modQuad_jobs : (modQuad n f s).jobs = s.jobs := rfl
@[simp] theorem modQuad_images : (modQuad n f s).images = s.images := rfl
@[simp] theorem modQuad_pools : (modQuad n f s).pools = s.pools := rfl
@[simp] theorem modQuad_kvPools : (modQuad n f s).kvPools = s.kvPools := rfl
@[simp] theorem modQuad_seqs : (modQuad n f s).seqs = s.seqs := rfl
@[simp] theorem modQuad_seqRecs : (modQuad n f s).seqRecs = s.seqRecs := rfl
@[simp] theorem modQuad_leaves : (modQuad n f s).leaves = s.leaves := rfl
@[simp] theorem modQuad_rings : (modQuad n f s).rings = s.rings := rfl
@[simp] theorem modQuad_layers : (modQuad n f s).layers = s.layers := rfl
@[simp] theorem modQuad_routes : (modQuad n f s).routes = s.routes := rfl
@[simp] theorem modQuad_xfers : (modQuad n f s).xfers = s.xfers := rfl
@[simp] theorem modQuad_buckets : (modQuad n f s).buckets = s.buckets := rfl
@[simp] theorem modQuad_waiters : (modQuad n f s).waiters = s.waiters := rfl
@[simp] theorem modQuad_links : (modQuad n f s).links = s.links := rfl
@[simp] theorem modQuad_host : (modQuad n f s).host = s.host := rfl
@[simp] theorem modQuad_secure : (modQuad n f s).secure = s.secure := rfl
@[simp] theorem modQuad_events : (modQuad n f s).events = s.events := rfl
@[simp] theorem modQuad_test : (modQuad n f s).test = s.test := rfl
@[simp] theorem modQuad_digReqs : (modQuad n f s).digReqs = s.digReqs := rfl
@[simp] theorem modQuad_memos : (modQuad n f s).memos = s.memos := rfl
@[simp] theorem modQuad_flash : (modQuad n f s).flash = s.flash := rfl
@[simp] theorem modQuad_flashRows : (modQuad n f s).flashRows = s.flashRows := rfl
@[simp] theorem modQuad_tierMem : (modQuad n f s).tierMem = s.tierMem := rfl
@[simp] theorem modQuad_tap : (modQuad n f s).tap = s.tap := rfl
@[simp] theorem modQuad_power_quadEn : (modQuad n f s).power.quadEn = s.power.quadEn := rfl
@[simp] theorem modQuad_power_links : (modQuad n f s).power.links = s.power.links := rfl
@[simp] theorem modQuad_power_flash : (modQuad n f s).power.flash = s.power.flash := rfl
@[simp] theorem modQuad_power_linksSt : (modQuad n f s).power.linksSt = s.power.linksSt := rfl
@[simp] theorem modQuad_power_hostSt : (modQuad n f s).power.hostSt = s.power.hostSt := rfl
@[simp] theorem modQuad_power_memSt : (modQuad n f s).power.memSt = s.power.memSt := rfl
@[simp] theorem modQuad_power_flashSt : (modQuad n f s).power.flashSt = s.power.flashSt := rfl
@[simp] theorem modQuad_power_belfrySt : (modQuad n f s).power.belfrySt = s.power.belfrySt := rfl
@[simp] theorem modQuad_power_trip : (modQuad n f s).power.trip = s.power.trip := rfl
@[simp] theorem modQuad_power_tripped : (modQuad n f s).power.tripped = s.power.tripped := rfl
@[simp] theorem modQuad_power_tripCool : (modQuad n f s).power.tripCool = s.power.tripCool := rfl
@[simp] theorem modQuad_power_input : (modQuad n f s).power.input = s.power.input := rfl
@[simp] theorem modQuad_power_cause : (modQuad n f s).power.cause = s.power.cause := rfl
@[simp] theorem modQuad_power_mrstn : (modQuad n f s).power.mrstn = s.power.mrstn := rfl
@[simp] theorem modQuad_power_strap0 : (modQuad n f s).power.strap0 = s.power.strap0 := rfl
@[simp] theorem modQuad_power_strap1 : (modQuad n f s).power.strap1 = s.power.strap1 := rfl
end modQuad

section setQp
variable (n : Nat) (q : Qp)
@[simp] theorem setQp_pending : (setQp n q s).pending = s.pending := rfl
@[simp] theorem setQp_clk : (setQp n q s).clk = s.clk := rfl
@[simp] theorem setQp_free : (setQp n q s).free = s.free := rfl
@[simp] theorem setQp_nuid : (setQp n q s).nuid = s.nuid := rfl
@[simp] theorem setQp_outbox : (setQp n q s).outbox = s.outbox := rfl
@[simp] theorem setQp_boot : (setQp n q s).boot = s.boot := rfl
@[simp] theorem setQp_fuseLo : (setQp n q s).fuseLo = s.fuseLo := rfl
@[simp] theorem setQp_fuseHi : (setQp n q s).fuseHi = s.fuseHi := rfl
@[simp] theorem setQp_cores : (setQp n q s).cores = s.cores := rfl
@[simp] theorem setQp_bonded : (setQp n q s).bonded = s.bonded := rfl
@[simp] theorem setQp_parts : (setQp n q s).parts = s.parts := rfl
@[simp] theorem setQp_windows : (setQp n q s).windows = s.windows := rfl
@[simp] theorem setQp_tick : (setQp n q s).tick = s.tick := rfl
@[simp] theorem setQp_conf : (setQp n q s).conf = s.conf := rfl
@[simp] theorem setQp_jobs : (setQp n q s).jobs = s.jobs := rfl
@[simp] theorem setQp_images : (setQp n q s).images = s.images := rfl
@[simp] theorem setQp_pools : (setQp n q s).pools = s.pools := rfl
@[simp] theorem setQp_kvPools : (setQp n q s).kvPools = s.kvPools := rfl
@[simp] theorem setQp_seqs : (setQp n q s).seqs = s.seqs := rfl
@[simp] theorem setQp_seqRecs : (setQp n q s).seqRecs = s.seqRecs := rfl
@[simp] theorem setQp_leaves : (setQp n q s).leaves = s.leaves := rfl
@[simp] theorem setQp_rings : (setQp n q s).rings = s.rings := rfl
@[simp] theorem setQp_layers : (setQp n q s).layers = s.layers := rfl
@[simp] theorem setQp_routes : (setQp n q s).routes = s.routes := rfl
@[simp] theorem setQp_xfers : (setQp n q s).xfers = s.xfers := rfl
@[simp] theorem setQp_buckets : (setQp n q s).buckets = s.buckets := rfl
@[simp] theorem setQp_waiters : (setQp n q s).waiters = s.waiters := rfl
@[simp] theorem setQp_links : (setQp n q s).links = s.links := rfl
@[simp] theorem setQp_power : (setQp n q s).power = s.power := rfl
@[simp] theorem setQp_secure : (setQp n q s).secure = s.secure := rfl
@[simp] theorem setQp_events : (setQp n q s).events = s.events := rfl
@[simp] theorem setQp_test : (setQp n q s).test = s.test := rfl
@[simp] theorem setQp_digReqs : (setQp n q s).digReqs = s.digReqs := rfl
@[simp] theorem setQp_memos : (setQp n q s).memos = s.memos := rfl
@[simp] theorem setQp_flash : (setQp n q s).flash = s.flash := rfl
@[simp] theorem setQp_flashRows : (setQp n q s).flashRows = s.flashRows := rfl
@[simp] theorem setQp_tierMem : (setQp n q s).tierMem = s.tierMem := rfl
@[simp] theorem setQp_tap : (setQp n q s).tap = s.tap := rfl
@[simp] theorem setQp_host_dscp : (setQp n q s).host.dscp = s.host.dscp := rfl
@[simp] theorem setQp_host_cnpDscp : (setQp n q s).host.cnpDscp = s.host.cnpDscp := rfl
@[simp] theorem setQp_host_ackto : (setQp n q s).host.ackto = s.host.ackto := rfl
@[simp] theorem setQp_host_retry : (setQp n q s).host.retry = s.host.retry := rfl
@[simp] theorem setQp_host_ecn : (setQp n q s).host.ecn = s.host.ecn := rfl
@[simp] theorem setQp_host_tagFail : (setQp n q s).host.tagFail = s.host.tagFail := rfl
@[simp] theorem setQp_host_owner : (setQp n q s).host.owner = s.host.owner := rfl
@[simp] theorem setQp_host_maxqp : (setQp n q s).host.maxqp = s.host.maxqp := rfl
@[simp] theorem setQp_host_port0 : (setQp n q s).host.port0 = s.host.port0 := rfl
@[simp] theorem setQp_host_port1 : (setQp n q s).host.port1 = s.host.port1 := rfl
@[simp] theorem setQp_host_port2 : (setQp n q s).host.port2 = s.host.port2 := rfl
@[simp] theorem setQp_host_port3 : (setQp n q s).host.port3 = s.host.port3 := rfl
end setQp

section modQp
variable (n : Nat) (f : Qp → Qp)
@[simp] theorem modQp_pending : (modQp n f s).pending = s.pending := rfl
@[simp] theorem modQp_clk : (modQp n f s).clk = s.clk := rfl
@[simp] theorem modQp_free : (modQp n f s).free = s.free := rfl
@[simp] theorem modQp_nuid : (modQp n f s).nuid = s.nuid := rfl
@[simp] theorem modQp_outbox : (modQp n f s).outbox = s.outbox := rfl
@[simp] theorem modQp_boot : (modQp n f s).boot = s.boot := rfl
@[simp] theorem modQp_fuseLo : (modQp n f s).fuseLo = s.fuseLo := rfl
@[simp] theorem modQp_fuseHi : (modQp n f s).fuseHi = s.fuseHi := rfl
@[simp] theorem modQp_cores : (modQp n f s).cores = s.cores := rfl
@[simp] theorem modQp_bonded : (modQp n f s).bonded = s.bonded := rfl
@[simp] theorem modQp_parts : (modQp n f s).parts = s.parts := rfl
@[simp] theorem modQp_windows : (modQp n f s).windows = s.windows := rfl
@[simp] theorem modQp_tick : (modQp n f s).tick = s.tick := rfl
@[simp] theorem modQp_conf : (modQp n f s).conf = s.conf := rfl
@[simp] theorem modQp_jobs : (modQp n f s).jobs = s.jobs := rfl
@[simp] theorem modQp_images : (modQp n f s).images = s.images := rfl
@[simp] theorem modQp_pools : (modQp n f s).pools = s.pools := rfl
@[simp] theorem modQp_kvPools : (modQp n f s).kvPools = s.kvPools := rfl
@[simp] theorem modQp_seqs : (modQp n f s).seqs = s.seqs := rfl
@[simp] theorem modQp_seqRecs : (modQp n f s).seqRecs = s.seqRecs := rfl
@[simp] theorem modQp_leaves : (modQp n f s).leaves = s.leaves := rfl
@[simp] theorem modQp_rings : (modQp n f s).rings = s.rings := rfl
@[simp] theorem modQp_layers : (modQp n f s).layers = s.layers := rfl
@[simp] theorem modQp_routes : (modQp n f s).routes = s.routes := rfl
@[simp] theorem modQp_xfers : (modQp n f s).xfers = s.xfers := rfl
@[simp] theorem modQp_buckets : (modQp n f s).buckets = s.buckets := rfl
@[simp] theorem modQp_waiters : (modQp n f s).waiters = s.waiters := rfl
@[simp] theorem modQp_links : (modQp n f s).links = s.links := rfl
@[simp] theorem modQp_power : (modQp n f s).power = s.power := rfl
@[simp] theorem modQp_secure : (modQp n f s).secure = s.secure := rfl
@[simp] theorem modQp_events : (modQp n f s).events = s.events := rfl
@[simp] theorem modQp_test : (modQp n f s).test = s.test := rfl
@[simp] theorem modQp_digReqs : (modQp n f s).digReqs = s.digReqs := rfl
@[simp] theorem modQp_memos : (modQp n f s).memos = s.memos := rfl
@[simp] theorem modQp_flash : (modQp n f s).flash = s.flash := rfl
@[simp] theorem modQp_flashRows : (modQp n f s).flashRows = s.flashRows := rfl
@[simp] theorem modQp_tierMem : (modQp n f s).tierMem = s.tierMem := rfl
@[simp] theorem modQp_tap : (modQp n f s).tap = s.tap := rfl
@[simp] theorem modQp_host_dscp : (modQp n f s).host.dscp = s.host.dscp := rfl
@[simp] theorem modQp_host_cnpDscp : (modQp n f s).host.cnpDscp = s.host.cnpDscp := rfl
@[simp] theorem modQp_host_ackto : (modQp n f s).host.ackto = s.host.ackto := rfl
@[simp] theorem modQp_host_retry : (modQp n f s).host.retry = s.host.retry := rfl
@[simp] theorem modQp_host_ecn : (modQp n f s).host.ecn = s.host.ecn := rfl
@[simp] theorem modQp_host_tagFail : (modQp n f s).host.tagFail = s.host.tagFail := rfl
@[simp] theorem modQp_host_owner : (modQp n f s).host.owner = s.host.owner := rfl
@[simp] theorem modQp_host_maxqp : (modQp n f s).host.maxqp = s.host.maxqp := rfl
@[simp] theorem modQp_host_port0 : (modQp n f s).host.port0 = s.host.port0 := rfl
@[simp] theorem modQp_host_port1 : (modQp n f s).host.port1 = s.host.port1 := rfl
@[simp] theorem modQp_host_port2 : (modQp n f s).host.port2 = s.host.port2 := rfl
@[simp] theorem modQp_host_port3 : (modQp n f s).host.port3 = s.host.port3 := rfl
end modQp

section passTo
variable (n : Nat)
@[simp] theorem passTo_pending : (passTo n s).pending = s.pending := rfl
@[simp] theorem passTo_free : (passTo n s).free = s.free := rfl
@[simp] theorem passTo_nuid : (passTo n s).nuid = s.nuid := rfl
@[simp] theorem passTo_outbox : (passTo n s).outbox = s.outbox := rfl
@[simp] theorem passTo_boot : (passTo n s).boot = s.boot := rfl
@[simp] theorem passTo_fuseLo : (passTo n s).fuseLo = s.fuseLo := rfl
@[simp] theorem passTo_fuseHi : (passTo n s).fuseHi = s.fuseHi := rfl
@[simp] theorem passTo_cores : (passTo n s).cores = s.cores := rfl
@[simp] theorem passTo_bonded : (passTo n s).bonded = s.bonded := rfl
@[simp] theorem passTo_parts : (passTo n s).parts = s.parts := rfl
@[simp] theorem passTo_windows : (passTo n s).windows = s.windows := rfl
@[simp] theorem passTo_tick : (passTo n s).tick = s.tick := rfl
@[simp] theorem passTo_conf : (passTo n s).conf = s.conf := rfl
@[simp] theorem passTo_jobs : (passTo n s).jobs = s.jobs := rfl
@[simp] theorem passTo_images : (passTo n s).images = s.images := rfl
@[simp] theorem passTo_pools : (passTo n s).pools = s.pools := rfl
@[simp] theorem passTo_kvPools : (passTo n s).kvPools = s.kvPools := rfl
@[simp] theorem passTo_seqs : (passTo n s).seqs = s.seqs := rfl
@[simp] theorem passTo_seqRecs : (passTo n s).seqRecs = s.seqRecs := rfl
@[simp] theorem passTo_leaves : (passTo n s).leaves = s.leaves := rfl
@[simp] theorem passTo_rings : (passTo n s).rings = s.rings := rfl
@[simp] theorem passTo_layers : (passTo n s).layers = s.layers := rfl
@[simp] theorem passTo_routes : (passTo n s).routes = s.routes := rfl
@[simp] theorem passTo_xfers : (passTo n s).xfers = s.xfers := rfl
@[simp] theorem passTo_buckets : (passTo n s).buckets = s.buckets := rfl
@[simp] theorem passTo_waiters : (passTo n s).waiters = s.waiters := rfl
@[simp] theorem passTo_links : (passTo n s).links = s.links := rfl
@[simp] theorem passTo_host : (passTo n s).host = s.host := rfl
@[simp] theorem passTo_power : (passTo n s).power = s.power := rfl
@[simp] theorem passTo_secure : (passTo n s).secure = s.secure := rfl
@[simp] theorem passTo_events : (passTo n s).events = s.events := rfl
@[simp] theorem passTo_test : (passTo n s).test = s.test := rfl
@[simp] theorem passTo_digReqs : (passTo n s).digReqs = s.digReqs := rfl
@[simp] theorem passTo_memos : (passTo n s).memos = s.memos := rfl
@[simp] theorem passTo_flash : (passTo n s).flash = s.flash := rfl
@[simp] theorem passTo_flashRows : (passTo n s).flashRows = s.flashRows := rfl
@[simp] theorem passTo_tierMem : (passTo n s).tierMem = s.tierMem := rfl
@[simp] theorem passTo_tap : (passTo n s).tap = s.tap := rfl
end passTo

section emit
variable (o : Output)
@[simp] theorem emit_pending : (emit o s).pending = s.pending := rfl
@[simp] theorem emit_clk : (emit o s).clk = s.clk := rfl
@[simp] theorem emit_free : (emit o s).free = s.free := rfl
@[simp] theorem emit_nuid : (emit o s).nuid = s.nuid := rfl
@[simp] theorem emit_boot : (emit o s).boot = s.boot := rfl
@[simp] theorem emit_fuseLo : (emit o s).fuseLo = s.fuseLo := rfl
@[simp] theorem emit_fuseHi : (emit o s).fuseHi = s.fuseHi := rfl
@[simp] theorem emit_cores : (emit o s).cores = s.cores := rfl
@[simp] theorem emit_bonded : (emit o s).bonded = s.bonded := rfl
@[simp] theorem emit_parts : (emit o s).parts = s.parts := rfl
@[simp] theorem emit_windows : (emit o s).windows = s.windows := rfl
@[simp] theorem emit_tick : (emit o s).tick = s.tick := rfl
@[simp] theorem emit_conf : (emit o s).conf = s.conf := rfl
@[simp] theorem emit_jobs : (emit o s).jobs = s.jobs := rfl
@[simp] theorem emit_images : (emit o s).images = s.images := rfl
@[simp] theorem emit_pools : (emit o s).pools = s.pools := rfl
@[simp] theorem emit_kvPools : (emit o s).kvPools = s.kvPools := rfl
@[simp] theorem emit_seqs : (emit o s).seqs = s.seqs := rfl
@[simp] theorem emit_seqRecs : (emit o s).seqRecs = s.seqRecs := rfl
@[simp] theorem emit_leaves : (emit o s).leaves = s.leaves := rfl
@[simp] theorem emit_rings : (emit o s).rings = s.rings := rfl
@[simp] theorem emit_layers : (emit o s).layers = s.layers := rfl
@[simp] theorem emit_routes : (emit o s).routes = s.routes := rfl
@[simp] theorem emit_xfers : (emit o s).xfers = s.xfers := rfl
@[simp] theorem emit_buckets : (emit o s).buckets = s.buckets := rfl
@[simp] theorem emit_waiters : (emit o s).waiters = s.waiters := rfl
@[simp] theorem emit_links : (emit o s).links = s.links := rfl
@[simp] theorem emit_host : (emit o s).host = s.host := rfl
@[simp] theorem emit_power : (emit o s).power = s.power := rfl
@[simp] theorem emit_secure : (emit o s).secure = s.secure := rfl
@[simp] theorem emit_events : (emit o s).events = s.events := rfl
@[simp] theorem emit_test : (emit o s).test = s.test := rfl
@[simp] theorem emit_digReqs : (emit o s).digReqs = s.digReqs := rfl
@[simp] theorem emit_memos : (emit o s).memos = s.memos := rfl
@[simp] theorem emit_flash : (emit o s).flash = s.flash := rfl
@[simp] theorem emit_flashRows : (emit o s).flashRows = s.flashRows := rfl
@[simp] theorem emit_tierMem : (emit o s).tierMem = s.tierMem := rfl
@[simp] theorem emit_tap : (emit o s).tap = s.tap := rfl
end emit

section injDone
@[simp] theorem injDone_pending : (injDone s).pending = s.pending := rfl
@[simp] theorem injDone_clk : (injDone s).clk = s.clk := rfl
@[simp] theorem injDone_free : (injDone s).free = s.free := rfl
@[simp] theorem injDone_nuid : (injDone s).nuid = s.nuid := rfl
@[simp] theorem injDone_outbox : (injDone s).outbox = s.outbox := rfl
@[simp] theorem injDone_boot : (injDone s).boot = s.boot := rfl
@[simp] theorem injDone_fuseLo : (injDone s).fuseLo = s.fuseLo := rfl
@[simp] theorem injDone_fuseHi : (injDone s).fuseHi = s.fuseHi := rfl
@[simp] theorem injDone_cores : (injDone s).cores = s.cores := rfl
@[simp] theorem injDone_bonded : (injDone s).bonded = s.bonded := rfl
@[simp] theorem injDone_parts : (injDone s).parts = s.parts := rfl
@[simp] theorem injDone_windows : (injDone s).windows = s.windows := rfl
@[simp] theorem injDone_tick : (injDone s).tick = s.tick := rfl
@[simp] theorem injDone_conf : (injDone s).conf = s.conf := rfl
@[simp] theorem injDone_jobs : (injDone s).jobs = s.jobs := rfl
@[simp] theorem injDone_images : (injDone s).images = s.images := rfl
@[simp] theorem injDone_pools : (injDone s).pools = s.pools := rfl
@[simp] theorem injDone_kvPools : (injDone s).kvPools = s.kvPools := rfl
@[simp] theorem injDone_seqs : (injDone s).seqs = s.seqs := rfl
@[simp] theorem injDone_seqRecs : (injDone s).seqRecs = s.seqRecs := rfl
@[simp] theorem injDone_leaves : (injDone s).leaves = s.leaves := rfl
@[simp] theorem injDone_rings : (injDone s).rings = s.rings := rfl
@[simp] theorem injDone_layers : (injDone s).layers = s.layers := rfl
@[simp] theorem injDone_routes : (injDone s).routes = s.routes := rfl
@[simp] theorem injDone_xfers : (injDone s).xfers = s.xfers := rfl
@[simp] theorem injDone_buckets : (injDone s).buckets = s.buckets := rfl
@[simp] theorem injDone_waiters : (injDone s).waiters = s.waiters := rfl
@[simp] theorem injDone_links : (injDone s).links = s.links := rfl
@[simp] theorem injDone_host : (injDone s).host = s.host := rfl
@[simp] theorem injDone_power : (injDone s).power = s.power := rfl
@[simp] theorem injDone_secure : (injDone s).secure = s.secure := rfl
@[simp] theorem injDone_events : (injDone s).events = s.events := rfl
@[simp] theorem injDone_digReqs : (injDone s).digReqs = s.digReqs := rfl
@[simp] theorem injDone_memos : (injDone s).memos = s.memos := rfl
@[simp] theorem injDone_flash : (injDone s).flash = s.flash := rfl
@[simp] theorem injDone_flashRows : (injDone s).flashRows = s.flashRows := rfl
@[simp] theorem injDone_tierMem : (injDone s).tierMem = s.tierMem := rfl
@[simp] theorem injDone_tap : (injDone s).tap = s.tap := rfl
end injDone

section setPort
variable (p : BPort) (v : BkPort)
@[simp] theorem setPort_pending : (setPort p v s).pending = s.pending := by cases p <;> rfl
@[simp] theorem setPort_clk : (setPort p v s).clk = s.clk := by cases p <;> rfl
@[simp] theorem setPort_free : (setPort p v s).free = s.free := by cases p <;> rfl
@[simp] theorem setPort_nuid : (setPort p v s).nuid = s.nuid := by cases p <;> rfl
@[simp] theorem setPort_outbox : (setPort p v s).outbox = s.outbox := by cases p <;> rfl
@[simp] theorem setPort_boot : (setPort p v s).boot = s.boot := by cases p <;> rfl
@[simp] theorem setPort_fuseLo : (setPort p v s).fuseLo = s.fuseLo := by cases p <;> rfl
@[simp] theorem setPort_fuseHi : (setPort p v s).fuseHi = s.fuseHi := by cases p <;> rfl
@[simp] theorem setPort_cores : (setPort p v s).cores = s.cores := by cases p <;> rfl
@[simp] theorem setPort_bonded : (setPort p v s).bonded = s.bonded := by cases p <;> rfl
@[simp] theorem setPort_parts : (setPort p v s).parts = s.parts := by cases p <;> rfl
@[simp] theorem setPort_windows : (setPort p v s).windows = s.windows := by cases p <;> rfl
@[simp] theorem setPort_tick : (setPort p v s).tick = s.tick := by cases p <;> rfl
@[simp] theorem setPort_conf : (setPort p v s).conf = s.conf := by cases p <;> rfl
@[simp] theorem setPort_jobs : (setPort p v s).jobs = s.jobs := by cases p <;> rfl
@[simp] theorem setPort_images : (setPort p v s).images = s.images := by cases p <;> rfl
@[simp] theorem setPort_pools : (setPort p v s).pools = s.pools := by cases p <;> rfl
@[simp] theorem setPort_kvPools : (setPort p v s).kvPools = s.kvPools := by cases p <;> rfl
@[simp] theorem setPort_seqs : (setPort p v s).seqs = s.seqs := by cases p <;> rfl
@[simp] theorem setPort_seqRecs : (setPort p v s).seqRecs = s.seqRecs := by cases p <;> rfl
@[simp] theorem setPort_leaves : (setPort p v s).leaves = s.leaves := by cases p <;> rfl
@[simp] theorem setPort_rings : (setPort p v s).rings = s.rings := by cases p <;> rfl
@[simp] theorem setPort_layers : (setPort p v s).layers = s.layers := by cases p <;> rfl
@[simp] theorem setPort_routes : (setPort p v s).routes = s.routes := by cases p <;> rfl
@[simp] theorem setPort_xfers : (setPort p v s).xfers = s.xfers := by cases p <;> rfl
@[simp] theorem setPort_buckets : (setPort p v s).buckets = s.buckets := by cases p <;> rfl
@[simp] theorem setPort_waiters : (setPort p v s).waiters = s.waiters := by cases p <;> rfl
@[simp] theorem setPort_host : (setPort p v s).host = s.host := by cases p <;> rfl
@[simp] theorem setPort_power : (setPort p v s).power = s.power := by cases p <;> rfl
@[simp] theorem setPort_secure : (setPort p v s).secure = s.secure := by cases p <;> rfl
@[simp] theorem setPort_events : (setPort p v s).events = s.events := by cases p <;> rfl
@[simp] theorem setPort_test : (setPort p v s).test = s.test := by cases p <;> rfl
@[simp] theorem setPort_digReqs : (setPort p v s).digReqs = s.digReqs := by cases p <;> rfl
@[simp] theorem setPort_memos : (setPort p v s).memos = s.memos := by cases p <;> rfl
@[simp] theorem setPort_flash : (setPort p v s).flash = s.flash := by cases p <;> rfl
@[simp] theorem setPort_flashRows : (setPort p v s).flashRows = s.flashRows := by cases p <;> rfl
@[simp] theorem setPort_tierMem : (setPort p v s).tierMem = s.tierMem := by cases p <;> rfl
@[simp] theorem setPort_tap : (setPort p v s).tap = s.tap := by cases p <;> rfl
@[simp] theorem setPort_links_chip : (setPort p v s).links.chip = s.links.chip := by cases p <;> rfl
@[simp] theorem setPort_links_xdim : (setPort p v s).links.xdim = s.links.xdim := by cases p <;> rfl
@[simp] theorem setPort_links_ydim : (setPort p v s).links.ydim = s.links.ydim := by cases p <;> rfl
@[simp] theorem setPort_links_refused : (setPort p v s).links.refused = s.links.refused := by cases p <;> rfl
@[simp] theorem setPort_links_rx : (setPort p v s).links.rx = s.links.rx := by cases p <;> rfl
@[simp] theorem setPort_links_held : (setPort p v s).links.held = s.links.held := by cases p <;> rfl
@[simp] theorem setPort_links_acks : (setPort p v s).links.acks = s.links.acks := by cases p <;> rfl
end setPort

section modPort
variable (p : BPort) (f : BkPort → BkPort)
@[simp] theorem modPort_pending : (modPort p f s).pending = s.pending := by cases p <;> rfl
@[simp] theorem modPort_clk : (modPort p f s).clk = s.clk := by cases p <;> rfl
@[simp] theorem modPort_free : (modPort p f s).free = s.free := by cases p <;> rfl
@[simp] theorem modPort_nuid : (modPort p f s).nuid = s.nuid := by cases p <;> rfl
@[simp] theorem modPort_outbox : (modPort p f s).outbox = s.outbox := by cases p <;> rfl
@[simp] theorem modPort_boot : (modPort p f s).boot = s.boot := by cases p <;> rfl
@[simp] theorem modPort_fuseLo : (modPort p f s).fuseLo = s.fuseLo := by cases p <;> rfl
@[simp] theorem modPort_fuseHi : (modPort p f s).fuseHi = s.fuseHi := by cases p <;> rfl
@[simp] theorem modPort_cores : (modPort p f s).cores = s.cores := by cases p <;> rfl
@[simp] theorem modPort_bonded : (modPort p f s).bonded = s.bonded := by cases p <;> rfl
@[simp] theorem modPort_parts : (modPort p f s).parts = s.parts := by cases p <;> rfl
@[simp] theorem modPort_windows : (modPort p f s).windows = s.windows := by cases p <;> rfl
@[simp] theorem modPort_tick : (modPort p f s).tick = s.tick := by cases p <;> rfl
@[simp] theorem modPort_conf : (modPort p f s).conf = s.conf := by cases p <;> rfl
@[simp] theorem modPort_jobs : (modPort p f s).jobs = s.jobs := by cases p <;> rfl
@[simp] theorem modPort_images : (modPort p f s).images = s.images := by cases p <;> rfl
@[simp] theorem modPort_pools : (modPort p f s).pools = s.pools := by cases p <;> rfl
@[simp] theorem modPort_kvPools : (modPort p f s).kvPools = s.kvPools := by cases p <;> rfl
@[simp] theorem modPort_seqs : (modPort p f s).seqs = s.seqs := by cases p <;> rfl
@[simp] theorem modPort_seqRecs : (modPort p f s).seqRecs = s.seqRecs := by cases p <;> rfl
@[simp] theorem modPort_leaves : (modPort p f s).leaves = s.leaves := by cases p <;> rfl
@[simp] theorem modPort_rings : (modPort p f s).rings = s.rings := by cases p <;> rfl
@[simp] theorem modPort_layers : (modPort p f s).layers = s.layers := by cases p <;> rfl
@[simp] theorem modPort_routes : (modPort p f s).routes = s.routes := by cases p <;> rfl
@[simp] theorem modPort_xfers : (modPort p f s).xfers = s.xfers := by cases p <;> rfl
@[simp] theorem modPort_buckets : (modPort p f s).buckets = s.buckets := by cases p <;> rfl
@[simp] theorem modPort_waiters : (modPort p f s).waiters = s.waiters := by cases p <;> rfl
@[simp] theorem modPort_host : (modPort p f s).host = s.host := by cases p <;> rfl
@[simp] theorem modPort_power : (modPort p f s).power = s.power := by cases p <;> rfl
@[simp] theorem modPort_secure : (modPort p f s).secure = s.secure := by cases p <;> rfl
@[simp] theorem modPort_events : (modPort p f s).events = s.events := by cases p <;> rfl
@[simp] theorem modPort_test : (modPort p f s).test = s.test := by cases p <;> rfl
@[simp] theorem modPort_digReqs : (modPort p f s).digReqs = s.digReqs := by cases p <;> rfl
@[simp] theorem modPort_memos : (modPort p f s).memos = s.memos := by cases p <;> rfl
@[simp] theorem modPort_flash : (modPort p f s).flash = s.flash := by cases p <;> rfl
@[simp] theorem modPort_flashRows : (modPort p f s).flashRows = s.flashRows := by cases p <;> rfl
@[simp] theorem modPort_tierMem : (modPort p f s).tierMem = s.tierMem := by cases p <;> rfl
@[simp] theorem modPort_tap : (modPort p f s).tap = s.tap := by cases p <;> rfl
@[simp] theorem modPort_links_chip : (modPort p f s).links.chip = s.links.chip := by cases p <;> rfl
@[simp] theorem modPort_links_xdim : (modPort p f s).links.xdim = s.links.xdim := by cases p <;> rfl
@[simp] theorem modPort_links_ydim : (modPort p f s).links.ydim = s.links.ydim := by cases p <;> rfl
@[simp] theorem modPort_links_refused : (modPort p f s).links.refused = s.links.refused := by cases p <;> rfl
@[simp] theorem modPort_links_rx : (modPort p f s).links.rx = s.links.rx := by cases p <;> rfl
@[simp] theorem modPort_links_held : (modPort p f s).links.held = s.links.held := by cases p <;> rfl
@[simp] theorem modPort_links_acks : (modPort p f s).links.acks = s.links.acks := by cases p <;> rfl
end modPort

section setHport
variable (p : HPort) (v : HoPort)
@[simp] theorem setHport_pending : (setHport p v s).pending = s.pending := by cases p <;> rfl
@[simp] theorem setHport_clk : (setHport p v s).clk = s.clk := by cases p <;> rfl
@[simp] theorem setHport_free : (setHport p v s).free = s.free := by cases p <;> rfl
@[simp] theorem setHport_nuid : (setHport p v s).nuid = s.nuid := by cases p <;> rfl
@[simp] theorem setHport_outbox : (setHport p v s).outbox = s.outbox := by cases p <;> rfl
@[simp] theorem setHport_boot : (setHport p v s).boot = s.boot := by cases p <;> rfl
@[simp] theorem setHport_fuseLo : (setHport p v s).fuseLo = s.fuseLo := by cases p <;> rfl
@[simp] theorem setHport_fuseHi : (setHport p v s).fuseHi = s.fuseHi := by cases p <;> rfl
@[simp] theorem setHport_cores : (setHport p v s).cores = s.cores := by cases p <;> rfl
@[simp] theorem setHport_bonded : (setHport p v s).bonded = s.bonded := by cases p <;> rfl
@[simp] theorem setHport_parts : (setHport p v s).parts = s.parts := by cases p <;> rfl
@[simp] theorem setHport_windows : (setHport p v s).windows = s.windows := by cases p <;> rfl
@[simp] theorem setHport_tick : (setHport p v s).tick = s.tick := by cases p <;> rfl
@[simp] theorem setHport_conf : (setHport p v s).conf = s.conf := by cases p <;> rfl
@[simp] theorem setHport_jobs : (setHport p v s).jobs = s.jobs := by cases p <;> rfl
@[simp] theorem setHport_images : (setHport p v s).images = s.images := by cases p <;> rfl
@[simp] theorem setHport_pools : (setHport p v s).pools = s.pools := by cases p <;> rfl
@[simp] theorem setHport_kvPools : (setHport p v s).kvPools = s.kvPools := by cases p <;> rfl
@[simp] theorem setHport_seqs : (setHport p v s).seqs = s.seqs := by cases p <;> rfl
@[simp] theorem setHport_seqRecs : (setHport p v s).seqRecs = s.seqRecs := by cases p <;> rfl
@[simp] theorem setHport_leaves : (setHport p v s).leaves = s.leaves := by cases p <;> rfl
@[simp] theorem setHport_rings : (setHport p v s).rings = s.rings := by cases p <;> rfl
@[simp] theorem setHport_layers : (setHport p v s).layers = s.layers := by cases p <;> rfl
@[simp] theorem setHport_routes : (setHport p v s).routes = s.routes := by cases p <;> rfl
@[simp] theorem setHport_xfers : (setHport p v s).xfers = s.xfers := by cases p <;> rfl
@[simp] theorem setHport_buckets : (setHport p v s).buckets = s.buckets := by cases p <;> rfl
@[simp] theorem setHport_waiters : (setHport p v s).waiters = s.waiters := by cases p <;> rfl
@[simp] theorem setHport_links : (setHport p v s).links = s.links := by cases p <;> rfl
@[simp] theorem setHport_power : (setHport p v s).power = s.power := by cases p <;> rfl
@[simp] theorem setHport_secure : (setHport p v s).secure = s.secure := by cases p <;> rfl
@[simp] theorem setHport_events : (setHport p v s).events = s.events := by cases p <;> rfl
@[simp] theorem setHport_test : (setHport p v s).test = s.test := by cases p <;> rfl
@[simp] theorem setHport_digReqs : (setHport p v s).digReqs = s.digReqs := by cases p <;> rfl
@[simp] theorem setHport_memos : (setHport p v s).memos = s.memos := by cases p <;> rfl
@[simp] theorem setHport_flash : (setHport p v s).flash = s.flash := by cases p <;> rfl
@[simp] theorem setHport_flashRows : (setHport p v s).flashRows = s.flashRows := by cases p <;> rfl
@[simp] theorem setHport_tierMem : (setHport p v s).tierMem = s.tierMem := by cases p <;> rfl
@[simp] theorem setHport_tap : (setHport p v s).tap = s.tap := by cases p <;> rfl
@[simp] theorem setHport_host_dscp : (setHport p v s).host.dscp = s.host.dscp := by cases p <;> rfl
@[simp] theorem setHport_host_cnpDscp : (setHport p v s).host.cnpDscp = s.host.cnpDscp := by cases p <;> rfl
@[simp] theorem setHport_host_ackto : (setHport p v s).host.ackto = s.host.ackto := by cases p <;> rfl
@[simp] theorem setHport_host_retry : (setHport p v s).host.retry = s.host.retry := by cases p <;> rfl
@[simp] theorem setHport_host_ecn : (setHport p v s).host.ecn = s.host.ecn := by cases p <;> rfl
@[simp] theorem setHport_host_tagFail : (setHport p v s).host.tagFail = s.host.tagFail := by cases p <;> rfl
@[simp] theorem setHport_host_owner : (setHport p v s).host.owner = s.host.owner := by cases p <;> rfl
@[simp] theorem setHport_host_maxqp : (setHport p v s).host.maxqp = s.host.maxqp := by cases p <;> rfl
@[simp] theorem setHport_host_qps : (setHport p v s).host.qps = s.host.qps := by cases p <;> rfl
end setHport

section modHport
variable (p : HPort) (f : HoPort → HoPort)
@[simp] theorem modHport_pending : (modHport p f s).pending = s.pending := by cases p <;> rfl
@[simp] theorem modHport_clk : (modHport p f s).clk = s.clk := by cases p <;> rfl
@[simp] theorem modHport_free : (modHport p f s).free = s.free := by cases p <;> rfl
@[simp] theorem modHport_nuid : (modHport p f s).nuid = s.nuid := by cases p <;> rfl
@[simp] theorem modHport_outbox : (modHport p f s).outbox = s.outbox := by cases p <;> rfl
@[simp] theorem modHport_boot : (modHport p f s).boot = s.boot := by cases p <;> rfl
@[simp] theorem modHport_fuseLo : (modHport p f s).fuseLo = s.fuseLo := by cases p <;> rfl
@[simp] theorem modHport_fuseHi : (modHport p f s).fuseHi = s.fuseHi := by cases p <;> rfl
@[simp] theorem modHport_cores : (modHport p f s).cores = s.cores := by cases p <;> rfl
@[simp] theorem modHport_bonded : (modHport p f s).bonded = s.bonded := by cases p <;> rfl
@[simp] theorem modHport_parts : (modHport p f s).parts = s.parts := by cases p <;> rfl
@[simp] theorem modHport_windows : (modHport p f s).windows = s.windows := by cases p <;> rfl
@[simp] theorem modHport_tick : (modHport p f s).tick = s.tick := by cases p <;> rfl
@[simp] theorem modHport_conf : (modHport p f s).conf = s.conf := by cases p <;> rfl
@[simp] theorem modHport_jobs : (modHport p f s).jobs = s.jobs := by cases p <;> rfl
@[simp] theorem modHport_images : (modHport p f s).images = s.images := by cases p <;> rfl
@[simp] theorem modHport_pools : (modHport p f s).pools = s.pools := by cases p <;> rfl
@[simp] theorem modHport_kvPools : (modHport p f s).kvPools = s.kvPools := by cases p <;> rfl
@[simp] theorem modHport_seqs : (modHport p f s).seqs = s.seqs := by cases p <;> rfl
@[simp] theorem modHport_seqRecs : (modHport p f s).seqRecs = s.seqRecs := by cases p <;> rfl
@[simp] theorem modHport_leaves : (modHport p f s).leaves = s.leaves := by cases p <;> rfl
@[simp] theorem modHport_rings : (modHport p f s).rings = s.rings := by cases p <;> rfl
@[simp] theorem modHport_layers : (modHport p f s).layers = s.layers := by cases p <;> rfl
@[simp] theorem modHport_routes : (modHport p f s).routes = s.routes := by cases p <;> rfl
@[simp] theorem modHport_xfers : (modHport p f s).xfers = s.xfers := by cases p <;> rfl
@[simp] theorem modHport_buckets : (modHport p f s).buckets = s.buckets := by cases p <;> rfl
@[simp] theorem modHport_waiters : (modHport p f s).waiters = s.waiters := by cases p <;> rfl
@[simp] theorem modHport_links : (modHport p f s).links = s.links := by cases p <;> rfl
@[simp] theorem modHport_power : (modHport p f s).power = s.power := by cases p <;> rfl
@[simp] theorem modHport_secure : (modHport p f s).secure = s.secure := by cases p <;> rfl
@[simp] theorem modHport_events : (modHport p f s).events = s.events := by cases p <;> rfl
@[simp] theorem modHport_test : (modHport p f s).test = s.test := by cases p <;> rfl
@[simp] theorem modHport_digReqs : (modHport p f s).digReqs = s.digReqs := by cases p <;> rfl
@[simp] theorem modHport_memos : (modHport p f s).memos = s.memos := by cases p <;> rfl
@[simp] theorem modHport_flash : (modHport p f s).flash = s.flash := by cases p <;> rfl
@[simp] theorem modHport_flashRows : (modHport p f s).flashRows = s.flashRows := by cases p <;> rfl
@[simp] theorem modHport_tierMem : (modHport p f s).tierMem = s.tierMem := by cases p <;> rfl
@[simp] theorem modHport_tap : (modHport p f s).tap = s.tap := by cases p <;> rfl
@[simp] theorem modHport_host_dscp : (modHport p f s).host.dscp = s.host.dscp := by cases p <;> rfl
@[simp] theorem modHport_host_cnpDscp : (modHport p f s).host.cnpDscp = s.host.cnpDscp := by cases p <;> rfl
@[simp] theorem modHport_host_ackto : (modHport p f s).host.ackto = s.host.ackto := by cases p <;> rfl
@[simp] theorem modHport_host_retry : (modHport p f s).host.retry = s.host.retry := by cases p <;> rfl
@[simp] theorem modHport_host_ecn : (modHport p f s).host.ecn = s.host.ecn := by cases p <;> rfl
@[simp] theorem modHport_host_tagFail : (modHport p f s).host.tagFail = s.host.tagFail := by cases p <;> rfl
@[simp] theorem modHport_host_owner : (modHport p f s).host.owner = s.host.owner := by cases p <;> rfl
@[simp] theorem modHport_host_maxqp : (modHport p f s).host.maxqp = s.host.maxqp := by cases p <;> rfl
@[simp] theorem modHport_host_qps : (modHport p f s).host.qps = s.host.qps := by cases p <;> rfl
end modHport

/-! ### Reading back -/

@[simp] theorem getPort_setPort (p q : BPort) (v : BkPort) : getPort (setPort p v s) q = if q = p then v else getPort s q := by
  cases p <;> cases q <;> rfl
@[simp] theorem getHport_setHport (p q : HPort) (v : HoPort) : getHport (setHport p v s) q = if q = p then v else getHport s q := by
  cases p <;> cases q <;> rfl
@[simp] theorem setPort_setPort (p : BPort) (v w : BkPort) : setPort p w (setPort p v s) = setPort p w s := by cases p <;> rfl
@[simp] theorem setHport_setHport (p : HPort) (v w : HoPort) : setHport p w (setHport p v s) = setHport p w s := by cases p <;> rfl
@[simp] theorem setPort_getPort (p : BPort) : setPort p (getPort s p) s = s := by cases p <;> rfl

/-! ### Events (20 R533) -/

/-- Raising an event changes the event stream alone. -/
theorem raiseI_only (inj : Bool) (kind idx : Nat) (part : Option Nat) (code arg : Nat) :
    ∃ e, raiseI inj kind idx part code arg s = { s with events := e } := by
  unfold raiseI pushEvent
  dsimp only
  repeat' split
  all_goals exact ⟨_, rfl⟩

theorem raise_only (kind idx : Nat) (part : Option Nat) (code arg : Nat) : ∃ e, raise kind idx part code arg s = { s with events := e } :=
  raiseI_only s false kind idx part code arg

theorem ovfEvent_only (b : Bool) (a : Nat) : ∃ e, ovfEvent b a s = { s with events := e } := by
  unfold ovfEvent
  split
  · exact raise_only s _ _ _ _ _
  · exact ⟨s.events, rfl⟩

@[simp] theorem ovfEvent_false (a : Nat) : ovfEvent false a s = s := rfl

section raiseI
variable (inj : Bool) (kind idx : Nat) (part : Option Nat) (code arg : Nat)
@[simp] theorem raiseI_pending : (raiseI inj kind idx part code arg s).pending = s.pending := by obtain ⟨e, h⟩ := raiseI_only s inj kind idx part code arg; rw [h]
@[simp] theorem raiseI_clk : (raiseI inj kind idx part code arg s).clk = s.clk := by obtain ⟨e, h⟩ := raiseI_only s inj kind idx part code arg; rw [h]
@[simp] theorem raiseI_free : (raiseI inj kind idx part code arg s).free = s.free := by obtain ⟨e, h⟩ := raiseI_only s inj kind idx part code arg; rw [h]
@[simp] theorem raiseI_nuid : (raiseI inj kind idx part code arg s).nuid = s.nuid := by obtain ⟨e, h⟩ := raiseI_only s inj kind idx part code arg; rw [h]
@[simp] theorem raiseI_outbox : (raiseI inj kind idx part code arg s).outbox = s.outbox := by obtain ⟨e, h⟩ := raiseI_only s inj kind idx part code arg; rw [h]
@[simp] theorem raiseI_boot : (raiseI inj kind idx part code arg s).boot = s.boot := by obtain ⟨e, h⟩ := raiseI_only s inj kind idx part code arg; rw [h]
@[simp] theorem raiseI_fuseLo : (raiseI inj kind idx part code arg s).fuseLo = s.fuseLo := by obtain ⟨e, h⟩ := raiseI_only s inj kind idx part code arg; rw [h]
@[simp] theorem raiseI_fuseHi : (raiseI inj kind idx part code arg s).fuseHi = s.fuseHi := by obtain ⟨e, h⟩ := raiseI_only s inj kind idx part code arg; rw [h]
@[simp] theorem raiseI_cores : (raiseI inj kind idx part code arg s).cores = s.cores := by obtain ⟨e, h⟩ := raiseI_only s inj kind idx part code arg; rw [h]
@[simp] theorem raiseI_bonded : (raiseI inj kind idx part code arg s).bonded = s.bonded := by obtain ⟨e, h⟩ := raiseI_only s inj kind idx part code arg; rw [h]
@[simp] theorem raiseI_parts : (raiseI inj kind idx part code arg s).parts = s.parts := by obtain ⟨e, h⟩ := raiseI_only s inj kind idx part code arg; rw [h]
@[simp] theorem raiseI_windows : (raiseI inj kind idx part code arg s).windows = s.windows := by obtain ⟨e, h⟩ := raiseI_only s inj kind idx part code arg; rw [h]
@[simp] theorem raiseI_tick : (raiseI inj kind idx part code arg s).tick = s.tick := by obtain ⟨e, h⟩ := raiseI_only s inj kind idx part code arg; rw [h]
@[simp] theorem raiseI_conf : (raiseI inj kind idx part code arg s).conf = s.conf := by obtain ⟨e, h⟩ := raiseI_only s inj kind idx part code arg; rw [h]
@[simp] theorem raiseI_jobs : (raiseI inj kind idx part code arg s).jobs = s.jobs := by obtain ⟨e, h⟩ := raiseI_only s inj kind idx part code arg; rw [h]
@[simp] theorem raiseI_images : (raiseI inj kind idx part code arg s).images = s.images := by obtain ⟨e, h⟩ := raiseI_only s inj kind idx part code arg; rw [h]
@[simp] theorem raiseI_pools : (raiseI inj kind idx part code arg s).pools = s.pools := by obtain ⟨e, h⟩ := raiseI_only s inj kind idx part code arg; rw [h]
@[simp] theorem raiseI_kvPools : (raiseI inj kind idx part code arg s).kvPools = s.kvPools := by obtain ⟨e, h⟩ := raiseI_only s inj kind idx part code arg; rw [h]
@[simp] theorem raiseI_seqs : (raiseI inj kind idx part code arg s).seqs = s.seqs := by obtain ⟨e, h⟩ := raiseI_only s inj kind idx part code arg; rw [h]
@[simp] theorem raiseI_seqRecs : (raiseI inj kind idx part code arg s).seqRecs = s.seqRecs := by obtain ⟨e, h⟩ := raiseI_only s inj kind idx part code arg; rw [h]
@[simp] theorem raiseI_leaves : (raiseI inj kind idx part code arg s).leaves = s.leaves := by obtain ⟨e, h⟩ := raiseI_only s inj kind idx part code arg; rw [h]
@[simp] theorem raiseI_rings : (raiseI inj kind idx part code arg s).rings = s.rings := by obtain ⟨e, h⟩ := raiseI_only s inj kind idx part code arg; rw [h]
@[simp] theorem raiseI_layers : (raiseI inj kind idx part code arg s).layers = s.layers := by obtain ⟨e, h⟩ := raiseI_only s inj kind idx part code arg; rw [h]
@[simp] theorem raiseI_routes : (raiseI inj kind idx part code arg s).routes = s.routes := by obtain ⟨e, h⟩ := raiseI_only s inj kind idx part code arg; rw [h]
@[simp] theorem raiseI_xfers : (raiseI inj kind idx part code arg s).xfers = s.xfers := by obtain ⟨e, h⟩ := raiseI_only s inj kind idx part code arg; rw [h]
@[simp] theorem raiseI_buckets : (raiseI inj kind idx part code arg s).buckets = s.buckets := by obtain ⟨e, h⟩ := raiseI_only s inj kind idx part code arg; rw [h]
@[simp] theorem raiseI_waiters : (raiseI inj kind idx part code arg s).waiters = s.waiters := by obtain ⟨e, h⟩ := raiseI_only s inj kind idx part code arg; rw [h]
@[simp] theorem raiseI_links : (raiseI inj kind idx part code arg s).links = s.links := by obtain ⟨e, h⟩ := raiseI_only s inj kind idx part code arg; rw [h]
@[simp] theorem raiseI_host : (raiseI inj kind idx part code arg s).host = s.host := by obtain ⟨e, h⟩ := raiseI_only s inj kind idx part code arg; rw [h]
@[simp] theorem raiseI_power : (raiseI inj kind idx part code arg s).power = s.power := by obtain ⟨e, h⟩ := raiseI_only s inj kind idx part code arg; rw [h]
@[simp] theorem raiseI_secure : (raiseI inj kind idx part code arg s).secure = s.secure := by obtain ⟨e, h⟩ := raiseI_only s inj kind idx part code arg; rw [h]
@[simp] theorem raiseI_test : (raiseI inj kind idx part code arg s).test = s.test := by obtain ⟨e, h⟩ := raiseI_only s inj kind idx part code arg; rw [h]
@[simp] theorem raiseI_digReqs : (raiseI inj kind idx part code arg s).digReqs = s.digReqs := by obtain ⟨e, h⟩ := raiseI_only s inj kind idx part code arg; rw [h]
@[simp] theorem raiseI_memos : (raiseI inj kind idx part code arg s).memos = s.memos := by obtain ⟨e, h⟩ := raiseI_only s inj kind idx part code arg; rw [h]
@[simp] theorem raiseI_flash : (raiseI inj kind idx part code arg s).flash = s.flash := by obtain ⟨e, h⟩ := raiseI_only s inj kind idx part code arg; rw [h]
@[simp] theorem raiseI_flashRows : (raiseI inj kind idx part code arg s).flashRows = s.flashRows := by obtain ⟨e, h⟩ := raiseI_only s inj kind idx part code arg; rw [h]
@[simp] theorem raiseI_tierMem : (raiseI inj kind idx part code arg s).tierMem = s.tierMem := by obtain ⟨e, h⟩ := raiseI_only s inj kind idx part code arg; rw [h]
@[simp] theorem raiseI_tap : (raiseI inj kind idx part code arg s).tap = s.tap := by obtain ⟨e, h⟩ := raiseI_only s inj kind idx part code arg; rw [h]
end raiseI

section raise
variable (kind idx : Nat) (part : Option Nat) (code arg : Nat)
@[simp] theorem raise_pending : (raise kind idx part code arg s).pending = s.pending := by obtain ⟨e, h⟩ := raise_only s kind idx part code arg; rw [h]
@[simp] theorem raise_clk : (raise kind idx part code arg s).clk = s.clk := by obtain ⟨e, h⟩ := raise_only s kind idx part code arg; rw [h]
@[simp] theorem raise_free : (raise kind idx part code arg s).free = s.free := by obtain ⟨e, h⟩ := raise_only s kind idx part code arg; rw [h]
@[simp] theorem raise_nuid : (raise kind idx part code arg s).nuid = s.nuid := by obtain ⟨e, h⟩ := raise_only s kind idx part code arg; rw [h]
@[simp] theorem raise_outbox : (raise kind idx part code arg s).outbox = s.outbox := by obtain ⟨e, h⟩ := raise_only s kind idx part code arg; rw [h]
@[simp] theorem raise_boot : (raise kind idx part code arg s).boot = s.boot := by obtain ⟨e, h⟩ := raise_only s kind idx part code arg; rw [h]
@[simp] theorem raise_fuseLo : (raise kind idx part code arg s).fuseLo = s.fuseLo := by obtain ⟨e, h⟩ := raise_only s kind idx part code arg; rw [h]
@[simp] theorem raise_fuseHi : (raise kind idx part code arg s).fuseHi = s.fuseHi := by obtain ⟨e, h⟩ := raise_only s kind idx part code arg; rw [h]
@[simp] theorem raise_cores : (raise kind idx part code arg s).cores = s.cores := by obtain ⟨e, h⟩ := raise_only s kind idx part code arg; rw [h]
@[simp] theorem raise_bonded : (raise kind idx part code arg s).bonded = s.bonded := by obtain ⟨e, h⟩ := raise_only s kind idx part code arg; rw [h]
@[simp] theorem raise_parts : (raise kind idx part code arg s).parts = s.parts := by obtain ⟨e, h⟩ := raise_only s kind idx part code arg; rw [h]
@[simp] theorem raise_windows : (raise kind idx part code arg s).windows = s.windows := by obtain ⟨e, h⟩ := raise_only s kind idx part code arg; rw [h]
@[simp] theorem raise_tick : (raise kind idx part code arg s).tick = s.tick := by obtain ⟨e, h⟩ := raise_only s kind idx part code arg; rw [h]
@[simp] theorem raise_conf : (raise kind idx part code arg s).conf = s.conf := by obtain ⟨e, h⟩ := raise_only s kind idx part code arg; rw [h]
@[simp] theorem raise_jobs : (raise kind idx part code arg s).jobs = s.jobs := by obtain ⟨e, h⟩ := raise_only s kind idx part code arg; rw [h]
@[simp] theorem raise_images : (raise kind idx part code arg s).images = s.images := by obtain ⟨e, h⟩ := raise_only s kind idx part code arg; rw [h]
@[simp] theorem raise_pools : (raise kind idx part code arg s).pools = s.pools := by obtain ⟨e, h⟩ := raise_only s kind idx part code arg; rw [h]
@[simp] theorem raise_kvPools : (raise kind idx part code arg s).kvPools = s.kvPools := by obtain ⟨e, h⟩ := raise_only s kind idx part code arg; rw [h]
@[simp] theorem raise_seqs : (raise kind idx part code arg s).seqs = s.seqs := by obtain ⟨e, h⟩ := raise_only s kind idx part code arg; rw [h]
@[simp] theorem raise_seqRecs : (raise kind idx part code arg s).seqRecs = s.seqRecs := by obtain ⟨e, h⟩ := raise_only s kind idx part code arg; rw [h]
@[simp] theorem raise_leaves : (raise kind idx part code arg s).leaves = s.leaves := by obtain ⟨e, h⟩ := raise_only s kind idx part code arg; rw [h]
@[simp] theorem raise_rings : (raise kind idx part code arg s).rings = s.rings := by obtain ⟨e, h⟩ := raise_only s kind idx part code arg; rw [h]
@[simp] theorem raise_layers : (raise kind idx part code arg s).layers = s.layers := by obtain ⟨e, h⟩ := raise_only s kind idx part code arg; rw [h]
@[simp] theorem raise_routes : (raise kind idx part code arg s).routes = s.routes := by obtain ⟨e, h⟩ := raise_only s kind idx part code arg; rw [h]
@[simp] theorem raise_xfers : (raise kind idx part code arg s).xfers = s.xfers := by obtain ⟨e, h⟩ := raise_only s kind idx part code arg; rw [h]
@[simp] theorem raise_buckets : (raise kind idx part code arg s).buckets = s.buckets := by obtain ⟨e, h⟩ := raise_only s kind idx part code arg; rw [h]
@[simp] theorem raise_waiters : (raise kind idx part code arg s).waiters = s.waiters := by obtain ⟨e, h⟩ := raise_only s kind idx part code arg; rw [h]
@[simp] theorem raise_links : (raise kind idx part code arg s).links = s.links := by obtain ⟨e, h⟩ := raise_only s kind idx part code arg; rw [h]
@[simp] theorem raise_host : (raise kind idx part code arg s).host = s.host := by obtain ⟨e, h⟩ := raise_only s kind idx part code arg; rw [h]
@[simp] theorem raise_power : (raise kind idx part code arg s).power = s.power := by obtain ⟨e, h⟩ := raise_only s kind idx part code arg; rw [h]
@[simp] theorem raise_secure : (raise kind idx part code arg s).secure = s.secure := by obtain ⟨e, h⟩ := raise_only s kind idx part code arg; rw [h]
@[simp] theorem raise_test : (raise kind idx part code arg s).test = s.test := by obtain ⟨e, h⟩ := raise_only s kind idx part code arg; rw [h]
@[simp] theorem raise_digReqs : (raise kind idx part code arg s).digReqs = s.digReqs := by obtain ⟨e, h⟩ := raise_only s kind idx part code arg; rw [h]
@[simp] theorem raise_memos : (raise kind idx part code arg s).memos = s.memos := by obtain ⟨e, h⟩ := raise_only s kind idx part code arg; rw [h]
@[simp] theorem raise_flash : (raise kind idx part code arg s).flash = s.flash := by obtain ⟨e, h⟩ := raise_only s kind idx part code arg; rw [h]
@[simp] theorem raise_flashRows : (raise kind idx part code arg s).flashRows = s.flashRows := by obtain ⟨e, h⟩ := raise_only s kind idx part code arg; rw [h]
@[simp] theorem raise_tierMem : (raise kind idx part code arg s).tierMem = s.tierMem := by obtain ⟨e, h⟩ := raise_only s kind idx part code arg; rw [h]
@[simp] theorem raise_tap : (raise kind idx part code arg s).tap = s.tap := by obtain ⟨e, h⟩ := raise_only s kind idx part code arg; rw [h]
end raise

section ovfEvent
variable (b : Bool) (a : Nat)
@[simp] theorem ovfEvent_pending : (ovfEvent b a s).pending = s.pending := by obtain ⟨e, h⟩ := ovfEvent_only s b a; rw [h]
@[simp] theorem ovfEvent_clk : (ovfEvent b a s).clk = s.clk := by obtain ⟨e, h⟩ := ovfEvent_only s b a; rw [h]
@[simp] theorem ovfEvent_free : (ovfEvent b a s).free = s.free := by obtain ⟨e, h⟩ := ovfEvent_only s b a; rw [h]
@[simp] theorem ovfEvent_nuid : (ovfEvent b a s).nuid = s.nuid := by obtain ⟨e, h⟩ := ovfEvent_only s b a; rw [h]
@[simp] theorem ovfEvent_outbox : (ovfEvent b a s).outbox = s.outbox := by obtain ⟨e, h⟩ := ovfEvent_only s b a; rw [h]
@[simp] theorem ovfEvent_boot : (ovfEvent b a s).boot = s.boot := by obtain ⟨e, h⟩ := ovfEvent_only s b a; rw [h]
@[simp] theorem ovfEvent_fuseLo : (ovfEvent b a s).fuseLo = s.fuseLo := by obtain ⟨e, h⟩ := ovfEvent_only s b a; rw [h]
@[simp] theorem ovfEvent_fuseHi : (ovfEvent b a s).fuseHi = s.fuseHi := by obtain ⟨e, h⟩ := ovfEvent_only s b a; rw [h]
@[simp] theorem ovfEvent_cores : (ovfEvent b a s).cores = s.cores := by obtain ⟨e, h⟩ := ovfEvent_only s b a; rw [h]
@[simp] theorem ovfEvent_bonded : (ovfEvent b a s).bonded = s.bonded := by obtain ⟨e, h⟩ := ovfEvent_only s b a; rw [h]
@[simp] theorem ovfEvent_parts : (ovfEvent b a s).parts = s.parts := by obtain ⟨e, h⟩ := ovfEvent_only s b a; rw [h]
@[simp] theorem ovfEvent_windows : (ovfEvent b a s).windows = s.windows := by obtain ⟨e, h⟩ := ovfEvent_only s b a; rw [h]
@[simp] theorem ovfEvent_tick : (ovfEvent b a s).tick = s.tick := by obtain ⟨e, h⟩ := ovfEvent_only s b a; rw [h]
@[simp] theorem ovfEvent_conf : (ovfEvent b a s).conf = s.conf := by obtain ⟨e, h⟩ := ovfEvent_only s b a; rw [h]
@[simp] theorem ovfEvent_jobs : (ovfEvent b a s).jobs = s.jobs := by obtain ⟨e, h⟩ := ovfEvent_only s b a; rw [h]
@[simp] theorem ovfEvent_images : (ovfEvent b a s).images = s.images := by obtain ⟨e, h⟩ := ovfEvent_only s b a; rw [h]
@[simp] theorem ovfEvent_pools : (ovfEvent b a s).pools = s.pools := by obtain ⟨e, h⟩ := ovfEvent_only s b a; rw [h]
@[simp] theorem ovfEvent_kvPools : (ovfEvent b a s).kvPools = s.kvPools := by obtain ⟨e, h⟩ := ovfEvent_only s b a; rw [h]
@[simp] theorem ovfEvent_seqs : (ovfEvent b a s).seqs = s.seqs := by obtain ⟨e, h⟩ := ovfEvent_only s b a; rw [h]
@[simp] theorem ovfEvent_seqRecs : (ovfEvent b a s).seqRecs = s.seqRecs := by obtain ⟨e, h⟩ := ovfEvent_only s b a; rw [h]
@[simp] theorem ovfEvent_leaves : (ovfEvent b a s).leaves = s.leaves := by obtain ⟨e, h⟩ := ovfEvent_only s b a; rw [h]
@[simp] theorem ovfEvent_rings : (ovfEvent b a s).rings = s.rings := by obtain ⟨e, h⟩ := ovfEvent_only s b a; rw [h]
@[simp] theorem ovfEvent_layers : (ovfEvent b a s).layers = s.layers := by obtain ⟨e, h⟩ := ovfEvent_only s b a; rw [h]
@[simp] theorem ovfEvent_routes : (ovfEvent b a s).routes = s.routes := by obtain ⟨e, h⟩ := ovfEvent_only s b a; rw [h]
@[simp] theorem ovfEvent_xfers : (ovfEvent b a s).xfers = s.xfers := by obtain ⟨e, h⟩ := ovfEvent_only s b a; rw [h]
@[simp] theorem ovfEvent_buckets : (ovfEvent b a s).buckets = s.buckets := by obtain ⟨e, h⟩ := ovfEvent_only s b a; rw [h]
@[simp] theorem ovfEvent_waiters : (ovfEvent b a s).waiters = s.waiters := by obtain ⟨e, h⟩ := ovfEvent_only s b a; rw [h]
@[simp] theorem ovfEvent_links : (ovfEvent b a s).links = s.links := by obtain ⟨e, h⟩ := ovfEvent_only s b a; rw [h]
@[simp] theorem ovfEvent_host : (ovfEvent b a s).host = s.host := by obtain ⟨e, h⟩ := ovfEvent_only s b a; rw [h]
@[simp] theorem ovfEvent_power : (ovfEvent b a s).power = s.power := by obtain ⟨e, h⟩ := ovfEvent_only s b a; rw [h]
@[simp] theorem ovfEvent_secure : (ovfEvent b a s).secure = s.secure := by obtain ⟨e, h⟩ := ovfEvent_only s b a; rw [h]
@[simp] theorem ovfEvent_test : (ovfEvent b a s).test = s.test := by obtain ⟨e, h⟩ := ovfEvent_only s b a; rw [h]
@[simp] theorem ovfEvent_digReqs : (ovfEvent b a s).digReqs = s.digReqs := by obtain ⟨e, h⟩ := ovfEvent_only s b a; rw [h]
@[simp] theorem ovfEvent_memos : (ovfEvent b a s).memos = s.memos := by obtain ⟨e, h⟩ := ovfEvent_only s b a; rw [h]
@[simp] theorem ovfEvent_flash : (ovfEvent b a s).flash = s.flash := by obtain ⟨e, h⟩ := ovfEvent_only s b a; rw [h]
@[simp] theorem ovfEvent_flashRows : (ovfEvent b a s).flashRows = s.flashRows := by obtain ⟨e, h⟩ := ovfEvent_only s b a; rw [h]
@[simp] theorem ovfEvent_tierMem : (ovfEvent b a s).tierMem = s.tierMem := by obtain ⟨e, h⟩ := ovfEvent_only s b a; rw [h]
@[simp] theorem ovfEvent_tap : (ovfEvent b a s).tap = s.tap := by obtain ⟨e, h⟩ := ovfEvent_only s b a; rw [h]
end ovfEvent

end Sys2Proof.Laws
end

