-- ==== Sys2Proof/Laws/Memory.lean ====
section
/-! SUPPORT. What reads give after writes of the state's parts, and that the memory operations keep the canonical form. Bonded memory
changes by `bPut` and `zeroGranule` alone, and is cleared by a reset. -/

namespace Sys2Proof.Laws

open Sys2Proof Sys2Proof.Machine

/-! ### Parts of the state -/

theorem getCore_setCore {s : State} (h : smapWf Core.reset s.cores = true) (n m : Nat) (c : Core) :
    getCore (setCore n c s) m = if m = n then c else getCore s m :=
  get_set n m c (canon_of_wf _ _ h)

theorem getPart_setPart {s : State} (h : smapWf Part.reset s.parts = true) (n m : Nat) (v : Part) :
    getPart (setPart n v s) m = if m = n then v else getPart s m :=
  get_set n m v (canon_of_wf _ _ h)

theorem getSlice_setSlice {s : State} (h : smapWf Slice.reset s.bonded.slices = true) (n m : Nat) (v : Slice) :
    getSlice (setSlice n v s) m = if m = n then v else getSlice s m :=
  get_set n m v (canon_of_wf _ _ h)

theorem getQuad_setQuad {s : State} (h : smapWf Quad.reset s.power.quads = true) (n m : Nat) (v : Quad) :
    getQuad (setQuad n v s) m = if m = n then v else getQuad s m :=
  get_set n m v (canon_of_wf _ _ h)

theorem getQp_setQp {s : State} (h : smapWf Qp.reset s.host.qps = true) (n m : Nat) (v : Qp) :
    getQp (setQp n v s) m = if m = n then v else getQp s m :=
  get_set n m v (canon_of_wf _ _ h)

theorem getWin_setWin {s : State} (h : smapWf Window.reset s.windows = true) (n m : Nat) (v : Window) :
    getWin (setWin n v s) m = if m = n then v else getWin s m :=
  get_set n m v (canon_of_wf _ _ h)

theorem tokens_setTokens {s : State} (h : smapWf 0 s.buckets = true) (p u q w : Nat) (v : Int) :
    tokens (setTokens p u v s) q w = if bucketKey q w = bucketKey p u then v else tokens s q w :=
  get_set _ _ v (canon_of_wf _ _ h)

theorem wf_set {α : Type} [DecidableEq α] {d : α} {m : SMap α} (n : Nat) (v : α) (h : smapWf d m = true) : smapWf d (smapSet d m n v) = true :=
  wf_of_canon d _ 0 (canon_set n v (canon_of_wf d m h) (Nat.zero_le n))

theorem wf_put {α : Type} [DecidableEq α] {d : α} {m : SMap α} (b : Nat) (vs : List α) (h : smapWf d m = true) : smapWf d (smapPut d m b vs) = true :=
  wf_of_canon d _ 0 (canon_put b vs (canon_of_wf d m h))

theorem wf_clear {α : Type} [DecidableEq α] {d : α} {m : SMap α} {lo hi : Nat} (hl : lo ≤ hi) (h : smapWf d m = true) :
    smapWf d (smapClear m lo hi) = true :=
  wf_of_canon d _ 0 (canon_clear lo hi hl (canon_of_wf d m h))

/-! ### Bonded memory -/

/-- `bPut` changes the bytes and their parity, nothing else. -/
theorem bPut_only (a : Nat) (bs : List Byte) (s : State) :
    bPut a bs s = { s with bonded := { s.bonded with
      mem := smapPut 0 s.bonded.mem a bs, bad := smapClear s.bonded.bad a (a + bs.length) } } := rfl

theorem bPut_keeps_form {s : State} (a : Nat) (bs : List Byte) (h : Memory.wf s = true) : Memory.wf (bPut a bs s) = true :=
  wf_put a bs h

/-- `clearPoison` changes the page's poison marks, nothing else. -/
theorem clearPoison_only (pg : Nat) (s : State) : ∃ p w q, clearPoison pg s = { s with bonded := { s.bonded with
    poison := p, wayDone := w, poisoned := q } } := by
  unfold clearPoison
  split
  · exact ⟨_, _, _, rfl⟩
  · exact ⟨_, _, _, rfl⟩

theorem clearPoisons_only (l : List (Nat × Bool)) (s : State) : ∃ p w q,
    l.foldl (fun s e => clearPoison e.1 s) s = { s with bonded := { s.bonded with poison := p, wayDone := w, poisoned := q } } := by
  induction l generalizing s with
  | nil => exact ⟨_, _, _, rfl⟩
  | cons e t ih =>
    obtain ⟨p, w, q, h⟩ := clearPoison_only e.1 s
    obtain ⟨p', w', q', h'⟩ := ih (clearPoison e.1 s)
    refine ⟨p', w', q', ?_⟩
    rw [List.foldl_cons, h', h]

/-- `zeroGranule` clears a granule's bytes and their parity, poison marks and memos, and counts the bytes at a slice; nothing else. -/
theorem zeroGranule_only (g : Nat) (s : State) : ∃ p w q sl m i, zeroGranule g s = { s with
    memos := m, secure := { s.secure with imgMemo := i }
    bonded := { s.bonded with
      mem := smapClear s.bonded.mem (g * granSize) (g * granSize + granSize)
      bad := smapClear s.bonded.bad (g * granSize) (g * granSize + granSize)
      poison := p, wayDone := w, poisoned := q, slices := sl } } := by
  obtain ⟨p, w, q, h⟩ := clearPoisons_only (smapFrom (smapBelow s.bonded.poison (g * 512 + 512)) (g * 512))
    (let s := memoTouch (g * granSize) granSize (cntWrite (sliceOfGran g) granSize s)
     { s with bonded := { s.bonded with
        mem := smapClear s.bonded.mem (g * granSize) (g * granSize + granSize)
        bad := smapClear s.bonded.bad (g * granSize) (g * granSize + granSize) } })
  exact ⟨p, w, q, _, _, _, h⟩

theorem zeroGranule_keeps_form {s : State} (g : Nat) (h : Memory.wf s = true) : Memory.wf (zeroGranule g s) = true := by
  obtain ⟨p, w, q, _, _, _, e⟩ := zeroGranule_only g s
  rw [e]
  exact wf_clear (Nat.le_add_right _ _) h

/-! ### The scratchpad -/

/-- Bytes put into a scratchpad read back; the others stay. -/
theorem spadPut_reads {c : Core} (h : smapWf 0 c.spad = true) (a : Nat) (bs : List Byte) (x : Nat) :
    smapGet 0 (spadPut a bs c).spad x = if a ≤ x ∧ x < a + bs.length then bs.getD (x - a) 0 else smapGet 0 c.spad x :=
  get_put a bs (canon_of_wf _ _ h) x

theorem spadPut_keeps_form {c : Core} (h : smapWf 0 c.spad = true) (a : Nat) (bs : List Byte) :
    smapWf 0 (spadPut a bs c).spad = true :=
  wf_put a bs h

end Sys2Proof.Laws
end

