-- ==== Sys2Proof/Laws/Fault.lean ====
section
/-! SUPPORT. What a fault, a semaphore signal and the passing of time can change. -/

namespace Sys2Proof.Laws

open Sys2Proof Sys2Proof.Machine

/-- The first fault of a job that runs or drains ends it at this clk and lets issue go (03 R87). -/
theorem takeFault_first {s : State} {n : Nat} {j : CoreJob} (seq code trap : Nat) (fpc : W64) (hj : (getCore s n).job = some j)
    (hf : (getCore s n).fault = none) (hs : canFault j.st = true) :
    takeFault n seq code trap fpc s = setCore n { getCore s n with
      fault := some { seq := seq, code := code, trap := trap, fpc := fpc, spc := (getCore s n).pc, more := 0 }
      hold := .none
      job := some { j with st := if code = 5 then .rolledBack else .faulted, endAt := s.clk } } s := by
  simp [takeFault, hj, hf, hs]

/-- With no job on the core a fault changes nothing. -/
theorem takeFault_idle {s : State} {n : Nat} (seq code trap : Nat) (fpc : W64) (hj : (getCore s n).job = none) :
    takeFault n seq code trap fpc s = s := by
  simp [takeFault, hj]

/-- Whatever it finds, a fault changes one core alone: its fault record, its hold and its job. -/
theorem takeFault_only (n seq code trap : Nat) (fpc : W64) (s : State) :
    takeFault n seq code trap fpc s = s ∨ ∃ f h j, takeFault n seq code trap fpc s
      = setCore n { getCore s n with fault := f, hold := h, job := j } s := by
  unfold takeFault
  dsimp only
  split
  · exact .inl rfl
  · rename_i j hj
    split
    · split
      · exact .inr ⟨_, _, _, rfl⟩
      · refine .inr ⟨_, (getCore s n).hold, (getCore s n).job, rfl⟩
    · split
      · exact .inr ⟨_, _, _, rfl⟩
      · exact .inl rfl

/-- A fault keeps the canonical form of the cores. -/
theorem takeFault_keeps_form {s : State} (n seq code trap : Nat) (fpc : W64) (h : smapWf Core.reset s.cores = true) :
    smapWf Core.reset (takeFault n seq code trap fpc s).cores = true := by
  rcases takeFault_only n seq code trap fpc s with e | ⟨f, g, j, e⟩ <;> rw [e]
  · exact h
  · exact wf_set n _ h

/-- A fault of core n leaves every other core. -/
theorem takeFault_other {s : State} {n m : Nat} (seq code trap : Nat) (fpc : W64) (h : smapWf Core.reset s.cores = true) (hm : m ≠ n) :
    getCore (takeFault n seq code trap fpc s) m = getCore s m := by
  rcases takeFault_only n seq code trap fpc s with e | ⟨f, g, j, e⟩ <;> rw [e]
  rw [getCore_setCore h, if_neg hm]

/-- A signal changes one core alone: the semaphore, and what a `swait` held for it remembers. -/
theorem semAdd_only (n sem v : Nat) (s : State) : semAdd n sem v s = modCore n (fun c =>
    swaitSees sem (smapGet 0 (getCore s n).sems sem + BitVec.ofNat 64 v)
      { c with sems := smapSet 0 c.sems sem (smapGet 0 (getCore s n).sems sem + BitVec.ofNat 64 v) }) s := rfl

/-- Remembering a value changes the hold at most. -/
theorem swaitSees_only (sem : Nat) (v : W64) (c : Core) : ∃ h, swaitSees sem v c = { c with hold := h } := by
  unfold swaitSees
  split
  · split
    · exact ⟨_, rfl⟩
    · exact ⟨c.hold, rfl⟩
  · exact ⟨c.hold, rfl⟩

/-- Time passes to a clk, or not at all. -/
theorem passTo_only (t : Nat) (s : State) : passTo t s = { s with clk := max s.clk t } := rfl

end Sys2Proof.Laws
end

