-- ==== Sys2Proof/Laws/Words.lean ====
section
/-! SUPPORT. The fields of an assembled instruction word are its operands (03 Tables 3-8, 3-11). -/

namespace Sys2Proof.Laws

open Sys2Proof Sys2Proof.Machine

/-- Group and function are six bits each. -/
theorem opCode_lt (o : Op) : (opCode o).1 < 64 ∧ (opCode o).2 < 64 := by cases o <;> decide

/-- Every operation is found at its own group and function (03 R65). -/
theorem opAt_opCode (o : Op) : opAt (opCode o).1 (opCode o).2 = some o := by cases o <;> decide

/-- A one-bit field as a truth value. -/
theorem bit_one (b : BitVec 1) : decide (b.toNat = 1) = decide (b = 1) := by
  simp [BitVec.toNat_eq]

section S
variable (o : Op) (h : Head) (f : FmtS)

theorem wordS_toNat : (wordS o h f).toNat = wordHead o h + f.sd.toNat * 2 ^ 43 + f.sa.toNat * 2 ^ 38 + f.sb.toNat * 2 ^ 33
    + f.i.toNat * 2 ^ 32 + f.imm.toNat := by
  have := opCode_lt o
  simp only [wordS, wordHead, BitVec.toNat_ofNat]
  apply Nat.mod_eq_of_lt
  omega

@[simp] theorem wordS_group : fld (wordS o h f) 63 58 = (opCode o).1 := by
  have := opCode_lt o
  simp only [fld, bits, wordS_toNat, wordHead]; omega
@[simp] theorem wordS_func : fld (wordS o h f) 57 52 = (opCode o).2 := by
  have := opCode_lt o
  simp only [fld, bits, wordS_toNat, wordHead]; omega
@[simp] theorem wordS_pred : fld (wordS o h f) 50 48 = h.pred.toNat := by
  have := opCode_lt o
  simp only [fld, bits, wordS_toNat, wordHead]; omega
@[simp] theorem wordS_pn : bit (wordS o h f).toNat 51 = decide (h.pn = 1) := by
  have := opCode_lt o
  rw [← bit_one]
  simp only [bit, wordS_toNat, wordHead]; congr 1; simp only [eq_iff_iff]; omega
@[simp] theorem wordS_sd : fSD (wordS o h f) = f.sd.toNat := by
  have := opCode_lt o
  simp only [fSD, fld, bits, wordS_toNat, wordHead]; omega
@[simp] theorem wordS_sa : fSA (wordS o h f) = f.sa.toNat := by
  have := opCode_lt o
  simp only [fSA, fld, bits, wordS_toNat, wordHead]; omega
@[simp] theorem wordS_sb : fSB (wordS o h f) = f.sb.toNat := by
  have := opCode_lt o
  simp only [fSB, fld, bits, wordS_toNat, wordHead]; omega
@[simp] theorem wordS_i : fI (wordS o h f) = decide (f.i = 1) := by
  have := opCode_lt o
  rw [← bit_one]
  simp only [fI, bit, wordS_toNat, wordHead]; congr 1; simp only [eq_iff_iff]; omega
@[simp] theorem wordS_imm : fImm (wordS o h f) = f.imm.toNat := by
  have := opCode_lt o
  simp only [fImm, fld, bits, wordS_toNat, wordHead]; omega
@[simp] theorem wordS_immX : fImmX (wordS o h f) = f.imm.signExtend 64 := by
  simp [fImmX]
@[simp] theorem wordS_op : wordOp (wordS o h f) = some o := by
  simp [wordOp, opAt_opCode]
end S
section B
variable (o : Op) (h : Head) (f : FmtB)

theorem wordB_toNat : (wordB o h f).toNat = wordHead o h + f.ka.toNat * 2 ^ 47 + f.ra.toNat * 2 ^ 42 + f.kb.toNat * 2 ^ 41
    + f.rb.toNat * 2 ^ 36 + f.cond.toNat * 2 ^ 32 + f.offset.toNat := by
  have := opCode_lt o
  simp only [wordB, wordHead, BitVec.toNat_ofNat]
  apply Nat.mod_eq_of_lt
  omega

@[simp] theorem wordB_group : fld (wordB o h f) 63 58 = (opCode o).1 := by
  have := opCode_lt o
  simp only [fld, bits, wordB_toNat, wordHead]; omega
@[simp] theorem wordB_func : fld (wordB o h f) 57 52 = (opCode o).2 := by
  have := opCode_lt o
  simp only [fld, bits, wordB_toNat, wordHead]; omega
@[simp] theorem wordB_pred : fld (wordB o h f) 50 48 = h.pred.toNat := by
  have := opCode_lt o
  simp only [fld, bits, wordB_toNat, wordHead]; omega
@[simp] theorem wordB_pn : bit (wordB o h f).toNat 51 = decide (h.pn = 1) := by
  have := opCode_lt o
  rw [← bit_one]
  simp only [bit, wordB_toNat, wordHead]; congr 1; simp only [eq_iff_iff]; omega
@[simp] theorem wordB_ka : bit (wordB o h f).toNat 47 = decide (f.ka = 1) := by
  have := opCode_lt o
  rw [← bit_one]
  simp only [bit, wordB_toNat, wordHead]; congr 1; simp only [eq_iff_iff]; omega
@[simp] theorem wordB_ra : fld (wordB o h f) 46 42 = f.ra.toNat := by
  have := opCode_lt o
  simp only [fld, bits, wordB_toNat, wordHead]; omega
@[simp] theorem wordB_kb : bit (wordB o h f).toNat 41 = decide (f.kb = 1) := by
  have := opCode_lt o
  rw [← bit_one]
  simp only [bit, wordB_toNat, wordHead]; congr 1; simp only [eq_iff_iff]; omega
@[simp] theorem wordB_rb : fld (wordB o h f) 40 36 = f.rb.toNat := by
  have := opCode_lt o
  simp only [fld, bits, wordB_toNat, wordHead]; omega
@[simp] theorem wordB_cond : fld (wordB o h f) 35 32 = f.cond.toNat := by
  have := opCode_lt o
  simp only [fld, bits, wordB_toNat, wordHead]; omega
@[simp] theorem wordB_offset : fImm (wordB o h f) = f.offset.toNat := by
  have := opCode_lt o
  simp only [fImm, fld, bits, wordB_toNat, wordHead]; omega
@[simp] theorem wordB_op : wordOp (wordB o h f) = some o := by
  simp [wordOp, opAt_opCode]
@[simp] theorem wordB_offsetX : fImmX (wordB o h f) = f.offset.signExtend 64 := by
  simp [fImmX]
end B

section M
variable (o : Op) (h : Head) (f : FmtM)

theorem wordM_toNat : (wordM o h f).toNat = wordHead o h + f.fa.toNat * 2 ^ 44 + f.fb.toNat * 2 ^ 40 + f.sma.toNat * 2 ^ 38
    + f.smb.toNat * 2 ^ 36 + f.acc.toNat * 2 ^ 35 + f.clr.toNat * 2 ^ 34 + f.ta.toNat * 2 ^ 33 + f.tb.toNat * 2 ^ 32
    + f.pr.toNat * 2 ^ 31 + f.sa.toNat * 2 ^ 26 + f.sb.toNat * 2 ^ 21 + f.sc.toNat * 2 ^ 16 + f.k.toNat * 2 ^ 6
    + f.rsv.toNat := by
  have := opCode_lt o
  simp only [wordM, wordHead, BitVec.toNat_ofNat]
  apply Nat.mod_eq_of_lt
  omega

@[simp] theorem wordM_group : fld (wordM o h f) 63 58 = (opCode o).1 := by
  have := opCode_lt o
  simp only [fld, bits, wordM_toNat, wordHead]; omega
@[simp] theorem wordM_func : fld (wordM o h f) 57 52 = (opCode o).2 := by
  have := opCode_lt o
  simp only [fld, bits, wordM_toNat, wordHead]; omega
@[simp] theorem wordM_pred : fld (wordM o h f) 50 48 = h.pred.toNat := by
  have := opCode_lt o
  simp only [fld, bits, wordM_toNat, wordHead]; omega
@[simp] theorem wordM_pn : bit (wordM o h f).toNat 51 = decide (h.pn = 1) := by
  have := opCode_lt o
  rw [← bit_one]
  simp only [bit, wordM_toNat, wordHead]; congr 1; simp only [eq_iff_iff]; omega
@[simp] theorem wordM_fa : mFA (wordM o h f) = f.fa.toNat := by
  have := opCode_lt o
  simp only [mFA, fld, bits, wordM_toNat, wordHead]; omega
@[simp] theorem wordM_fb : mFB (wordM o h f) = f.fb.toNat := by
  have := opCode_lt o
  simp only [mFB, fld, bits, wordM_toNat, wordHead]; omega
@[simp] theorem wordM_sma : fld (wordM o h f) 39 38 = f.sma.toNat := by
  have := opCode_lt o
  simp only [fld, bits, wordM_toNat, wordHead]; omega
@[simp] theorem wordM_smb : fld (wordM o h f) 37 36 = f.smb.toNat := by
  have := opCode_lt o
  simp only [fld, bits, wordM_toNat, wordHead]; omega
@[simp] theorem wordM_acc : mACC (wordM o h f) = f.acc.toNat := by
  have := opCode_lt o
  simp only [mACC, fld, bits, wordM_toNat, wordHead]; omega
@[simp] theorem wordM_clr : mCLR (wordM o h f) = decide (f.clr = 1) := by
  have := opCode_lt o
  rw [← bit_one]
  simp only [mCLR, bit, wordM_toNat, wordHead]; congr 1; simp only [eq_iff_iff]; omega
@[simp] theorem wordM_ta : mTA (wordM o h f) = decide (f.ta = 1) := by
  have := opCode_lt o
  rw [← bit_one]
  simp only [mTA, bit, wordM_toNat, wordHead]; congr 1; simp only [eq_iff_iff]; omega
@[simp] theorem wordM_tb : mTB (wordM o h f) = decide (f.tb = 1) := by
  have := opCode_lt o
  rw [← bit_one]
  simp only [mTB, bit, wordM_toNat, wordHead]; congr 1; simp only [eq_iff_iff]; omega
@[simp] theorem wordM_pr : mPR (wordM o h f) = decide (f.pr = 1) := by
  have := opCode_lt o
  rw [← bit_one]
  simp only [mPR, bit, wordM_toNat, wordHead]; congr 1; simp only [eq_iff_iff]; omega
@[simp] theorem wordM_sa : mSA (wordM o h f) = f.sa.toNat := by
  have := opCode_lt o
  simp only [mSA, fld, bits, wordM_toNat, wordHead]; omega
@[simp] theorem wordM_sb : mSB (wordM o h f) = f.sb.toNat := by
  have := opCode_lt o
  simp only [mSB, fld, bits, wordM_toNat, wordHead]; omega
@[simp] theorem wordM_sc : mSC (wordM o h f) = f.sc.toNat := by
  have := opCode_lt o
  simp only [mSC, fld, bits, wordM_toNat, wordHead]; omega
@[simp] theorem wordM_k : mK (wordM o h f) = f.k.toNat := by
  have := opCode_lt o
  simp only [mK, fld, bits, wordM_toNat, wordHead]; omega
@[simp] theorem wordM_rsv : fld (wordM o h f) 5 0 = f.rsv.toNat := by
  have := opCode_lt o
  simp only [fld, bits, wordM_toNat, wordHead]; omega
@[simp] theorem wordM_op : wordOp (wordM o h f) = some o := by
  simp [wordOp, opAt_opCode]
end M

section V
variable (o : Op) (h : Head) (f : FmtV)

theorem wordV_toNat : (wordV o h f).toNat = wordHead o h + f.td.toNat * 2 ^ 45 + f.ta.toNat * 2 ^ 42 + f.tb.toNat * 2 ^ 39
    + f.tc.toNat * 2 ^ 36 + f.fmt.toNat * 2 ^ 32 + f.sm.toNat * 2 ^ 30 + f.sr.toNat * 2 ^ 25 + f.md.toNat * 2 ^ 22
    + f.row0.toNat * 2 ^ 17 + f.nrow.toNat * 2 ^ 12 + f.imm.toNat := by
  have := opCode_lt o
  simp only [wordV, wordHead, BitVec.toNat_ofNat]
  apply Nat.mod_eq_of_lt
  omega

@[simp] theorem wordV_group : fld (wordV o h f) 63 58 = (opCode o).1 := by
  have := opCode_lt o
  simp only [fld, bits, wordV_toNat, wordHead]; omega
@[simp] theorem wordV_func : fld (wordV o h f) 57 52 = (opCode o).2 := by
  have := opCode_lt o
  simp only [fld, bits, wordV_toNat, wordHead]; omega
@[simp] theorem wordV_pred : fld (wordV o h f) 50 48 = h.pred.toNat := by
  have := opCode_lt o
  simp only [fld, bits, wordV_toNat, wordHead]; omega
@[simp] theorem wordV_pn : bit (wordV o h f).toNat 51 = decide (h.pn = 1) := by
  have := opCode_lt o
  rw [← bit_one]
  simp only [bit, wordV_toNat, wordHead]; congr 1; simp only [eq_iff_iff]; omega
@[simp] theorem wordV_td : vTD (wordV o h f) = f.td.toNat := by
  have := opCode_lt o
  simp only [vTD, fld, bits, wordV_toNat, wordHead]; omega
@[simp] theorem wordV_ta : vTA (wordV o h f) = f.ta.toNat := by
  have := opCode_lt o
  simp only [vTA, fld, bits, wordV_toNat, wordHead]; omega
@[simp] theorem wordV_tb : vTB (wordV o h f) = f.tb.toNat := by
  have := opCode_lt o
  simp only [vTB, fld, bits, wordV_toNat, wordHead]; omega
@[simp] theorem wordV_tc : vTC (wordV o h f) = f.tc.toNat := by
  have := opCode_lt o
  simp only [vTC, fld, bits, wordV_toNat, wordHead]; omega
@[simp] theorem wordV_fmt : vFMT (wordV o h f) = f.fmt.toNat := by
  have := opCode_lt o
  simp only [vFMT, fld, bits, wordV_toNat, wordHead]; omega
@[simp] theorem wordV_sm : fld (wordV o h f) 31 30 = f.sm.toNat := by
  have := opCode_lt o
  simp only [fld, bits, wordV_toNat, wordHead]; omega
@[simp] theorem wordV_sr : vSR (wordV o h f) = f.sr.toNat := by
  have := opCode_lt o
  simp only [vSR, fld, bits, wordV_toNat, wordHead]; omega
@[simp] theorem wordV_md : vMD (wordV o h f) = f.md.toNat := by
  have := opCode_lt o
  simp only [vMD, fld, bits, wordV_toNat, wordHead]; omega
@[simp] theorem wordV_row0 : vROW0 (wordV o h f) = f.row0.toNat := by
  have := opCode_lt o
  simp only [vROW0, fld, bits, wordV_toNat, wordHead]; omega
@[simp] theorem wordV_nrow : vN (wordV o h f) = f.nrow.toNat + 1 := by
  have := opCode_lt o
  simp only [vN, fld, bits, wordV_toNat, wordHead]; omega
@[simp] theorem wordV_imm : vIMM (wordV o h f) = f.imm.toNat := by
  have := opCode_lt o
  simp only [vIMM, fld, bits, wordV_toNat, wordHead]; omega
@[simp] theorem wordV_op : wordOp (wordV o h f) = some o := by
  simp [wordOp, opAt_opCode]
end V

section D
variable (o : Op) (h : Head) (f : FmtD)

theorem wordD_toNat : (wordD o h f).toNat = wordHead o h + f.ch.toNat * 2 ^ 45 + f.sdesc.toNat * 2 ^ 40 + f.ndesc.toNat * 2 ^ 34
    + f.rsv.toNat := by
  have := opCode_lt o
  simp only [wordD, wordHead, BitVec.toNat_ofNat]
  apply Nat.mod_eq_of_lt
  omega

@[simp] theorem wordD_group : fld (wordD o h f) 63 58 = (opCode o).1 := by
  have := opCode_lt o
  simp only [fld, bits, wordD_toNat, wordHead]; omega
@[simp] theorem wordD_func : fld (wordD o h f) 57 52 = (opCode o).2 := by
  have := opCode_lt o
  simp only [fld, bits, wordD_toNat, wordHead]; omega
@[simp] theorem wordD_pred : fld (wordD o h f) 50 48 = h.pred.toNat := by
  have := opCode_lt o
  simp only [fld, bits, wordD_toNat, wordHead]; omega
@[simp] theorem wordD_pn : bit (wordD o h f).toNat 51 = decide (h.pn = 1) := by
  have := opCode_lt o
  rw [← bit_one]
  simp only [bit, wordD_toNat, wordHead]; congr 1; simp only [eq_iff_iff]; omega
@[simp] theorem wordD_ch : fld (wordD o h f) 47 45 = f.ch.toNat := by
  have := opCode_lt o
  simp only [fld, bits, wordD_toNat, wordHead]; omega
@[simp] theorem wordD_sdesc : fld (wordD o h f) 44 40 = f.sdesc.toNat := by
  have := opCode_lt o
  simp only [fld, bits, wordD_toNat, wordHead]; omega
@[simp] theorem wordD_ndesc : fld (wordD o h f) 39 34 = f.ndesc.toNat := by
  have := opCode_lt o
  simp only [fld, bits, wordD_toNat, wordHead]; omega
@[simp] theorem wordD_rsv : fld (wordD o h f) 33 0 = f.rsv.toNat := by
  have := opCode_lt o
  simp only [fld, bits, wordD_toNat, wordHead]; omega
@[simp] theorem wordD_op : wordOp (wordD o h f) = some o := by
  simp [wordOp, opAt_opCode]
end D

section Y
variable (o : Op) (h : Head) (f : FmtY)

theorem wordY_toNat : (wordY o h f).toNat = wordHead o h + f.sem.toNat * 2 ^ 42 + f.sv.toNat * 2 ^ 37 + f.core.toNat * 2 ^ 30
    + f.cond.toNat * 2 ^ 27 + f.rsv.toNat := by
  have := opCode_lt o
  simp only [wordY, wordHead, BitVec.toNat_ofNat]
  apply Nat.mod_eq_of_lt
  omega

@[simp] theorem wordY_group : fld (wordY o h f) 63 58 = (opCode o).1 := by
  have := opCode_lt o
  simp only [fld, bits, wordY_toNat, wordHead]; omega
@[simp] theorem wordY_func : fld (wordY o h f) 57 52 = (opCode o).2 := by
  have := opCode_lt o
  simp only [fld, bits, wordY_toNat, wordHead]; omega
@[simp] theorem wordY_pred : fld (wordY o h f) 50 48 = h.pred.toNat := by
  have := opCode_lt o
  simp only [fld, bits, wordY_toNat, wordHead]; omega
@[simp] theorem wordY_pn : bit (wordY o h f).toNat 51 = decide (h.pn = 1) := by
  have := opCode_lt o
  rw [← bit_one]
  simp only [bit, wordY_toNat, wordHead]; congr 1; simp only [eq_iff_iff]; omega
@[simp] theorem wordY_sem : fld (wordY o h f) 47 42 = f.sem.toNat := by
  have := opCode_lt o
  simp only [fld, bits, wordY_toNat, wordHead]; omega
@[simp] theorem wordY_sv : fld (wordY o h f) 41 37 = f.sv.toNat := by
  have := opCode_lt o
  simp only [fld, bits, wordY_toNat, wordHead]; omega
@[simp] theorem wordY_core : fld (wordY o h f) 36 30 = f.core.toNat := by
  have := opCode_lt o
  simp only [fld, bits, wordY_toNat, wordHead]; omega
@[simp] theorem wordY_cond : fld (wordY o h f) 29 27 = f.cond.toNat := by
  have := opCode_lt o
  simp only [fld, bits, wordY_toNat, wordHead]; omega
@[simp] theorem wordY_rsv : fld (wordY o h f) 26 0 = f.rsv.toNat := by
  have := opCode_lt o
  simp only [fld, bits, wordY_toNat, wordHead]; omega
@[simp] theorem wordY_op : wordOp (wordY o h f) = some o := by
  simp [wordOp, opAt_opCode]
end Y

end Sys2Proof.Laws
end

