-- ==== Sys2Proof/Laws/Issue.lean ====
section
/-! SUPPORT. What the sequencer does with a word that can issue: the case analyses of `issue`, `attempt` and `effect` once. -/

namespace Sys2Proof.Laws

open Sys2Proof Sys2Proof.Machine Sys2Proof.Claims

/-- `issued` in the words of the statements. -/
theorem issued_eq_jump (n : Nat) (pc : W64) (g : Core → Core) (s : State) : issued n pc g s = jump n pc g s := rfl

theorem past_eq_jump (n k : Nat) (g : Core → Core) (s : State) :
    past n k g s = jump n ((getCore s n).pc + BitVec.ofNat 64 k) g s := rfl

theorem modCore_eq (n : Nat) (g : Core → Core) (s : State) : modCore n g s = coreNow n g s := rfl

/-- An aligned range inside S-space. -/
theorem sRange_some {a n k : Nat} (wr : Bool) (h : a % k = 0) (h' : a + n ≤ 0x60000) :
    sRange wr a n k = some ⟨wr, 0, a / 32 * 32, (a + n - 1) / 32 * 32 + 31⟩ := by
  simp [sRange, spadSize, h, h']

/-- The length of an instruction word. -/
theorem len_eq (o : Op) : (if opFmt o = .X then 16 else 8) = (if o = .li64 then 16 else (8 : Nat)) := by cases o <;> decide

/-- A word that arrives is issued: with its effect where its predicate holds, without it where not (a `dma` has its list checked). -/
theorem issue_arrives {s : State} {n : Nat} {o : Op} {w : W64} (ext : W64) (h : arrives s n o w = true) :
    issue n o w ext s = .next (if predHolds (getCore s n) w then effect n o w ext s else if o = .dma then skipDma n w s
      else issued n (nextPc (getCore s n) o) id s) := by
  simp only [arrives, fetchOk, fetched, Bool.and_eq_true, decide_eq_true_eq, Bool.not_eq_true'] at h
  obtain ⟨⟨⟨⟨⟨hn, hc⟩, hh⟩, ⟨⟨⟨hal, hsz⟩, ht⟩, hp⟩, hu⟩, hl⟩, hb⟩ := h
  have e := sRange_some (n := if o = .li64 then 16 else 8) false hal hsz
  simp only [issue, unitRes, hn, hc, hh, decide_true, Bool.and_self, if_true, attempt, len_eq, e, ht, hp, hl, hb, hu,
    Bool.not_true, Bool.or_self, Bool.false_eq_true, if_false]

/-- A word that is ready has its effect. -/
theorem issue_ready {s : State} {n : Nat} {o : Op} {w : W64} (ext : W64) (h : ready s n o w = true) :
    issue n o w ext s = .next (effect n o w ext s) := by
  simp only [ready, Bool.and_eq_true] at h
  rw [issue_arrives ext h.1]
  simp [h.2]

/-- ... and waits for no register. -/
theorem seqReady_free {s : State} {n : Nat} {o : Op} {w : W64} (h : seqReady s n o w = true) :
    ready s n o w = true ∧ (inFlight (getCore s n)).any (boardHit (getCore s n) (regsRead o w) (regsWritten o w)) = false := by
  simpa [seqReady] using h

/-- A ready instruction of the sequencer: the stall for registers is out of the way. -/
theorem effect_free {s : State} {n : Nat} {o : Op} {w : W64} (ext : W64) (h : seqReady s n o w = true) :
    issue n o w ext s = .next (effect n o w ext s) ∧
    (opSeq o && (inFlight (getCore s n)).any (boardHit (getCore s n) (regsRead o w) (regsWritten o w))) = false := by
  obtain ⟨h1, h2⟩ := seqReady_free h
  exact ⟨issue_ready ext h1, by simp [h2]⟩

/-- The second operand is the word's. -/
theorem operand2_wordS (c : Core) (o : Op) (h : Head) (f : FmtS) : operand2 c (wordS o h f) = second c f := by
  simp [operand2, second]

/-- The scalar arithmetic of group 0x00, once for its functions. -/
theorem alu_next {s : State} {n : Nat} {o : Op} {h : Head} {f : FmtS} (hg : opGrp o = 0)
    (hr : seqReady s n o (wordS o h f) = true) :
    issue n o (wordS o h f) 0 s = .next (past n 8 (sWrite f.sd.toNat (alu o (sRead (getCore s n) f.sa.toNat) (second (getCore s n) f))) s) := by
  obtain ⟨h1, h2⟩ := effect_free 0 hr
  have hf : opFmt o = .S := by cases o <;> first | rfl | (exact absurd hg (by decide))
  rw [h1]
  simp only [effect, h2, hf, hg, if_true, doAlu, nextPc, operand2_wordS, wordS_sd, wordS_sa]
  rfl

end Sys2Proof.Laws
end

