-- ==== Sys2Proof/Laws/Links.lean ====
section
/-! SUPPORT. What the operations of the peer edge can change: the ports, the output, and the injection they may use up. -/

namespace Sys2Proof.Laws

open Sys2Proof Sys2Proof.Machine

/-- `t` differs from `s` in the peer edge, the output, the injection registers and the buckets of tokens at most. -/
def EdgeOnly (s t : State) : Prop := t = { s with links := t.links, outbox := t.outbox, test := t.test, buckets := t.buckets }

theorem EdgeOnly.refl (s : State) : EdgeOnly s s := rfl

theorem EdgeOnly.trans {s t u : State} (h : EdgeOnly s t) (h' : EdgeOnly t u) : EdgeOnly s u := by
  unfold EdgeOnly at *
  rw [h'.trans (congrArg (fun x : State => { x with links := u.links, outbox := u.outbox, test := u.test, buckets := u.buckets }) h)]

theorem edge_setPort (p : BPort) (v : BkPort) (s : State) : EdgeOnly s (setPort p v s) := by cases p <;> rfl

theorem edge_modPort (p : BPort) (g : BkPort → BkPort) (s : State) : EdgeOnly s (modPort p g s) := edge_setPort _ _ _

theorem edge_emit (o : Output) (s : State) : EdgeOnly s (emit o s) := rfl

theorem edge_injDone (s : State) : EdgeOnly s (injDone s) := rfl

theorem edge_injFlit (p : BPort) (ty : Nat) (bs : List Byte) (s : State) : EdgeOnly s (injFlit p ty bs s).2 := by
  unfold injFlit
  split
  · exact edge_injDone s
  · split
    · exact edge_injDone s
    · exact EdgeOnly.refl s

theorem edge_emitFlit (p : BPort) (ty seq vc : Nat) (pl : List Byte) (s : State) : EdgeOnly s (emitFlit p ty seq vc pl s) :=
  ((edge_injFlit p ty _ s).trans (edge_emit _ _)).trans (edge_setPort _ _ _)

theorem edge_debit (p u n : Nat) (s : State) : EdgeOnly s (debit p u n s) := rfl

theorem edge_freeBuf (f : Option (Nat × Nat)) (s : State) : EdgeOnly s (freeBuf f s) := by
  unfold freeBuf
  split
  · split
    · exact edge_modPort _ _ _
    · exact EdgeOnly.refl s
  · exact EdgeOnly.refl s

theorem edge_pumpData (p : BPort) : ∀ (n : Nat) (s : State), EdgeOnly s (pumpData p n s)
  | 0, s => EdgeOnly.refl s
  | n + 1, s => by
    unfold pumpData
    dsimp only
    split
    · exact EdgeOnly.refl s
    · split
      · exact EdgeOnly.refl s
      · refine EdgeOnly.trans ?_ (edge_pumpData p n _)
        refine EdgeOnly.trans ?_ (edge_emitFlit _ _ _ _ _ _)
        exact EdgeOnly.trans (edge_setPort _ _ _) (edge_freeBuf _ _)

theorem edge_pumpIdle (p : BPort) : ∀ (n : Nat) (s : State), EdgeOnly s (pumpIdle p n s)
  | 0, s => EdgeOnly.refl s
  | n + 1, s => by
    unfold pumpIdle
    dsimp only
    split
    · exact EdgeOnly.refl s
    · split
      · exact EdgeOnly.refl s
      · exact (edge_emitFlit _ _ _ _ _ _).trans (edge_pumpIdle p n _)

theorem edge_foldl {α : Type} (g : State → α → State) (h : ∀ s a, EdgeOnly s (g s a)) : ∀ (l : List α) (s : State), EdgeOnly s (l.foldl g s)
  | [], s => EdgeOnly.refl s
  | a :: l, s => (h s a).trans (edge_foldl g h l (g s a))

theorem edge_admitFold (g : List TxFlit × State → TxFlit → List TxFlit × State) (h : ∀ x f, EdgeOnly x.2 (g x f).2) :
    ∀ (l : List TxFlit) (x : List TxFlit × State), EdgeOnly x.2 (l.foldl g x).2
  | [], x => EdgeOnly.refl x.2
  | f :: l, x => (h x f).trans (edge_admitFold g h l (g x f))

theorem edge_admitFlits (p : BPort) (s : State) : EdgeOnly s (admitFlits p s) := by
  unfold admitFlits
  dsimp only
  split
  · exact EdgeOnly.refl s
  · refine EdgeOnly.trans ?_ (edge_modPort _ _ _)
    refine edge_admitFold _ (fun x f => ?_) _ ([], s)
    split
    · exact EdgeOnly.refl x.2
    · dsimp only
      exact (edge_debit _ _ _ _).trans (edge_modPort _ _ _)

/-- Sending what the ports can send changes the peer edge and the buckets alone. -/
theorem edge_pump (s : State) : EdgeOnly s (pump s) :=
  (edge_foldl (fun s p => admitFlits p s) (fun _ _ => edge_admitFlits _ _) allPorts s).trans <| (edge_foldl (fun s p => pumpData p ((getPort s p).txq.length) s) (fun _ _ => edge_pumpData _ _ _) allPorts _).trans
    (edge_foldl (fun s p => pumpIdle p 64 s) (fun _ _ => edge_pumpIdle _ _ _) allPorts _)

theorem edge_queueBy (b : Bool) (cls : Nat) (t : Txn) (s : State) : EdgeOnly s (queueBy b cls t s).2 := by
  unfold queueBy
  split
  · exact EdgeOnly.refl s
  · dsimp only
    split
    · exact EdgeOnly.refl s
    · exact edge_setPort _ _ _

theorem edge_queueTxn (cls : Nat) (t : Txn) (s : State) : EdgeOnly s (queueTxn cls t s).2 := edge_queueBy _ _ _ _

theorem edge_queueAll (cls : Nat) : ∀ (ts : List Txn) (x : Bool × State),
    EdgeOnly x.2 (ts.foldl (fun x t => let r := queueTxn cls t x.2; (x.1 && r.1, r.2)) x).2
  | [], x => EdgeOnly.refl x.2
  | t :: ts, x => (edge_queueTxn cls t x.2).trans (edge_queueAll cls ts _)

theorem edge_queueTxns (cls : Nat) (ts : List Txn) (s : State) : EdgeOnly s (queueTxns cls ts s).2 := edge_queueAll cls ts (true, s)

theorem edge_sendRefuse (t : Txn) (reason : Nat) (s : State) : EdgeOnly s (sendRefuse t reason s) := edge_queueTxn _ _ _

theorem edge_sendAcks (chip : Nat) (s : State) : EdgeOnly s (sendAcks chip s) := by
  unfold sendAcks
  split
  · exact EdgeOnly.refl s
  · refine EdgeOnly.trans ?_ (edge_queueTxn _ _ _)
    rfl

theorem edge_ackFlit (t : Txn) (s : State) : EdgeOnly s (ackFlit t s) := by
  unfold ackFlit
  dsimp only
  split
  · refine EdgeOnly.trans ?_ (edge_sendAcks _ _)
    rfl
  · rfl

theorem edge_sendNak (p : BPort) (s : State) : EdgeOnly s (sendNak p s) := by
  unfold sendNak
  dsimp only
  split
  · exact EdgeOnly.refl s
  · exact (edge_emitFlit _ _ _ _ _ _).trans (edge_modPort _ _ _)

theorem edge_flitTake (p : BPort) (bs : List Byte) (s : State) : EdgeOnly s (flitTake p bs s) := edge_setPort _ _ _

/-! ### What follows for a reader of the other parts -/

theorem EdgeOnly.cores {s t : State} (h : EdgeOnly s t) : t.cores = s.cores := by rw [h]
theorem EdgeOnly.bonded {s t : State} (h : EdgeOnly s t) : t.bonded = s.bonded := by rw [h]
theorem EdgeOnly.parts {s t : State} (h : EdgeOnly s t) : t.parts = s.parts := by rw [h]
theorem EdgeOnly.windows {s t : State} (h : EdgeOnly s t) : t.windows = s.windows := by rw [h]
theorem EdgeOnly.xfers {s t : State} (h : EdgeOnly s t) : t.xfers = s.xfers := by rw [h]
theorem EdgeOnly.layers {s t : State} (h : EdgeOnly s t) : t.layers = s.layers := by rw [h]
theorem EdgeOnly.routes {s t : State} (h : EdgeOnly s t) : t.routes = s.routes := by rw [h]
theorem EdgeOnly.host {s t : State} (h : EdgeOnly s t) : t.host = s.host := by rw [h]
theorem EdgeOnly.power {s t : State} (h : EdgeOnly s t) : t.power = s.power := by rw [h]
theorem EdgeOnly.tick {s t : State} (h : EdgeOnly s t) : t.tick = s.tick := by rw [h]
theorem EdgeOnly.events {s t : State} (h : EdgeOnly s t) : t.events = s.events := by rw [h]
theorem EdgeOnly.clk {s t : State} (h : EdgeOnly s t) : t.clk = s.clk := by rw [h]
theorem EdgeOnly.flash {s t : State} (h : EdgeOnly s t) : t.flash = s.flash := by rw [h]

end Sys2Proof.Laws
end

