-- ==== Sys2Proof/Tests/Slice0.lean ====
section
/-! SUPPORT. Tests: ill-formed commands that each check refuses, single steps with results worked out from the spec, and for each statement
states and operands that meet the hypotheses of its clauses. -/

namespace Sys2Proof.Tests

open Sys2Proof Sys2Proof.Machine Sys2Proof.Claims

-- One theorem at a time: their evaluation by the kernel is the long part.
set_option Elab.async false

/-! ### Helpers -/

/-- Every condition of the list holds. -/
def holds (l : List Bool) : Bool := l.all id
/-- The command answers the next state `t`. -/
def goesB (c : Instr) (s t : State) : Bool := match exec c s with
  | .next u => decide (u = t)
  | _ => false
/-- The command answers a next state with the property. -/
def after (c : Instr) (s : State) (g : State → Bool) : Bool := match exec c s with
  | .next u => g u
  | _ => false

def hd0 : Head := { pred := 0, pn := 0 }
def hd2 : Head := { pred := 2, pn := 0 }
def quadOn : Quad := { Quad.reset with st := .on }
/-- The module up, quad 0 on, a tick under way. -/
def up : State := { State.reset with
  boot := .up 0 false
  secure := { State.reset.secure with slotA := { FwSlot.factory with image := [] }, slotB := { FwSlot.factory with image := [] } }
  tick := { Tick.reset with phase := .run }
  power := { Power.reset with quads := [(0, quadOn)] } }
def job0 : CoreJob := { index := 0, part := 1, jobid := 5, st := .running, startAt := 0, endAt := 0, seed0 := 0, stream0 := 0, ctr0 := 0 }
def c0 : Core := { Core.reset with
  job := some job0
  pc := 64
  sreg := [(1, 5), (2, 7), (3, 0xFFFFFFFFFFFFFFFE), (5, 3), (6, 0x1004), (7, 0x5FFFC)] }
/-- Core 0 as given. -/
def core0 (c : Core) : State := { up with cores := [(0, c)] }
def run0 : State := core0 c0
def fs (sd sa sb : BitVec 5) (i : BitVec 1) (imm : BitVec 32) : FmtS := { sd := sd, sa := sa, sb := sb, i := i, imm := imm }
def fy (sem : BitVec 6) (sv : BitVec 5) (core : BitVec 7) (cond : BitVec 3) : FmtY := { sem := sem, sv := sv, core := core, cond := cond, rsv := 0 }
def fb (ra rb : BitVec 5) (cond : BitVec 4) (off : BitVec 32) : FmtB := { ka := 0, ra := ra, kb := 0, rb := rb, cond := cond, offset := off }
def fd (ch : BitVec 3) (sd : BitVec 5) (nd : BitVec 6) : FmtD := { ch := ch, sdesc := sd, ndesc := nd, rsv := 0 }
def fv (td ta tb : BitVec 3) (row0 nrow : BitVec 5) (imm : BitVec 12) : FmtV :=
  { td := td, ta := ta, tb := tb, tc := 0, fmt := 0, sm := 0, sr := 0, md := 0, row0 := row0, nrow := nrow, imm := imm }
def fm (acc clr pr : BitVec 1) (fa fb : BitVec 4) : FmtM :=
  { fa := fa, fb := fb, sma := 0, smb := 0, acc := acc, clr := clr, ta := 0, tb := 0, pr := pr, sa := 1, sb := 2, sc := 0, k := 16, rsv := 0 }
def uopOf (w : W64) : Uop := { seq := 0, pc := 0, word := w, acr := 2, seed := 0, stream := 0, ctr := 0, sv := [], done := 0, startAt := 0 }
/-- The value of s4 of core 0 after the command, if the PC moved past 8 bytes. -/
def s4 (c : Instr) (s : State) (v : W64) : Bool := after c s (fun t => sRead (getCore t 0) 4 == v && (getCore t 0).pc == 72)

/-! ### Ill-formed commands -/

theorem test_wf_core : Instr.wf (.add 100 hd0 (fs 4 3 2 0 0)) = false ∧ Instr.wf (.add 99 hd0 (fs 4 3 2 0 0)) = true := by decide
theorem test_wf_slice : Instr.wf (.sliceRetrain 100) = false ∧ Instr.wf (.sliceRetrain 99) = true := by decide
theorem test_wf_quad : Instr.wf (.junctionSample 25 40) = false ∧ Instr.wf (.junctionSample 24 40) = true := by decide
theorem test_wf_slot : Instr.wf (.dmaDescriptorComplete 0 ⟨64, []⟩) = false ∧ Instr.wf (.dmaDescriptorTimeout 0 72) = false := by decide
theorem test_wf_granule : Instr.wf (.patrolScrub 0 64487424 []) = false ∧ Instr.wf (.attributeWriteComplete 98304) = false := by decide
theorem test_wf_upset : Instr.wf (.patrolScrub 0 5 [(32, 1)]) = false ∧ Instr.wf (.patrolScrub 0 5 [(31, 511)]) = true := by decide
theorem test_wf_page : Instr.wf (.poisonPageRefill 50331648) = false ∧ Instr.wf (.granuleScrubComplete 98304) = false := by decide
theorem test_wf_seqid : Instr.wf (.restorePage (2 ^ 32)) = false ∧ Instr.wf (.restorePage 5) = true := by decide
theorem test_wf_layer : Instr.wf (.routeAdmit 65536) = false ∧ Instr.wf (.sourceDonePoll 65536) = false := by decide
theorem test_wf_flit : Instr.wf (.flitData .e [1]) = false ∧ Instr.wf (.flitData .e []) = true := by decide
theorem test_wf_train : Instr.wf (.portTrainingComplete .e { ok := true, failing := [17], peer := 0, pdelay := 0 }) = false ∧
    Instr.wf (.portTrainingComplete .e { ok := true, failing := [16], peer := 0, pdelay := 0 }) = true := by decide
theorem test_wf_lane : Instr.wf (.laneLockLoss .e 17) = false ∧ Instr.wf (.fecErrorWindow .e 17 0) = false := by decide
theorem test_wf_echo : Instr.wf (.icmpEchoRequest .h0 false (2 ^ 32) []) = false ∧ Instr.wf (.icmpEchoRequest .h0 true (2 ^ 32) []) = true := by decide
theorem test_wf_request : Instr.wf (.cmReq .h0 { priv := [], mtu := 5, rqpn := 1, peer := 0 }) = false := by decide
theorem test_wf_hello : Instr.wf (.ownerHelloPoll []) = false ∧ Instr.wf (.drainExpiry (.quad 25)) = false := by decide
theorem test_wf_bring_up : Instr.wf (.powerOn 4800 { badBonds := [(100, [])], badQuads := [], flashOk := true, straps := 0 }) = false
    ∧ Instr.wf (.mrstNRelease { badBonds := [], badQuads := [25], flashOk := true, straps := 0 }) = false := by decide
theorem test_wf_lengths : Instr.wf (.cspaceRdmaRead 2 0 (2 ^ 32)) = false ∧ Instr.wf (.hostRdmaRead 2 0 0 (2 ^ 32)) = false := by decide
/-- A unit that the module has not stops by name (00 R4). -/
theorem test_no_such_unit : (match exec (.add 100 hd0 (fs 4 3 2 0 0)) run0 with
    | .fault .noSuchUnit => true
    | _ => false) = true := by decide +kernel

/-! ### Single steps: core instructions -/

/-- s3 = -2, s2 = 7 (04 Table 4-1). -/
theorem test_add_wraps : s4 (.add 0 hd0 (fs 4 3 2 0 0)) run0 5 = true := by decide +kernel
theorem test_sub_immediate : s4 (.sub 0 hd0 (fs 4 1 0 1 0xFFFFFFF0)) run0 21 = true := by decide +kernel
theorem test_mul_low : s4 (.mul 0 hd0 (fs 4 3 2 0 0)) run0 0xFFFFFFFFFFFFFFF2 = true := by decide +kernel
theorem test_mulh_signed : s4 (.mulh 0 hd0 (fs 4 3 2 0 0)) run0 0xFFFFFFFFFFFFFFFF = true := by decide +kernel
theorem test_mulhu_unsigned : s4 (.mulhu 0 hd0 (fs 4 3 2 0 0)) run0 6 = true := by decide +kernel
theorem test_shl_mod_64 : s4 (.shl 0 hd0 (fs 4 1 0 1 65)) run0 10 = true := by decide +kernel
theorem test_shr_zero_fill : s4 (.shr 0 hd0 (fs 4 3 0 1 63)) run0 1 = true := by decide +kernel
theorem test_sra_sign_fill : s4 (.sra 0 hd0 (fs 4 3 0 1 63)) run0 0xFFFFFFFFFFFFFFFF = true := by decide +kernel
theorem test_min_signed : s4 (.min 0 hd0 (fs 4 3 2 0 0)) run0 0xFFFFFFFFFFFFFFFE = true := by decide +kernel
theorem test_minu_unsigned : s4 (.minu 0 hd0 (fs 4 3 2 0 0)) run0 7 = true := by decide +kernel
theorem test_write_to_s0 : goesB (.add 0 hd0 (fs 0 3 2 0 0)) run0 (past 0 8 id run0) = true := by decide +kernel
/-- -2 < 7 signed, not unsigned (04 Table 4-2). -/
theorem test_compares : holds [after (.pcmpLt 0 hd0 (fs 3 3 2 0 0)) run0 (fun t => pRead (getCore t 0) 3),
    after (.pcmpLtu 0 hd0 (fs 3 3 2 0 0)) run0 (fun t => !pRead (getCore t 0) 3)] = true := by decide +kernel
def loads : State := core0 { c0 with spad := [(0x1004, 0x80), (0x1005, 0xFF), (0x1006, 1), (0x1007, 0x90), (0x1008, 3), (0x100B, 0x81)] }
def fl (imm : BitVec 32) : FmtS := fs 4 6 0 1 imm
theorem test_load_bytes : holds [s4 (.ldB 0 hd0 (fl 0)) loads 0xFFFFFFFFFFFFFF80, s4 (.ldBu 0 hd0 (fl 0)) loads 0x80] = true := by decide +kernel
theorem test_load_halves : holds [s4 (.ldH 0 hd0 (fl 0)) loads 0xFFFFFFFFFFFFFF80, s4 (.ldHu 0 hd0 (fl 0)) loads 0xFF80] = true := by decide +kernel
theorem test_load_words : holds [s4 (.ldW 0 hd0 (fl 0)) loads 0xFFFFFFFF9001FF80, s4 (.ldWu 0 hd0 (fl 0)) loads 0x9001FF80,
    s4 (.ldD 0 hd0 (fl 4)) loads 0x81000003] = true := by decide +kernel
theorem test_store_half : after (.stH 0 hd0 (fs 6 6 0 1 2)) loads (fun t => spadBytes (getCore t 0) 0x1004 4 == [0x80, 0xFF, 0x04, 0x10]) = true := by
  decide +kernel
theorem test_misaligned : after (.ldD 0 hd0 (fl 0)) loads (fun t => (getCore t 0).fault == some { seq := 0, code := 2, trap := 0, fpc := 64, spc := 64, more := 0 })
    = true := by decide +kernel
/-- A branch back by 2 words from address 64 (04 R112). -/
theorem test_branch_back : after (.brCond 0 hd0 (fb 1 5 2 0xFFFFFFFE)) run0 (fun t => (getCore t 0).pc == 48) = true := by decide +kernel
theorem test_bdnz_falls_through : after (.bdnz 0 hd0 (fb 1 0 0 5)) (core0 { c0 with sreg := [(1, 1)] })
    (fun t => (getCore t 0).pc == 72 && sRead (getCore t 0) 1 == 0) = true := by decide +kernel
theorem test_trap : after (.strap 0 hd0 (fy 0 3 0 0)) run0 (fun t => (getCore t 0).fault.map (fun f => (f.code, f.trap)) == some (7, 0xFFFE)) = true := by
  decide +kernel
theorem test_false_predicate : goesB (.halt 0 hd2 (fy 0 0 0 0)) run0 (past 0 8 id run0) = true := by decide +kernel
theorem test_acr_four_bits : after (.cwr 0 hd0 (fs 0 3 0 1 0)) run0 (fun t => (getCore t 0).acr == 14) = true := by decide +kernel

/-! ### What the statements assume: core instructions -/

theorem witness_StepRunsTheFrontCommand : holds [
    decide (({ up with pending := [.close, .warmReset] } : State).pending = .close :: [.warmReset]), decide (up.pending = [])] = true := by decide +kernel

theorem witness_WellFormedCommandsComplete : Instr.wf (.add 99 hd0 (fs 4 3 2 0 0)) = true ∧ Instr.wf (.powerOn 0 { badBonds := [(99, [])], badQuads := [24], flashOk := false, straps := 3 }) = true := by
  decide

theorem witness_ScalarArithmetic : ([Op.add, .sub, .mul, .mulh, .mulhu, .and, .or, .xor, .shl, .shr, .sra, .min, .max, .minu, .maxu].all (fun o =>
    seqReady run0 0 o (wordS o hd0 (fs 4 3 2 0 0)) && seqReady run0 0 o (wordS o hd0 (fs 0 3 0 1 0xFFFFFFF0)))) = true := by decide +kernel

theorem witness_PredicateInstructions : holds [
    [Op.pcmpEq, .pcmpNe, .pcmpLt, .pcmpGe, .pcmpLtu, .pcmpGeu, .pand, .por, .pxor].all (fun o => seqReady run0 0 o (wordS o hd0 (fs 3 1 2 0 0))),
    seqReady run0 0 .pnot (wordS .pnot hd0 (fs 3 1 0 0 0))] = true := by decide +kernel

theorem witness_ConstantRegisters : sRead (sWrite 31 5 c0) 31 = 5 ∧ pRead (pWrite 7 true c0) 7 = true := by decide +kernel

theorem witness_LoadsAndStores : holds [
    [(Op.ldB, 1), (.ldBu, 1), (.ldH, 2), (.ldHu, 2), (.ldW, 4), (.ldWu, 4), (.ldD, 8)].all (fun o => seqReady loads 0 o.1 (wordS o.1 hd0 (fl 4)) &&
      accOk (getCore loads 0) false (memAddr (getCore loads 0) (fl 4)) o.2 && !spadParity (getCore loads 0) (memAddr (getCore loads 0) (fl 4)) o.2),
    [(Op.stB, 1), (.stH, 2), (.stW, 4), (.stD, 8)].all (fun o => seqReady loads 0 o.1 (wordS o.1 hd0 (fs 3 6 0 1 4)) &&
      accOk (getCore loads 0) true (memAddr (getCore loads 0) (fs 3 6 0 1 4)) o.2),
    !loads.test.arm, smapWf Core.reset loads.cores] = true := by decide +kernel

theorem witness_MisalignedAccessFaults : holds [
    seqReady run0 0 .ldD (wordS .ldD hd0 (fl 0)), decide (memAddr (getCore run0 0) (fl 0) % 8 ≠ 0),
    seqReady run0 0 .stW (wordS .stW hd0 (fs 3 7 0 1 4)), decide (0x60000 < memAddr (getCore run0 0) (fs 3 7 0 1 4) + 4),
    decide ((getCore run0 0).job = some job0), decide ((getCore run0 0).fault = none)] = true := by decide +kernel

theorem witness_ControlRegistersAndImmediates : holds [
    [0, 1, 2, 3, 4, 16, 17, 18, 19, 20].all (fun k => seqReady run0 0 .crd (wordS .crd hd0 (fs 4 0 0 1 k))),
    [0, 1, 2, 3, 4].all (fun k => seqReady run0 0 .cwr (wordS .cwr hd0 (fs 0 3 0 1 k))),
    canIssue run0 0, decide ((getCore run0 0).hold = .none), fetchOk (getCore run0 0) 8, decide ((getCore run0 0).job = some job0),
    !(inFlight (getCore run0 0)).any (fun u => setsFlags (uopOp u)),
    seqReady run0 0 .mvm (wordS .mvm hd0 (fs 4 2 0 0 0)), seqReady run0 0 .rdclk (wordS .rdclk hd0 (fs 4 0 0 0 0)),
    seqReady run0 0 .rdtick (wordS .rdtick hd0 (fs 4 0 0 0 0)), seqReady run0 0 .li64 (wordS .li64 hd0 (fs 4 0 0 0 0))] = true := by decide +kernel

theorem witness_Branches : holds [
    (List.range 12).all (fun k => seqReady run0 0 .brCond (wordB .brCond hd0 (fb 1 5 (BitVec.ofNat 4 k) 0xFFFFFFFE))),
    seqReady run0 0 .call (wordB .call hd0 (fb 9 0 0 5)), seqReady run0 0 .jr (wordB .jr hd0 (fb 2 0 0 0)),
    seqReady run0 0 .bdnz (wordB .bdnz hd0 (fb 1 0 0 5))] = true := by decide +kernel

def signals : State := core0 { c0 with sems := [(3, 7)] }
theorem witness_SignalInstructions : holds [
    seqReady signals 0 .ssigAdd (wordY .ssigAdd hd0 (fy 3 1 127 0)), seqReady signals 0 .ssigSet (wordY .ssigSet hd0 (fy 63 1 0 0)),
    allDone (getCore signals 0), runsPart signals 0 (partOfCore signals 0), seqReady signals 0 .ssigAdd (wordY .ssigAdd hd0 (fy 3 1 9 0)),
    decide (placedJob signals 9 (partOfCore signals 0) = none), smapWf Core.reset signals.cores, decide ((getCore signals 0).fault = none)] = true := by decide +kernel
/-- Core 9 had a job of the same partition, which has left it with no image. -/
def ent8 : JobEnt := ⟨8, false, false, 1, 64, 0, 0, 0, 0, 0, 0, 0, 0, 0, 0, 0, 0, 0⟩
def departed : State := { signals with
  jobs := [{ ent := ent8, seqs := [], core := some 9, out := .deferred, imgDrop := false, fault := ⟨0, 0, 0, 0, 0, 0⟩, runUs := 0, asr := 0,
             seed0 := 0, stream0 := 0, ctr0 := 0, prog := [], p0mask := 0, start := ⟨0, 0, 0, []⟩ }] }
theorem witness_SignalInstructions_departed : holds [!runsPart departed 9 (partOfCore departed 0), decide (placedJob departed 9 (partOfCore departed 0) = some 8),
    (findImage departed (partOfCore departed 0) 8).isNone, seqReady departed 0 .ssigAdd (wordY .ssigAdd hd0 (fy 3 1 9 0)), allDone (getCore departed 0)] = true := by
  decide +kernel
theorem test_signal_elsewhere : after (.ssigSet 0 hd0 (fy 3 1 9 0)) signals (fun t => (getCore t 0).fault.map (fun f => (f.code, f.spc)) == some (4, 72)) = true := by
  decide +kernel
theorem test_signal_adds : after (.ssigAdd 0 hd0 (fy 3 1 127 0)) signals (fun t => smapGet 0 (getCore t 0).sems 3 == 12) = true := by decide +kernel

def descOf (w : List W64) : Desc :=
  { seq := 3, sub := 0, pc := 64, ch := 1, words := w, st := .queued, startAt := 0, turnAt := 0, heldFor := 0, addPos := 0, uid := 0,
    buf := [] }
def heldBy (x : Hold) (s : State) : State := coreNow 0 (fun c => { c with hold := x }) s
def waiting : State := core0 { c0 with descs := [descOf [0x32, 0, 0, 0, 0, 0, 0, 0]] }
def stalled : State := heldBy (.stall (wordS .add hd0 (fs 4 3 2 0 0)) 0) run0
theorem witness_WaitsAndTheirEnds : holds [
    seqReady signals 0 .swait (wordY .swait hd0 (fy 3 2 127 0)), seqReady signals 0 .swait (wordY .swait hd0 (fy 3 1 127 1)),
    seqReady signals 0 .lfence (wordY .lfence hd0 (fy 0 0 0 0)), seqReady waiting 0 .lfence (wordY .lfence hd0 (fy 0 0 0 0)),
    seqReady waiting 0 .dwait (wordD .dwait hd0 (fd 1 0 0)), seqReady waiting 0 .dwaitall (wordD .dwaitall hd0 (fd 0 0 0)),
    canIssue run0 0, waitHolds (getCore signals 0) (wordY .swait hd0 (fy 3 2 127 0)), decide (allDescs (getCore run0 0) = []),
    (allDescs (getCore waiting 0)).all (fun x => decide (x.1 ≠ 2)),
    seqReady (coreNow 0 (fun c => { c with hold := .none }) stalled) 0 .add (wordS .add hd0 (fs 4 3 2 0 0)), canIssue stalled 0,
    smapWf Core.reset stalled.cores, decide ((getCore stalled 0).hands = []),
    waitMeets (getCore signals 0) (wordY .swait hd0 (fy 3 1 127 0)) 5, !waitHolds (getCore signals 0) (wordY .swait hd0 (fy 3 1 127 0))] = true := by decide +kernel
/-- A value that the semaphore took meanwhile ends the wait (10 R269, R272). -/
theorem test_wait_saw_its_value : after (.swaitRelease 0) (heldBy (.swait (wordY .swait hd0 (fy 3 1 127 0)) [5]) signals) (fun t => (getCore t 0).pc == 72) = true := by
  decide +kernel
theorem test_fence_waits : goesB (.lfence 0 hd0 (fy 0 0 0 0)) waiting (heldBy .lfence waiting) = true := by decide +kernel
theorem test_wait_not_equal : goesB (.swait 0 hd0 (fy 3 1 127 0)) signals (heldBy (.swait (wordY .swait hd0 (fy 3 1 127 0)) []) signals) = true := by
  decide +kernel

theorem witness_HaltAndTrap : holds [
    seqReady run0 0 .halt (wordY .halt hd0 (fy 0 0 0 0)), seqReady run0 0 .strap (wordY .strap hd0 (fy 0 3 0 0)),
    decide ((getCore run0 0).job = some job0), decide ((getCore run0 0).fault = none)] = true := by decide +kernel

/-- A `cwr` to a capability index is ILLEGAL (03 R72). -/
theorem test_capability_write : after (.cwr 0 hd0 (fs 0 3 0 1 16)) run0 (fun t => (getCore t 0).fault.map (fun f => f.code) == some 1) = true := by decide +kernel

theorem witness_FalsePredicateSkips : holds [
    arrives run0 0 .add (wordS .add hd2 (fs 4 3 2 0 0)), arrives run0 0 .stD (wordS .stD hd2 (fs 4 3 0 1 0)),
    arrives run0 0 .li64 (wordS .li64 hd2 (fs 4 0 0 0 0)), arrives run0 0 .halt (wordY .halt hd2 (fy 0 0 0 0)),
    !predHolds (getCore run0 0) (wordS .add hd2 (fs 4 3 2 0 0)), !predHolds (getCore run0 0) (wordS .stD hd2 (fs 4 3 0 1 0)),
    !predHolds (getCore run0 0) (wordS .li64 hd2 (fs 4 0 0 0 0)), !predHolds (getCore run0 0) (wordY .halt hd2 (fy 0 0 0 0))] = true := by decide +kernel

theorem witness_IllegalWordFaults : holds [
    decide ((Op.ldD, wordS .ldD hd0 (fs 4 3 1 0 0), Instr.ldD 0 hd0 (fs 4 3 1 0 0)) ∈ coreRows 0 hd0 (fs 4 3 1 0 0) (fb 0 0 0 0) (fm 0 0 0 0 0) (fv 0 0 0 0 0 0)
      (fd 0 0 0) (fy 0 0 0 0) 0),
    canIssue run0 0, decide ((getCore run0 0).hold = .none), fetchOk (getCore run0 0) 8, decide ((getCore run0 0).job = some job0),
    decide ((getCore run0 0).fault = none), !legal .ldD (wordS .ldD hd0 (fs 4 3 1 0 0))] = true := by decide +kernel

/-! ### Queued instructions and pipes -/

def mats : State := core0 { c0 with sreg := [(1, 0), (2, 0x1000), (3, 0x2000)] }
def wmm : W64 := wordM .mmac hd0 (fm 0 1 0 8 8)
def wmz : W64 := wordM .mzero hd0 { fm 1 0 0 0 0 with sa := 0, sb := 0, k := 0 }
def wva : W64 := wordV .vadd hd0 (fv 1 2 3 0 0 0)
def fulls : State := core0 { c0 with mq := List.replicate 4 (uopOf wmm), vq := List.replicate 8 (uopOf wva) }
theorem witness_QueuedInstructionsIssue : holds [
    ready mats 0 .mmac wmm, decide ((getCore mats 0).mq.length < 4),
    (opRanges .mmac wmm (getCore mats 0)).any (fun rs => decide ((getCore mats 0).trk.length + rs.length ≤ 48)),
    ready mats 0 .vadd wva, decide ((getCore mats 0).vq.length < 8),
    (opRanges .vadd wva (getCore mats 0)).any (fun rs => decide ((getCore mats 0).trk.length + rs.length ≤ 48)),
    ready fulls 0 .mmac wmm, decide ((getCore fulls 0).mq.length = 4), ready fulls 0 .vadd wva, decide ((getCore fulls 0).vq.length = 8)] = true := by
  decide +kernel
def d1 : List W64 := [0x20, 0x103, 0x1007, 20, 0, 0, 0, 0]
def d2 : List W64 := [0x02, 0x1007, 0x103, 20, 0, 0, 0, 0]
def part1 : Part := { Part.reset with st := .active, exts := [(0, 4)], shares := { Shares.reset with bm := 512, noc := 256 } }
def dmaAt : State := { core0 { c0 with sreg := [(1, 0x200)], spad := smapPut 0 [] 0x200 ((d1.map (fun w => natLe 8 w.toNat)).flatten) } with
  parts := [(0, Part.reset0), (1, part1)] }
theorem witness_DmaInstructionIssues : holds [
    ready dmaAt 0 .dma (wordD .dma hd0 (fd 1 1 0)), decide ((getCore dmaAt 0).dq.length < 4), !trkHit (getCore dmaAt 0) (some ⟨false, 0, 0x200, 0x23F⟩),
    !spadParity (getCore dmaAt 0) 0x200 64, decide (descList (spadBytes (getCore dmaAt 0) 0x200 64) = [d1]), dLegal dmaAt 0 d1, dInSpace d1] = true := by
  decide +kernel

def vecq : State := core0 { c0 with sreg := [(1, 0), (2, 0x1000)], vq := [uopOf wva], mq := [uopOf wmz] }
def matq : State := core0 { c0 with sreg := [(1, 0), (2, 0x1000)], mq := [uopOf wmm] }
def dmaq : State := core0 { c0 with dq := [{ op := uopOf 0, ch := 1, descs := [d1], read := 0 }] }
theorem witness_QueuedInstructionStarts : holds [
    coreOn vecq 0, !(getCore vecq 0).frozen, decide (wordOp wva = some .vadd), regsFree (getCore vecq 0) (uopOf wva), rangesFree (getCore vecq 0) 0,
    decide (opFmt .vadd = .V), decide ((getCore vecq 0).vector = none), decide (wordOp wmz = some .mzero), regsFree (getCore vecq 0) (uopOf wmz),
    decide ((getCore vecq 0).port = none), decide (wordOp wmm = some .mmac), !mPR wmm, regsFree (getCore matq 0) (uopOf wmm),
    decide ((getCore matq 0).array = none), decide ((getCore vecq 0).hands = []), smapWf Core.reset dmaq.cores] = true := by decide +kernel

def tiles : SMap W32 := smapPut 0 (smapPut 0 [] (2 * 4096 + 3 * 128) (List.replicate 128 0x7FFFFFFF)) (3 * 4096 + 3 * 128) (List.replicate 128 2)
def rowOf (o : Op) (f : FmtV) : State := core0 { c0 with tile := tiles, vector := some { uopOf (wordV o hd0 f) with sv := [9] }, trk := [⟨0, 0, none, none⟩] }
theorem witness_VectorIntegerRow : [Op.vadd, .vsub, .vmul, .vmulh, .vand, .vor, .vxor, .vandn, .vnot, .vshl, .vshr, .vsra, .vrotl, .vimin, .vimax].all (fun o =>
    coreOn (rowOf o (fv 1 2 3 3 0 0)) 0 && !(getCore (rowOf o (fv 1 2 3 3 0 1)) 0).frozen &&
      decide ((getCore (rowOf o (fv 1 2 3 31 0 3)) 0).vector.map (fun u => (u.word, u.done)) = some (wordV o hd0 (fv 1 2 3 31 0 3), 0))) = true := by
  decide +kernel
def lane0 (o : Op) (f : FmtV) (v : W32) (fl : W64) : Bool :=
  after (.instrComplete 0 .vector) (rowOf o f) (fun t => smapGet 0 (getCore t 0).tile (4096 + 3 * 128) == v && (getCore t 0).asr == fl)
/-- Lanes of 2^31 - 1 and 2 (04 Table 4-8). -/
theorem test_vadd_wraps : lane0 .vadd (fv 1 2 3 3 0 0) 0x80000001 0 = true := by decide +kernel
theorem test_vadd_clamps : lane0 .vadd (fv 1 2 3 3 0 3) 0x7FFFFFFF 32 = true := by decide +kernel
theorem test_vsub_clamps_to_8 : lane0 .vsub (fv 1 2 3 3 0 1) 0x7F 32 = true := by decide +kernel
theorem test_vmulh_high : lane0 .vmulh (fv 1 2 3 3 0 0) 0 0 = true := by decide +kernel
theorem test_vrotl : lane0 .vrotl (fv 1 2 3 3 0 0) 0xFFFFFFFD 0 = true := by decide +kernel
theorem test_vandn : lane0 .vandn (fv 1 2 3 3 0 0) 0x7FFFFFFD 0 = true := by decide +kernel
theorem witness_VectorMovesAndSummaries : [Op.vmov, .vzero, .vbcast, .vneg, .vabs, .vredall].all (fun o =>
    coreOn (rowOf o (fv 1 2 0 3 0 0)) 0 && !(getCore (rowOf o (fv 1 2 0 3 0 0)) 0).frozen &&
      decide ((getCore (rowOf o (fv 1 2 0 3 0 8)) 0).vector.map (fun u => (u.word, u.done)) = some (wordV o hd0 (fv 1 2 0 3 0 8), 0))) = true := by
  decide +kernel
theorem test_vneg_sign : lane0 .vneg (fv 1 3 0 3 0 0) 0x80000002 0 = true := by decide +kernel
/-- The sum of 128 lanes of 2 (07 R193). -/
theorem test_vredall_sum : after (.instrComplete 0 .vector) (rowOf .vredall { fv 0 3 0 3 0 8 with md := 5 }) (fun t => mRead (getCore t 0) 5 == 256) = true := by
  decide +kernel

def matOf (clr : BitVec 1) : State := core0 { c0 with
  spad := smapPut 0 (smapPut 0 [] 0 (List.replicate 2048 0xFF)) 0x1000 (List.replicate 2048 3)
  kind := 1
  acc := [(5, 7)]
  array := some { uopOf (wordM .mmac hd0 (fm 0 clr 0 8 8)) with sv := [0, 0, 0x1000] } }
def zeroing : State := core0 { c0 with acc := [(5, 7), (16390, 9)], kind := 3, port := some (uopOf wmz) }
theorem witness_IntegerMatrixProduct : holds [
    coreOn (matOf 0) 0, coreOn (matOf 1) 0, accInt (getCore (matOf 0) 0) 0, !(getCore (matOf 0) 0).frozen, !spadParity (getCore (matOf 0) 0) 0 2048,
    !spadParity (getCore (matOf 0) 0) 0x1000 2048, decide ((getCore (matOf 0) 0).array.map (fun u => (u.word, u.done)) = some (wordM .mmac hd0 (fm 0 0 0 8 8), 0)),
    coreOn zeroing 0, decide ((getCore zeroing 0).port.map (fun u => u.word) = some wmz)] = true := by decide +kernel
/-- 16 products of -1 and 3 (05 R153). -/
theorem test_mzero_clears : after (.instrComplete 0 .port) zeroing (fun t => (getCore t 0).acc == [(5, 7)] && (getCore t 0).kind == 1) = true := by decide +kernel

def mblk : List Byte := natLe 8 (32 + 65536) ++ (List.range 256).map (BitVec.ofNat 8) ++ zeros 32
def wpress : W64 := wordM .mmac hd0 (fm 0 1 1 2 12)
def mtbl : List Byte := [1, 0, 1, 1] ++ [2] ++ zeros 11 ++ [120] ++ zeros 31 ++ zeros 16
def mangling (m : Mangle) : State := core0 { c0 with
  sreg := [(1, 0), (2, 0x1000), (3, 0x2000)]
  spad := smapPut 0 (smapPut 0 [] 0x1000 mblk) 0x2000 mtbl
  mq := [uopOf wpress]
  mangle := m }
/-- Whether the block at 0x1000 decodes for a stream. -/
def blockHere (s : State) (table : List Byte) (word : W64) : Bool :=
  let c := getCore s 0
  holds [coreOn s 0, !c.frozen, decide (c.array = none), decide (c.mangle.queue.length < 32), (opnd c 0x1000 8).isSome, decide (rdN mblk 0 1 ≤ clenMax (pressFmt word)),
    decide (opnd c 0x1000 (8 + planeLen (pressFmt word) + 32) = some mblk), (blockWeights table (pressFmt word) mblk).isSome]
def streaming (i : Nat) : Mangle := { Mangle.idle with table := mtbl, word := wpress, seq := 4, addr := 0x1000, index := i }
theorem witness_MangleDecodesABlock_next : holds [
    blockHere (mangling (streaming 0)) mtbl wpress, decide (wpress ≠ 0), decide (2 * (0 + 1) ≠ mK wpress), decide (2 * (7 + 1) = mK wpress)] = true := by decide +kernel
theorem witness_MangleDecodesABlock_idle : holds [
    decide (Mangle.idle.word = 0), decide (uopOp (uopOf wpress) = .mmac), isPressed (uopOf wpress), decide (Mangle.idle.begun ≤ (uopOf wpress).seq),
    decide ((uopOf wpress).sv = []), pressReady (getCore (mangling Mangle.idle) 0) (uopOf wpress),
    decide (sAddr (getCore (mangling Mangle.idle) 0) (mSB wpress) = 0x1000), decide (sAddr (getCore (mangling Mangle.idle) 0) (mSB wpress + 1) = 0x2000),
    decide (opnd (getCore (mangling Mangle.idle) 0) 0x2000 64 = some mtbl), tblValid mtbl (pressFmt wpress), blockHere (mangling Mangle.idle) mtbl wpress] = true := by
  decide +kernel
theorem test_mangle_last_block : after (.mangleBlockDecode 0) (mangling (streaming 7)) (fun t =>
    decide ((getCore t 0).mangle.word = 0 ∧ (getCore t 0).mangle.queue.map (fun b => b.1) = [4])) = true := by decide +kernel

/-! ### Slices, power, resets -/

def slc (v : Slice) : State := { up with clk := 100, tick := { up.tick with openAt := 100, runAt := 100 }, bonded := { Bonded.reset with slices := [(99, v)] } }
def asking : Slice := { Slice.reset with retrainReq := true, spareBonds := 15 }
theorem witness_SliceRepairAndRefresh : holds [
    decide ((getSlice (slc { Slice.reset with remaps := [(1, 2, 3, 900), (4, 5, 6, 80)] }) 99).remaps = [(1, 2, 3, 900), (4, 5, 6, 80)]),
    decide (Slice.reset.holdAt = none), decide ((slc asking).clk = (slc asking).tick.runAt), belfryRuns (slc asking), decide ((slc asking).tick.phase = .run),
    decide ((retrainWaiting (slc asking)).head? = some 99), !up.tick.retrained, decide ((retrainWaiting (slc { asking with spareBonds := 16 })).head? = some 99),
    decide ((getSlice (slc { asking with st := .retrain, holdAt := some 40 }) 99).holdAt = some 40)] = true := by decide +kernel
theorem test_remap_done : after (.rowRemapDone 99) (slc { Slice.reset with remaps := [(1, 2, 3, 900), (4, 5, 6, 80)] })
    (fun t => decide ((getSlice t 99).remaps = [(1, 2, 3, 900)] ∧ t.clk = 100)) = true := by decide +kernel
theorem test_retrain_starts : after (.sliceRetrain 99) (slc asking) (fun t => decide ((getSlice t 99).holdAt = some 100)) = true := by decide +kernel
theorem test_refresh_half : after (.refreshHold 99) (slc { asking with refStep := 1, refAt := 77 }) (fun t => (getSlice t 99).refAt == 2427) = true := by
  decide +kernel

theorem witness_TemperatureSteps : holds [
    isUp up, !up.test.arm, !up.power.tripped, smapWf Slice.reset up.bonded.slices, decide ((getSlice up 99).refStep.toNat ≤ 0), decide ((getQuad up 24).step = .normal)]
    = true := by decide +kernel
theorem test_stack_step_edges : holds ([((85 : Int), (0 : BitVec 2)), (86, 1), (95, 1), (96, 2), (105, 2)].map (fun x =>
    after (.stackTempSample 99 x.1 20) up (fun t => (getSlice t 99).refStep == x.2))) = true := by decide +kernel
theorem test_junction_step_edges : holds ([((95 : Int), Therm.normal), (96, .warn), (100, .warn), (101, .hold), (104, .hold)].map (fun x =>
    after (.junctionSample 24 x.1) up (fun t => decide ((getQuad t 24).step = x.2)))) = true := by decide +kernel

/-- Two bits of a byte flipped: the data has changed and nothing is noticed (09 R239). -/
theorem test_even_flip : after (.patrolScrub 99 17 [(5, 3)]) up (fun t => decide (t.bonded.mem.length = 1 ∧ t.bonded.poison = [] ∧ t.bonded.bad = [])) = true := by
  decide +kernel
theorem witness_PatrolScrubReads : holds [
    decide ((getSlice up 99).scrubpm ≠ 0), decide ((getSlice up 99).st ≠ .failed), !bankHeld (getSlice up 99) (17 * 32),
    (addrOfLocal 99 (17 * 32)).any (fun a => !isPoison up (a / 4096) && decide (badByte up (a / 32 * 32) 32 = none) && decide (smapGet 0 up.bonded.attrBad (a / 4096) = 0)), (addrOfLocal 99 (64487423 * 32)).isSome,
    decide (up.bonded.bad = []), decide (up.bonded.poison = [])] = true := by decide +kernel

def busy : State := { core0 c0 with bonded := { Bonded.reset with mem := [(5, 3)] }, flash := [(1, 2)], pending := [.warmReset] }
/-- Its bring-up has passed step 1. -/
def settled : State := { busy with clk := 12000000 }
theorem witness_ResetsAndCuts : holds [isUp busy, decide (busy.boot = .up 0 false), decide (busy.clk < 12000000), decide (settled.boot = .up 0 false), isUp settled] = true := by decide +kernel
theorem test_cut_at_116 : holds [after (.thermalCut 24 116) busy (fun t => decide (t.boot = .off ∧ t.bonded = Bonded.reset ∧ t.flash = [(1, 2)])),
    goesB (.thermalCut 24 115) busy busy] = true := by decide +kernel
theorem test_undervoltage_1_us : holds [after (.inputUndervoltage 4599 1001) settled (fun t => decide (t.boot = .off)),
    after (.inputUndervoltage 4599 1000) settled (fun t => decide (t.boot = settled.boot)),
    after (.inputUndervoltage 4599 0) busy (fun t => decide (t.boot = .off))] = true := by decide +kernel

def quadAs (v : Quad) : State := { up with clk := 5, power := { up.power with quads := [(24, v)] } }
theorem witness_QuadPower : holds [
    smapWf Quad.reset (quadAs { Quad.reset with st := .ramp, rampAt := 100 }).power.quads,
    decide ((getQuad (quadAs { Quad.reset with st := .ramp, rampAt := 100 }) 24).st = .ramp), !Quad.reset.wantOff,
    decide ((getQuad (quadAs { Quad.reset with cycleAt := some 7 }) 24).cycleAt = some 7), decide (Quad.reset.st = .off), decide (Quad.reset.step ≠ .emerg),
    up.power.quadEn.getLsbD 24, !({ up with power := { up.power with quadEn := 0 } } : State).power.quadEn.getLsbD 24] = true := by decide +kernel
theorem test_quad_on : after (.quadRampComplete 24) (quadAs { Quad.reset with st := .ramp, rampAt := 100 })
    (fun t => decide ((getQuad t 24).st = .on ∧ t.clk = 120100)) = true := by decide +kernel

def boot : BringUp := { badBonds := [(3, [1])], badQuads := [4], flashOk := true, straps := 2 }
def inReset : State := { State.reset with power := { Power.reset with mrstn := false, input := 5700 } }
def noImage : State := { State.reset with secure := { State.reset.secure with
  slotA := { FwSlot.factory with valid := false }
  slotB := { FwSlot.factory with valid := false } } }
theorem witness_BringUpStarts : holds [!isUp State.reset, State.reset.power.mrstn, (chooseImage State.reset.secure).isSome, (chooseImage noImage.secure).isNone,
    !isUp inReset, !inReset.power.mrstn, decide (inReset.power.input = 5700)] = true := by decide +kernel
theorem test_power_on : holds [after (.powerOn 4800 boot) State.reset (fun t => decide (t.boot = .up 0 false ∧ t.power.flashSt = .on)),
    after (.powerOn 5700 boot) noImage (fun t => decide (t.boot = .up 0 true))] = true := by decide +kernel

def warm : State := { busy with
  bonded := { busy.bonded with slices := [(3, { Slice.reset with spareBonds := 2, adds := 5 })] }
  tick := { Tick.reset with phase := .closed, now := 44, plan := some { seq := 3, digest := [], wrst := true } } }
theorem witness_WarmResetKeeps : holds [decide (warm.tick.status = []), decide (warm.tick.plan.map (fun h => h.wrst) = some true), smapWf Slice.reset warm.bonded.slices, (chooseImage warm.secure).isSome, decide (warm.tick.phase = .closed)] = true := by
  decide +kernel
/-- Spare bonds and spare rows are kept, counts and pending remaps are not (09 Table 9-7). -/
theorem test_warm_slice : (let v := warmSlice { Slice.reset with spareBonds := 2, adds := 5, spares := [(3, 7)], remaps := [(3, 1, 2, 9)] }
    decide (v.spareBonds = 2 ∧ v.adds = 0 ∧ v.spares = [(3, 7)] ∧ v.remaps = [])) = true := by decide +kernel

def dog : State := { core0 c0 with clk := 5, parts := [(0, Part.reset0), (1, { Part.reset with st := .active })] }
theorem witness_BelfryWatchdog : holds [isUp dog, !dog.test.wdDead, decide (dog.test.wdTicks = []), decide (dog.test.wdcnt.count ≠ BitVec.allOnes 32),
    (chooseImage { dog.secure with pending := false }).isSome, smapWf Core.reset dog.cores, smapWf Part.reset dog.parts, !dog.test.arm,
    decide ((getCore dog 0).job = some job0), decide (dog.seqs = []), decide (dog.tick.phase = .run)] = true := by decide +kernel

theorem witness_SidebandAndTap : holds [isUp up, up.power.mrstn, !({ up with power := { up.power with mrstn := false } } : State).power.mrstn] = true := by decide +kernel
/-- IDCODE (21 R560). -/
theorem test_idcode : after .jtagIdcode up (fun t => t.outbox == [.tdo 0xB0009147]) = true := by decide +kernel
theorem test_thermal_status : after .smbThermalStatus { up with power := { up.power with trip := true } } (fun t => t.outbox == [.smb 0x53 [0, 1] 0xAA]) = true := by
  decide +kernel

/-! ### Ticks and plans -/

def idle : State := { up with clk := 7, tick := { Tick.reset with nextAt := 1000, first := false, now := 9 } }
def plan0 : List Byte :=
  natLe 4 0x4E414C50 ++ natLe 2 0x0100 ++ zeros 2 ++ natLe 4 0x180 ++ zeros 4 ++ natLe 8 10 ++ natLe 8 3 ++
    natLe 8 (1000 + 20 * 2 ^ 20 + 200 * 2 ^ 36) ++ zeros 0x158
def planned : State := { idle with tick := { idle.tick with next := .valid plan0 } }
theorem witness_TickOpens : holds [decide (idle.boot = .up 0 false), !idle.test.wdDead, decide (idle.tick.phase = .before), !idle.tick.bellen,
    decide (idle.tick.next = .none), !idle.power.tripped, decide (planned.tick.next = .valid plan0), decide (planned.test.wdUntil ≤ planned.tick.nextAt),
    decide ((getQuad planned 0).st = .on), decide ((getQuad planned 0).step = .normal), !(getQuad planned 0).wantOff,
    smapWf Quad.reset planned.power.quads, !planned.power.tripped] = true := by decide +kernel
theorem test_idle_tick : after .tickOpen { idle with tick := { idle.tick with idleRun := 255 } }
    (fun t => decide (t.tick.now = 10 ∧ t.tick.missed = 255 ∧ t.tick.idleRun = 256 ∧ t.tick.openAt = 1000)) = true := by decide +kernel

def owner0 : Owner := { qp := 2, planVa := 0x10000, planRkey := 7, planSlot := 4096, statVa := 0x20000, statRkey := 8, statSlot := 4096,
                        hsVa := 0x40000, hsRkey := 9, evVa := 0x80000, evRkey := 10, evLen := 4096, rtuAt := some 3, pollAt := 50, hello := false, done := true }
def owned (s : State) : State := { s with host := { s.host with
  owner := some owner0
  qps := [(2, { Qp.reset with st := .rts, owner := true, plain := true })] } }
def fetching : State := owned { idle with tick := { idle.tick with phase := .run, next := .fetching } }
theorem witness_PlanFetchAndArrival : holds [decide (fetching.host.owner = some owner0), decide ((getQp fetching 2).st = .rts),
    decide (fetching.tick.phase = .run), owner0.done, sends fetching (getQp fetching 2).port, !fetching.test.arm, decide (plLen plan0 ≤ plan0.length),
    decide ((owned { idle with tick := { idle.tick with phase := .run } }).tick.next = .none)] = true := by decide +kernel
theorem test_bad_magic_is_invalid : after (.planArrival (zeros 384)) fetching (fun t => match t.tick.next with
    | .invalid .. => true
    | _ => false) = true := by decide +kernel

def sealing : State := { up with tick := { Tick.reset with phase := .closed, status := [(zeros 64, false), (zeros 64, true)] } }
theorem witness_CloseAndSeal : holds [decide (up.cores = []), decide (up.tick.phase = .run), decide (sealing.tick.status.find? (fun x => x.2) = some (zeros 64, true)),
    decide (sealing.host.owner = none), decide ((owned sealing).host.owner = some owner0), decide ((getQp (owned sealing) 2).st = .rts),
    belfryRuns sealing, !up.test.wdDead, sends (owned sealing) (getQp (owned sealing) 2).port] = true := by decide +kernel

def follower : State := { idle with
  links := { Links.reset with portE := { BkPort.reset with st := .up } }
  tick := { idle.tick with bellen := true, aligned := true, bell := 77 } }
def marker : List Byte := flitBytes 2 0 0 0 0 0 (natLe 8 77 ++ natLe 8 123 ++ natLe 8 2000 ++ natLe 8 0)
theorem witness_FollowersAndMarkers : holds [hears follower .e, flitGood marker, decide (flitType marker = 2), decide (rdN (rdB marker 8 240) 0 8 % 1024 = 77),
    decide (follower.tick.markTick ≠ some 123), !follower.tick.isBell, decide (follower.tick.marked = none), decide (follower.tick.next = .none)] = true := by decide +kernel

def loops : State := { up with
  test := { Test.reset with loopAt := some 9, loopErr := { count := 0xFFFFFFF0, ovf := false } }
  bonded := { Bonded.reset with slices := [(99, { Slice.reset with looped := true, holdAt := some 4 })] } }
theorem witness_TestAndFirmware : holds [decide (loops.test.loopAt = some 9), decide (loops.test.loopErr.count.toNat + 15 < 2 ^ 32),
    smapWf Slice.reset loops.bonded.slices, (getSlice loops 99).looped,
    decide (({ up with secure := { up.secure with update := some 3 } } : State).secure.update = some 3)] = true := by decide +kernel
theorem test_loop_ends : after (.tstLoopEnd 15) loops (fun t => decide (t.test.loopErr.count = 0xFFFFFFFF ∧ (getSlice t 99).holdAt = none)) = true := by
  decide +kernel

/-! ### DMA, routing -/

def gran1 : GranAttr := { a := true, ro := false, tag := 1 }
def movers (st : DescSt) (w : List W64) : State := { core0 { c0 with
    spad := smapPut 0 [] 0x100 ((List.range 64).map (fun i => BitVec.ofNat 8 (i * 7 + 3)))
    descs := [{ descOf w with st := st }]
    trk := mkEntries 3 [dRanges w] } with
  parts := [(0, Part.reset0), (1, part1)]
  bonded := { Bonded.reset with gran := [(0, gran1)], mem := smapPut 0 [] 0x1000 (List.replicate 64 9) }
  buckets := smapOf 0 1000 (List.replicate 205 (200000 : Int)) }
def paid (w : List W64) : Bool :=
  (turnDebits 0 w [gran32 (dSRC w)] (dDST w)).all (fun x => decide (1024 * 64 ≤ tokens (movers (.moving 0) w) 1 x.1))
/-- One turn of either direction, its bytes within a granule on each side. -/
def turning (w : List W64) (a : Nat) (wr : Bool) : Bool :=
  let s := movers (.moving 0) w
  holds [dmaRuns s 0, paid w, decide ((getCore s 0).descs = [{ descOf w with st := .moving 0 }]), !dEdge w, !dSEMEN w,
    decide (dOP w = 0 ∧ dN1 w = 1 ∧ dN2 w = 1 ∧ dLEN w = 20 ∧ dSRC w % 32 + 20 ≤ 32 ∧ dDST w % 32 + 20 ≤ 32), decide (s.waiters = []),
    smapWf 0 s.bonded.mem, smapWf 0 s.buckets, smapWf Core.reset s.cores, !mustHold s a (0, 3, 0), decide (bCheck s 1 a wr = 0), !isPoison s (pageOf a)]
theorem witness_LocalDescriptorMoves_start : holds [decide (channelHead (getCore (movers .queued d1) 0) 1 = some (descOf d1)), dmaRuns (movers .queued d1) 0,
    descFree (getCore (movers .queued d1) 0) (descOf d1), decide ((getCore (movers .queued d1) 0).hands = [])] = true := by decide +kernel
theorem witness_LocalDescriptorMoves_turn : holds [
    turning d1 (dDST d1) true, decide (dSSP d1 = 0 ∧ dDSP d1 = 2), !spadParity (getCore (movers (.moving 0) d1) 0) (dSRC d1) 20,
    !smapGet false (movers (.moving 0) d1).bonded.wp (pageOf (dDST d1)), turning d2 (gran32 (dSRC d2)) false, decide (dSSP d2 = 2 ∧ dDSP d2 = 0),
    decide (badByte (movers (.moving 0) d2) (gran32 (dSRC d2)) 32 = none)] = true := by decide +kernel
theorem test_move_to_memory : after (.dmaDescriptorComplete 0 ⟨0, []⟩) (movers (.moving 0) d1)
    (fun t => smapRun 0 t.bonded.mem 0x1006 3 == [9, 24, 31] && smapRun 0 t.bonded.mem 0x101A 2 == [157, 9]) = true := by decide +kernel
theorem test_move_to_scratchpad : after (.dmaDescriptorComplete 0 ⟨0, []⟩) (movers (.moving 0) d2)
    (fun t => spadBytes (getCore t 0) 0x102 3 == [17, 9, 9] && decide ((getCore t 0).descs = [])) = true := by decide +kernel

def finished (w0 : W64) : State := core0 { c0 with
  descs := [descOf d1, { descOf [w0, 0x103, 0x1007, 20, 0, 0, 0, 0] with sub := 1, st := .complete }]
  trk := mkEntries 3 [dRanges d1, dRanges d1] }
theorem witness_DescriptorCompletes : holds [
    decide (((getCore (finished 0x3F8700020) 0).descs[1]?).map (fun d => d.st) = some .complete), dSEMEN [0x3F8700020, 0, 0, 0, 0, 0, 0, 0],
    decide (dSCORE [0x3F8700020, 0, 0, 0, 0, 0, 0, 0] = 127), !dSEMEN d1, decide (job0.st = .running), decide ((finished 0x20).tick.phase = .run),
    smapWf Core.reset (finished 0x20).cores, decide ((finished 0x20).bonded.slices = [])] = true := by decide +kernel

def late : State := { core0 { c0 with descs := [descOf d1, { descOf d1 with sub := 1, st := .moving 2, startAt := 70, turnAt := 75, heldFor := 5 }] } with clk := 100 }
def xfer0 : Xfer := { uid := 9, owner := .desc 0 3 1, via := .link 77, read := false, part := 1, tag := 0, total := 3, acked := 1, startAt := 5,
                      lastAt := 80, heldFor := 6, dst := 0, len := 0, msg := 0, sent := 3, todo := [], bytes := [] }
def remote : State := { late with xfers := [xfer0] }
def req0 : RouteReq := { core := 0, jobid := 5, part := 1, seq := 8, pc := 72, sem := 4, layer := 0, kind := 0, exp := 0, issued := 40, heldFor := 0, srcs := [], got := [], begun := [] }
/-- A dispatch whose limit falls within the tick. -/
def asked0 : State := { run0 with routes := [req0], tick := { run0.tick with periodUs := 10000 } }
theorem witness_TimeLimits : holds [
    decide (((getCore late 0).descs[1]?).map (fun d => d.st) = some (.moving 2)), decide (remote.xfers = [xfer0]), decide (xfer0.via = .link 77),
    decide (xfer0.owner = .desc 0 3 1), ((getCore remote 0).descs.find? (fun d => decide (d.seq = 3) && decide (d.sub = 1))).isSome,
    (List.range 25).all (fun q => !(getQuad remote q).wantOff), decide (asked0.routes[0]? = some req0),
    decide (asked0.tick.phase = .run), decide (40 + 1200 * 5000 < deadline asked0.tick), asked0.cores.all (fun e => decide (e.2.hands = [])), smapWf Core.reset late.cores, decide ((getCore late 0).fault = none),
    !late.power.tripped, !descHeld late 0 { descOf d1 with sub := 1, st := .moving 2, startAt := 70, turnAt := 75, heldFor := 5 } 2, !xferHeld remote xfer0] = true := by decide +kernel
/-- The limit of the network is 50 us at reset (20 Table 20-4). -/
theorem test_network_limit : after (.networkRequestTimeout 0 1) late (fun t => t.clk == 60075) = true := by decide +kernel

theorem witness_RegulatorRefill : holds [smapWf 0 (movers .queued d1).buckets, allPorts.all (fun p => (getPort (movers .queued d1) p).regq.isEmpty)] = true := by decide +kernel

def layer0 : Layer := { index := 0, part := 1, sidx := 0, nsrc := 1, nreq := 2, lsem := 6, c := 2, k := 2, nexp := 2, rb := 1, act := 0x1000, orb := 1,
                        cmb := 0x4000, outc := 0x8000, wait := 5, lwin := 1, doneOff := 0x100, cwin := 2, cdone := 0x9000, experts := [], pulls := [],
                        st := .open, tokens := [], reqs := [], slots := [], homes := [], toAck := [], toDone := [], todo := [], dispatched := false,
                        lsemSent := false, nEmpty := 0, nDisp := 0, nAbort := 0, build := 0, readAt := 0, setNo := 0, combined := false, imbalance := false }
def routers (b : List Byte) : State := { core0 { c0 with sreg := [(1, 0x1000)], spad := smapPut 0 [] 0x1000 b } with
  layers := [layer0]
  parts := [(0, Part.reset0), (1, part1)] }
/-- One token, request 1; a combine of expert 7. -/
def askDisp : List Byte := natLe 8 (65536 + 2 ^ 32) ++ zeros 56 ++ natLe 2 0 ++ natLe 2 1 ++ zeros 12 ++ natLe 4 0x3F800000 ++ natLe 4 0x3F000000 ++ zeros 40
def askComb : List Byte := natLe 8 (7 * 65536) ++ zeros 56
/-- The record at 0x1000 waits at the belfry. -/
def handed (comb : Bool) (b : List Byte) : State :=
  let x : HandOff := { seq := 2, pc := 64, comb := comb, sem := 5, addr := 0x1000, len := b.length, at' := 7 }
  { routers b with cores := (routers b).cores.map (fun e => (e.1, { e.2 with
      hands := [x]
      trk := [{ seq := 2, sub := 0, r1 := some ⟨false, 0, 0x1000, 0x1000 + b.length - 1⟩, r2 := none }] })) }
theorem witness_RoutingRequests_issue : holds [
    seqReady (routers askDisp) 0 .rdisp (wordY .rdisp hd0 (fy 5 1 127 0)), decide ((getCore (routers askDisp) 0).trk.length < 48),
    !trkHit (getCore (routers askDisp) 0) (some ⟨false, 0, 0x1000, 0x1000 + 127⟩), !trkHit (getCore (routers askDisp) 0) (some ⟨false, 0, 0x1000, 0x1000 + 63⟩),
    seqReady (routers askComb) 0 .rcomb (wordY .rcomb hd0 (fy 5 1 127 0))] = true := by decide +kernel
theorem witness_RoutingRequests_read : holds [
    decide ((getCore (handed false askDisp) 0).hands.map (fun x => (x.comb, x.len)) = [(false, 128)]), decide ((getCore (handed false askDisp) 0).hold = .none),
    decide (bits (leNat askDisp) 31 16 = 1), decide (bits (leNat askDisp) 47 32 = 1), !spadParity (getCore (handed false askDisp) 0) 0x1000 128,
    decide (layerAt (handed false askDisp) 0 = some layer0), decide (layer0.st = .open), decide (layer0.part = job0.part),
    smapWf Core.reset (handed true askComb).cores, !(routers askComb).test.arm, decide (bits (leNat askComb) 33 32 = 0)] = true := by decide +kernel
theorem test_request_read : after (.issueStallEnd 0) (handed false askDisp) (fun t => decide (t.routes.map (fun r => (r.layer, r.sem, r.issued)) = [(0, 5, 7)])
    && decide ((getCore t 0).trk = [])) = true := by decide +kernel

def expert0 : Expert := { cap := 4, pulled := false, home := 0, rowoff := 0, quota := 2, loff := 0x200, load := 0, routed := 0, admitted := 0, ovfin := 0,
                          ovfout := 0, spilled := 0 }
theorem witness_AdmissionKeepsQuotas : ([expert0] : List Expert)[0]? = some expert0 := by decide +kernel
def layer1 : Layer := { layer0 with
  reqs := [0, 1]
  experts := [expert0, { expert0 with loff := 0x8000 }]
  tokens := [⟨0, 0, [some (0, 0x3F800000), some (1, 0x3F000000)]⟩, ⟨1, 1, [some (0, 0x3F800000), none]⟩] }
def admitting : State := { run0 with
  tick := { run0.tick with phase := .run }
  layers := [layer1], parts := [(0, Part.reset0), (1, part1)] }
def layer2 : Layer := { layer0 with st := .admitted, dispatched := true }
def combining : State := { run0 with
  layers := [layer2]
  routes := [{ req0 with kind := 1 }]
  windows := [(1, { Window.reset with openW := true, part := 1, base := 0x10000, len := 0x1000 })]
  parts := [(0, Part.reset0), (1, part1)]
  bonded := { Bonded.reset with mem := [(0x10100, 0)] } }
def cleanWord (s : State) (a : Nat) : Bool :=
  decide (a % 8 = 0) && !isPoison s (a / 4096) && decide (smapGet 0 s.bonded.attrBad (a / 4096) = 0) && decide (badByte s (a / 32 * 32) 32 = none) && rangeIn (getPart s 1).exts a 8
theorem witness_RoutingProgress : holds [
    admitNext admitting layer1, decide (layerAt admitting 0 = some layer1), decide (admitting.tick.phase = .run), admitting.cores.all (fun e => decide (e.2.hands = [])),
    decide (localG combining (globalAddr (chipNo combining) 1 (pairWord combining 0x100)) 8 = some 0x10100), cleanWord combining 0x10100, sourcesDone combining layer2 0,
    !layer2.lsemSent, decide (layerAt combining 0 = some layer2), smapWf Core.reset combining.cores, cleanWord combining (pairWord combining layer2.cdone),
    decide (leNat (bBytes combining (pairWord combining layer2.cdone) 8) = liveExperts layer2), decide (layer2.slots = []),
    decide ((getCore combining 0).job = some job0), decide (job0.part = req0.part ∧ job0.jobid = req0.jobid)] = true := by decide +kernel
theorem test_lsem : after (.sourceDonePoll 0) combining (fun t => smapGet 0 (getCore t 0).sems 6 == 1 && smapGet 0 (getCore t 2).sems 6 == 0) = true := by
  decide +kernel
theorem test_combine_signals : after (.combineCollectDone 0) combining (fun t => smapGet 0 (getCore t 0).sems 4 == 1 && decide (t.routes = [])) = true := by
  decide +kernel

/-! ### The fold, pages, partitions -/

def tiers0 : Tiers := { t3every := 0, t2every := 4, fwin := 3, partner := 9, ringOff := 0, ringLen := 0x100000, logOff := 0x200000, logLen := 0x10000,
                        flOff := 0x40000, flLen := 0x200000, t3qp := 0, t3addr := 0, t3len := 0, tokBase := 0, tokLen := 0 }
def fold0 : Fold := { Fold.reset with tiers := some tiers0, touchUsed := [(9, 5)] }
def folding (f : Fold) : State := { up with
  parts := [(0, Part.reset0), (1, { Part.reset with st := .active, fold := true, exts := [(0, 4)], foldSt := f })]
  power := { up.power with flashSt := .on }
  bonded := { Bonded.reset with wp := [(5, true), (6, true)] } }
def seg0 (sent : Bool) : Segment :=
  { first := 3, last := 7, pages := [({ pg := 5, seqid := 1, entry := 0, page := 0, pool := 2, old := false }, none)], off := 0x40, bytes := 4192, sent := sent }
def log0 : LogRec := { tick := 4, jobs := [], seqs := [], digs := [], digTick := 0, bytes := [1, 2, 3], off := 64, flashOk := false, linkOk := true,
                        skip := none, gone := false, t3 := none }
theorem witness_FoldOutputs : holds [
    smapWf Part.reset (folding fold0).parts, smapWf false (folding fold0).bonded.wp, !foldMoving (folding { fold0 with seg1 := some (seg0 false) }) 1,
    decide (tiers0.partner ≠ chipNo (folding fold0)), flashServes (folding fold0), decide ((folding fold0).bonded.bad = []), decide ((folding fold0).bonded.attrBad = []), decide ((folding fold0).tick.phase = .run),
    decide (([log0] : List LogRec).find? (logWaiting (folding { fold0 with logs := [log0] }) { fold0 with logs := [log0] }) = some log0),
    decide ((storePages 1 1 0x5000 (folding { fold0 with stores := [⟨0x5000, 4096, 0x8000⟩] })).2.1 = none)] = true := by decide +kernel

def pool0 : Pool := { pool := 2, part := 1, fmt := 2, hdim := 64, layers := 1, kvheads := 1, pbase := 0x10000, groups := 4, freeG := 0, nsl := 0, off := false,
                      noFold := false }
def ver0 : Version := { tier := .t1, last := 5, seqid := 1, entry := 0, page := 0, pool := 2, lost := false, pdig := [], bytes := [7, 8], place := 0, segOff := 0,
                        segLen := 0 }
def rebuild0 : Rebuild := { lc := 32, li := 32, floor := 1, pages := [(0, 0, 1), (0, 1, 1)], wrote := [], mtok := 0, mtokLen := 0, asked := true, opened := true, check := .none }
def seq0 : Seq := { seqid := 1, pool := 2, part := 1, len := 32, done := false, tok := 0, approx := false, rebuild := some rebuild0, kvlost := false, mended := false, joinAt := 0 }
def seqr0 : SeqRec := { seqid := 1, pool := 2, a := 0, ng := 1, list := [1], join := false, refused := false, short := false, joined := false, len0 := 32,
                        committed := false, offset := 0 }
def restoring : State := { folding { fold0 with versions := [ver0] } with pools := [pool0], seqs := [seq0], seqRecs := [seqr0] }
def poisoned : State := { folding { fold0 with refill := [(0x4000, 0x3000, 0, 0x9000)] } with
  flash := [(0xA007, 3)]
  bonded := { Bonded.reset with poison := [(5, true)], gran := [(0, gran1)] } }
def digs : State := { up with
  tick := { up.tick with now := 4 }
  digReqs := [{ part := 1, addr := 0x6000, rec' := natLe 8 0x100000003 ++ zeros 248, tick := 3, core := 0, prog := zeros 32, seed := 5, stream := 6, ctr := 7,
                plandig := [], starch := true, lost := false }] }
theorem witness_PagesAndDigests : holds [
    !restoring.test.arm, flashServes restoring, !remapPending restoring (pageOf (groupBase pool0 1)), decide (seqAt restoring 1 = some seq0), decide (poolAt restoring 2 = some pool0),
    decide ((bestVersion 1 2 1 0 0 32 ([Tier.t1, .t2, .t3].filter (fun x => decide (1 ≤ tierNo x))) none restoring).1 = some ver0),
    isPoison poisoned 5, !remapPending poisoned 5, !rowRetired poisoned 5, decide (refillOf' (getPart poisoned 1).foldSt 5 = some (0x4000, 0x3000, 0, 0x9000)),
    flashServes poisoned, smapWf false poisoned.bonded.poison,
    [0x08, 0x18, 0x28, 0x38].all (fun o => decide ((digRange (natLe 8 0x100000003 ++ zeros 248) o).2 = 0)), decide (digs.memos = []), !digs.test.arm,
    decide (3 < digs.tick.now.toNat), (List.range 256).all (fun k => !isPoison digs ((0x6000 + k) / 4096) && !smapGet false digs.bonded.wp ((0x6000 + k) / 4096) &&
      decide (smapGet 0 digs.bonded.attrBad ((0x6000 + k) / 4096) = 0)), smapWf 0 digs.bonded.mem]
    = true := by decide +kernel
theorem test_page_refill : after (.poisonPageRefill 5) poisoned (fun t => !isPoison t 5 && t.bonded.mem == [(0x5007, 3)]) = true := by decide +kernel

def parted (v : Part) : State := { up with
  clk := 9
  parts := [(0, Part.reset0), (1, v)]
  bonded := { Bonded.reset with wp := [(511, true), (512, true)], mem := [(0x1FFFFF, 1), (0x200000, 2), (0x3FFFFF, 3), (0x400000, 4)] } }
def changing : State := parted { Part.reset with st := .active, pend := [1], scrub := [1] }
theorem witness_PartitionTimers : holds [
    decide (findPart changing (fun p => p.pend.contains 1) = some 1), decide (findPart changing (fun p => p.scrub.contains 1) = some 1),
    smapWf GranAttr.reset changing.bonded.gran, smapWf false changing.bonded.wp, smapWf Part.reset changing.parts, smapWf 0 changing.bonded.mem,
    decide ((getWin { up with windows := [(63, { Window.reset with closing := some 100 })] } 63).closing = some 100),
    decide ((getPart (parted { Part.reset with st := .teardown, drainAt := some 50 }) 1).drainAt = some 50), decide (up.xfers = []), decide (up.host.qps = []), decide (up.links.held = []), !up.power.tripped,
    (List.range 25).all (fun q => !(getQuad up q).wantOff),
    decide ((getPart (parted { Part.reset with keys := { Keys.reset with pending := some [1], pendAt := 3 } }) 1).keys.pending = some [1])] = true := by
  decide +kernel
theorem test_granule_scrub : after (.granuleScrubComplete 1) changing (fun t => t.bonded.mem == [(0x1FFFFF, 1), (0x400000, 4)]) = true := by decide +kernel
theorem test_pending_key_expires : holds ([(1026, true), (1027, false)].map (fun x => after (.pendingKeyExpire 1)
    { parted { Part.reset with keys := { Keys.reset with pending := some [1], pendAt := 3 } } with tick := { up.tick with now := BitVec.ofNat 64 x.1 } }
    (fun t => (getPart t 1).keys.pending.isSome == x.2))) = true := by decide +kernel

/-! ### The peer edge -/

def port0 : BkPort := { BkPort.reset with st := .up, credits := fullCredits, en := true }
def ports (p : BkPort) : State := { up with
  clk := 50
  links := { Links.reset with chip := 33, xdim := 4, ydim := 4, portE := p }
  parts := [(0, Part.reset0), (1, { Part.reset with st := .active, exts := [(0, 4)] })] }
def txn0 : Txn := { dest := BitVec.ofNat 64 (33 * 2 ^ 54 + 3 * 2 ^ 48 + 0x40), opc := 0, aop := 0, spart := 1, src := 34, ng := 1, foff := 4, lend := 11,
                    rlen := 0, tag := 9, data := padTo 224 (zeros 4 ++ [1, 2, 3, 4, 5, 6, 7, 8]) }
def txf0 : TxFlit := { vc := 0, txn := txn0, inbuf := none }
def port1 : BkPort := { port0 with replay := [(4, txf0), (5, txf0), (6, txf0)], replays := 14, rxSeq := 7, txSeq := 6, lastAck := 20 }
def data1 (seq : Nat) : List Byte := flitBytes 1 5 seq 0 3 9 (txnPayload txn0)
def audit1 (n : Nat) : List Byte := flitBytes 4 5 0 0 3 9 (natLe 8 1 ++ natLe 4 n ++ natLe 4 3)
def port2 : BkPort := { port1 with rcvd := [(0, 5)], crret := [(0, 3)], parts := [(1, true)] }
theorem witness_PeerFlits_bad : holds [hears (ports port1) .e, !flitGood [], !flitGood ((data1 8).take 255 ++ [7]), decide (port1.crcerr.count ≠ BitVec.allOnes 32),
    decide (port1.fecunc.count ≠ BitVec.allOnes 32)] = true := by decide +kernel
theorem witness_PeerFlits_data : holds [flitGood (data1 8), decide (flitType (data1 8) = 1), decide (BitVec.ofNat 12 (flitSeq (data1 8)) = port1.rxSeq + 1),
    decide (txnChip (txnRead (((data1 8).drop 8).take 240)) = chipNo (ports port1)),
    decide ((txnRead (((data1 8).drop 8).take 240)).opc.toNat < 6), decide (BitVec.ofNat 12 (flitSeq (data1 9)) ≠ port1.rxSeq + 1)] = true := by
  decide +kernel
theorem witness_PeerFlits_replay : holds [flitGood (flitBytes 0 5 0 0 3 9 []), flitGood (flitBytes 3 5 0 0 3 9 []), decide (flitType (flitBytes 3 5 0 0 3 9 []) = 3),
    decide (port1.txq = [] ∧ port1.regq = []), port1.replay.any (fun e => decide (e.1.toNat = 5)), decide (port1.replays < 15)] = true := by decide +kernel
theorem witness_PeerFlits_audit : holds [flitGood (audit1 5), decide (flitType (audit1 5) = 4), decide (rdN (rdB (audit1 5) 8 240) 0 8 = 1),
    decide (auditBad port2 (rdB (audit1 5) 8 240) = none), decide (auditBad port2 (rdB (audit1 6) 8 240) ≠ none), smapWf Part.reset (ports port2).parts] = true := by decide +kernel
theorem test_ack_releases : after (.flitIdle .e (flitBytes 0 5 0 0 3 9 [])) (ports port1)
    (fun t => decide ((getPort t .e).replay = [(6, txf0)] ∧ smapGet 0 (getPort t .e).credits 3 = 1033)) = true := by decide +kernel
theorem test_sixteenth_replay : after (.replayTimeout .e) (ports { port1 with replays := 15 }) (fun t => decide ((getPort t .e).st = .down)) = true := by
  decide +kernel

def window0 : Window := { Window.reset with openW := true, part := 1, r := true, w := true, a := true, any := true, base := 0x1000, len := 0x2000 }
def comes (ts : List Txn) : State := { ports port0 with
  windows := [(3, window0)]
  parts := [(0, Part.reset0), (1, part1)]
  buckets := smapOf 0 1000 (List.replicate 205 (20000000 : Int))
  links := { (ports port0).links with rx := ts.map (fun t => { txn := t, inbuf := some (0, 2) }) }
  bonded := { Bonded.reset with mem := smapPut 0 [] 0x1040 (List.replicate 64 100), gran := [(0, gran1)] } }
def txnA : Txn := { txn0 with opc := 1, aop := 4 }
def txnR : Txn := { txn0 with opc := 2, rlen := 300, ng := 0, foff := 0, lend := 0, data := padTo 224 (natLe 8 0x77777) }
def txnP : Txn := { txn0 with opc := 3, dest := 0x1040 }
def xferL (rd : Bool) : Xfer := { xfer0 with uid := 7, owner := .desc 0 3 0, via := .link 34, read := rd, tag := 9, total := 100, acked := 4 }
def goodAt (s : State) (p a n : Nat) : Bool :=
  !s.test.arm && decide (s.bonded.bad = []) && (pagesOf a n).all (fun pg => !smapGet false s.bonded.wp pg) && !mustWait s p a n true
theorem witness_PeerTransactions_requests : holds [
    decide (nextTxn (comes [txnA, txn0]) 0 = some txn0), decide (arrival (comes [txnA, txn0]) txn0 = 0), goodAt (comes []) 1 0x1044 8, decide (txnLen txn0 = 8),
    decide ((txnBytes txn0).length = 8), smapWf 0 (comes []).bonded.mem, decide (nextTxn (comes [txnA]) 1 = some txnA), decide (arrival (comes [txnA]) txnA = 0),
    decide (bCheck (comes [txnA]) 1 0x1044 true = 0), decide (0x1044 % 32 + 8 ≤ 32), decide (nextTxn (comes [txnR]) 2 = some txnR),
    decide (arrival (comes [txnR]) txnR = 0), !mustWait (comes []) 1 0x1040 300 false, decide (routePort (comes []) 34 = some .e), portLive (getPort (comes []) .e).st,
    (granules 0x1040 300).all (fun g => !isPoison (comes []) (g / 4096))] = true := by decide +kernel
theorem witness_PeerTransactions_none_held : decide ((comes []).links.held = []) = true := by decide +kernel
theorem witness_PeerTransactions_refused : holds [decide (arrival (comes [{ txn0 with spart := 2 }]) { txn0 with spart := 2 } ≠ 0),
    decide ((comes []).layers = []), decide ((comes []).bonded.attrBad = []), decide ((comes []).links.refused.count ≠ BitVec.allOnes 32)] = true := by decide +kernel
theorem witness_PeerTransactions_answers : holds [
    decide (nextTxn (comes [txnP]) 3 = some txnP), decide ((xferL true).via = .link txnP.src.toNat), decide (bCheck (comes []) 1 0x1044 true = 0),
    decide (4 + txnLen txnP < 100), decide (txnRecs (recsTxn 4 34 33 [(9, 5)]) = [(9, 5)]), decide ((recsTxn 4 34 33 [(9, 5)]).src = 34),
    decide (txnRecs (recsTxn 5 34 33 [(9 + 7 * 2 ^ 24, 1)]) = [(9 + 7 * 2 ^ 24, 1)]), decide (routePort (comes []) 34 = some .e),
    decide ((getPort (comes []) .e).drainAt = none), !(comes []).power.tripped, goodAt (comes []) 1 0x1044 8] = true := by decide +kernel
theorem test_write_lands : after .txnWrite (comes [txn0]) (fun t => smapRun 0 t.bonded.mem 0x1043 4 == [100, 1, 2, 3]) = true := by decide +kernel

def trained (st : PortSt) : State := { ports { port0 with st := st, tries := 2, since := 20, retrainReq := true } with power := { up.power with linksSt := .on } }
theorem witness_PortTrainingRules : holds [portsAllowed (trained .disabled), (getPort (trained .disabled) .e).en, decide ((getPort (trained .disabled) .e).drainAt = none),
    decide (neighbour (trained .training) .e = 34), decide ((getPort (trained .training) .e).replay = [] ∧ (getPort (trained .training) .e).txq = []),
    decide ((getPort (trained .up) .e).retrainReq = true), [BPort.e, .w, .n, .s].all (fun q => decide ((getPort (trained .up) q).st ≠ .retrain)),
    decide ((getPort (trained .retrain) .e).badLanes = [] ∧ (getPort (trained .retrain) .e).regq = []), belfryRuns (trained .up),
    !(trained .retrain).test.arm, decide (port0.subst = 31)] = true := by decide +kernel
/-- A flaw that a retrain found needs the spare; with the spare in use and failing the port goes DOWN (16 R450). -/
theorem test_retrain_lanes : holds [after (.portRetrainComplete .e { ok := true, failing := [7], peer := 34, pdelay := 44 }) (trained .retrain)
      (fun t => decide ((getPort t .e).st = .up ∧ (getPort t .e).subst = 7)),
    after (.portRetrainComplete .e { ok := true, failing := [7, 16], peer := 34, pdelay := 44 }) (trained .retrain) (fun t => decide ((getPort t .e).st = .down))] = true := by
  decide +kernel
theorem test_one_failing_lane : after (.portTrainingComplete .e { ok := true, failing := [15], peer := 34, pdelay := 44 }) (trained .training)
    (fun t => decide ((getPort t .e).st = .up ∧ (getPort t .e).subst = 15)) = true := by decide +kernel
theorem test_wrong_neighbour : after (.portTrainingComplete .e { ok := true, failing := [], peer := 99, pdelay := 44 }) (trained .training)
    (fun t => decide ((getPort t .e).st = .miswired ∧ (getPort t .e).subst = 31)) = true := by decide +kernel
theorem test_third_failure : after (.portDownRetry .e) (ports { port0 with st := .down, tries := 3 }) (fun t => decide ((getPort t .e).st = .failed)) = true := by
  decide +kernel

/-! ### The host edge -/

def hport0 : HoPort := { HoPort.reset 0 with st := .up, ip4 := 0x0A000001, ip6 := 77, pfcen := 4 }
def qp0 : Qp := { Qp.reset with st := .rts, port := .h0, part := 1, rate := 41000000, mtu := 4 }
def hosts (qps : SMap Qp) : State := { up with
  clk := 500
  power := { up.power with hostSt := .on }
  host := { HostEdge.reset with port0 := hport0, qps := qps }
  parts := [(0, Part.reset0), (1, { Part.reset with st := .active, exts := [(0, 4)] })] }
theorem witness_HostFrames : holds [decide (hport0.st = .up), decide (hport0.drop.count ≠ BitVec.allOnes 32), decide (hport0.icrc.count ≠ BitVec.allOnes 32),
    decide ((getQp (hosts [(2, qp0)]) 2).st ≠ .free), (hosts []).host.ecn, decide (qp0.cnpSent = none), decide (hport0.ip4 ≠ 0), decide (hport0.ip6 ≠ 0),
    decide ((HoPort.reset 0).st ≠ .up ∧ (HoPort.reset 0).st ≠ .loop), decide (({ hport0 with st := .loop, loop := 1 } : HoPort).st = .loop),
    decide (hport0.fecunc.count ≠ BitVec.allOnes 32), sends (hosts [(2, qp0)]) .h0, decide (hport0.txq = []), decide (echoLen (hosts []) .h0 false 60 ≤ 4352),
    decide (4352 < echoLen (hosts []) .h0 false 4400), !(hosts []).test.arm, decide (smapGet 0 ({ hport0 with pauses := [(7, 9000)] } : HoPort).pauses 7 ≠ 0)] = true := by decide +kernel
theorem test_long_packet_dropped : after (.rocePacket .h0 { qp := 2, fcsOk := true, ipOk := true, icrcOk := true, ce := false, len := 4353 }) (hosts [(2, qp0)])
    (fun t => (getHport t .h0).drop.count == 1) = true := by decide +kernel
theorem test_pause : after (.pfcFrame .h0 2 1000) (hosts []) (fun t => smapGet 0 (getHport t .h0).pauses 2 == 2036) = true := by decide +kernel

def asks (kind part : Nat) : List Byte := natLe 1 kind ++ natLe 1 part ++ zeros 90
def asksOwner : List Byte := natLe 1 1 ++ zeros 7 ++ natLe 8 0x10000 ++ natLe 4 7 ++ natLe 4 4096 ++ natLe 8 0x20000 ++ natLe 4 8 ++ natLe 4 4096 ++
  natLe 8 0x40000 ++ natLe 4 9 ++ natLe 4 0x120000 ++ natLe 8 0x80000 ++ natLe 4 10 ++ natLe 4 4096 ++ zeros 20
def quota1 : State := { hosts [(2, qp0)] with host := { (hosts [(2, qp0)]).host with maxqp := [(1, 4)] } }
def joining (o : Bool) : State := owned { hosts [] with host := { (hosts []).host with qps := [(2, { qp0 with st := .connecting, owner := o })] } }
theorem witness_PortsAndConnections : holds [
    decide ((HoPort.reset 0).st = .training), (HoPort.reset 0).en, decide (reqCode quota1 asksOwner = 0), decide (reqCode quota1 (asks 2 1) = 0),
    decide ((getQp quota1 2).st ≠ .free), decide ((getQp quota1 3).st = .free), smapWf Qp.reset quota1.host.qps, decide (reqCode quota1 (asks 2 3) = 2),
    !privOk (asks 3 1), privOk asksOwner, privOk (asks 2 3), decide (rdN asksOwner 0 1 = 1), decide ((owned quota1).host.owner ≠ none),
    decide ((getPart quota1 3).st ≠ .active), decide (({ qp0 with st := .connecting } : Qp).owner = false), decide ((joining true).host.owner = some owner0),
    decide (({ qp0 with dreqAt := some 7 } : Qp).dreqAt = some 7), sends quota1 .h0] = true := by decide +kernel
theorem test_second_owner_refused : after (.cmReq .h0 { priv := asksOwner, mtu := 5, rqpn := 1, peer := 0 }) (owned (hosts [])) (fun t => t.outbox == [framed up .h0 (.rej 1)]) = true := by
  decide +kernel

def hostw (p : Nat) : State := { hosts [(2, { qp0 with part := BitVec.ofNat 4 p, plain := decide (p = 0) })] with
  windows := [(3, { Window.reset with openW := true, part := BitVec.ofNat 4 p, host := true, r := true, w := true, base := 0x1000, len := 0x2000 })]
  parts := [(0, { Part.reset0 with exts := [(0, 4)] }), (1, { Part.reset with
    st := .active
    exts := [(0, 4)]
    keys := { Keys.reset with host := [{ keyid := 5, material := zeros 32, counter := 9, sealing := true }] } })]
  bonded := { Bonded.reset with mem := smapPut 0 [] 0x1010 [1, 2, 3], gran := [(0, { a := true, ro := false, tag := BitVec.ofNat 4 p })] } }
def cleanAt (s : State) (a k : Nat) : Bool := !s.test.arm && decide (s.bonded.bad = []) && smapWf 0 s.bonded.mem &&
  (pagesOf a k).all (fun pg => !smapGet false s.bonded.wp pg) && (granules a k).all (fun g => !isPoison s (g / 4096))
theorem witness_HostAccesses : holds [
    decide ((getQp (hostw 0) 2).st = .rts), smapWf Qp.reset (hostw 0).host.qps, (getQp (owned (hostw 0)) 2).owner, decide ((hostw 0).xfers = []), sends (hostw 0) (getQp (hostw 0) 2).port, decide ((hostw 0).bonded.attrBad = []),
    decide (hostCheck (hostw 0) 2 3 0x17 60 true = 0), decide (hostCheck (hostw 0) 2 3 0x17 60 false = 0), decide (hostReach 0 0x17 60 = (0x17, 60)),
    cleanAt (hostw 0) 0x1017 60, decide (hostCheck (hostw 1) 2 0x103 4128 4128 true = 0), decide (hostCheck (hostw 1) 2 0x103 0 4128 false = 0),
    cleanAt (hostw 1) 0x2000 4096, cleanAt (hostw 1) 0x1000 4096, (sealKey (hostw 1) 1).isSome, decide ((hostw 1).host.tagFail.count ≠ BitVec.allOnes 32),
    decide (hostCheck (hostw 0) 2 4 0x17 60 true ≠ 0), decide (hostCheck (hostw 0) 2 4 0x17 60 false ≠ 0)] = true := by decide +kernel
theorem test_plain_write : after (.hostRdmaWrite 2 3 0x17 [7, 8]) (hostw 0) (fun t => smapRun 0 t.bonded.mem 0x1012 7 == [3, 0, 0, 0, 0, 7, 8] && t.outbox == [.host .h0 none (some (26, true)) (.ack 2)]) = true := by
  decide +kernel
theorem test_owner_read_misaligned : after (.cspaceRdmaRead 2 0x30001 8) (owned (hostw 0)) (fun t => decide ((getQp t 2).st = .error)) = true := by decide +kernel
theorem witness_SealedBytesOpen : (zeros 32).length = 32 ∧ (zeros 12).length = 12 := by decide +kernel

def xferQ (rd : Bool) : Xfer := { xfer0 with uid := 7, owner := .desc 0 3 0, via := .qp 2, read := rd, part := 0, total := 64, acked := 20, sent := 64, dst := 0x1010, len := 64, msg := 64 }
def requesting (rd : Bool) : State := { hostw 0 with
  cores := [(0, { c0 with descs := [{ descOf [0x24, 0x5000, 0x1010, 64, 0, 0, 0, 0] with st := .landing, uid := 7 }] })]
  xfers := [xferQ rd] }
theorem witness_HostRequester : holds [
    decide (xferRuns (requesting true) (xferQ true) = [(0x1010, 64)]), decide ((0x1010 + 20) % 32 + 3 ≤ 32), decide (bCheck (requesting true) 0 0x1024 true = 0),
    !isPoison (requesting true) 1, decide ((xferQ true).owner = .desc 0 3 0), decide ((getQp (requesting true) 2).st = .rts), smapWf Qp.reset (requesting true).host.qps,
    decide (oldestWrite (requesting false) 2 = some (xferQ false)),
    decide ((requesting true).xfers.find? (fun x => x.read && decide (x.via = .qp 2) && decide (xferOut x ≠ 0)) = some (xferQ true)),
    (requesting true).xfers.all (fun y => y.todo.isEmpty), sends (requesting true) (getQp (requesting true) 2).port, decide ((hostw 0).xfers = []), decide (0 < qpOut (requesting false) 2),
    decide ((getQp (requesting false) 2).retries < (requesting false).host.retry.toNat), decide (owner0.qp = 2), decide (fetching.host.retry.toNat ≤ ({ qp0 with retries := 3 } : Qp).retries),
    decide (fetching.tick.next = .fetching), decide (qp0.cnpAt = none)] = true := by decide +kernel
theorem test_cnp_halves : after (.cnpReceive 2) (hosts [(2, qp0)]) (fun t => (getQp t 2).rate == 20500000) = true := by decide +kernel
theorem test_rate_rises : after (.cnpRateRaise 2) (hosts [(2, { qp0 with rate := 49000000 })]) (fun t => (getQp t 2).rate == 50000000) = true := by decide +kernel

def hello0 : List Byte := natLe 4 0x3153484F ++ natLe 2 0x0100 ++ zeros 58
def reporting : State := { owned (hosts []) with secure := { up.secure with reports := [(0, wrB (zeros 64) 6 [1])] } }
theorem witness_OwnerSession : holds [decide ((owned (hosts [])).host.owner = some owner0), decide ((getQp (owned (hosts [])) 2).st = .rts),
    smapWf Qp.reset (owned (hosts [])).host.qps, !owner0.hello, decide (owner0.rtuAt = some 3), helloOk hello0, !helloOk (zeros 64), owner0.done,
    decide (rdN (wrB (zeros 64) 6 [1]) 6 1 = 1), decide (reporting.secure.reports = [(0, wrB (zeros 64) 6 [1])]), decide ((owned (hosts [])).events.lost = 0),
    sends (owned (hosts [])) (getQp (owned (hosts [])) 2).port, belfryRuns (owned (hosts []))] = true := by
  decide +kernel

/-! ### Events, memory, words, the invariant -/

def session (d : Bool) (k q : Nat) : State := let s := owned up
  { s with
    host := { s.host with owner := some { owner0 with done := d, hello := true } }
    events := { s.events with perCode := [(7, k)], queue := List.replicate q { seq := 200, tick := 3, unit := 1, inj := false, pv := true, part := 2, code := 5, arg := 6 } } }
theorem witness_EventsAreQueued : holds [ownerDone (session true 255 0), !ownerDone (session false 255 0), decide ((session true 256 0).events.suppressed.count ≠ BitVec.allOnes 32),
    decide ((session true 255 0).events.dropped.count ≠ BitVec.allOnes 32)] = true := by decide +kernel
theorem test_event_257 : holds [(raise 2 5 none 7 9 (session true 256 0)).events.suppressed.count == 1, (raise 2 5 none 7 9 (session true 255 0)).events.queue.length == 1] = true := by
  decide +kernel

theorem witness_MemoryReadsBack : Memory.wf changing = true := by decide +kernel
/-- The group and function of an instruction stand in bits 63..53 of its word (03 Table 3-8): `halt` always, `add s1, s2, s3`. -/
theorem test_words : wordOp (wordY .halt hd0 (fy 0 0 0 0)) = some .halt ∧ wordOp (wordS .add hd0 (fs 1 2 3 0 0)) = some .add := by decide +kernel
theorem witness_StepKeepsInv : Inv busy ∧ isNext (step busy) = true := by
  refine And.intro ?_ (by decide +kernel)
  constructor <;> decide +kernel

/-! ### A valid plan -/

/-- A plan of a header only, with its digest. -/
def plan1 : List Byte := wrB plan0 0x40 [0x3E, 0x42, 0x27, 0x42, 0x9C, 0x9F, 0xF1, 0x4A, 0x11, 0x96, 0x8A, 0x29, 0xED, 0x48, 0x78, 0x92,
  0x4D, 0x0A, 0x44, 0xC1, 0xB6, 0xD8, 0xDF, 0x20, 0x90, 0xF8, 0x93, 0x48, 0x24, 0x6E, 0x07, 0xF6]
theorem witness_ValidPlanConditions : planCase fetching 4096 false plan1 = 0 := by decide +kernel


end Sys2Proof.Tests
end

