-- ==== Sys2Proof/Proofs/Scope.lean ====
section
/-! Proofs for the family 00_scope: a step, and that every well-formed command completes. -/

namespace Sys2Proof.Proofs

open Sys2Proof Sys2Proof.Machine

/-! ### Outcomes -/

theorem isNext_iff {r : Res} : isNext r = true ↔ ∃ t, r = .next t := by
  cases r <;> simp [isNext]

/-- A branch between two next states. -/
theorem isNext_ite_next (p : Prop) [Decidable p] (a b : State) : isNext (if p then .next a else .next b : Res) = true := by
  split <;> rfl

/-- A command on a unit answers a next state exactly when its number names one (00 R4). -/
@[simp] theorem isNext_unitRes (ok : Bool) (s : State) : isNext (unitRes ok s) = ok := by
  cases ok <;> rfl

/-- Whatever its word and the state, a Rowyn instruction stops only where its core does not exist (00 R4). -/
@[simp] theorem isNext_issue (n : Nat) (o : Op) (w ext : W64) (s : State) : isNext (issue n o w ext s) = coreOk n :=
  isNext_unitRes _ _

/-! ### Commands that end in a next state on each of their paths

Where what a command acts on is not there (no such layer, request, transfer, store), it ends early, in a next state (log 2). -/

theorem isNext_execRouteAdmit (layer : Nat) (s : State) : isNext (execRouteAdmit layer s) = true := by
  unfold execRouteAdmit
  dsimp only
  split
  · rfl
  · exact isNext_ite_next _ _ _

theorem isNext_execSourceDonePoll (layer : Nat) (s : State) : isNext (execSourceDonePoll layer s) = true := by
  unfold execSourceDonePoll
  split
  · rfl
  · exact isNext_ite_next _ _ _

theorem isNext_execCombineCollectDone (req : Nat) (s : State) : isNext (execCombineCollectDone req s) = true := by
  unfold execCombineCollectDone
  dsimp only
  split
  · rfl
  · split
    · rfl
    · exact isNext_ite_next _ _ _

theorem isNext_execDispatchTimeout (req : Nat) (s : State) : isNext (execDispatchTimeout req s) = true := by
  unfold execDispatchTimeout
  dsimp only
  split
  · rfl
  · exact isNext_ite_next _ _ _

theorem isNext_execRemoteCompletionTimeout (uid : Nat) (s : State) : isNext (execRemoteCompletionTimeout uid s) = true := by
  unfold execRemoteCompletionTimeout
  split
  · rfl
  · split <;> rfl

theorem isNext_execTxnReadrsp (s : State) : isNext (execTxnReadrsp s) = true := by
  unfold execTxnReadrsp
  split
  · rfl
  · split
    · rfl
    · exact isNext_ite_next _ _ _

theorem isNext_execTxnAcks (s : State) : isNext (execTxnAcks s) = true := by
  unfold execTxnAcks
  split <;> rfl

theorem isNext_execTxnRefuse (s : State) : isNext (execTxnRefuse s) = true := by
  unfold execTxnRefuse
  split <;> rfl

theorem isNext_execAcksFlush (chip : BitVec 10) (s : State) : isNext (execAcksFlush chip s) = true := by
  unfold execAcksFlush
  split <;> rfl

theorem isNext_execFoldSegmentStream (part : BitVec 4) (s : State) : isNext (execFoldSegmentStream part s) = true := by
  unfold execFoldSegmentStream
  dsimp only
  split
  · exact isNext_ite_next _ _ _
  · rfl

theorem isNext_execFoldSegmentComplete (part : BitVec 4) (tier : Tier) (s : State) :
    isNext (execFoldSegmentComplete part tier s) = true := by
  unfold execFoldSegmentComplete
  dsimp only
  split
  · split
    · rfl
    · cases tier with
      | t1 => exact isNext_ite_next _ _ _
      | t2 => exact isNext_ite_next _ _ _
      | t3 => rfl
  · rfl

theorem isNext_execCommitDigestCompute (part : BitVec 4) (s : State) : isNext (execCommitDigestCompute part s) = true :=
  isNext_ite_next _ _ _

theorem isNext_execLogRecordWrite (part : BitVec 4) (s : State) : isNext (execLogRecordWrite part s) = true := by
  unfold execLogRecordWrite
  dsimp only
  split
  · exact isNext_ite_next _ _ _
  · rfl

theorem isNext_execRestorePage (seqid : Nat) (s : State) : isNext (execRestorePage seqid s) = true := by
  unfold execRestorePage
  split
  · rfl
  · split
    · split
      · exact isNext_ite_next _ _ _
      · rfl
    · rfl

theorem isNext_execStoreComplete (part : BitVec 4) (s : State) : isNext (execStoreComplete part s) = true := by
  unfold execStoreComplete
  dsimp only
  split
  · rfl
  · exact isNext_ite_next _ _ _

theorem isNext_execDigestHash (s : State) : isNext (execDigestHash s) = true := by
  unfold execDigestHash
  split
  · rfl
  · split
    · rfl
    · dsimp only
      split <;> rfl

/-- The granules of 32 B that `Instr.wf` admits are those of a slice, which holds 984 granules of 2 MiB (09 R233). -/
theorem granule_in_slice {g : Nat} (h : g < 64487424) : g * 32 < 984 * granSize := by
  unfold granSize; omega

/-! ### Every command -/

/-- What stops a command is its unit alone: `exec` answers a next state to every well-formed one. -/
theorem isNext_exec (c : Instr) (s : State) (hw : c.wf = true) : isNext (exec c s) = true := by
  cases c with
  -- Rowyn instructions: the check of `wf` is the one `issue` makes
  | add core h o | sub core h o | mul core h o | mulh core h o | mulhu core h o | and core h o | or core h o | xor core h o
  | shl core h o | shr core h o | sra core h o | min core h o | max core h o | minu core h o | maxu core h o
  | pcmpEq core h o | pcmpNe core h o | pcmpLt core h o | pcmpGe core h o | pcmpLtu core h o | pcmpGeu core h o
  | pand core h o | por core h o | pxor core h o | pnot core h o
  | ldB core h o | ldBu core h o | ldH core h o | ldHu core h o | ldW core h o | ldWu core h o | ldD core h o
  | stB core h o | stH core h o | stW core h o | stD core h o
  | crd core h o | cwr core h o | mvm core h o | rdclk core h o | rdtick core h o | li64 core h o imm64
  | brCond core h o | call core h o | jr core h o | bdnz core h o
  | ssigAdd core h o | ssigSet core h o | swait core h o | lfence core h o | halt core h o | strap core h o
  | mmac core h o | mdrain core h o | mload core h o | mzero core h o
  | vadd core h o | vsub core h o | vmul core h o | vmulh core h o | vand core h o | vor core h o | vxor core h o
  | vandn core h o | vnot core h o | vshl core h o | vshr core h o | vsra core h o | vrotl core h o | vimin core h o
  | vimax core h o | vfadd core h o | vfsub core h o | vfmul core h o | vfma core h o | vfmin core h o | vfmax core h o
  | vfcmp core h o | vsel core h o | vneg core h o | vabs core h o | vcpsgn core h o | vexp2 core h o | vlog2 core h o
  | vrcp core h o | vrsqrt core h o | vtanh core h o | vld core h o | vst core h o | vcvti core h o | vcvtf core h o
  | vredRow core h o | vredCol core h o | vredall core h o | vcmpcnt core h o | vqapp core h o | vsmstat core h o
  | vsmexp core h o | vrng core h o | vmov core h o | vbcast core h o | vzero core h o | vtopk core h o | rgsum core h o
  | rdisp core h o | rcomb core h o | dma core h o | dwait core h o | dwaitall core h o =>
    exact (isNext_issue _ _ _ _ _).trans hw
  -- the other commands on a core, a slice, a quad, a page or a granule of ownership
  | swaitRelease core | lfenceRelease core | dwaitRelease core | issueStallEnd core | queuedInstrStart core q
  | instrComplete core u | mangleBlockDecode core | dmaDescriptorStart core ch
  | rowRemapDone slice | sliceRetrain slice | sliceRetrainRelease slice | refreshHold slice | stackTempSample slice l0 l7
  | junctionSample quad temp | thermalCut quad temp | quadRampComplete quad | quadCycleOffEnd quad
  | poisonPageRefill page | attributeWriteComplete granule | granuleScrubComplete granule =>
    exact (isNext_unitRes _ _).trans hw
  | dmaDescriptorComplete core slot | dmaDescriptorTimeout core slot | networkRequestTimeout core slot =>
    exact (isNext_unitRes _ _).trans (Bool.and_eq_true_iff.mp hw).1
  | patrolScrub slice granule upset =>
    simp only [Instr.wf, sliceOk, Bool.and_eq_true, decide_eq_true_eq] at hw
    obtain ⟨⟨hs, hg⟩, -⟩ := hw
    refine (isNext_unitRes _ _).trans ?_
    simp [hs, granule_in_slice hg]
  -- commands that return early where what they act on is not there
  | routeAdmit layer => exact isNext_execRouteAdmit layer s
  | sourceDonePoll layer => exact isNext_execSourceDonePoll layer s
  | combineCollectDone req => exact isNext_execCombineCollectDone req s
  | dispatchTimeout req => exact isNext_execDispatchTimeout req s
  | remoteCompletionTimeout uid => exact isNext_execRemoteCompletionTimeout uid s
  | txnReadrsp => exact isNext_execTxnReadrsp s
  | txnAcks => exact isNext_execTxnAcks s
  | txnRefuse => exact isNext_execTxnRefuse s
  | acksFlush chip => exact isNext_execAcksFlush chip s
  | foldSegmentStream part => exact isNext_execFoldSegmentStream part s
  | foldSegmentComplete part tier => exact isNext_execFoldSegmentComplete part tier s
  | commitDigestCompute part => exact isNext_execCommitDigestCompute part s
  | logRecordWrite part => exact isNext_execLogRecordWrite part s
  | restorePage seqid => exact isNext_execRestorePage seqid s
  | storeComplete part => exact isNext_execStoreComplete part s
  | digestHash => exact isNext_execDigestHash s
  -- every other meaning is written as one next state
  | _ => rfl

/-! ### The obligations -/

/-- Settles O1: the queue decides which branch of `step` is taken. -/
theorem stepRunsTheFrontCommand : Obligations.StepRunsTheFrontCommand :=
  ⟨fun _ _ _ hq => by simp only [step, hq], fun _ hq => by simp only [step, hq]⟩

/-- Settles O2: a well-formed command names units of the module, and nothing else stops a command (`isNext_exec`). -/
theorem wellFormedCommandsComplete : Obligations.WellFormedCommandsComplete :=
  fun c s hw => isNext_iff.mp (isNext_exec c s hw)

end Sys2Proof.Proofs
end

/-! Proofs for the family 03_rowyn_contract: constant registers, predication, words and accesses that fault at issue, control registers,
`halt` and `strap`. -/

namespace Sys2Proof.Proofs

open Sys2Proof Sys2Proof.Machine Sys2Proof.Claims Sys2Proof.Laws

/-! ### Registers -/

/-- A value other than the default reads back from any list of entries, in canonical form or not, and hides no other entry. -/
theorem smapGet_smapSet_of_ne {α : Type} [DecidableEq α] {d v : α} (hv : v ≠ d) (n n' : Nat) : ∀ m : SMap α,
    smapGet d (smapSet d m n v) n' = if n' = n then v else smapGet d m n'
  | [] => by simp [smapSet, smapGet, hv]
  | (k, w) :: t => by
    have ih := smapGet_smapSet_of_ne hv n n' t
    rcases Nat.lt_trichotomy n k with hlt | rfl | hgt
    · simp only [smapSet, hlt, hv, if_true, if_false, smapGet]
      grind
    · simp only [smapSet, Nat.lt_irrefl, hv, if_true, if_false, smapGet]
      grind
    · simp only [smapSet, Nat.lt_asymm hgt, Nat.ne_of_gt hgt, if_false, smapGet, ih]
      grind

@[simp] theorem sRead_zero (c : Core) : sRead c 0 = 0 := rfl
@[simp] theorem sWrite_zero (v : W64) (c : Core) : sWrite 0 v c = c := rfl
@[simp] theorem pRead_zero (c : Core) : pRead c 0 = true := rfl
@[simp] theorem pWrite_zero (v : Bool) (c : Core) : pWrite 0 v c = c := rfl

theorem sWrite_of_ne {r : Nat} (hr : r ≠ 0) (v : W64) (c : Core) : sWrite r v c = { c with sreg := smapSet 0 c.sreg r v } :=
  if_neg hr

theorem sRead_sWrite {r : Nat} {v : W64} (hr : r ≠ 0) (hv : v ≠ 0) (c : Core) (r' : Nat) :
    sRead (sWrite r v c) r' = if r' = r then v else sRead c r' := by
  simp only [sWrite_of_ne hr, sRead, smapGet_smapSet_of_ne hv]
  split_ifs <;> simp_all

/-- One bit of an eight-bit register set or cleared. -/
theorem getLsbD_putBit {r r' : Nat} (v : Bool) (p : BitVec 8) (hr' : r' < 8) :
    (if v then p ||| BitVec.ofNat 8 (2 ^ r) else p &&& ~~~ BitVec.ofNat 8 (2 ^ r)).getLsbD r' = if r' = r then v else p.getLsbD r' := by
  have hbit : (BitVec.ofNat 8 (2 ^ r)).getLsbD r' = decide (r' = r) := by
    rw [BitVec.getLsbD_ofNat, Nat.testBit_two_pow]
    simp [hr', eq_comm]
  cases v with
  | true =>
    rw [if_pos rfl, BitVec.getLsbD_or, hbit]
    by_cases h : r' = r <;> simp [h]
  | false =>
    rw [if_neg Bool.false_ne_true, BitVec.getLsbD_and, BitVec.getLsbD_not, hbit]
    by_cases h : r' = r <;> simp [h, hr']

theorem pRead_pWrite {r r' : Nat} (h0 : 0 < r) (hr' : r' < 8) (v : Bool) (c : Core) :
    pRead (pWrite r v c) r' = if r' = r then v else pRead c r' := by
  simp only [pRead, pWrite, Nat.ne_of_gt h0, if_false, getLsbD_putBit v c.preg hr']
  by_cases h : r' = r
  · simp [h, Nat.ne_of_gt h0]
  · simp [h]

/-- Settles O5: register 0 of either file is tested for by name; the others are entries of a map and bits of a register. -/
theorem constantRegisters : Obligations.ConstantRegisters := fun c =>
  ⟨⟨sRead_zero c, pRead_zero c⟩, fun v => sWrite_zero v c, fun v => pWrite_zero v c, fun _ v hr => sWrite_of_ne hr v c,
   fun r _ hr hv => ⟨(sRead_sWrite hr hv c r).trans (if_pos rfl), fun r' hne => (sRead_sWrite hr hv c r').trans (if_neg hne)⟩,
   fun _ _ v h0 _ hr' => pRead_pWrite h0 hr' v c⟩

/-! ### The rows of the instruction table -/

section Rows

variable (n : Nat) (h : Head) (f : FmtS) (b : FmtB) (m : FmtM) (v : FmtV) (d : FmtD) (y : FmtY) (x : W64)

/-- The word of an operation: its operands are those of its format (03 Tables 3-8, 3-11). -/
def wordOf (o : Op) : W64 :=
  match opFmt o with
  | .S => wordS o h f
  | .X => wordS o h f
  | .B => wordB o h b
  | .Y => wordY o h y
  | .M => wordM o h m
  | .V => wordV o h v
  | .D => wordD o h d

theorem wordOf_pred (o : Op) : fld (wordOf h f b m v d y o) 50 48 = h.pred.toNat := by
  unfold wordOf; split <;> simp

theorem wordOf_pn (o : Op) : bit (wordOf h f b m v d y o).toNat 51 = decide (h.pn = 1) := by
  unfold wordOf; split <;> simp

/-- The word of a row is that of its operation. -/
theorem word_coreRows : ∀ r ∈ coreRows n h f b m v d y x, r.2.1 = wordOf h f b m v d y r.1 :=
  List.map_inj_left.mp rfl

/-- Every row's command issues the row's word on its core, `li64` with its second word. -/
theorem exec_coreRows (s : State) : ∀ r ∈ coreRows n h f b m v d y x,
    exec r.2.2 s = issue n r.1 r.2.1 (if r.1 = .li64 then x else 0) s :=
  List.map_inj_left.mp rfl

end Rows

/-! ### Predication -/

/-- The next instruction lies the length of this one further (03 R83). -/
theorem nextPc_bytesOf (c : Core) (o : Op) : nextPc c o = c.pc + BitVec.ofNat 64 (bytesOf o) := by
  cases o <;> rfl

theorem issued_next (n : Nat) (o : Op) (g : Core → Core) (s : State) :
    issued n (nextPc (getCore s n) o) g s = past n (bytesOf o) g s := by
  rw [nextPc_bytesOf, past_eq_jump, issued_eq_jump]

/-- The predicate of a word is register PRED, negated by PN (03 R84). -/
theorem predHolds_eq {w : W64} {h : Head} (hp : fld w 50 48 = h.pred.toNat) (hn : bit w.toNat 51 = decide (h.pn = 1)) (c : Core) :
    predHolds c w = (pRead c h.pred.toNat != decide (h.pn = 1)) := by
  rw [predHolds, hp, hn]

/-- p0 always holds, or never with PN = 1. -/
theorem pred_zero_holds {h : Head} (hp : h.pred = 0) (c : Core) :
    (pRead c h.pred.toNat != decide (h.pn = 1)) = decide (h.pn = 0) := by
  have hbit : h.pn = 0 ∨ h.pn = 1 := by bv_omega
  rcases hbit with hn | hn <;> simp [hp, hn]

/-- A word with a false predicate moves the PC and does nothing else; the list of a `dma` is looked at first. -/
theorem issue_skips {s : State} {n : Nat} {o : Op} {w : W64} (ext : W64) (ha : arrives s n o w = true)
    (hp : predHolds (getCore s n) w = false) :
    issue n o w ext s = .next (if o = .dma then skipDma n w s else past n (bytesOf o) id s) := by
  rw [issue_arrives ext ha, issued_next]
  simp [hp]

/-! ### The list of a `dma` -/

/-- The address of a `dma`'s list (04 R132). -/
def listAddr (c : Core) (w : W64) : Nat := (sRead c (fld w 44 40)).toNat
/-- Its bytes, 64 for each descriptor. -/
def listLen (w : W64) : Nat := 64 * (fld w 39 34 + 1)
/-- Its descriptors. -/
def listOf (c : Core) (w : W64) : List (List W64) := descList (spadBytes c (listAddr c w) (listLen w))

/-- The list is aligned, lies in S-space, and no range in flight may still change it. -/
structure ListSeen (c : Core) (w : W64) : Prop where
  aligned : listAddr c w % 64 = 0
  inside : listAddr c w + listLen w ≤ 0x60000
  free : trkHit c (some ⟨false, 0, listAddr c w, listAddr c w + listLen w - 1⟩) = false

@[simp] theorem listAddr_wordD (c : Core) (h : Head) (d : FmtD) : listAddr c (wordD .dma h d) = (sRead c d.sdesc.toNat).toNat := by
  simp [listAddr]

@[simp] theorem listLen_wordD (h : Head) (d : FmtD) : listLen (wordD .dma h d) = 64 * (d.ndesc.toNat + 1) := by
  simp [listLen]

theorem listSeen_wordD {c : Core} (h : Head) {d : FmtD} (ha : (sRead c d.sdesc.toNat).toNat % 64 = 0)
    (hk : (sRead c d.sdesc.toNat).toNat + 64 * (d.ndesc.toNat + 1) ≤ 0x60000)
    (ht : trkHit c (some ⟨false, 0, (sRead c d.sdesc.toNat).toNat,
      (sRead c d.sdesc.toNat).toNat + 64 * (d.ndesc.toNat + 1) - 1⟩) = false) : ListSeen c (wordD .dma h d) :=
  ⟨by simpa using ha, by simpa using hk, by simpa using ht⟩

section Lists

variable {s : State} {n : Nat} {w : W64}

/-- The range of such a list is whole granules already (08 R224). -/
theorem ListSeen.sRange_eq {c : Core} (hl : ListSeen c w) :
    sRange false (listAddr c w) (listLen w) 64 = some ⟨false, 0, listAddr c w, listAddr c w + listLen w - 1⟩ := by
  have ha := hl.aligned
  have hlen : listLen w % 64 = 0 ∧ 0 < listLen w := by unfold listLen; omega
  rw [sRange_some false ha hl.inside]
  congr 2 <;> omega

/-- A skipped `dma` with such a list raises ILLEGAL where a descriptor that can be read is not legal, and only moves the PC otherwise
(03 R85, 04 R133). -/
theorem skipDma_seen (hl : ListSeen (getCore s n) w) :
    skipDma n w s = if spadParity (getCore s n) (listAddr (getCore s n) w) (listLen w) = false
      ∧ (listOf (getCore s n) w).all (dLegal s n) = false then faultAt n cILLEGAL 0 s else past n 8 id s := by
  have hr := hl.sRange_eq
  have ht := hl.free
  unfold listOf
  unfold listAddr listLen at *
  simp only [skipDma, hr, ht, opnd]
  cases spadParity (getCore s n) _ _ with
  | true => rfl
  | false =>
    simp only [Bool.false_eq_true, if_false]
    cases List.all _ (dLegal s n) <;> rfl

/-- A `dma` that issues with such a list, of good parity, raises ILLEGAL where a descriptor is not legal (04 R133). -/
theorem doDma_illegal (hq : (getCore s n).dq.length < 4) (hl : ListSeen (getCore s n) w)
    (hp : spadParity (getCore s n) (listAddr (getCore s n) w) (listLen w) = false)
    (hd : (listOf (getCore s n) w).all (dLegal s n) = false) (o : Op) : doDma n o w s = faultAt n cILLEGAL 0 s := by
  have hr := hl.sRange_eq
  have ht := hl.free
  unfold listOf at hd
  unfold listAddr listLen at *
  simp only [doDma, Nat.not_le.mpr hq, if_false, hr, ht, opnd, hp, hd, Bool.false_eq_true, Bool.not_false, if_true]

end Lists

/-! ### Faults at issue -/

section Faults

variable {s : State} {n : Nat} {j : CoreJob}

/-- A core that can issue runs its job. -/
theorem running_of_canIssue (hc : canIssue s n = true) (hj : (getCore s n).job = some j) : j.st = .running := by
  simp only [canIssue, hj, Bool.and_eq_true, decide_eq_true_eq] at hc
  obtain ⟨⟨hrun, -⟩, -⟩ := hc
  exact hrun

/-- The first fault of the word at the PC ends a running job there; PARITY alone rolls it back (03 R87). -/
theorem faultAt_running (hc : canIssue s n = true) (hj : (getCore s n).job = some j) (hf : (getCore s n).fault = none) {code : Nat}
    (h5 : code ≠ 5) (trap : Nat) : faultAt n code trap s = ended n code trap j s := by
  have hcan : canFault j.st = true := by rw [running_of_canIssue hc hj]; rfl
  rw [faultAt, takeFault_first _ _ _ _ hj hf hcan, if_neg h5]
  rfl

/-- The length of a fetch, in the words of the statements (03 R83). -/
theorem fetchLen_eq (o : Op) : (if opFmt o = .X then 16 else 8) = bytesOf o := len_eq o

/-- A fetched word that the profile does not list, or that is not legal, ends the job with ILLEGAL: decode comes before the predicate and
before any effect (03 R65, R85). -/
theorem issue_illegal (hn : n < 100) (hc : canIssue s n = true) (hh : (getCore s n).hold = .none) (hj : (getCore s n).job = some j)
    (hf : (getCore s n).fault = none) {o : Op} {w : W64} (ext : W64) (hw : fetched (getCore s n) (bytesOf o) = true)
    (hi : unlisted (getCore s n) = true ∨ legal o w = false) : issue n o w ext s = .next (ended n 1 0 j s) := by
  simp only [fetched, Bool.and_eq_true, decide_eq_true_eq, Bool.not_eq_true'] at hw
  obtain ⟨⟨⟨hal, hin⟩, ht⟩, hp⟩ := hw
  have hill : (unlisted (getCore s n) || !legal o w) = true := by simpa using hi
  have hatt : attempt n o w ext s = faultAt n cILLEGAL 0 s := by
    simp only [attempt, fetchLen_eq, sRange_some false hal hin, ht, hp, hill, Bool.false_eq_true, if_false, if_true]
  simp only [issue, hn, hc, hh, hatt, decide_true, Bool.and_self, if_true, unitRes]
  rw [faultAt_running hc hj hf (by decide)]
  rfl

theorem canIssue_of_arrives {o : Op} {w : W64} (ha : arrives s n o w = true) : canIssue s n = true := by
  simp only [arrives, Bool.and_eq_true] at ha
  obtain ⟨⟨⟨⟨⟨-, hc⟩, -⟩, -⟩, -⟩, -⟩ := ha
  exact hc

/-- A `dma` with an illegal descriptor raises ILLEGAL, its predicate true or false (04 R133). -/
theorem issue_dma_illegal {w : W64} (ext : W64) (ha : arrives s n .dma w = true) (hq : (getCore s n).dq.length < 4)
    (hl : ListSeen (getCore s n) w) (hp : spadParity (getCore s n) (listAddr (getCore s n) w) (listLen w) = false)
    (hd : (listOf (getCore s n) w).all (dLegal s n) = false) : issue n .dma w ext s = .next (faultAt n cILLEGAL 0 s) := by
  cases hpred : predHolds (getCore s n) w with
  | false =>
    rw [issue_skips ext ha hpred, if_pos rfl, skipDma_seen hl, if_pos ⟨hp, hd⟩]
  | true =>
    rw [issue_ready ext (by rw [ready, ha, hpred]; rfl)]
    exact congrArg _ (doDma_illegal hq hl hp hd .dma)

end Faults

/-- Settles O13: every row issues its own word, whose PRED and PN are the head's; a word with a false predicate is skipped, and a legal list
lets a skipped `dma` pass. -/
theorem falsePredicateSkips : Obligations.FalsePredicateSkips := by
  unfold Obligations.FalsePredicateSkips
  intro n h f b m v d y x o w i hrow
  have hexec := fun s => exec_coreRows n h f b m v d y x s _ hrow
  obtain rfl : w = wordOf h f b m v d y o := word_coreRows n h f b m v d y x _ hrow
  have hpred := predHolds_eq (wordOf_pred h f b m v d y o) (wordOf_pn h f b m v d y o)
  refine ⟨fun s ha hp hlist => ?_, hpred, fun c hz => (hpred c).trans (pred_zero_holds hz c)⟩
  rw [Goes, hexec, issue_skips _ ha hp]
  by_cases hdma : o = .dma
  · subst hdma
    obtain ⟨hal, hin, ht, hall⟩ := hlist rfl
    have hl := listSeen_wordD h hal hin ht
    have hskip : skipDma n (wordD .dma h d) s = past n 8 id s := by
      rw [skipDma_seen hl, listOf, listAddr_wordD, listLen_wordD, hall]
      simp
    exact congrArg _ ((if_pos rfl).trans hskip)
  · rw [if_neg hdma]

/-- Settles O14: an illegal word is found at decode, an illegal descriptor by the check of the list, which both a `dma` that issues and one
that is skipped pass. -/
theorem illegalWordFaults : Obligations.IllegalWordFaults := by
  unfold Obligations.IllegalWordFaults
  intro s n h f b m v d y x o w i j hrow hn hc hh hj hf
  have hexec := exec_coreRows n h f b m v d y x s _ hrow
  refine ⟨fun hw hi => hexec.trans (issue_illegal hn hc hh hj hf _ hw hi), fun hdma ha hq => ?_⟩
  subst hdma
  obtain rfl : w = wordD .dma h d := word_coreRows n h f b m v d y x _ hrow
  intro c a k hal hin ht hp hd
  have hl := listSeen_wordD h hal hin ht
  rw [Goes, hexec, issue_dma_illegal _ ha hq hl (by simpa using hp) (by simpa [listOf] using hd),
    faultAt_running hc hj hf (by decide)]
  rfl

/-! ### Loads and stores that fault -/

section Sequencer

variable {s : State} {n : Nat} {o : Op} {h : Head} {f : FmtS}

theorem seqReady_arrives {w : W64} (hr : seqReady s n o w = true) : arrives s n o w = true := by
  obtain ⟨hready, -⟩ := seqReady_free hr
  exact (Bool.and_eq_true_iff.mp hready).1

theorem seqReady_canIssue {w : W64} (hr : seqReady s n o w = true) : canIssue s n = true :=
  canIssue_of_arrives (seqReady_arrives hr)

/-- Groups 0x00 to 0x07 are of format S (03 Table 3-9). -/
theorem opFmt_S (hg : opGrp o < 8) : opFmt o = .S := if_pos hg

/-- A ready load or store is `doMem`. -/
theorem issue_mem (hg : opGrp o = 2) (hr : seqReady s n o (wordS o h f) = true) :
    issue n o (wordS o h f) 0 s = .next (doMem n o (wordS o h f) s) := by
  obtain ⟨hi, hfree⟩ := effect_free 0 hr
  rw [hi]
  simp [effect, hfree, opFmt_S (o := o) (by omega), hg]

/-- A ready instruction of group 0x03 is `doCtl`. -/
theorem issue_ctl (hg : opGrp o = 3) (hr : seqReady s n o (wordS o h f) = true) :
    issue n o (wordS o h f) 0 s = .next (doCtl n o (wordS o h f) s) := by
  obtain ⟨hi, hfree⟩ := effect_free 0 hr
  rw [hi]
  simp [effect, hfree, opFmt_S (o := o) (by omega), hg]

/-- A range that is misaligned or runs past S-space is none (04 R135). -/
theorem sRange_none {a k align : Nat} (wr : Bool) (ha : a % align ≠ 0 ∨ 0x60000 < a + k) : sRange wr a k align = none := by
  rw [sRange, if_neg]
  simp only [spadSize]
  omega

/-- The address that a load or store computes from its word. -/
theorem memAddr_wordS (c : Core) : (sRead c (fSA (wordS o h f)) + fImmX (wordS o h f)).toNat = memAddr c f := by
  rw [wordS_sa, wordS_immX, memAddr]

/-- An access that has no range raises SADDR before it reads or writes anything. -/
theorem doMem_outside {w : W64} (hs : sRange (decide (8 ≤ (opCode o).2)) (sRead (getCore s n) (fSA w) + fImmX w).toNat
    (accSize o) (accSize o) = none) : doMem n o w s = faultAt n cSADDR 0 s := by
  simp only [doMem, hs]

end Sequencer

/-- The loads and stores with their commands and their sizes (04 Table 4-3). -/
def memRows (n : Nat) (h : Head) (f : FmtS) : List (Op × Instr × Nat) :=
  [(.ldB, .ldB n h f, 1), (.ldBu, .ldBu n h f, 1), (.ldH, .ldH n h f, 2), (.ldHu, .ldHu n h f, 2), (.ldW, .ldW n h f, 4),
   (.ldWu, .ldWu n h f, 4), (.ldD, .ldD n h f, 8), (.stB, .stB n h f, 1), (.stH, .stH n h f, 2), (.stW, .stW n h f, 4),
   (.stD, .stD n h f, 8)]

section MemRows

variable (n : Nat) (h : Head) (f : FmtS)

theorem exec_memRows (s : State) : ∀ r ∈ memRows n h f, exec r.2.1 s = issue n r.1 (wordS r.1 h f) 0 s :=
  List.map_inj_left.mp rfl

theorem opGrp_memRows : ∀ r ∈ memRows n h f, opGrp r.1 = 2 := List.map_inj_left.mp rfl

theorem accSize_memRows : ∀ r ∈ memRows n h f, accSize r.1 = r.2.2 := List.map_inj_left.mp rfl

end MemRows

/-- Settles O7: the address is checked before the access. -/
theorem misalignedAccessFaults : Obligations.MisalignedAccessFaults := by
  intro s n h f j o i k hrow hr hj hf ha
  have hexec : exec i s = issue n o (wordS o h f) 0 s := exec_memRows n h f s _ hrow
  have hsize : accSize o = k := accSize_memRows n h f _ hrow
  rw [← hsize, ← memAddr_wordS (o := o) (h := h)] at ha
  rw [Goes, hexec, issue_mem (opGrp_memRows n h f _ hrow) hr, doMem_outside (sRange_none _ ha),
    faultAt_running (seqReady_canIssue hr) hj hf (by decide)]
  rfl

/-! ### Control registers -/

section Control

variable {s : State} {n : Nat} {h : Head} {f : FmtS}

/-- No instruction under way can still set a flag of ASR. -/
def flagsIdle (c : Core) : Prop := (inFlight c).any (fun u => setsFlags (uopOp u)) = false

/-- An access to a control register waits for flags only where it is to ASR. -/
theorem asr_free {c : Core} {idx : Nat} (hi : idx = 1 → flagsIdle c) :
    (decide (idx = 1) && (inFlight c).any (fun u => setsFlags (uopOp u))) = false := by
  by_cases h1 : idx = 1
  · rw [hi h1, Bool.and_false]
  · rw [decide_eq_false h1, Bool.false_and]

/-- `crd` writes to sSD what its index reads; of ASR it waits for the flags under way (03 R72, 04 R110). -/
theorem crd_next (hr : seqReady s n .crd (wordS .crd h f) = true) {idx : Nat} (hx : f.imm.toNat = idx)
    (hi : idx = 1 → flagsIdle (getCore s n)) :
    Goes (.crd n h f) s (past n 8 (sWrite f.sd.toNat (ctlRead64 n idx (getCore s n))) s) := by
  subst hx
  refine (issue_ctl rfl hr).trans ?_
  simp only [doCtl, wordS_imm, wordS_sd, decide_true, Bool.true_or, Bool.true_and, asr_free hi, issued_next, Bool.false_eq_true, if_false]
  rfl

/-- `cwr` writes sSA to the register of its index (03 R72). -/
theorem cwr_next (hr : seqReady s n .cwr (wordS .cwr h f) = true) {idx : Nat} (hx : f.imm.toNat = idx)
    (hi : idx = 1 → flagsIdle (getCore s n)) :
    Goes (.cwr n h f) s (past n 8 (ctlWrite64 idx (sRead (getCore s n) f.sa.toNat)) s) := by
  subst hx
  refine (issue_ctl rfl hr).trans ?_
  simp only [doCtl, wordS_imm, wordS_sa, decide_true, Bool.or_true, Bool.true_and, asr_free hi, issued_next, Bool.false_eq_true, if_false]
  rfl

/-- `mvm` moves an m-register (04 R109). -/
theorem mvm_next (hr : seqReady s n .mvm (wordS .mvm h f) = true) :
    Goes (.mvm n h f) s (past n 8 (sWrite f.sd.toNat (mRead (getCore s n) f.sa.toNat)) s) := by
  refine (issue_ctl rfl hr).trans ?_
  simp only [doCtl, wordS_sa, wordS_sd, issued_next]
  rfl

/-- `rdclk` reads the clk since the tick opened (04 R109, Table 4-4). -/
theorem rdclk_next (hr : seqReady s n .rdclk (wordS .rdclk h f) = true) :
    Goes (.rdclk n h f) s (past n 8 (sWrite f.sd.toNat (BitVec.ofNat 64 (s.clk - s.tick.openAt))) s) := by
  refine (issue_ctl rfl hr).trans ?_
  simp only [doCtl, wordS_sd, issued_next]
  rfl

/-- `rdtick` reads the number of the tick. -/
theorem rdtick_next (hr : seqReady s n .rdtick (wordS .rdtick h f) = true) :
    Goes (.rdtick n h f) s (past n 8 (sWrite f.sd.toNat s.tick.now) s) := by
  refine (issue_ctl rfl hr).trans ?_
  simp only [doCtl, wordS_sd, issued_next]
  rfl

/-- `li64` writes its second word to sSD and is two words long (04 R111). -/
theorem li64_next (x : W64) (hr : seqReady s n .li64 (wordS .li64 h f) = true) :
    Goes (.li64 n h f x) s (past n 16 (sWrite f.sd.toNat x) s) := by
  obtain ⟨hi, hfree⟩ := effect_free x hr
  refine hi.trans ?_
  simp only [effect, hfree, Bool.false_eq_true, if_false, wordS_sd, issued_next]
  rfl

/-- A `crd` of an index that Table 3-7 does not list is not legal. -/
theorem crd_unlisted (h4 : 4 < f.imm.toNat) (hcap : f.imm.toNat < 16 ∨ 20 < f.imm.toNat) : legal .crd (wordS .crd h f) = false := by
  have hidx : (decide (f.imm.toNat < 5) || (decide (16 ≤ f.imm.toNat) && decide (f.imm.toNat < 21))) = false := by
    rw [← Bool.decide_and, ← Bool.decide_or]
    exact decide_eq_false (by omega)
  simp [legal, opFmt, opCode, opGrp, legalS, hidx]

/-- A `cwr` of a capability, or of an index that Table 3-7 does not list, is not legal. -/
theorem cwr_unlisted (h4 : 4 < f.imm.toNat) : legal .cwr (wordS .cwr h f) = false := by
  have hidx : decide (f.imm.toNat < 5) = false := decide_eq_false (by omega)
  simp [legal, opFmt, opCode, opGrp, legalS, hidx]

end Control

/-- Settles O8: each index of Table 3-7 is one entry of `ctlRead64` and `ctlWrite64`, the others are not legal. -/
theorem controlRegistersAndImmediates : Obligations.ControlRegistersAndImmediates := by
  intro s n h f x c v res ok idle there refused
  have index (k : BitVec 32) (hk : f.imm = k) : f.imm.toNat = k.toNat := congrArg _ hk
  have illegal {o : Op} {i : Instr} (hexec : exec i s = issue n o (wordS o h f) 0 s) (hlen : bytesOf o = 8)
      (ht : there) (hl : legal o (wordS o h f) = false) (j : CoreJob) (hj : c.job = some j) : Goes i s (refused j) := by
    obtain ⟨hn, hc, hh, hw, hf⟩ := ht
    have hw : fetched c (bytesOf o) = true := by
      rw [hlen]; exact (Bool.and_eq_true_iff.mp hw).1
    exact hexec.trans (issue_illegal hn hc hh hj hf 0 hw (.inr hl))
  have other {k : Nat} (hk : k ≠ 1) : k = 1 → flagsIdle c := fun he => absurd he hk
  exact ⟨fun hr hk => crd_next hr (index 0 hk) (other (by decide)),
    fun hr hk hi => crd_next hr (index 1 hk) (fun _ => hi),
    fun hr hk => crd_next hr (index 2 hk) (other (by decide)),
    fun hr hk => crd_next hr (index 3 hk) (other (by decide)),
    fun hr hk => crd_next hr (index 4 hk) (other (by decide)),
    fun hr hk => crd_next hr (index 16 hk) (other (by decide)),
    fun hr hk => crd_next hr (index 17 hk) (other (by decide)),
    fun hr hk => crd_next hr (index 18 hk) (other (by decide)),
    fun hr hk => crd_next hr (index 19 hk) (other (by decide)),
    fun hr hk => crd_next hr (index 20 hk) (other (by decide)),
    fun ht h4 hcap j hj => illegal rfl rfl ht (crd_unlisted h4 hcap) j hj,
    fun hr hk => cwr_next hr (index 0 hk) (other (by decide)),
    fun hr hk hi => cwr_next hr (index 1 hk) (fun _ => hi),
    fun hr hk => cwr_next hr (index 2 hk) (other (by decide)),
    fun hr hk => cwr_next hr (index 3 hk) (other (by decide)),
    fun hr hk => cwr_next hr (index 4 hk) (other (by decide)),
    fun ht h4 j hj => illegal rfl rfl ht (cwr_unlisted h4) j hj,
    mvm_next, rdclk_next, rdtick_next, li64_next x⟩

/-! ### The end of a job -/

section Ends

variable {s : State} {n : Nat} {h : Head} {f : FmtY} {j : CoreJob}

/-- `halt` ends the job where it stands (03 R99). -/
theorem halt_next (hj : (getCore s n).job = some j) (hr : seqReady s n .halt (wordY .halt h f) = true) :
    Goes (.halt n h f) s (coreNow n (fun c => { c with hold := .none, job := some { j with st := .halted, endAt := s.clk } }) s) := by
  obtain ⟨hi, hfree⟩ := effect_free 0 hr
  refine hi.trans ?_
  have hdo : effect n .halt (wordY .halt h f) 0 s = doHalt n s := by
    simp only [effect, hfree, Bool.false_eq_true, if_false]
    rfl
  rw [hdo, doHalt, modCore, hj]
  rfl

/-- `strap` faults with TRAP and the low 16 bits of its register (03 R87). -/
theorem strap_next (hj : (getCore s n).job = some j) (hf : (getCore s n).fault = none)
    (hr : seqReady s n .strap (wordY .strap h f) = true) :
    Goes (.strap n h f) s (ended n 7 ((sRead (getCore s n) f.sv.toNat).toNat % 65536) j s) := by
  obtain ⟨hi, hfree⟩ := effect_free 0 hr
  refine hi.trans ?_
  have hdo : effect n .strap (wordY .strap h f) 0 s = faultAt n cTRAP ((sRead (getCore s n) f.sv.toNat).toNat % 65536) s := by
    simp only [effect, hfree, Bool.false_eq_true, if_false, wordY_sv]
    rfl
  rw [hdo, faultAt_running (seqReady_canIssue hr) hj hf (by decide)]
  rfl

end Ends

/-- Settles O12: `halt` and `strap`, each by its effect. -/
theorem haltAndTrap : Obligations.HaltAndTrap :=
  fun _ _ _ _ _ hj => ⟨halt_next hj, fun hr hf => strap_next hj hf hr⟩

end Sys2Proof.Proofs

/-! Proofs for the family 04_rowyn_instructions: the scalar instructions, branches, signals and waits; issue, start and results of the
queued instructions. -/

namespace Sys2Proof.Proofs

open Sys2Proof Sys2Proof.Machine Sys2Proof.Claims Sys2Proof.Laws

/-! ### Scalar instructions -/

section Scalar

variable {s : State} {n : Nat} {o : Op} {h : Head} {f : FmtS}

/-- Every instruction but `li64` is one word long. -/
theorem issued_next_word (ho : o ≠ .li64) (g : Core → Core) : issued n (nextPc (getCore s n) o) g s = past n 8 g s := by
  rw [issued_next, bytesOf, if_neg ho]

theorem ne_li64_of_opGrp (hg : opGrp o < 0x3F) : o ≠ .li64 := by
  rintro rfl
  exact absurd hg (by decide)

theorem alu_min (a b : W64) : alu .min a b = if a.toInt < b.toInt then a else b := by
  simp only [alu, BitVec.slt_iff_toInt_lt]

theorem alu_max (a b : W64) : alu .max a b = if a.toInt < b.toInt then b else a := by
  simp only [alu, BitVec.slt_iff_toInt_lt]

theorem alu_minu (a b : W64) : alu .minu a b = if a.toNat < b.toNat then a else b := by
  simp only [alu, BitVec.ult_iff_lt, BitVec.lt_def]

theorem alu_maxu (a b : W64) : alu .maxu a b = if a.toNat < b.toNat then b else a := by
  simp only [alu, BitVec.ult_iff_lt, BitVec.lt_def]

end Scalar

/-- Settles O3: one rule for the group (`alu_next`), and the result of each function. -/
theorem scalarArithmetic : Obligations.ScalarArithmetic := by
  intro s n h f c a b k res ok
  have goes {o : Op} {i : Instr} {v : W64} (hexec : exec i s = issue n o (wordS o h f) 0 s) (hg : opGrp o = 0) (hv : alu o a b = v)
      (hr : ok o) : Goes i s (res v) := by
    rw [← hv]
    exact hexec.trans (alu_next hg hr)
  exact ⟨goes rfl rfl rfl, goes rfl rfl rfl, goes rfl rfl rfl, goes rfl rfl rfl, goes rfl rfl rfl, goes rfl rfl rfl, goes rfl rfl rfl,
    goes rfl rfl rfl, goes rfl rfl rfl, goes rfl rfl rfl, goes rfl rfl rfl, goes rfl rfl (alu_min a b), goes rfl rfl (alu_max a b),
    goes rfl rfl (alu_minu a b), goes rfl rfl (alu_maxu a b)⟩

section Predicates

variable {s : State} {n : Nat} {o : Op} {h : Head} {f : FmtS}

/-- A ready instruction of group 0x01 writes its predicate (04 R106). -/
theorem pred_next (hg : opGrp o = 1) (hr : seqReady s n o (wordS o h f) = true) :
    issue n o (wordS o h f) 0 s = .next (past n 8 (pWrite f.sd.toNat
      (if (opCode o).2 < 6 then pcompare o (sRead (getCore s n) f.sa.toNat) (second (getCore s n) f)
       else plogic o (pRead (getCore s n) f.sa.toNat) (pRead (getCore s n) f.sb.toNat))) s) := by
  obtain ⟨hi, hfree⟩ := effect_free 0 hr
  rw [hi, ← issued_next_word (ne_li64_of_opGrp (o := o) (by omega))]
  simp [effect, hfree, opFmt_S (o := o) (by omega), hg, doPred, operand2_wordS]

/-- The signed comparisons, in the words of the statements. -/
theorem slt_eq (a b : W64) : a.slt b = decide (a.toInt < b.toInt) := BitVec.slt_eq_decide
theorem not_slt_eq (a b : W64) : (!a.slt b) = decide (b.toInt ≤ a.toInt) := BitVec.sle_eq_not_slt.symm.trans BitVec.sle_eq_decide
/-- The unsigned ones. -/
theorem ult_eq (a b : W64) : a.ult b = decide (a.toNat < b.toNat) := rfl
theorem not_ult_eq (a b : W64) : (!a.ult b) = decide (b.toNat ≤ a.toNat) := (BitVec.ule_eq_not_ult b a).symm.trans BitVec.ule_eq_decide

end Predicates

/-- Settles O4: one rule for the group (`pred_next`), and the result of each function. -/
theorem predicateInstructions : Obligations.PredicateInstructions := by
  intro s n h f c a b p q res ok
  have goes {o : Op} {i : Instr} {v : Bool} (hexec : exec i s = issue n o (wordS o h f) 0 s) (hg : opGrp o = 1)
      (hv : (if (opCode o).2 < 6 then pcompare o a b else plogic o p q) = v) (hr : ok o) : Goes i s (res v) := by
    rw [← hv]
    exact hexec.trans (pred_next hg hr)
  exact ⟨goes rfl rfl rfl, goes rfl rfl rfl, goes rfl rfl (slt_eq a b), goes rfl rfl (not_slt_eq a b),
    goes rfl rfl (ult_eq a b), goes rfl rfl (not_ult_eq a b), goes rfl rfl rfl, goes rfl rfl rfl, goes rfl rfl rfl,
    goes rfl rfl rfl⟩

/-! ### Branches -/

section Branch

variable {s : State} {n : Nat} {o : Op} {h : Head} {f : FmtB}

/-- A ready branch is `doBranch`. -/
theorem issue_branch (ho : opFmt o = .B) (hr : seqReady s n o (wordB o h f) = true) :
    issue n o (wordB o h f) 0 s = .next (doBranch n o (wordB o h f) s) := by
  obtain ⟨hi, hfree⟩ := effect_free 0 hr
  rw [hi]
  simp only [effect, hfree, ho, Bool.false_eq_true, if_false]

/-- The target lies OFFSET words from the branch (04 R112). -/
theorem brTarget_wordB (c : Core) : brTarget c (wordB o h f) = c.pc + (f.offset.signExtend 64 <<< 3) := by
  rw [brTarget, wordB_offsetX]

/-- The operands of a compare, in the words of the statement. -/
theorem brOperand_eq (c : Core) (k : BitVec 1) (r : BitVec 5) :
    brOperand c (decide (k = 1)) r.toNat = if k = 1 then mRead c r.toNat else sRead c r.toNat := by
  simp only [brOperand, decide_eq_true_eq]

/-- `br` jumps where its condition holds of its operands. -/
theorem brCond_next {a b : W64} {t : Bool} (hr : seqReady s n .brCond (wordB .brCond h f) = true)
    (ha : (if f.ka = 1 then mRead (getCore s n) f.ra.toNat else sRead (getCore s n) f.ra.toNat) = a)
    (hb : (if f.kb = 1 then mRead (getCore s n) f.rb.toNat else sRead (getCore s n) f.rb.toNat) = b)
    (ht : brTaken f.cond.toNat a b = t) : Goes (.brCond n h f) s
      (if t then jump n ((getCore s n).pc + (f.offset.signExtend 64 <<< 3)) id s else past n 8 id s) := by
  refine (issue_branch rfl hr).trans (congrArg _ ?_)
  simp only [doBranch, wordB_cond, wordB_ka, wordB_ra, wordB_kb, wordB_rb, brOperand_eq, brTarget_wordB, ha, hb, ht]
  cases t <;> rfl

theorem call_next (hr : seqReady s n .call (wordB .call h f) = true) : Goes (.call n h f) s
    (jump n ((getCore s n).pc + (f.offset.signExtend 64 <<< 3)) (sWrite f.ra.toNat ((getCore s n).pc + 8)) s) := by
  refine (issue_branch rfl hr).trans (congrArg _ ?_)
  simp only [doBranch, wordB_ra, brTarget_wordB, issued_eq_jump]

theorem jr_next (hr : seqReady s n .jr (wordB .jr h f) = true) :
    Goes (.jr n h f) s (jump n (sRead (getCore s n) f.ra.toNat) id s) := by
  refine (issue_branch rfl hr).trans (congrArg _ ?_)
  simp only [doBranch, wordB_ra, issued_eq_jump]

/-- `bdnz` counts down and goes on where it reaches 0. -/
theorem bdnz_next {v : W64} (hr : seqReady s n .bdnz (wordB .bdnz h f) = true) (hv : sRead (getCore s n) f.ra.toNat - 1 = v) :
    Goes (.bdnz n h f) s (if v = 0 then past n 8 (sWrite f.ra.toNat v) s
      else jump n ((getCore s n).pc + (f.offset.signExtend 64 <<< 3)) (sWrite f.ra.toNat v) s) := by
  refine (issue_branch rfl hr).trans (congrArg _ ?_)
  simp only [doBranch, wordB_ra, brTarget_wordB, hv]
  by_cases h0 : v = 0
  · simp only [h0, ne_eq, not_true_eq_false, if_false, if_true]
    rfl
  · simp only [h0, ne_eq, not_false_eq_true, if_false, if_true, issued_eq_jump]

/-- The float conditions of 03 Table 3-12, by the condition of `fCond` they test. -/
theorem brTaken_float (a b : W64) : ∀ r ∈ [(7, 2), (8, 5), (9, 0), (11, 6)],
    brTaken r.1 a b = fCond r.2 (a.toNat % 2 ^ 32) (b.toNat % 2 ^ 32) :=
  List.map_inj_left.mp rfl

end Branch

/-- Settles O9: a taken branch jumps to its target, one not taken goes on; the conditions are those of Table 3-12. -/
theorem branches : Obligations.Branches := by
  intro s n h f c tgt a b ok br
  have cond (k : BitVec 4) (hk : f.cond = k) : f.cond.toNat = k.toNat := congrArg _ hk
  have goes (k : Nat) {t : Bool} (ht : brTaken k a b = t) (hr : ok .brCond) (hk : f.cond.toNat = k) : br t :=
    brCond_next hr rfl rfl (hk ▸ ht)
  exact ⟨fun hr hk => goes 0 rfl hr (cond 0 hk), fun hr hk => goes 1 rfl hr (cond 1 hk), fun hr hk => goes 2 rfl hr (cond 2 hk),
    fun hr hk => goes 3 (slt_eq a b) hr (cond 3 hk), fun hr hk => goes 4 (not_slt_eq a b) hr (cond 4 hk),
    fun hr hk => goes 5 (ult_eq a b) hr (cond 5 hk), fun hr hk => goes 6 (not_ult_eq a b) hr (cond 6 hk),
    fun hr k i hmem hk => goes k (brTaken_float a b _ hmem) hr hk, fun hr hk => goes 10 rfl hr (cond 10 hk), call_next, jr_next,
    fun hr => bdnz_next hr rfl⟩

/-! ### One core changed more than once -/

section CoreNow

variable {s : State}

/-- A changed core reads back, the others stay. -/
theorem getCore_coreNow (hwf : smapWf Core.reset s.cores = true) (n m : Nat) (g : Core → Core) :
    getCore (coreNow n g s) m = if m = n then g (getCore s n) else getCore s m :=
  getCore_setCore hwf n m _

theorem getCore_coreNow_same (hwf : smapWf Core.reset s.cores = true) (n : Nat) (g : Core → Core) :
    getCore (coreNow n g s) n = g (getCore s n) :=
  (getCore_coreNow hwf n n g).trans (if_pos rfl)

/-- The second of two puts of a core stands. -/
theorem setCore_setCore (hwf : smapWf Core.reset s.cores = true) (n : Nat) (c c' : Core) :
    setCore n c' (setCore n c s) = setCore n c' s := by
  simp only [setCore, set_set n c c' (canon_of_wf _ _ hwf)]

theorem coreNow_coreNow (hwf : smapWf Core.reset s.cores = true) (n : Nat) (g k : Core → Core) :
    coreNow n k (coreNow n g s) = coreNow n (fun c => k (g c)) s := by
  rw [← modCore_eq, modCore, getCore_coreNow_same hwf, ← modCore_eq, modCore, setCore_setCore hwf]
  rfl

end CoreNow

/-! ### Numbers as words -/

/-- A number read as signed is the word's signed value. -/
theorem sgn_eq_toInt {w : Nat} (hw : 0 < w) (x : Nat) : sgn w x = (BitVec.ofNat w x).toInt := by
  have hpow : 2 ^ w = 2 * 2 ^ (w - 1) := by rw [← Nat.pow_succ', Nat.succ_eq_add_one, Nat.sub_add_cancel hw]
  rw [sgn, BitVec.toInt, BitVec.toNat_ofNat]
  split_ifs <;> omega

/-- A signed number as bits is the number of its word. -/
theorem unsgn_eq_toNat (w : Nat) (i : Int) : unsgn w i = (BitVec.ofInt w i).toNat := (BitVec.toNat_ofInt i).symm

theorem ofNat_unsgn (w : Nat) (i : Int) : BitVec.ofNat w (unsgn w i) = BitVec.ofInt w i := by
  rw [unsgn_eq_toNat, BitVec.ofNat_toNat, BitVec.setWidth_eq]

theorem length_natLe : ∀ k x : Nat, (natLe k x).length = k
  | 0, _ => rfl
  | k + 1, x => congrArg (· + 1) (length_natLe k (x / 256))

/-- The low bytes of a number. -/
theorem take_natLe : ∀ (k m x : Nat), k ≤ m → (natLe m x).take k = natLe k x
  | 0, _, _, _ => rfl
  | k + 1, m + 1, x, h => congrArg _ (take_natLe k m (x / 256) (Nat.le_of_succ_le_succ h))

/-! ### Loads and stores -/

section Accesses

variable {s : State} {n : Nat} {o : Op} {h : Head} {f : FmtS}

/-- The value of a load, sign-extended from its width (04 Table 4-3). -/
theorem loadValue_signed (ho : accSigned o = true) (bs : List Byte) :
    loadValue o bs = (BitVec.ofNat (8 * accSize o) (leNat bs)).signExtend 64 := by
  have hw : 0 < 8 * accSize o := by unfold accSize; split <;> decide
  rw [loadValue, if_pos ho, ofNat_unsgn, sgn_eq_toInt hw, BitVec.signExtend]

/-- ... or as it stands. -/
theorem loadValue_unsigned (ho : accSigned o = false) (bs : List Byte) : loadValue o bs = BitVec.ofNat 64 (leNat bs) := by
  simp only [loadValue, ho, Bool.false_eq_true, if_false]

/-- An access that `accOk` allows has its range, and no range in flight conflicts with it. -/
theorem sRange_of_accOk {c : Core} {wr : Bool} {a k : Nat} (ha : accOk c wr a k = true) :
    ∃ r, sRange wr a k k = some r ∧ trkHit c (some r) = false := by
  simp only [accOk, Bool.and_eq_true, decide_eq_true_eq, Bool.not_eq_true'] at ha
  obtain ⟨⟨hal, hin⟩, ht⟩ := ha
  exact ⟨_, sRange_some wr hal hin, ht⟩

/-- A load of good parity within the scratchpad. -/
theorem doMem_load {w : W64} {a : Nat} {r : Range} (hf : (opCode o).2 < 8) (hadr : (sRead (getCore s n) (fSA w) + fImmX w).toNat = a)
    (hs : sRange false a (accSize o) (accSize o) = some r) (ht : trkHit (getCore s n) (some r) = false)
    (hp : spadParity (getCore s n) a (accSize o) = false) :
    doMem n o w s = issued n (nextPc (getCore s n) o) (sWrite (fSD w) (loadValue o (spadBytes (getCore s n) a (accSize o)))) s := by
  have hst : decide (8 ≤ (opCode o).2) = false := decide_eq_false (by omega)
  simp only [doMem, hadr, hst, hs, ht, opnd, hp, Bool.false_eq_true, if_false]

/-- A ready load whose bytes can be read writes their value. -/
theorem load_next (hg : opGrp o = 2) (hf : (opCode o).2 < 8) (hr : seqReady s n o (wordS o h f) = true)
    (ha : accOk (getCore s n) false (memAddr (getCore s n) f) (accSize o) = true)
    (hp : spadParity (getCore s n) (memAddr (getCore s n) f) (accSize o) = false) :
    issue n o (wordS o h f) 0 s = .next (past n 8
      (sWrite f.sd.toNat (loadValue o (spadBytes (getCore s n) (memAddr (getCore s n) f) (accSize o)))) s) := by
  obtain ⟨r, hrange, hfree⟩ := sRange_of_accOk ha
  rw [issue_mem hg hr, doMem_load hf (memAddr_wordS _) hrange hfree hp, wordS_sd,
    issued_next_word (ne_li64_of_opGrp (o := o) (by omega))]

/-- With no injection armed, a write to the scratchpad is the bytes alone (20 R542). -/
theorem spadWrite_unarmed (harm : s.test.arm = false) (n a : Nat) (bs : List Byte) :
    spadWrite n a bs s = coreNow n (spadPut a bs) s := by
  simp [spadWrite, spadWrote, injHit, modCore_eq, coreNow, harm]

/-- A store within the scratchpad. -/
theorem doMem_store {w : W64} {a : Nat} {r : Range} (hf : 8 ≤ (opCode o).2) (hadr : (sRead (getCore s n) (fSA w) + fImmX w).toNat = a)
    (hs : sRange true a (accSize o) (accSize o) = some r) (ht : trkHit (getCore s n) (some r) = false) :
    doMem n o w s = issued n (nextPc (getCore s n) o) id
      (spadWrite n a (natLe (accSize o) (sRead (getCore s n) (fSD w)).toNat) s) := by
  have hsize : accSize o ≤ 8 := by unfold accSize; split <;> decide
  simp only [doMem, hadr, decide_eq_true hf, hs, ht, take_natLe _ _ _ hsize, Bool.false_eq_true, if_false, if_true]

/-- An instruction that changes its core and then issues. -/
theorem issued_coreNow (hwf : smapWf Core.reset s.cores = true) (ho : o ≠ .li64) (g : Core → Core) :
    issued n (nextPc (getCore s n) o) id (coreNow n g s) = coreNow n (fun c => { g c with
      pc := (getCore s n).pc + 8, nseq := (g c).nseq + 1, hold := .none }) s := by
  rw [nextPc_bytesOf, bytesOf, if_neg ho, issued, modCore_eq, coreNow_coreNow hwf]
  rfl

/-- A ready store puts the low bytes of its register (04 R108). -/
theorem store_next (hg : opGrp o = 2) (hf : 8 ≤ (opCode o).2) (hr : seqReady s n o (wordS o h f) = true)
    (ha : accOk (getCore s n) true (memAddr (getCore s n) f) (accSize o) = true) (harm : s.test.arm = false)
    (hwf : smapWf Core.reset s.cores = true) :
    issue n o (wordS o h f) 0 s = .next (past n 8
      (spadPut (memAddr (getCore s n) f) (natLe (accSize o) (sRead (getCore s n) f.sd.toNat).toNat)) s) := by
  obtain ⟨r, hrange, hfree⟩ := sRange_of_accOk ha
  rw [issue_mem hg hr, doMem_store hf (memAddr_wordS _) hrange hfree, wordS_sd, spadWrite_unarmed harm,
    issued_coreNow hwf (ne_li64_of_opGrp (o := o) (by omega))]
  rfl

end Accesses

/-- Settles O6: a load by the extension of its width, a store by the bytes of its width. -/
theorem loadsAndStores : Obligations.LoadsAndStores := by
  refine ⟨fun s n h f => ?_, fun s n h f => ?_⟩
  · intro c a x res ok
    have goes {o : Op} {i : Instr} {v : W64} (hexec : exec i s = issue n o (wordS o h f) 0 s) (hg : opGrp o = 2)
        (hf : (opCode o).2 < 8) (hv : loadValue o (spadBytes c a (accSize o)) = v) (hok : ok o (accSize o)) : Goes i s (res v) := by
      obtain ⟨hr, ha, hp⟩ := hok
      rw [← hv]
      exact hexec.trans (load_next hg hf hr ha hp)
    exact ⟨goes rfl rfl (by decide) (loadValue_signed rfl _), goes rfl rfl (by decide) (loadValue_unsigned rfl _),
      goes rfl rfl (by decide) (loadValue_signed rfl _), goes rfl rfl (by decide) (loadValue_unsigned rfl _),
      goes rfl rfl (by decide) (loadValue_signed rfl _), goes rfl rfl (by decide) (loadValue_unsigned rfl _),
      goes rfl rfl (by decide) (loadValue_unsigned rfl _)⟩
  · intro c a v res ok
    have goes {o : Op} {i : Instr} (hexec : exec i s = issue n o (wordS o h f) 0 s) (hg : opGrp o = 2) (hf : 8 ≤ (opCode o).2)
        (hok : ok o (accSize o)) : Goes i s (res (accSize o)) := by
      obtain ⟨hr, ha, harm, hwf⟩ := hok
      have hput : spadPut a (natLe (accSize o) v.toNat) = fun c => { c with
          spad := smapPut 0 c.spad a (natLe (accSize o) v.toNat), spadBad := smapClear c.spadBad a (a + accSize o) } := by
        funext c
        rw [spadPut, length_natLe]
      exact hexec.trans ((store_next hg hf hr ha harm hwf).trans (by rw [hput]))
    exact ⟨goes rfl rfl (by decide), goes rfl rfl (by decide), goes rfl rfl (by decide), goes rfl rfl (by decide)⟩

/-! ### Signals -/

section Signals

variable {s : State} {n : Nat} {o : Op} {h : Head} {f : FmtY}

/-- The two forms of `ssig`. -/
def IsSig (o : Op) : Prop := o = .ssigAdd ∨ o = .ssigSet

/-- An instruction that has issued reads back, its issue number keeping the core from being listed as an untouched one. -/
theorem getCore_past (n k : Nat) (g : Core → Core) (s : State) (m : Nat) : getCore (past n k g s) m = if m = n then
    { g (getCore s n) with pc := (getCore s n).pc + BitVec.ofNat 64 k, nseq := (getCore s n).nseq + 1, hold := .none } else getCore s m := by
  refine smapGet_smapSet_of_ne (fun he => ?_) n m s.cores
  exact absurd (congrArg Core.nseq he) (Nat.succ_ne_zero _)

/-- The job placed on a core stays placed there as instructions issue. -/
theorem placedJob_past (n k : Nat) (s : State) (m p : Nat) : placedJob (past n k id s) m p = placedJob s m p := by
  have hjob : (getCore (past n k id s) m).job = (getCore s m).job := by
    rw [getCore_past]
    split_ifs with h
    · rw [h]; rfl
    · rfl
  rw [placedJob, hjob]
  rfl

/-- The core that a word's CORE names. -/
theorem sigTarget_wordY : sigTarget n (wordY o h f) = if f.core.toNat = 127 then n else f.core.toNat := by
  rw [sigTarget, wordY_core]

/-- A ready `ssig` is `doSig`. -/
theorem issue_sig (ho : IsSig o) (hr : seqReady s n o (wordY o h f) = true) :
    issue n o (wordY o h f) 0 s = .next (doSig n o (wordY o h f) s) := by
  obtain ⟨hi, hfree⟩ := effect_free 0 hr
  rw [hi]
  rcases ho with rfl | rfl
  all_goals
    simp only [effect, hfree, Bool.false_eq_true, if_false]
    rfl

theorem IsSig.issued_next (ho : IsSig o) : issued n (nextPc (getCore s n) o) id s = past n 8 id s :=
  issued_next_word (by rcases ho with rfl | rfl <;> decide) id

/-- A signal to a core that holds a job of the partition changes its semaphore (10 R267). -/
theorem doSig_here {m : Nat} (ho : IsSig o) (hm : (if f.core.toNat = 127 then n else f.core.toNat) = m)
    (hd : allDone (getCore s n) = true) (hp : runsPart s m (partOfCore s n) = true) :
    doSig n o (wordY o h f) s = signalled m f.sem.toNat
      (fun x => if o = .ssigAdd then x + sRead (getCore s n) f.sv.toNat else sRead (getCore s n) f.sv.toNat) (past n 8 id s) := by
  simp only [doSig, sigTarget_wordY, hm, hd, hp, wordY_sem, wordY_sv, ho.issued_next, Bool.not_true, Bool.false_eq_true, if_false, if_true]
  rcases ho with rfl | rfl
  · simp only [if_true, semAdd, BitVec.ofNat_toNat, BitVec.setWidth_eq]
    rfl
  · rfl

/-- A signal to a job that has left its core with no image kept changes nothing (10 R271). -/
theorem doSig_departed {m jid : Nat} (ho : IsSig o) (hm : (if f.core.toNat = 127 then n else f.core.toNat) = m)
    (hd : allDone (getCore s n) = true) (hp : runsPart s m (partOfCore s n) = false)
    (hj : placedJob s m (partOfCore s n) = some jid) (hi : findImage s (partOfCore s n) jid = none) :
    doSig n o (wordY o h f) s = past n 8 id s := by
  have himg : findImage (past n 8 id s) (partOfCore s n) jid = none := hi
  simp only [doSig, sigTarget_wordY, hm, hd, hp, hj, Option.isSome_some, ho.issued_next, Bool.not_true, Bool.false_eq_true, if_false, if_true,
    signalAway, placedJob_past, Option.bind_some, himg]

/-- A partition with no job placed on a core runs none there. -/
theorem runsPart_of_not_placed {m p : Nat} (hp : placedJob s m p = none) : runsPart s m p = false := by
  unfold runsPart
  unfold placedJob at hp
  cases hj : (getCore s m).job with
  | none => rfl
  | some j =>
    rw [hj, Option.filter_some] at hp
    by_cases hpart : j.part = p
    · simp [hpart] at hp
    · simp [hpart]

/-- A signal to a core on which no job of the partition was placed faults with PROT, having issued (10 R267). -/
theorem doSig_prot {m : Nat} (ho : IsSig o) (hm : (if f.core.toNat = 127 then n else f.core.toNat) = m)
    (hd : allDone (getCore s n) = true) (hp : placedJob s m (partOfCore s n) = none) :
    doSig n o (wordY o h f) s = takeFault n (getCore s n).nseq cPROT 0 (getCore s n).pc (past n 8 id s) := by
  simp only [doSig, sigTarget_wordY, hm, hd, hp, runsPart_of_not_placed hp, Option.isSome_none, ho.issued_next, Bool.not_true,
    Bool.false_eq_true, if_false]
  rfl

/-- A fault of an instruction that has just issued: it stops behind itself (03 R87). -/
theorem getCore_fault_past {j : CoreJob} (hc : canIssue s n = true) (hj : (getCore s n).job = some j) (hf : (getCore s n).fault = none)
    (hwf : smapWf Core.reset s.cores = true) (seq trap : Nat) {code : Nat} (h5 : code ≠ 5) (fpc : W64) (m : Nat) :
    getCore (takeFault n seq code trap fpc (past n 8 id s)) m = if m = n then { getCore s n with
      pc := (getCore s n).pc + 8
      nseq := (getCore s n).nseq + 1
      hold := .none
      fault := some { seq := seq, code := code, trap := trap, fpc := fpc, spc := (getCore s n).pc + 8, more := 0 }
      job := some { j with st := .faulted, endAt := s.clk } } else getCore s m := by
  have hpast := (getCore_past n 8 id s n).trans (if_pos rfl)
  have hcan : canFault j.st = true := by rw [running_of_canIssue hc hj]; rfl
  rw [takeFault_first seq code trap fpc (by rw [hpast]; exact hj) (by rw [hpast]; exact hf) hcan, if_neg h5,
    getCore_setCore (wf_set n _ hwf), hpast, getCore_past]
  split_ifs <;> rfl

end Signals

/-- Settles O10: the four outcomes of `doSig`. -/
theorem signalInstructions : Obligations.SignalInstructions := by
  intro s n h f c m v k ok
  have goes {o : Op} {i : Instr} {t : State} (hexec : exec i s = issue n o (wordY o h f) 0 s) (ho : IsSig o)
      (ht : allDone c = true → doSig n o (wordY o h f) s = t) (hok : ok o) : Goes i s t := by
    obtain ⟨hr, hd⟩ := hok
    exact hexec.trans ((issue_sig ho hr).trans (congrArg _ (ht hd)))
  refine ⟨fun hp => ⟨goes rfl (.inl rfl) (doSig_here (.inl rfl) rfl · hp), goes rfl (.inr rfl) (doSig_here (.inr rfl) rfl · hp)⟩,
    fun jid hp hj hi => ⟨goes rfl (.inl rfl) (doSig_departed (.inl rfl) rfl · hp hj hi),
      goes rfl (.inr rfl) (doSig_departed (.inr rfl) rfl · hp hj hi)⟩, fun j hp hj hf hwf o i hrow hok => ?_⟩
  have ho : IsSig o := by
    simp only [List.mem_cons, Prod.mk.injEq, List.not_mem_nil, or_false] at hrow
    exact hrow.imp And.left And.left
  have hexec : exec i s = issue n o (wordY o h f) 0 s := by
    refine (List.map_inj_left.mp ?_ : ∀ r ∈ [(Op.ssigAdd, Instr.ssigAdd n h f), (Op.ssigSet, Instr.ssigSet n h f)],
      exec r.2 s = issue n r.1 (wordY r.1 h f) 0 s) _ hrow
    rfl
  obtain ⟨hr, hd⟩ := hok
  refine ⟨_, hexec.trans (issue_sig ho hr), ?_⟩
  rw [doSig_prot ho rfl hd hp]
  have hcore := getCore_fault_past (canIssue_of_arrives (seqReady_arrives hr)) hj hf hwf c.nseq 0 (code := 4) (by decide) c.pc
  refine ⟨?_, ?_, ?_, fun m' hne => (hcore m').trans (if_neg hne)⟩
  all_goals exact (congrArg _ (hcore n)).trans (by rw [if_pos rfl])

/-! ### Waits -/

section Waits

variable {s : State} {n : Nat} {o : Op} {h : Head}

/-- A wait goes on where its condition holds and is held with the PC in place where it does not. -/
theorem holdUnless_next (ho : o ≠ .li64) (ok : Bool) (x : Hold) : holdUnless n o ok x s =
    if ok = true then past n 8 id s else coreNow n (fun c => { c with hold := x }) s := by
  rw [holdUnless, issued_next_word ho]
  rfl

/-- The condition of a `swait` is COND between the semaphore and the register (04 R113). -/
theorem waitMeets_wordY (c : Core) (f : FmtY) (m : W64) : waitMeets c (wordY o h f) m =
    if f.cond.toNat = 0 then decide (m = sRead c f.sv.toNat) else decide ((sRead c f.sv.toNat).toNat ≤ m.toNat) := by
  simp only [waitMeets, wordY_cond, wordY_sv, BitVec.toNat_inj]

/-- A ready `swait`. -/
theorem swait_next {f : FmtY} {p : Prop} [Decidable p] (hr : seqReady s n .swait (wordY .swait h f) = true)
    (hp : waitMeets (getCore s n) (wordY .swait h f) (smapGet 0 (getCore s n).sems f.sem.toNat) = decide p) :
    Goes (.swait n h f) s (if p then past n 8 id s else coreNow n (fun c => { c with hold := .swait (wordY .swait h f) [] }) s) := by
  obtain ⟨hi, hfree⟩ := effect_free 0 hr
  refine hi.trans (congrArg _ ?_)
  rw [← wordY_sem .swait h f] at hp
  simp only [effect, hfree, Bool.false_eq_true, if_false]
  exact (holdUnless_next (by decide) _ _).trans (by rw [waitHolds, hp]; simp only [decide_eq_true_eq])

/-- A ready `lfence` waits for the edge writes (10 R272). -/
theorem lfence_next {f : FmtY} (hr : seqReady s n .lfence (wordY .lfence h f) = true) :
    Goes (.lfence n h f) s (if (allDescs (getCore s n)).all (fun x => !dEdgeWrite x.2) then past n 8 id s
      else coreNow n (fun c => { c with hold := .lfence }) s) := by
  obtain ⟨hi, hfree⟩ := effect_free 0 hr
  refine hi.trans (congrArg _ ?_)
  simp only [effect, hfree, Bool.false_eq_true, if_false]
  exact holdUnless_next (by decide) _ _

/-- A ready `dwait` waits for the descriptors of its channel (04 R132). -/
theorem dwait_next {d : FmtD} (hr : seqReady s n .dwait (wordD .dwait h d) = true) :
    Goes (.dwait n h d) s (if (allDescs (getCore s n)).all (fun x => decide (x.1 ≠ d.ch.toNat)) then past n 8 id s
      else coreNow n (fun c => { c with hold := .dwait d.ch.toNat }) s) := by
  obtain ⟨hi, hfree⟩ := effect_free 0 hr
  refine hi.trans (congrArg _ ?_)
  simp only [effect, hfree, Bool.false_eq_true, if_false, wordD_ch]
  exact holdUnless_next (by decide) _ _

/-- A ready `dwaitall` waits for every descriptor. -/
theorem dwaitall_next {d : FmtD} (hr : seqReady s n .dwaitall (wordD .dwaitall h d) = true) :
    Goes (.dwaitall n h d) s (if allDescs (getCore s n) = [] then past n 8 id s
      else coreNow n (fun c => { c with hold := .dwaitall }) s) := by
  obtain ⟨hi, hfree⟩ := effect_free 0 hr
  refine hi.trans (congrArg _ ?_)
  simp only [effect, hfree, Bool.false_eq_true, if_false]
  exact (holdUnless_next (by decide) _ _).trans (by simp only [List.isEmpty_iff])

end Waits

/-! ### Ends of waits and stalls -/

section Ends

variable {s : State} {n : Nat}

/-- The end of a `swait` whose condition holds, or held at a value that the semaphore took meanwhile (10 R269). -/
theorem swaitRelease_next (hn : n < 100) (hc : canIssue s n = true) {w : W64} {seen : List W64}
    (hh : (getCore s n).hold = .swait w seen)
    (hw : waitHolds (getCore s n) w = true ∨ ∃ m ∈ seen, waitMeets (getCore s n) w m = true) :
    Goes (.swaitRelease n) s (past n 8 id s) := by
  have hmet : (waitHolds (getCore s n) w || seen.any (waitMeets (getCore s n) w)) = true := by
    rw [Bool.or_eq_true, List.any_eq_true]
    exact hw
  simp only [Goes, exec, execSwaitRelease, unitRes, hn, hh, hc, hmet, decide_true, Bool.and_self, if_true]
  rfl

theorem lfenceRelease_next (hn : n < 100) (hc : canIssue s n = true) (hh : (getCore s n).hold = .lfence)
    (hd : (allDescs (getCore s n)).all (fun x => !dEdgeWrite x.2) = true) : Goes (.lfenceRelease n) s (past n 8 id s) := by
  simp only [Goes, exec, execLfenceRelease, unitRes, hn, hh, hc, fenceDone, hd, decide_true, Bool.and_self, if_true]
  rfl

theorem dwaitRelease_next (hn : n < 100) (hc : canIssue s n = true) {ch : Nat} (hh : (getCore s n).hold = .dwait ch)
    (hd : (allDescs (getCore s n)).all (fun x => decide (x.1 ≠ ch)) = true) : Goes (.dwaitRelease n) s (past n 8 id s) := by
  simp only [Goes, exec, execDwaitRelease, unitRes, hn, hh, hc, chanDone, hd, decide_true, Bool.and_self, if_true]
  rfl

theorem dwaitallRelease_next (hn : n < 100) (hc : canIssue s n = true) (hh : (getCore s n).hold = .dwaitall)
    (hd : allDescs (getCore s n) = []) : Goes (.dwaitRelease n) s (past n 8 id s) := by
  simp only [Goes, exec, execDwaitRelease, unitRes, hn, hh, hc, hd, List.isEmpty_nil, decide_true, Bool.and_self, if_true]
  rfl

/-- With nothing handed to the belfry, there is nothing to read. -/
theorem readHands_none (hh : (getCore s n).hands = []) : readHands n s = s := by
  rw [readHands, hh, List.foldl_nil]

/-- A core that can issue attempts its word. -/
theorem attempt_of_issue {o : Op} {w ext : W64} {t : State} (hn : n < 100) (hc : canIssue s n = true) (hh : (getCore s n).hold = .none)
    (hi : issue n o w ext s = .next t) : attempt n o w ext s = t := by
  simpa [issue, unitRes, hn, hc, hh] using hi

/-- The end of a stall tries its word again, as issued with the hold taken away (04 R101). -/
theorem issueStallEnd_next (hn : n < 100) (hc : canIssue s n = true) {w ext : W64} {o : Op} {t : State} (hw : wordOp w = some o)
    (hh : (getCore s n).hold = .stall w ext) (hands : (getCore s n).hands = [])
    (ha : attempt n o w ext (coreNow n (fun c => { c with hold := .none }) s) = t) : Goes (.issueStallEnd n) s t := by
  simp only [Goes, exec, execIssueStallEnd, readHands_none hands, unitRes, hn, hh, hc, hw, Option.getD_some, decide_true, if_true,
    modCore_eq, ha]

theorem sWrite_hold (r : Nat) (v : W64) (x : Hold) (c : Core) : sWrite r v { c with hold := x } = { sWrite r v c with hold := x } := by
  unfold sWrite
  split_ifs <;> rfl

/-- An `add` tried again takes its operands and goes on. -/
theorem stalledAdd_next {h : Head} {f : FmtS} (hn : n < 100) (hc : canIssue s n = true)
    (hh : (getCore s n).hold = .stall (wordS .add h f) 0)
    (hr : seqReady (coreNow n (fun c => { c with hold := .none }) s) n .add (wordS .add h f) = true)
    (hwf : smapWf Core.reset s.cores = true) (hands : (getCore s n).hands = []) : Goes (.issueStallEnd n) s
      (past n 8 (sWrite f.sd.toNat (sRead (getCore s n) f.sa.toNat + second (getCore s n) f)) s) := by
  have hcore := getCore_coreNow_same hwf n (fun c => { c with hold := .none })
  have hatt := attempt_of_issue hn (seqReady_canIssue hr) (congrArg Core.hold hcore) (alu_next rfl hr)
  refine issueStallEnd_next hn hc (wordS_op _ _ _) hh hands (hatt.trans ?_)
  rw [past, coreNow_coreNow hwf, hcore]
  simp only [sWrite_hold]
  rfl

end Ends

/-- Settles O11: the waits at issue, their ends, and a stalled word tried again. -/
theorem waitsAndTheirEnds : Obligations.WaitsAndTheirEnds := by
  refine ⟨fun s n h f d => ⟨fun hr hk => swait_next hr ?_, fun hr hk => swait_next hr ?_, lfence_next, dwait_next, dwaitall_next⟩,
    fun s n hn hc => ⟨fun w seen hh hw => swaitRelease_next hn hc hh hw, lfenceRelease_next hn hc,
      fun ch hh hd => dwaitRelease_next hn hc hh hd, dwaitallRelease_next hn hc,
      fun h f hh hr hwf hands => stalledAdd_next hn hc hh hr hwf hands⟩⟩
  · rw [waitMeets_wordY, hk]
    rfl
  · rw [waitMeets_wordY, hk]
    rfl

/-! ### Matrix and vector instructions at issue -/

section QueueRows

variable (n : Nat) (h : Head) (m : FmtM) (v : FmtV)

theorem exec_matrixRows (s : State) : ∀ r ∈ matrixRows n h m, exec r.2 s = issue n r.1 (wordM r.1 h m) 0 s := List.map_inj_left.mp rfl

theorem opFmt_matrixRows : ∀ r ∈ matrixRows n h m, opFmt r.1 = .M := List.map_inj_left.mp rfl

theorem exec_vectorRows (s : State) : ∀ r ∈ vectorRows n h v, exec r.2 s = issue n r.1 (wordV r.1 h v) 0 s := List.map_inj_left.mp rfl

theorem opFmt_vectorRows : ∀ r ∈ vectorRows n h v, opFmt r.1 = .V := List.map_inj_left.mp rfl

end QueueRows

section Queueing

variable {s : State} {n : Nat} {o : Op} {w : W64}

/-- The queue of an instruction is the one of its format. -/
theorem opQueue_matrix_iff : opQueue o = .matrix ↔ opFmt o = .M := by
  unfold opQueue
  split_ifs with h <;> simp [h]

theorem opQueue_V (ho : opFmt o = .V) : opQueue o = .vector := by
  rw [opQueue, ho]
  rfl

theorem ne_li64_of_opFmt (ho : opFmt o ≠ .X) : o ≠ .li64 := by
  rintro rfl
  exact ho rfl

/-- A ready matrix or vector instruction goes to its queue: it waits there for its registers (04 R100). -/
theorem issue_queue (ho : opFmt o = .M ∨ opFmt o = .V) (hr : ready s n o w = true) : issue n o w 0 s = .next (doQueue n o w s) := by
  rw [issue_ready 0 hr]
  rcases ho with ho | ho <;> simp [effect, opSeq, ho]

/-- The queue of an instruction has no room. -/
def queueFull (o : Op) (c : Core) : Bool := if opQueue o = .matrix then decide (4 ≤ c.mq.length) else decide (8 ≤ c.vq.length)

theorem queueFull_M (ho : opFmt o = .M) (c : Core) : queueFull o c = decide (4 ≤ c.mq.length) := by
  rw [queueFull, if_pos (opQueue_matrix_iff.mpr ho)]

theorem queueFull_V (ho : opFmt o = .V) (c : Core) : queueFull o c = decide (8 ≤ c.vq.length) := by
  rw [queueFull, opQueue_V ho]
  rfl

/-- With a full queue it waits at issue. -/
theorem doQueue_full (hq : queueFull o (getCore s n) = true) :
    doQueue n o w s = coreNow n (fun c => { c with hold := .stall w 0 }) s := by
  unfold queueFull at hq
  simp only [doQueue, hq, if_true]
  rfl

/-- With room in the queue and in the tracker it enters its queue (04 R101, R136). -/
theorem doQueue_room (ho : o ≠ .li64) (hq : queueFull o (getCore s n) = false) {rs : List (Option Range × Option Range)}
    (hrs : opRanges o w (getCore s n) = some rs) (ht : (getCore s n).trk.length + rs.length ≤ 48) :
    doQueue n o w s = queued n o w rs s := by
  simp only [queueFull, opQueue_matrix_iff] at hq
  simp only [doQueue, hq, hrs, trkSize, Nat.not_lt.mpr ht, Bool.false_eq_true, if_false, opQueue_matrix_iff, issued_next_word ho]
  rfl

end Queueing

/-- Settles O15: what `doQueue` does with room and without. -/
theorem queuedInstructionsIssue : Obligations.QueuedInstructionsIssue := by
  refine ⟨fun s n h o i rs => ⟨fun f hrow hr hq hrs ht => ?_, fun f hrow hr hq hrs ht => ?_⟩,
    fun s n h o i => ⟨fun f hrow hr hq => ?_, fun f hrow hr hq => ?_⟩⟩
  · have ho := opFmt_matrixRows n h f _ hrow
    have hroom : queueFull o (getCore s n) = false := by rw [queueFull_M ho]; exact decide_eq_false (by omega)
    rw [Goes, exec_matrixRows n h f s _ hrow, issue_queue (.inl ho) hr,
      doQueue_room (ne_li64_of_opFmt (by rw [ho]; decide)) hroom hrs ht]
  · have ho := opFmt_vectorRows n h f _ hrow
    have hroom : queueFull o (getCore s n) = false := by rw [queueFull_V ho]; exact decide_eq_false (by omega)
    rw [Goes, exec_vectorRows n h f s _ hrow, issue_queue (.inr ho) hr,
      doQueue_room (ne_li64_of_opFmt (by rw [ho]; decide)) hroom hrs ht]
  · have ho := opFmt_matrixRows n h f _ hrow
    have hfull : queueFull o (getCore s n) = true := by rw [queueFull_M ho]; exact decide_eq_true (by omega)
    rw [Goes, exec_matrixRows n h f s _ hrow, issue_queue (.inl ho) hr, doQueue_full hfull]
  · have ho := opFmt_vectorRows n h f _ hrow
    have hfull : queueFull o (getCore s n) = true := by rw [queueFull_V ho]; exact decide_eq_true (by omega)
    rw [Goes, exec_vectorRows n h f s _ hrow, issue_queue (.inr ho) hr, doQueue_full hfull]

/-! ### `dma` at issue -/

section Dma

variable {s : State} {n : Nat} {w : W64}

/-- A `dma` whose list can be read, legal and in its spaces, waits in its queue with the ranges registered (04 R132 to R134; log 16). -/
theorem doDma_room (hq : (getCore s n).dq.length < 4) (hl : ListSeen (getCore s n) w)
    (hp : spadParity (getCore s n) (listAddr (getCore s n) w) (listLen w) = false)
    (hlegal : (listOf (getCore s n) w).all (dLegal s n) = true) (hin : (listOf (getCore s n) w).all dInSpace = true)
    (hdescs : (allDescs (getCore s n)).length + (fld w 39 34 + 1) ≤ 64) (htrk : (getCore s n).trk.length + (fld w 39 34 + 1) ≤ 48) :
    doDma n .dma w s = past n 8 (fun c => { c with
      trk := c.trk ++ mkEntries (getCore s n).nseq ((listOf (getCore s n) w).map dRanges)
      dq := c.dq ++ [{ op := { mkUop (getCore s n) w with sv := [sRead (getCore s n) (fld w 44 40)] }, ch := fld w 47 45,
                       descs := listOf (getCore s n) w, read := 0 }] }) s := by
  have hr := hl.sRange_eq
  have ht := hl.free
  unfold listOf at *
  unfold listAddr listLen at *
  simp only [doDma, Nat.not_le.mpr hq, hr, ht, opnd, hp, hlegal, hin, Nat.not_lt.mpr hdescs, trkSize, Nat.not_lt.mpr htrk, decide_false,
    Bool.or_self, Bool.not_true, Bool.false_eq_true, if_false, issued_next_word (o := .dma) (by decide)]
  rfl

/-- A ready `dma` is `doDma`. -/
theorem issue_dma (hr : ready s n .dma w = true) : issue n .dma w 0 s = .next (doDma n .dma w s) :=
  (issue_ready 0 hr).trans rfl

end Dma

/-- Settles O16: the list in the words of the statement, and what `doDma` does with it. -/
theorem dmaInstructionIssues : Obligations.DmaInstructionIssues := by
  intro s n h f c a k ds u hr hq hal hin ht hp hlegal hspace hdescs htrk
  have hl := listSeen_wordD h hal hin ht
  have hlist : listOf (getCore s n) (wordD .dma h f) = ds := by rw [listOf, listAddr_wordD, listLen_wordD]
  have hdma := doDma_room hq hl (by simpa using hp) (by rw [hlist]; exact hlegal) (by rw [hlist]; exact hspace)
    (by rw [wordD_ndesc]; exact hdescs) (by rw [wordD_ndesc]; exact htrk)
  rw [hlist, wordD_sdesc, wordD_ch] at hdma
  exact (issue_dma hr).trans (congrArg _ hdma)

/-! ### The start of a queued instruction -/

section Start

variable {s : State} {n : Nat} {u : Uop} {o : Op}

theorem uopOp_of_wordOp (hw : wordOp u.word = some o) : uopOp u = o := by
  rw [uopOp, hw, Option.getD_some]

/-- The head of a queue starts where its pipe is free and nothing in flight holds it up; a pressed `mmac` also takes decoded rows. -/
theorem queuedInstrStart_next {q : IQueue} (hn : n < 100) (hon : coreOn s n = true) (hands : (getCore s n).hands = []) (hq : q ≠ .dma)
    (hhead : (if q = .matrix then (getCore s n).mq else (getCore s n).vq).head? = some u) (hw : wordOp u.word = some o)
    (hpipe : pipeFree o (getCore s n) = true) (hregs : regsFree (getCore s n) u = true) (hranges : rangesFree (getCore s n) u.seq = true)
    (hpress : isPressed u = false) : Goes (.queuedInstrStart n q) s (coreNow n (startUop o u s.clk) s) := by
  have ho := uopOp_of_wordOp hw
  cases q with
  | dma => exact absurd rfl hq
  | matrix | vector =>
    simp only [reduceCtorEq, if_true, if_false] at hhead
    simp only [Goes, exec, execQueuedInstrStart, readHands_none hands, unitRes, hn, hon, hhead, ho, hpipe, hregs, hranges, hpress,
      reduceCtorEq, decide_true, Bool.and_self, Bool.false_eq_true, not_true_eq_false, if_true, if_false]
    rfl

/-- Changes that agree on the core as it stands are one. -/
theorem coreNow_congr {g k : Core → Core} (hgk : g (getCore s n) = k (getCore s n)) : coreNow n g s = coreNow n k s := by
  rw [← modCore_eq, ← modCore_eq, modCore, modCore, hgk]

theorem ne_mmac_of_V (ho : opFmt o = .V) : o ≠ .mmac := by
  rintro rfl
  exact absurd ho (by decide)

theorem pipeFree_V (ho : opFmt o = .V) (c : Core) : pipeFree o c = c.vector.isNone := by
  simp [pipeFree, ne_mmac_of_V ho, opQueue_V ho]

/-- A vector instruction starts in the vector pipe. -/
theorem startUop_V (ho : opFmt o = .V) (now : Nat) (c : Core) : startUop o u now c =
    { c with vector := some { u with sv := captureS o u.word c, startAt := now }, vq := c.vq.tail } := by
  simp [startUop, ne_mmac_of_V ho, opQueue_V ho]

/-- The matrix instructions that run in the accumulator port (05). -/
def IsPort (o : Op) : Prop := o ∈ [Op.mdrain, .mload, .mzero]

theorem IsPort.ne_mmac (ho : IsPort o) : o ≠ .mmac := by
  rintro rfl
  exact absurd ho (by unfold IsPort; decide)

theorem IsPort.opFmt_eq (ho : IsPort o) : opFmt o = .M := by
  simp only [IsPort, List.mem_cons, List.not_mem_nil, or_false] at ho
  rcases ho with rfl | rfl | rfl <;> rfl

theorem pipeFree_port (ho : IsPort o) (c : Core) : pipeFree o c = c.port.isNone := by
  simp [pipeFree, ho.ne_mmac, opQueue_matrix_iff.mpr ho.opFmt_eq]

theorem startUop_port (ho : IsPort o) (now : Nat) (c : Core) : startUop o u now c =
    { c with port := some { u with sv := captureS o u.word c, startAt := now }, mq := c.mq.tail } := by
  simp [startUop, ho.ne_mmac, opQueue_matrix_iff.mpr ho.opFmt_eq]

theorem isPressed_of_ne_mmac (hw : wordOp u.word = some o) (ho : o ≠ .mmac) : isPressed u = false := by
  simp [isPressed, uopOp_of_wordOp hw, ho]

/-- A `dma` of one descriptor queues it on its channel, with the next number (08 R215; log 16). -/
theorem queueDescs_one {q : DmaWait} {d : List W64} {c : Core} (hd : q.descs = [d]) (hwf : smapWf Core.reset s.cores = true) :
    queueDescs n q 0 q.descs.length (setCore n c s) = { setCore n { c with
      descs := c.descs ++ [{ seq := q.op.seq, sub := 0, pc := q.op.pc, ch := q.ch, words := d, st := .queued, startAt := 0, turnAt := 0,
                             heldFor := 0, addPos := c.addPos, uid := s.nuid, buf := [] }]
      addPos := if dFloatAdd d then c.addPos + 1 else c.addPos } s with nuid := s.nuid + 1 } := by
  have hcore : smapGet Core.reset (smapSet Core.reset s.cores n c) n = c := (getCore_setCore hwf n n c).trans (if_pos rfl)
  simp only [queueDescs, hd, List.length_singleton, List.range_one, List.zip_cons_cons, List.zip_nil_right, List.take_succ_cons,
    List.take_zero, List.drop_zero, List.foldl_cons, List.foldl_nil, takeUid, getCore, setCore, hcore,
    set_set n c _ (canon_of_wf _ _ hwf)]

/-- The head of the DMA queue enters its channel. -/
theorem dmaStart_next {q : DmaWait} {r : List DmaWait} (hn : n < 100) (hon : coreOn s n = true) (hands : (getCore s n).hands = [])
    (hq : (getCore s n).dq = q :: r) : Goes (.queuedInstrStart n .dma) s
      (queueDescs n q q.read q.descs.length (setCore n { getCore s n with dq := r } s)) := by
  simp only [Goes, exec, execQueuedInstrStart, readHands_none hands, unitRes, hn, hon, hq, decide_true, not_true_eq_false, if_true, if_false]

end Start

/-- Settles O17: a queued instruction starts in the pipe of its kind; a descriptor takes the number that is next. -/
theorem queuedInstructionStarts : Obligations.QueuedInstructionStarts := by
  intro s n u t o hn hon _ hands c v
  refine ⟨fun hw hregs hranges => ⟨fun ho hq hp => ?_, fun ho hpr hq hp => ?_, fun ho hq hp => ?_⟩, fun q r d hq hd hread hwf => ?_⟩
  · refine (queuedInstrStart_next (q := .vector) hn hon hands (by decide) (congrArg List.head? hq) hw
      (by rw [pipeFree_V ho, hp]; rfl) hregs hranges (isPressed_of_ne_mmac hw (ne_mmac_of_V ho))).trans (congrArg _ (coreNow_congr ?_))
    rw [startUop_V ho, hq, List.tail_cons]
  · subst ho
    refine (queuedInstrStart_next (q := .matrix) hn hon hands (by decide) (congrArg List.head? hq) hw
      (by rw [pipeFree, if_pos rfl, hp]; rfl) hregs hranges (by rw [isPressed, hpr, Bool.and_false])).trans (congrArg _ (coreNow_congr ?_))
    rw [startUop, if_pos rfl, hq, List.tail_cons]
  · refine (queuedInstrStart_next (q := .matrix) hn hon hands (by decide) (congrArg List.head? hq) hw
      (by rw [pipeFree_port ho, hp]; rfl) hregs hranges (isPressed_of_ne_mmac hw (IsPort.ne_mmac ho))).trans
        (congrArg _ (coreNow_congr ?_))
    rw [startUop_port ho, hq, List.tail_cons]
  · have hgo := dmaStart_next hn hon hands hq
    rw [hread, queueDescs_one hd hwf] at hgo
    exact hgo

/-! ### Completion of a vector instruction -/

section Complete

variable {s : State} {n : Nat} {u : Uop} {o : Op}

/-- Vector instructions whose results go to tiles and m-registers alone, and which raise no event. -/
def tileOnly (o : Op) : Bool := decide (opFmt o = .V) && !decide (o ∈ [Op.vst, .vqapp, .rgsum, .vtopk])

theorem opFmt_tileOnly (ho : tileOnly o = true) : opFmt o = .V :=
  of_decide_eq_true (Bool.and_eq_true_iff.mp ho).1

theorem unitStores_tileOnly (ho : tileOnly o = true) (k : Nat) : unitStores o u k = [] := by
  rw [unitStores]
  all_goals
    rintro rfl
    exact absurd ho (by decide)

theorem unitsOf_V (ho : opFmt o = .V) : unitsOf o u = vUnits o u.word := by
  rw [unitsOf]
  all_goals
    rintro rfl
    exact absurd ho (by decide)

theorem runUop_V (ho : opFmt o = .V) (k fr : Nat) (c : Core) : runUop o u k fr c = (vRun o u u.done (k - u.done) c).2 := by
  rw [runUop]
  all_goals
    rintro rfl
    exact absurd ho (by decide)

/-- A run of one unit that meets no parity error is that unit. -/
theorem vRun_one {k : Nat} {c : Core} (hbad : (vUnit o u k c).bad = false) : (vRun o u k 1 c).2 = vUnit o u k c := by
  have hor (x : Fl) : x ||| 0 = x := BitVec.or_zero
  simp only [vRun, hbad, Bool.false_eq_true, if_false, hor]
  rw [← hbad]

/-- An instruction that writes no scratchpad completes: its results and flags stand, its ranges are released (04 R104, R136). -/
theorem pipeComplete_next {p : Pipe} {r : Core} {x : Fl} (hn : n < 100) (hon : coreOn s n = true) (hp : pipeUop p (getCore s n) = some u)
    (hw : wordOp u.word = some o) (hpress : isPressed u = false) (htopk : o ≠ .vtopk)
    (hundef : (decide (o = .mmac) && mmacUndef u.word (wholeSteps u u.done) (getCore s n)) = false) (hstores : ∀ k, unitStores o u k = [])
    (hrun : runUop o u (unitsOf o u) s.free (getCore s n) = ⟨r, x, false⟩) :
    Goes (.instrComplete n p) s (setCore n (addFlags x (releaseSeq u.seq (clearPipe p r))) s) := by
  have hop := uopOp_of_wordOp hw
  have hwrote (i k : Nat) (t : State) : unitsWrote n o u i k t = t := by simp [unitsWrote, spadWrote, hstores]
  simp only [Goes, exec, execInstrComplete, unitRes, hn, hp, hon, hpress, completeUop, hop, htopk, hundef, hrun, hwrote, decide_true,
    Bool.false_eq_true, not_true_eq_false, if_true, if_false]

/-- The instruction in the vector pipe completes with its one unit of work (07 R185). -/
theorem vectorComplete_next {r : Core} {x : Fl} (hn : n < 100) (hon : coreOn s n = true) (hv : (getCore s n).vector = some u)
    (hw : wordOp u.word = some o) (ho : tileOnly o = true) (hdone : u.done = 0) (hunits : vUnits o u.word = 1)
    (hrun : vUnit o u 0 (getCore s n) = ⟨r, x, false⟩) :
    Goes (.instrComplete n .vector) s (setCore n (addFlags x (releaseSeq u.seq { r with vector := none })) s) := by
  have hV := opFmt_tileOnly ho
  have hne := ne_mmac_of_V hV
  have htopk : o ≠ .vtopk := by
    rintro rfl
    exact absurd ho (by decide)
  refine pipeComplete_next hn hon hv hw (isPressed_of_ne_mmac hw hne) htopk (by rw [decide_eq_false hne, Bool.false_and])
    (unitStores_tileOnly ho) ?_
  rw [runUop_V hV, unitsOf_V hV, hunits, hdone, vRun_one (by rw [hrun]), hrun]

end Complete

/-! ### Rows of lanes -/

section Lanes

theorem length_smapWalk {α : Type} (d : α) : ∀ (m : SMap α) (a len : Nat), (smapWalk d m a len).length = len
  | m, _, 0 => by cases m <;> rfl
  | [], a, len + 1 => congrArg (· + 1) (length_smapWalk d [] (a + 1) len)
  | (k, v) :: t, a, len + 1 => by
    unfold smapWalk
    split_ifs
    · exact congrArg (· + 1) (length_smapWalk d t (a + 1) len)
    · exact congrArg (· + 1) (length_smapWalk d ((k, v) :: t) (a + 1) len)

@[simp] theorem length_smapRun {α : Type} (d : α) (m : SMap α) (a len : Nat) : (smapRun d m a len).length = len :=
  length_smapWalk d _ a len

theorem flIf_or (b b' : Bool) (x : Fl) : flIf b x ||| flIf b' x = flIf (b || b') x := by
  cases b <;> cases b' <;> simp [flIf]

/-- Lanes that each make the value `val` of what `e` computes of their two sources, and set `x` where that meets `p`. -/
theorem laneRow_eq {β : Type} {f : Nat → Nat → Nat → Nat → Nat × Fl} {e : W32 → W32 → β} {val : β → W32} {p : β → Bool} {x : Fl}
    (hf : ∀ i a b c, f i a.toNat b.toNat c = ((val (e a b)).toNat, flIf (p (e a b)) x)) :
    ∀ (i : Nat) (as bs : List W32) (cs : List Nat), as.length = bs.length →
      laneRow f i (as.map BitVec.toNat) (bs.map BitVec.toNat) cs
        = (((List.zipWith e as bs).map val).map BitVec.toNat, flIf ((List.zipWith e as bs).any p) x)
  | _, [], [], _, _ => rfl
  | i, a :: as, b :: bs, cs, h => by
    have ih := laneRow_eq hf (i + 1) as bs cs.tail (Nat.succ.inj h)
    simp only [List.map_cons, laneRow, List.headD_cons, List.tail_cons, hf, ih, List.zipWith_cons_cons, List.any_cons, flIf_or]

theorem ofNat_map_toNat (l : List W32) : (l.map BitVec.toNat).map (BitVec.ofNat 32) = l := by
  rw [List.map_map]
  exact (List.map_congr_left fun x _ => by simp).trans (List.map_id l)

/-- Copies of the first of two sources. -/
theorem zipWith_left {α β γ : Type} (f : α → γ) : ∀ (as : List α) (bs : List β), as.length = bs.length →
    List.zipWith (fun a _ => f a) as bs = as.map f
  | [], [], _ => rfl
  | a :: as, _ :: bs, h => congrArg (f a :: ·) (zipWith_left f as bs (Nat.succ.inj h))

variable {o : Op} {u : Uop} {c : Core}

/-- The instructions that work lane by lane on integers, signs and copies. -/
def laneWise (o : Op) : Bool := decide (opGrp o = 0x18) || decide (o ∈ [Op.vmov, .vzero, .vbcast, .vneg, .vabs])

theorem tileOnly_laneWise (ho : laneWise o = true) : tileOnly o = true := by
  revert ho
  cases o <;> decide

/-- Their unit of work is a row (04 R104). -/
theorem vUnits_laneWise (ho : laneWise o = true) (w : W64) : vUnits o w = vN w := by
  have hwhole : vWhole o = false := by
    revert ho
    cases o <;> decide
  have hqapp : o ≠ .vqapp := by
    rintro rfl
    exact absurd ho (by decide)
  rw [vUnits, hwhole, if_neg Bool.false_ne_true, if_neg hqapp]

theorem vUnit_laneWise (ho : laneWise o = true) (k : Nat) : vUnit o u k c = rowLanes o u k c := by
  rw [vUnit]
  all_goals
    rintro rfl
    exact absurd ho (by decide)

/-- A row of lanes, from the rows of its two sources. -/
theorem rowLanes_eq {β : Type} {e : W32 → W32 → β} {val : β → W32} {p : β → Bool} {x : Fl} {bs : List W32}
    (hb : secondRow o u c (vROW0 u.word) = bs.map BitVec.toNat) (hlen : bs.length = 128)
    (hf : ∀ i a b c, laneOp o u i a.toNat b.toNat c = ((val (e a b)).toNat, flIf (p (e a b)) x)) :
    let es := List.zipWith e (smapRun 0 c.tile (vTA u.word * 4096 + vROW0 u.word * 128) 128) bs
    rowLanes o u 0 c = ⟨{ c with tile := smapPut 0 c.tile (vTD u.word * 4096 + vROW0 u.word * 128) (es.map val) }, flIf (es.any p) x, false⟩ := by
  simp only [rowLanes, Nat.add_zero, hb, rowRead, laneRow_eq hf _ _ bs _ ((length_smapRun 0 _ _ 128).trans hlen.symm), rowWrite,
    ofNat_map_toNat]

/-- The one row of such an instruction completes it. -/
theorem rowComplete_next {s : State} {n : Nat} {h : Head} {f : FmtV} {β : Type} {e : W32 → W32 → β} {val : β → W32} {p : β → Bool}
    {x : Fl} {bs : List W32} (hn : n < 100) (hon : coreOn s n = true) (hv : (getCore s n).vector = some u) (hw : u.word = wordV o h f)
    (hdone : u.done = 0) (hrow : f.nrow = 0) (ho : laneWise o = true)
    (hb : secondRow o u (getCore s n) f.row0.toNat = bs.map BitVec.toNat) (hlen : bs.length = 128)
    (hf : ∀ i a b c, laneOp o u i a.toNat b.toNat c = ((val (e a b)).toNat, flIf (p (e a b)) x)) :
    let es := List.zipWith e (smapRun 0 (getCore s n).tile (f.ta.toNat * 4096 + f.row0.toNat * 128) 128) bs
    Goes (.instrComplete n .vector) s (coreNow n (fun c => { c with
      tile := smapPut 0 c.tile (f.td.toNat * 4096 + f.row0.toNat * 128) (es.map val)
      asr := asrSet c.asr (flIf (es.any p) x)
      vector := none
      trk := c.trk.filter (fun e => e.seq ≠ u.seq) }) s) := by
  have hunits : vUnits o u.word = 1 := by rw [vUnits_laneWise ho, hw, wordV_nrow, hrow]; rfl
  have hlanes := rowLanes_eq (c := getCore s n) (by rw [hw, wordV_row0]; exact hb) hlen hf
  rw [hw, wordV_ta, wordV_td, wordV_row0] at hlanes
  exact vectorComplete_next hn hon hv (by rw [hw, wordV_op]) (tileOnly_laneWise ho) hdone hunits ((vUnit_laneWise ho 0).trans hlanes)

end Lanes

/-! ### Integer lanes (04 Table 4-8) -/

section IntegerLanes

variable (a b : W32)

theorem sgn_toNat (a : W32) : sgn 32 a.toNat = a.toInt := by
  rw [sgn_eq_toInt (by decide), BitVec.ofNat_toNat, BitVec.setWidth_eq]

/-- The integer and logic functions with the lanes they compute. -/
def intLanes : List (Op × (W32 → W32 → W32)) :=
  [(Op.vadd, fun a b => a + b), (Op.vsub, fun a b => a - b), (Op.vmul, fun a b => a * b),
   (Op.vmulh, fun a b => BitVec.ofInt 32 (a.toInt * b.toInt / 2 ^ 32)), (Op.vand, fun a b => a &&& b), (Op.vor, fun a b => a ||| b),
   (Op.vxor, fun a b => a ^^^ b), (Op.vandn, fun a b => a &&& ~~~b), (Op.vnot, fun a _ => ~~~a),
   (Op.vshl, fun a b => a <<< (b.toNat % 32)), (Op.vshr, fun a b => a >>> (b.toNat % 32)),
   (Op.vsra, fun a b => a.sshiftRight (b.toNat % 32)), (Op.vrotl, fun a b => a.rotateLeft (b.toNat % 32)),
   (Op.vimin, fun a b => if b.toInt < a.toInt then b else a), (Op.vimax, fun a b => if a.toInt < b.toInt then b else a)]

theorem ofInt_sub_toInt : BitVec.ofInt 32 (a.toInt - b.toInt) = a - b := by
  rw [Int.sub_eq_add_neg, BitVec.ofInt_add, BitVec.ofInt_neg, BitVec.ofInt_toInt, BitVec.ofInt_toInt, BitVec.sub_eq_add_neg]

/-- The number of a lane's exact result, wrapped. -/
theorem satOr_wraps (i : Int) : satOr 0 i = ((BitVec.ofInt 32 i).toNat, 0) := by
  rw [satOr, if_pos rfl, unsgn_eq_toNat]

theorem laneInt_vadd : laneInt .vadd 0 a.toNat b.toNat = ((a + b).toNat, 0) := by
  simp only [laneInt, laneAdd, satOr_wraps, sgn_toNat, BitVec.ofInt_add, BitVec.ofInt_toInt]

theorem laneInt_vsub : laneInt .vsub 0 a.toNat b.toNat = ((a - b).toNat, 0) := by
  simp only [laneInt, laneSub, satOr_wraps, sgn_toNat, ofInt_sub_toInt]

theorem laneInt_vmul : laneInt .vmul 0 a.toNat b.toNat = ((a * b).toNat, 0) := by
  simp only [laneInt, laneMul, satOr_wraps, sgn_toNat, BitVec.ofInt_mul, BitVec.ofInt_toInt]

theorem laneInt_vmulh : laneInt .vmulh 0 a.toNat b.toNat = ((BitVec.ofInt 32 (a.toInt * b.toInt / 2 ^ 32)).toNat, 0) := by
  simp only [laneInt, laneMulh, Nat.zero_mod, if_true, sgn_toNat, unsgn_eq_toNat]

theorem laneInt_vandn : laneInt .vandn 0 a.toNat b.toNat = ((a &&& ~~~b).toNat, 0) := by
  simp only [laneInt, BitVec.toNat_and, BitVec.toNat_not]

theorem laneInt_vnot : laneInt .vnot 0 a.toNat b.toNat = ((~~~a).toNat, 0) := by
  simp only [laneInt, BitVec.toNat_not]

theorem laneInt_vshl : laneInt .vshl 0 a.toNat b.toNat = ((a <<< (b.toNat % 32)).toNat, 0) := by
  simp only [laneInt, BitVec.toNat_shiftLeft, Nat.shiftLeft_eq]

theorem laneInt_vshr : laneInt .vshr 0 a.toNat b.toNat = ((a >>> (b.toNat % 32)).toNat, 0) := by
  simp only [laneInt, BitVec.toNat_ushiftRight, Nat.shiftRight_eq_div_pow]

theorem laneInt_vsra : laneInt .vsra 0 a.toNat b.toNat = ((a.sshiftRight (b.toNat % 32)).toNat, 0) := by
  have hshift : a.toInt / 2 ^ (b.toNat % 32) = (a.sshiftRight (b.toNat % 32)).toInt := by
    rw [BitVec.toInt_sshiftRight, Int.shiftRight_eq_div_pow]
    norm_cast
  simp only [laneInt, sgn_toNat, hshift, unsgn_eq_toNat, BitVec.ofInt_toInt]

theorem laneInt_vrotl : laneInt .vrotl 0 a.toNat b.toNat = ((a.rotateLeft (b.toNat % 32)).toNat, 0) := by
  have hright : a.toNat / 2 ^ (32 - b.toNat % 32) < 2 ^ 32 := lt_of_le_of_lt (Nat.div_le_self _ _) a.isLt
  simp only [laneInt, rotl32, BitVec.toNat_rotateLeft, Nat.mod_mod, Nat.shiftLeft_eq, Nat.shiftRight_eq_div_pow, Nat.or_mod_two_pow,
    Nat.mod_eq_of_lt hright]

theorem laneInt_vimin : laneInt .vimin 0 a.toNat b.toNat = ((if b.toInt < a.toInt then b else a).toNat, 0) := by
  simp only [laneInt, sgn_toNat, apply_ite BitVec.toNat]

theorem laneInt_vimax : laneInt .vimax 0 a.toNat b.toNat = ((if a.toInt < b.toInt then b else a).toNat, 0) := by
  simp only [laneInt, sgn_toNat, apply_ite BitVec.toNat]

/-- Every function of the table computes its lane, wrapping without a flag. -/
theorem laneInt_intLanes : ∀ r ∈ intLanes, laneInt r.1 0 a.toNat b.toNat = ((r.2 a b).toNat, 0) := by
  simp only [intLanes, List.forall_mem_cons]
  exact ⟨laneInt_vadd a b, laneInt_vsub a b, laneInt_vmul a b, laneInt_vmulh a b, rfl, rfl, rfl, laneInt_vandn a b, laneInt_vnot a b,
    laneInt_vshl a b, laneInt_vshr a b, laneInt_vsra a b, laneInt_vrotl a b, laneInt_vimin a b, laneInt_vimax a b, by simp⟩

theorem opGrp_intLanes : ∀ r ∈ intLanes, opGrp r.1 = 0x18 := List.map_inj_left.mp rfl

end IntegerLanes

section IntegerRows

variable {o : Op} {u : Uop} {h : Head} {f : FmtV}

theorem laneWise_of_opGrp (hg : opGrp o = 0x18) : laneWise o = true := by
  rw [laneWise, hg]
  rfl

theorem laneOp_integer (hg : opGrp o = 0x18) (hw : u.word = wordV o h f) (i a b c : Nat) :
    laneOp o u i a b c = laneInt o f.imm.toNat a b := by
  simp only [laneOp, hg, hw, wordV_imm, if_true]

/-- IMM stands in the low bits of a word, bit 11 (BS) and bit 6 (an immediate shift) among them. -/
theorem wordV_imm_mod : (wordV o h f).toNat % 2 ^ 12 = f.imm.toNat := by
  simp only [wordV_toNat, wordHead]
  omega

theorem bit_wordV_6 : bit (wordV o h f).toNat 6 = bit f.imm.toNat 6 := by
  rw [← wordV_imm_mod (o := o) (h := h)]
  simp only [bit]
  congr 1
  simp only [eq_iff_iff]
  omega

theorem vBS_wordV : vBS (wordV o h f) = bit f.imm.toNat 11 := by
  rw [← wordV_imm_mod (o := o) (h := h)]
  simp only [vBS, bit]
  congr 1
  simp only [eq_iff_iff]
  omega

theorem opTwo_of_opGrp (hg : opGrp o = 0x18) (hn : o ≠ .vnot) : opTwo o = true := by
  simp [opTwo, hg, hn]

/-- Without BS and without an immediate amount, the second source is TB (04 R122, R123). -/
theorem secondRow_TB (hg : opGrp o = 0x18) (hn : o ≠ .vnot) (hw : u.word = wordV o h f) (h6 : bit f.imm.toNat 6 = false)
    (h11 : bit f.imm.toNat 11 = false) (c : Core) (r : Nat) : secondRow o u c r = rowRead c f.tb.toNat r := by
  simp only [secondRow, hw, wordV_imm, wordV_tb, h6, useBS, useTB, opTwo_of_opGrp hg hn, vBS_wordV, h11, bit_wordV_6, Bool.and_false,
    Bool.and_true, Bool.not_false, Bool.true_or, Bool.false_eq_true, if_true, if_false]

/-- An instruction of one source reads no second one. -/
theorem secondRow_one (hs : opShift o = false) (h2 : opTwo o = false) (hq : o ≠ .vqapp) (he : o ≠ .vsmexp) (c : Core) (r : Nat) :
    secondRow o u c r = (List.replicate 128 (0 : W32)).map BitVec.toNat := by
  simp [secondRow, useBS, useTB, hs, h2, hq, he]

theorem vnot_intLanes : ∀ r ∈ intLanes, r.1 = .vnot → r.2 = fun a _ => ~~~a := by
  simp [intLanes]

end IntegerRows

section UnflaggedRows

variable {s : State} {n : Nat} {u : Uop} {o : Op} {h : Head} {f : FmtV}

theorem asrSet_zero (asr : W64) : asrSet asr 0 = asr := BitVec.or_zero

/-- A row of lanes that set no flag. -/
theorem rowComplete_unflagged {e : W32 → W32 → W32} {bs : List W32} (hn : n < 100) (hon : coreOn s n = true)
    (hv : (getCore s n).vector = some u) (hw : u.word = wordV o h f) (hdone : u.done = 0) (hrow : f.nrow = 0) (ho : laneWise o = true)
    (hb : secondRow o u (getCore s n) f.row0.toNat = bs.map BitVec.toNat) (hlen : bs.length = 128)
    (hf : ∀ i a b c, laneOp o u i a.toNat b.toNat c = ((e a b).toNat, 0)) :
    Goes (.instrComplete n .vector) s (coreNow n (fun c => { c with
      tile := smapPut 0 c.tile (f.td.toNat * 4096 + f.row0.toNat * 128)
        (List.zipWith e (smapRun 0 (getCore s n).tile (f.ta.toNat * 4096 + f.row0.toNat * 128) 128) bs)
      vector := none
      trk := c.trk.filter (fun e => e.seq ≠ u.seq) }) s) := by
  have hz (b : Bool) : flIf b 0 = 0 := ite_self _
  have hgo := rowComplete_next (val := id) (p := fun _ => false) (x := 0) hn hon hv hw hdone hrow ho hb hlen
    (fun i a b c => (hf i a b c).trans (by rw [hz, id_eq]))
  simpa only [hz, asrSet_zero, List.map_id] using hgo

end UnflaggedRows

/-! ### Saturation (04 R123) -/

/-- An exact result clamped to a signed width. -/
def clamped (w : Nat) (x : Int) : W32 := BitVec.ofInt 32 (max (-2 ^ (w - 1)) (min (2 ^ (w - 1) - 1) x))

/-- A result that its width does not hold. -/
def clamps (w : Nat) (x : Int) : Bool := decide (x < -2 ^ (w - 1)) || decide (2 ^ (w - 1) - 1 < x)

/-- `clampTo` clamps, and sets SAT where that changes the result. -/
theorem clampTo_eq (w : Nat) (i : Int) : clampTo w i = ((clamped w i).toNat, flIf (clamps w i) flSAT) := by
  have hpos : (0 : Int) < 2 ^ (w - 1) := by positivity
  simp only [clampTo, clamped, clamps, Nat.cast_pow, Nat.cast_ofNat, unsgn_eq_toNat]
  by_cases hlo : i < -2 ^ (w - 1)
  · have hmax : max (-2 ^ (w - 1)) (min (2 ^ (w - 1) - 1) i) = (-2 ^ (w - 1) : Int) := by omega
    simp [hlo, hmax, flIf]
  · by_cases hhi : 2 ^ (w - 1) - 1 < i
    · have hmax : max (-2 ^ (w - 1)) (min (2 ^ (w - 1) - 1) i) = (2 ^ (w - 1) - 1 : Int) := by omega
      simp [hlo, hhi, hmax, flIf]
    · have hmax : max (-2 ^ (w - 1)) (min (2 ^ (w - 1) - 1) i) = i := by omega
      simp [hlo, hhi, hmax, flIf]

/-- The functions that saturate, with their exact results. -/
def satLanes : List (Op × (Int → Int → Int)) := [(Op.vadd, fun a b => a + b), (Op.vsub, fun a b => a - b), (Op.vmul, fun a b => a * b)]

theorem laneInt_satLanes (imm : Nat) (a b : W32) : ∀ r ∈ satLanes, laneInt r.1 imm a.toNat b.toNat = satOr imm (r.2 a.toInt b.toInt) := by
  simp only [satLanes, List.forall_mem_cons, laneInt, laneAdd, laneSub, laneMul, sgn_toNat]
  exact ⟨trivial, trivial, trivial, by simp⟩

theorem opGrp_satLanes : ∀ r ∈ satLanes, opGrp r.1 = 0x18 := List.map_inj_left.mp rfl

theorem ne_vnot_satLanes : ∀ r ∈ satLanes, r.1 ≠ .vnot := by
  simp [satLanes]

/-- The codes of the widths (04 R123). -/
def satCodes : List (BitVec 12 × Nat) := [(1, 8), (2, 16), (3, 32)]

theorem satOr_satCodes : ∀ r ∈ satCodes, satOr r.1.toNat = clampTo r.2 := List.map_inj_left.mp rfl

theorem bits_satCodes : ∀ r ∈ satCodes, bit r.1.toNat 6 = false ∧ bit r.1.toNat 11 = false := by
  decide

theorem asrSet_sat (asr : W64) (b : Bool) : asrSet asr (flIf b flSAT) = asr ||| (if b then 32 else 0) := by
  cases b <;> rfl

/-- Settles O18: the lanes of a row, by function and width code. -/
theorem vectorIntegerRow : Obligations.VectorIntegerRow := by
  refine ⟨?_, ?_⟩
  · intro s n h f u o g hmem hn hon _ hv hw hdone hrow himm row
    have hg : opGrp o = 0x18 := opGrp_intLanes _ hmem
    have hlane (i : Nat) (a b : W32) (c : Nat) : laneOp o u i a.toNat b.toNat c = ((g a b).toNat, 0) := by
      rw [laneOp_integer hg hw, himm]
      exact laneInt_intLanes a b _ hmem
    have hrun (t : Nat) : (row (getCore s n) t).length = 128 := length_smapRun _ _ _ _
    by_cases hnot : o = .vnot
    · obtain rfl : g = fun a _ => ~~~a := vnot_intLanes _ hmem hnot
      subst hnot
      refine (rowComplete_unflagged hn hon hv hw hdone hrow rfl (secondRow_one rfl rfl (by decide) (by decide) _ _)
        List.length_replicate hlane).trans (congrArg _ (coreNow_congr ?_))
      rw [zipWith_left _ _ _ ((length_smapRun _ _ _ _).trans List.length_replicate.symm),
        zipWith_left _ _ _ ((hrun _).trans (hrun _).symm)]
    · exact rowComplete_unflagged hn hon hv hw hdone hrow (laneWise_of_opGrp hg)
        (secondRow_TB hg hnot hw (by rw [himm]; rfl) (by rw [himm]; rfl) _ _) (hrun _) hlane
  · intro s n h f u o g w hmem hcode hn hon _ hv hw hdone hrow row exact
    have hg : opGrp o = 0x18 := opGrp_satLanes _ hmem
    obtain ⟨h6, h11⟩ := bits_satCodes _ hcode
    have hlane (i : Nat) (a b : W32) (c : Nat) := calc
      laneOp o u i a.toNat b.toNat c = satOr f.imm.toNat (g a.toInt b.toInt) :=
        (laneOp_integer hg hw _ _ _ _).trans (laneInt_satLanes _ a b _ hmem)
      _ = _ := (congrFun (satOr_satCodes _ hcode) _).trans (clampTo_eq w _)
    have hgo := rowComplete_next (e := fun a b => g a.toInt b.toInt) (val := clamped w) (p := clamps w) hn hon hv hw hdone hrow (laneWise_of_opGrp hg)
      (secondRow_TB hg (ne_vnot_satLanes _ hmem) hw h6 h11 _ _) (length_smapRun _ _ _ _) hlane
    simp only [asrSet_sat] at hgo
    exact hgo

/-! ### Moves, signs and summaries -/

section Moves

/-- Copies, broadcasts, zeroes and sign operations, with what they make of a row; the first operand is sSR (04 R129, R124). -/
def moveRows : List (Op × (W64 → List W32 → List W32)) :=
  [(Op.vmov, fun _ a => a), (Op.vzero, fun _ _ => List.replicate 128 0), (Op.vbcast, fun v _ => List.replicate 128 (v.setWidth 32)),
   (Op.vneg, fun _ a => a.map (fun x => x ^^^ 0x80000000)), (Op.vabs, fun _ a => a.map (fun x => x &&& 0x7FFFFFFF))]

/-- An operation makes of a lane `x` what `k` makes of sSR and it, without a flag. -/
def LaneIs (o : Op) (k : W64 → W32 → W32) : Prop :=
  ∀ (u : Uop) (i : Nat) (a : W32) (b c : Nat), laneOp o u i a.toNat b c = ((k (u.sv.getD 0 0) a).toNat, 0)

/-- A function of rows is `k` lane by lane. -/
def RowIs (g : W64 → List W32 → List W32) (k : W64 → W32 → W32) : Prop :=
  ∀ (v : W64) (l : List W32), l.length = 128 → g v l = l.map (k v)

theorem laneIs_vbcast : LaneIs .vbcast (fun v _ => v.setWidth 32) := fun u i a b c => by
  simp [laneOp, opGrp, opCode, nthW, BitVec.toNat_setWidth]

/-- Adding the sign bit, modulo 2^32, flips it. -/
theorem add_sign_toNat (a : W32) : (a.toNat + 2 ^ 31) % 2 ^ 32 = (a ^^^ 0x80000000).toNat := by
  have hsign : (0x80000000 : W32).toNat = 2 ^ 31 := rfl
  apply Nat.eq_of_testBit_eq
  intro j
  rw [BitVec.toNat_xor, hsign, Nat.testBit_xor, Nat.testBit_two_pow, Nat.testBit_mod_two_pow, Nat.add_comm]
  rcases Nat.lt_trichotomy j 31 with hlt | rfl | hgt
  · simp [Nat.testBit_two_pow_add_gt hlt, show j < 32 by omega, show 31 ≠ j by omega]
  · rw [Nat.testBit_two_pow_add_eq]
    simp
  · have hout : a.toNat.testBit j = false :=
      Nat.testBit_lt_two_pow (lt_of_lt_of_le a.isLt (Nat.pow_le_pow_right (by decide) (by omega)))
    simp [hout, show ¬ j < 32 by omega, show 31 ≠ j by omega]

theorem laneIs_vneg : LaneIs .vneg (fun _ x => x ^^^ 0x80000000) := fun u i a b c => by
  simp only [laneOp, opGrp, opCode, laneFlt]
  exact congrArg (·, 0) (add_sign_toNat a)

theorem laneIs_vabs : LaneIs .vabs (fun _ x => x &&& 0x7FFFFFFF) := fun u i a b c => by
  have hclear : a.toNat % 2 ^ 31 = (a &&& 0x7FFFFFFF).toNat := by
    rw [BitVec.toNat_and]
    exact (Nat.and_two_pow_sub_one_eq_mod a.toNat 31).symm
  simp only [laneOp, opGrp, opCode, laneFlt]
  exact congrArg (·, 0) hclear

theorem rowIs_replicate (k : W64 → W32) : RowIs (fun v _ => List.replicate 128 (k v)) (fun v _ => k v) := fun v l hl => by
  rw [List.map_const', hl]

theorem lanes_moveRows : ∀ r ∈ moveRows, ∃ k, LaneIs r.1 k ∧ RowIs r.2 k := by
  simp only [moveRows, List.forall_mem_cons]
  exact ⟨⟨fun _ x => x, fun _ _ _ _ _ => rfl, fun _ l _ => (List.map_id' l).symm⟩,
    ⟨_, fun _ _ _ _ _ => rfl, rowIs_replicate (fun _ => 0)⟩, ⟨_, laneIs_vbcast, rowIs_replicate _⟩,
    ⟨_, laneIs_vneg, fun _ _ _ => rfl⟩, ⟨_, laneIs_vabs, fun _ _ _ => rfl⟩, by simp⟩

theorem laneWise_moveRows : ∀ r ∈ moveRows, laneWise r.1 = true := List.map_inj_left.mp rfl

/-- None of them reads a second source. -/
theorem secondRow_moveRows {u : Uop} (c : Core) (r : Nat) : ∀ x ∈ moveRows,
    secondRow x.1 u c r = (List.replicate 128 (0 : W32)).map BitVec.toNat := by
  simp only [moveRows, List.forall_mem_cons]
  refine ⟨?_, ?_, ?_, ?_, ?_, by simp⟩ <;> exact secondRow_one rfl rfl (by decide) (by decide) c r

variable {s : State} {n : Nat} {u : Uop} {o : Op} {h : Head} {f : FmtV}

/-- The one row of a move or a sign operation completes it. -/
theorem moveComplete_next {g : W64 → List W32 → List W32} (hmem : (o, g) ∈ moveRows) (hn : n < 100) (hon : coreOn s n = true)
    (hv : (getCore s n).vector = some u) (hw : u.word = wordV o h f) (hdone : u.done = 0) (hrow : f.nrow = 0) :
    Goes (.instrComplete n .vector) s (coreNow n (fun c => { c with
      tile := smapPut 0 c.tile (f.td.toNat * 4096 + f.row0.toNat * 128)
        (g (u.sv.getD 0 0) (smapRun 0 c.tile (f.ta.toNat * 4096 + f.row0.toNat * 128) 128))
      vector := none
      trk := c.trk.filter (fun e => e.seq ≠ u.seq) }) s) := by
  obtain ⟨k, hlane, (hg : RowIs g k)⟩ := lanes_moveRows _ hmem
  refine (rowComplete_unflagged (e := fun a _ => k (u.sv.getD 0 0) a) hn hon hv hw hdone hrow (laneWise_moveRows _ hmem)
    (secondRow_moveRows _ _ _ hmem) List.length_replicate (fun i a b c => hlane u i a b.toNat c)).trans
      (congrArg _ (coreNow_congr ?_))
  rw [zipWith_left _ _ _ ((length_smapRun _ _ _ _).trans List.length_replicate.symm), hg _ _ (length_smapRun _ _ _ _)]

end Moves

section Summaries

/-- Lanes summed as numbers, modulo 2^32, are the sum of the words. -/
theorem foldl_add_toNat : ∀ (l : List W32) (x : W32),
    (l.map BitVec.toNat).foldl (fun a b => (a + b) % 2 ^ 32) x.toNat = (l.foldl (· + ·) x).toNat
  | [], _ => rfl
  | y :: l, x => foldl_add_toNat l (x + y)

theorem foldl_xor_toNat : ∀ (l : List W32) (x : W32),
    (l.map BitVec.toNat).foldl (· ^^^ ·) x.toNat = (l.foldl (· ^^^ ·) x).toNat
  | [], _ => rfl
  | y :: l, x => foldl_xor_toNat l (x ^^^ y)

/-- The exclusive or of all lanes. -/
theorem foldRed_xor (l : List W32) : foldRed 4 false (l.map BitVec.toNat) = (l.foldl (· ^^^ ·) 0).toNat := by
  cases l with
  | nil => rfl
  | cons y l =>
    have hzero : 0 ^^^ y = y := BitVec.zero_xor
    rw [List.foldl_cons, hzero]
    exact foldl_xor_toNat l y

/-- The rows that a summary reads, lane after lane. -/
def summed (c : Core) (f : FmtV) : List W32 :=
  ((List.range (f.nrow.toNat + 1)).map (fun k => smapRun 0 c.tile (f.ta.toNat * 4096 + (f.row0.toNat + k) * 128) 128)).flatten

variable {s : State} {n : Nat} {u : Uop} {h : Head} {f : FmtV}

theorem rows_flatten (hw : u.word = wordV .vredall h f) (c : Core) :
    ((List.range (vN u.word)).map (fun k => rowRead c (vTA u.word) (vROW0 u.word + k))).flatten = (summed c f).map BitVec.toNat := by
  rw [hw, wordV_nrow, wordV_ta, wordV_row0, summed, List.map_flatten, List.map_map]
  rfl

/-- The summary of an integer reduction other than an argmax (07 R193). -/
theorem allRed_integer (hw : u.word = wordV .vredall h f) {imm n : Nat} (hi : f.imm.toNat = imm) (h0 : (decide (imm % 8 = 0) && !bit imm 3) = false)
    (hs : (bit imm 3 || decide (3 ≤ imm % 8)) = true) (c : Core)
    (hn : ∀ fl base, redList imm fl false ((summed c f).map BitVec.toNat) base = (n, 0)) :
    allRed u c = ⟨mWrite f.md.toNat (sumWord (imm % 8) n) c, 0, false⟩ := by
  have himm : vIMM u.word = imm := by rw [hw, wordV_imm, hi]
  have hmd : vMD u.word = f.md.toNat := by rw [hw, wordV_md]
  simp only [allRed, himm, hmd, h0, rows_flatten hw, hn, hs, Bool.false_eq_true, if_false, if_true]

/-- The wrapped sum, sign-extended. -/
theorem allRed_sum (hw : u.word = wordV .vredall h f) (hi : f.imm = 8) (c : Core) :
    allRed u c = ⟨mWrite f.md.toNat (((summed c f).foldl (· + ·) 0).signExtend 64) c, 0, false⟩ := by
  have hword (x : W32) : sumWord 0 x.toNat = x.signExtend 64 := by
    rw [sumWord, if_neg (by decide), ofNat_unsgn, sgn_toNat, BitVec.signExtend]
  rw [← hword]
  exact allRed_integer hw (congrArg BitVec.toNat hi) rfl rfl c fun _ _ => congrArg (·, 0) (foldl_add_toNat _ 0)

/-- The exclusive or, zero-extended. -/
theorem allRed_xor (hw : u.word = wordV .vredall h f) (hi : f.imm = 4) (c : Core) :
    allRed u c = ⟨mWrite f.md.toNat (((summed c f).foldl (· ^^^ ·) 0).zeroExtend 64) c, 0, false⟩ := by
  have hword (x : W32) : sumWord 4 x.toNat = x.zeroExtend 64 := by
    rw [sumWord, if_pos (by decide), BitVec.ofNat_toNat]
  rw [← hword]
  exact allRed_integer hw (congrArg BitVec.toNat hi) rfl rfl c fun _ _ => congrArg (·, 0) (foldRed_xor _)

/-- A summary writes its m-register alone. -/
theorem summaryComplete_next {v : Core → W64} (hn : n < 100) (hon : coreOn s n = true) (hv : (getCore s n).vector = some u)
    (hw : u.word = wordV .vredall h f) (hdone : u.done = 0)
    (hrun : allRed u (getCore s n) = ⟨mWrite f.md.toNat (v (getCore s n)) (getCore s n), 0, false⟩) :
    Goes (.instrComplete n .vector) s (coreNow n (fun c => { c with
      mreg := smapSet 0 c.mreg f.md.toNat (v c)
      vector := none
      trk := c.trk.filter (fun e => e.seq ≠ u.seq) }) s) := by
  refine (vectorComplete_next (o := .vredall) hn hon hv (by rw [hw, wordV_op]) rfl hdone rfl hrun).trans (congrArg _ ?_)
  rw [addFlags, asrSet_zero]
  rfl

end Summaries

/-- Settles O19: a moved row lane by lane, a summary by the fold over its rows. -/
theorem vectorMovesAndSummaries : Obligations.VectorMovesAndSummaries := by
  refine ⟨?_, ?_⟩
  · intro s n h f u o g hmem hn hon _ hv hw hdone hrow _
    exact moveComplete_next hmem hn hon hv hw hdone hrow
  · intro s n h f u hn hon _ hv hw hdone lanes res
    exact ⟨fun hi => summaryComplete_next (v := fun c => ((summed c f).foldl (· + ·) 0).signExtend 64) hn hon hv hw hdone (allRed_sum hw hi _),
      fun hi => summaryComplete_next (v := fun c => ((summed c f).foldl (· ^^^ ·) 0).zeroExtend 64) hn hon hv hw hdone (allRed_xor hw hi _)⟩

/-! ### Integer elements (02 R36, R38) -/

section Elements

/-- The bytes of i8 elements are their codes. -/
theorem unpackAll_i8 : ∀ (fuel : Nat) (bs : List Byte), bs.length ≤ fuel → unpackAll .i8 fuel bs = bs.map BitVec.toNat
  | 0, bs, h => by rw [List.length_eq_zero_iff.mp (Nat.le_zero.mp h)]; rfl
  | _ + 1, [], _ => rfl
  | fuel + 1, b :: bs, h => by
    have ih := unpackAll_i8 fuel bs (Nat.le_of_succ_le_succ h)
    simp [unpackAll, fmBits, leNat, ih]

theorem unpack_i8 (bs : List Byte) : unpack .i8 bs = bs.map BitVec.toNat := unpackAll_i8 _ bs le_rfl

theorem packedLen_i8 (n : Nat) : packedLen .i8 n = n := by
  rw [packedLen, if_neg (by decide), fmBits]
  omega

/-- An i8 operand without a sidecar, of good parity. -/
theorem operandCodes_i8 {c : Core} {a n : Nat} (sa : Nat) (hp : spadParity c a n = false) :
    operandCodes c .i8 .none a sa n = some ((spadBytes c a n).map BitVec.toNat, []) := by
  have hlen : ((spadBytes c a n).map BitVec.toNat).length ≤ n := by rw [List.length_map, spadBytes, length_smapRun]
  simp only [operandCodes, packedLen_i8, opnd, hp, smIsBlock, unpack_i8, List.take_of_length_le hlen, Bool.false_eq_true, if_false]

/-- Neither FLUSH nor a scale acts on an i8 element. -/
theorem scaledElems_i8 (fl : Bool) (sc : List Byte) : ∀ (i : Nat) (l : List Nat), scaledElems fl .i8 .none sc i l = (l.map (xvOf .i8), 0)
  | _, [] => rfl
  | i, e :: l => by
    have hin : xvIn fl .i8 e = (xvOf .i8 e, 0) := by cases fl <;> rfl
    have hzero : (0 : Fl) ||| 0 ||| 0 = 0 := rfl
    simp only [scaledElems, scaledElems_i8 fl sc (i + 1) l, hin, smIsBlock, Bool.false_eq_true, if_false, hzero, List.map_cons]

/-- The integer of an exact value, 0 where it is none. -/
def xvInt : XV → Int
  | .fin s m _ _ => if s then -(m : Int) else m
  | _ => 0

theorem xvInt_i8 (b : Byte) : xvInt (xvOf .i8 b.toNat) = b.toInt := by
  have hs : sgn 8 b.toNat = b.toInt := by rw [sgn_eq_toInt (by decide), BitVec.ofNat_toNat, BitVec.setWidth_eq]
  simp only [xvOf, fmInt, fmBits, hs, xvInt, if_true, decide_eq_true_eq]
  split_ifs <;> omega

/-- An element of an operand: its byte, 0 past its end. -/
theorem xvInt_getD (l : List Byte) (i : Nat) :
    xvInt (((l.map BitVec.toNat).map (xvOf .i8)).toArray.getD i .nan) = (l.getD i 0).toInt := by
  rw [Array.getD_eq_getD_getElem?, List.getElem?_toArray, List.getElem?_map, List.getElem?_map, List.getD_eq_getElem?_getD]
  cases l[i]? with
  | none => rfl
  | some b => exact xvInt_i8 b

/-- A sum from a start. -/
theorem foldl_add_sum (g : Nat → Int) : ∀ (l : List Nat) (x : Int), l.foldl (fun s d => s + g d) x = x + (l.map g).sum
  | [], x => by simp
  | d :: l, x => by simp [foldl_add_sum g l, Int.add_assoc]

/-- The exact integer product of row i of A and column j of B over k steps (05 R153). -/
def byteDot (A B : List Byte) (k i j : Nat) : Int :=
  ((List.range k).map (fun x => (A.getD (i * k + x) 0).toInt * (B.getD (x * 128 + j) 0).toInt)).sum

end Elements

/-! ### Accumulators -/

section Accumulators

variable {α : Type} (d : α) (m : SMap α)

theorem smapBelow_append (m' : SMap α) (n : Nat) : smapBelow (m ++ m') n = smapBelow m n ++ smapBelow m' n := List.filter_append ..

theorem smapFrom_append (m' : SMap α) (n : Nat) : smapFrom (m ++ m') n = smapFrom m n ++ smapFrom m' n := List.filter_append ..

variable {m} in
theorem smapBelow_of_under {hi n : Nat} (hm : Under hi m) (hn : hi ≤ n) : smapBelow m n = m :=
  List.filter_eq_self.mpr fun e he => decide_eq_true (Nat.lt_of_lt_of_le (hm e he) hn)

variable {m} in
theorem smapFrom_of_under {hi n : Nat} (hm : Under hi m) (hn : hi ≤ n) : smapFrom m n = [] :=
  List.filter_eq_nil_iff.mpr fun e he => by
    have := hm e he
    simp only [decide_eq_true_eq]
    omega

theorem smapBelow_smapFrom (n : Nat) : smapBelow (smapFrom m n) n = [] :=
  List.filter_eq_nil_iff.mpr fun e he => by
    have := (List.mem_filter.mp he).2
    simp only [decide_eq_true_eq] at *
    omega

theorem smapFrom_smapFrom {n n' : Nat} (hn : n ≤ n') : smapFrom (smapFrom m n) n' = smapFrom m n' := by
  rw [smapFrom, smapFrom, List.filter_filter]
  refine List.filter_congr fun e _ => ?_
  by_cases he : n' ≤ e.1 <;> simp [he]
  omega

variable [DecidableEq α]

theorem smapOf_append : ∀ (vs ws : List α) (b : Nat), smapOf d b (vs ++ ws) = smapOf d b vs ++ smapOf d (b + vs.length) ws
  | [], _, _ => rfl
  | v :: vs, ws, b => by
    have ih := smapOf_append vs ws (b + 1)
    rw [show b + 1 + vs.length = b + (v :: vs).length by rw [List.length_cons]; omega] at ih
    simp only [List.cons_append, smapOf, ih]
    split_ifs <;> rfl

/-- Two runs, the second where the first ends, are one. -/
theorem smapPut_smapPut (b : Nat) (vs ws : List α) :
    smapPut d (smapPut d m b vs) (b + vs.length) ws = smapPut d m b (vs ++ ws) := by
  have hbelow := under_below m b
  have hof := under_of d vs b
  have hlen : b + (vs ++ ws).length = b + vs.length + ws.length := by rw [List.length_append]; omega
  simp only [smapPut, smapBelow_append, smapFrom_append, smapBelow_of_under hbelow (Nat.le_add_right b vs.length),
    smapBelow_of_under hof le_rfl, smapBelow_smapFrom, smapFrom_of_under hbelow (show b ≤ b + vs.length + ws.length by omega),
    smapFrom_of_under hof (Nat.le_add_right (b + vs.length) ws.length),
    smapFrom_smapFrom m (Nat.le_add_right (b + vs.length) ws.length), smapOf_append, hlen, List.append_nil, List.nil_append,
    List.append_assoc]

/-- Rows of an accumulator, one after another, are one run. -/
theorem foldl_accWrite (a : Nat) (R : Nat → List Nat) (hlen : ∀ i, (R i).length = 128) (c : Core) : ∀ n,
    (List.range (n + 1)).foldl (fun c i => accWrite a i (R i) c) c
      = { c with acc := smapPut 0 c.acc (a * 16384) ((List.range (n + 1)).map (fun i => (R i).map (BitVec.ofNat 32))).flatten }
  | 0 => by simp [accWrite]
  | n + 1 => by
    have hrows : ((List.range (n + 1)).map (fun i => (R i).map (BitVec.ofNat 32))).flatten.length = (n + 1) * 128 := by
      simp [List.length_flatten, hlen, Function.comp_def]
    rw [List.range_succ, List.foldl_append, foldl_accWrite a R hlen c n, List.map_append, List.flatten_append, ← smapPut_smapPut, hrows]
    simp [accWrite]

/-- A grid of rows, read row after row. -/
theorem flatten_grid {α : Type} (F : Nat → Nat → α) {b : Nat} (hb : 0 < b) : ∀ a : Nat,
    ((List.range a).map (fun i => (List.range b).map (F i))).flatten = (List.range (a * b)).map (fun p => F (p / b) (p % b))
  | 0 => by simp
  | a + 1 => by
    rw [List.range_succ, List.map_append, List.flatten_append, flatten_grid F hb a, Nat.succ_mul, List.range_add, List.map_append, List.map_map]
    congr 1
    rw [List.map_singleton, List.flatten_singleton]
    refine List.map_congr_left fun j hj => ?_
    have hj : j < b := List.mem_range.mp hj
    rw [Function.comp_apply, Nat.mul_comm a b, Nat.mul_add_div hb, Nat.div_eq_of_lt hj, Nat.mul_add_mod, Nat.mod_eq_of_lt hj, Nat.add_zero]

/-- The lanes of a row with their numbers. -/
theorem zip_range {l : List W32} {n : Nat} (hl : l.length = n) :
    (l.map BitVec.toNat).zip (List.range n) = (List.range n).map (fun j => ((l.getD j 0).toNat, j)) := by
  subst hl
  apply List.ext_getElem
  · simp
  · intro j h1 h2
    simp at h1
    simp [h1]

theorem flAll_zero : ∀ {l : List Fl}, (∀ x ∈ l, x = 0) → flAll l = 0
  | [], _ => rfl
  | x :: l, h => by
    obtain ⟨rfl, hl⟩ := List.forall_mem_cons.mp h
    have ih : flAll l = 0 := flAll_zero hl
    exact ih

end Accumulators

/-! ### An i8 `mmac` -/

section Product

/-- The sum of a lane and an exact product, modulo 2^32 (05 R150). -/
theorem elemInt_eq (av bv : Nat → Int) (n : Nat) (x : W32) :
    elemInt av bv 0 n x.toNat = (BitVec.ofInt 32 (x.toInt + ((List.range n).map (fun d => av d * bv d)).sum)).toNat := by
  simp only [elemInt, Nat.zero_add, foldl_add_sum, unsgn_eq_toNat, BitVec.ofInt_add, BitVec.ofInt_toInt, BitVec.ofInt_natCast,
    BitVec.ofNat_toNat, BitVec.setWidth_eq]

/-- What an element of the accumulator holds before an `mmac` (04 R119). -/
def oldLane (w : W64) (c : Core) (i j : Nat) : W32 :=
  if mCLR w = true then 0 else (smapRun 0 c.acc (mACC w * 16384 + i * 128) 128).getD j 0

/-- ... and after it. -/
def newLane (w : W64) (A B : List Byte) (c : Core) (i j : Nat) : W32 :=
  BitVec.ofInt 32 ((oldLane w c i j).toInt + byteDot A B (mK w) i j)

variable {u : Uop} {c : Core}

/-- A row of an i8 `mmac`, as the array computes it. -/
def i8Row (w : W64) (A B : List Byte) (c : Core) (i : Nat) : List (Nat × Fl) :=
  ((accRow c (mACC w) i).zip (List.range 128)).map (fun e =>
    (elemInt (fun k => xvInt (((A.map BitVec.toNat).map (xvOf .i8)).toArray.getD (i * mK w + k) .nan))
      (fun k => xvInt (((B.map BitVec.toNat).map (xvOf .i8)).toArray.getD (k * 128 + e.2) .nan)) 0 (mK w)
      (if mCLR w = true then 0 else e.1), 0))

theorem i8Row_eq (w : W64) (A B : List Byte) (c : Core) (i : Nat) :
    i8Row w A B c i = (List.range 128).map (fun j => ((newLane w A B c i j).toNat, 0)) := by
  rw [i8Row, accRow, zip_range (length_smapRun _ _ _ _), List.map_map]
  refine List.map_congr_left fun j _ => ?_
  have hold : (if mCLR w = true then 0 else ((smapRun 0 c.acc (mACC w * 16384 + i * 128) 128).getD j 0).toNat) = (oldLane w c i j).toNat := by
    rw [oldLane, apply_ite BitVec.toNat]
    rfl
  simp only [Function.comp_apply, xvInt_getD, hold, elemInt_eq]
  rfl

theorem mmacFloat_i8 {w : W64} (hfa : fmAt (mFA w) = .i8) (hfb : fmAt (mFB w) = .i8) : mmacFloat w = false := by
  rw [mmacFloat, hfa, hfb]
  rfl

/-- All steps of an i8 `mmac` without scales: the sums of every row, and no flag (05 R149, R153). -/
theorem mmacRun_i8 {fr : Nat} {A B : List Byte} (hfa : fmAt (mFA u.word) = .i8) (hfb : fmAt (mFB u.word) = .i8)
    (hsma : mSMA u.word = .none) (hsmb : mSMB u.word = .none) (hta : mTA u.word = false) (htb : mTB u.word = false)
    (hundef : mmacUndef u.word 0 c = false)
    (hA : operandCodes c .i8 .none (nthW u.sv 0) (nthW u.sv 1) (128 * mK u.word) = some (A.map BitVec.toNat, []))
    (hB : operandCodes c .i8 .none (nthW u.sv 2) (nthW u.sv 3) (128 * mK u.word) = some (B.map BitVec.toNat, [])) :
    mmacRun u none 0 (mK u.word) fr c = ⟨setMix (mACC u.word) .other (setKind (mACC u.word) true { c with
      acc := smapPut 0 c.acc (mACC u.word * 16384)
        ((List.range 16384).map (fun p => newLane u.word A B c (p / 128) (p % 128))) }), 0, false⟩ := by
  have hfloat := mmacFloat_i8 hfa hfb
  have hrun : mmacRun u none 0 (mK u.word) fr c = ⟨setMix (mACC u.word) .other (setKind (mACC u.word) true
      ((((List.range 128).map (i8Row u.word A B c)).zip (List.range 128)).foldl
        (fun c r => accWrite (mACC u.word) r.2 (r.1.map Prod.fst) c) c)),
      flAll (((List.range 128).map (i8Row u.word A B c)).map (fun r => flAll (r.map Prod.snd))) ||| 0 ||| 0 ||| 0, false⟩ := by
    simp only [mmacRun, hfa, hfb, hsma, hsmb, hA, hB, hfloat, hundef, scaledElems_i8, hta, htb, tileIdx, Nat.sub_zero, decide_true,
      Bool.false_eq_true, Bool.not_false, Bool.and_true, if_true, if_false]
    rfl
  have hflags : flAll (((List.range 128).map (i8Row u.word A B c)).map (fun r => flAll (r.map Prod.snd))) = 0 := by
    refine flAll_zero fun x hx => ?_
    obtain ⟨r, hr, rfl⟩ := List.mem_map.mp hx
    obtain ⟨i, -, rfl⟩ := List.mem_map.mp hr
    refine flAll_zero fun y hy => ?_
    rw [i8Row_eq, List.map_map] at hy
    obtain ⟨j, -, rfl⟩ := List.mem_map.mp hy
    rfl
  have hrows : (((List.range 128).map (i8Row u.word A B c)).zip (List.range 128)).foldl
      (fun c r => accWrite (mACC u.word) r.2 (r.1.map Prod.fst) c) c = { c with
        acc := smapPut 0 c.acc (mACC u.word * 16384)
          ((List.range 16384).map (fun p => newLane u.word A B c (p / 128) (p % 128))) } := by
    rw [← List.map_prod_right_eq_zip, List.foldl_map,
      foldl_accWrite (mACC u.word) (fun i => (i8Row u.word A B c i).map Prod.fst) (by simp [i8Row_eq]) c 127,
      ← flatten_grid (newLane u.word A B c) (b := 128) (by decide) 128]
    simp [i8Row_eq, Function.comp_def]
  rw [hrun, hflags, hrows]
  rfl

/-- Integer products add every step they have done (05 R149). -/
theorem wholeSteps_integer (hf : mmacFloat u.word = false) (k : Nat) : wholeSteps u k = k := by
  rw [wholeSteps, hf, if_neg Bool.false_ne_true]

/-- The sum of an integer product is defined where it starts from zero or adds to an accumulator of kind i32 (04 R119). -/
theorem mmacUndef_integer {w : W64} (hf : mmacFloat w = false) (hch : mSMA w ≠ .ch) (hold : mCLR w = true ∨ accInt c (mACC w) = true) :
    mmacUndef w 0 c = false := by
  rw [mmacUndef, if_pos rfl, hf, decide_eq_false hch, Bool.false_and, Bool.or_false]
  rcases hold with h | h <;> simp [h]

/-- An accumulator's kind reads back. -/
theorem accInt_setKind {a : Nat} (ha : a < 2) (i : Bool) (c : Core) : accInt (setKind a i c) a = i := by
  have hbit : (BitVec.ofNat 2 (2 ^ a)).getLsbD a = true := by
    rw [BitVec.getLsbD_ofNat, Nat.testBit_two_pow_self, Bool.and_true]
    exact decide_eq_true ha
  cases i with
  | true => simp only [accInt, setKind, if_true, BitVec.getLsbD_or, hbit, Bool.or_true]
  | false => simp only [accInt, setKind, Bool.false_eq_true, if_false, BitVec.getLsbD_and, BitVec.getLsbD_not, hbit, Bool.not_true, Bool.and_false]

/-- `setMix` marks the accumulator's products and nothing else. -/
theorem setMix_only (a : Nat) (m : AccMix) (c : Core) : ∃ x y, setMix a m c = { c with mix0 := x, mix1 := y } := by
  unfold setMix
  split_ifs
  · exact ⟨_, _, rfl⟩
  · exact ⟨_, _, rfl⟩

variable {s : State} {n : Nat} {h : Head} {f : FmtM}

/-- The operands of an i8 `mmac` without transposition, scales or press, as the array reads them (04 R117). -/
theorem mmacComplete_next (hn : n < 100) (hon : coreOn s n = true) (ha : (getCore s n).array = some u) (hw : u.word = wordM .mmac h f)
    (hdone : u.done = 0) (hfa : f.fa = 8) (hfb : f.fb = 8) (hsma : f.sma = 0) (hsmb : f.smb = 0) (hta : f.ta = 0) (htb : f.tb = 0)
    (hpr : f.pr = 0) (hold : f.clr = 1 ∨ accInt (getCore s n) f.acc.toNat = true)
    (hpa : spadParity (getCore s n) (nthW u.sv 0) (128 * f.k.toNat) = false)
    (hpb : spadParity (getCore s n) (nthW u.sv 2) (128 * f.k.toNat) = false) :
    Goes (.instrComplete n .array) s (setCore n (addFlags 0 (releaseSeq u.seq (clearPipe .array
      (setMix f.acc.toNat .other (setKind f.acc.toNat true { getCore s n with
        acc := smapPut 0 (getCore s n).acc (f.acc.toNat * 16384) ((List.range 16384).map (fun p => newLane (wordM .mmac h f)
          (spadBytes (getCore s n) (nthW u.sv 0) (128 * f.k.toNat)) (spadBytes (getCore s n) (nthW u.sv 2) (128 * f.k.toNat))
          (getCore s n) (p / 128) (p % 128))) }))))) s) := by
  have hK : mK u.word = f.k.toNat := by rw [hw, wordM_k]
  have hA : mACC u.word = f.acc.toNat := by rw [hw, wordM_acc]
  have hFA : fmAt (mFA u.word) = .i8 := by rw [hw, wordM_fa, hfa]; rfl
  have hFB : fmAt (mFB u.word) = .i8 := by rw [hw, wordM_fb, hfb]; rfl
  have hSMA : mSMA u.word = .none := by rw [hw, mSMA, wordM_sma, hsma]; rfl
  have hSMB : mSMB u.word = .none := by rw [hw, mSMB, wordM_smb, hsmb]; rfl
  have hTA : mTA u.word = false := by rw [hw, wordM_ta, hta]; rfl
  have hTB : mTB u.word = false := by rw [hw, wordM_tb, htb]; rfl
  have hPR : mPR u.word = false := by rw [hw, wordM_pr, hpr]; rfl
  have hint := mmacFloat_i8 hFA hFB
  have hundef : mmacUndef u.word 0 (getCore s n) = false := by
    refine mmacUndef_integer hint (by rw [hSMA]; decide) ?_
    rw [hA, hw, wordM_clr, decide_eq_true_eq]
    exact hold
  have hrun := mmacRun_i8 (fr := s.free) hFA hFB hSMA hSMB hTA hTB hundef (by rw [hK]; exact operandCodes_i8 _ hpa)
    (by rw [hK]; exact operandCodes_i8 _ hpb)
  rw [hA] at hrun
  refine pipeComplete_next (o := .mmac) hn hon ha (by rw [hw, wordM_op]) (by rw [isPressed, hPR, Bool.and_false]) (by decide) ?_
    (fun _ => rfl) ?_
  · rw [wholeSteps_integer hint, hdone, hundef, Bool.and_false]
  · rw [runUop, unitsOf, wholeSteps_integer hint, wholeSteps_integer hint, hdone, hrun, hw]

/-- `mzero` completes with its accumulator cleared (04 R121). -/
theorem mzeroComplete_next (hn : n < 100) (hon : coreOn s n = true) (hp : (getCore s n).port = some u) (hw : u.word = wordM .mzero h f) :
    Goes (.instrComplete n .port) s (setCore n (addFlags 0 (releaseSeq u.seq (clearPipe .port
      (setMix f.acc.toNat .fresh (setKind f.acc.toNat false { getCore s n with
        acc := smapClear (getCore s n).acc (f.acc.toNat * 16384) (f.acc.toNat * 16384 + 16384) }))))) s) := by
  have hop : wordOp u.word = some .mzero := by rw [hw, wordM_op]
  refine pipeComplete_next hn hon hp hop (isPressed_of_ne_mmac hop (by decide)) (by decide) (by rw [decide_eq_false (by decide), Bool.false_and])
    (fun _ => rfl) ?_
  rw [runUop, zeroAcc, hw, wordM_acc]

/-- What the statement says an element holds before and after. -/
theorem newLane_wordM (A B : List Byte) (c : Core) (i j : Nat) : newLane (wordM .mmac h f) A B c i j =
    BitVec.ofInt 32 ((if f.clr = 1 then 0 else ((smapRun 0 c.acc (f.acc.toNat * 16384 + i * 128) 128).getD j 0).toInt)
      + byteDot A B f.k.toNat i j) := by
  have hold : (oldLane (wordM .mmac h f) c i j).toInt
      = if f.clr = 1 then 0 else ((smapRun 0 c.acc (f.acc.toNat * 16384 + i * 128) 128).getD j 0).toInt := by
    simp only [oldLane, wordM_clr, wordM_acc, decide_eq_true_eq, apply_ite BitVec.toInt]
    rfl
  rw [newLane, hold, wordM_k]

/-- The core that a matrix instruction leaves: its accumulator's run and kind, its pipe empty, its ranges released, the rest as it was. -/
theorem matrixDone_fields {p : Pipe} (hp : p ≠ .vector) (a : BitVec 1) (mix : AccMix) (int : Bool) (run : SMap W32) (seq : Nat) (c c' : Core)
    (hc : c' = addFlags 0 (releaseSeq seq (clearPipe p (setMix a.toNat mix (setKind a.toNat int { c with acc := run }))))) :
    c'.acc = run ∧ accInt c' a.toNat = int ∧ pipeUop p c' = none ∧ c'.trk = c.trk.filter (fun e => e.seq ≠ seq) ∧ c'.sreg = c.sreg
      ∧ c'.mreg = c.mreg ∧ c'.tile = c.tile ∧ c'.spad = c.spad ∧ c'.asr = c.asr ∧ c'.pc = c.pc := by
  obtain ⟨x, y, hmix⟩ := setMix_only a.toNat mix (setKind a.toNat int { c with acc := run })
  rw [hmix] at hc
  have hkind := accInt_setKind a.isLt int { c with acc := run }
  subst hc
  cases p with
  | vector => exact absurd rfl hp
  | array => exact ⟨rfl, hkind, rfl, rfl, rfl, rfl, rfl, rfl, asrSet_zero c.asr, rfl⟩
  | port => exact ⟨rfl, hkind, rfl, rfl, rfl, rfl, rfl, rfl, asrSet_zero c.asr, rfl⟩

end Product

/-- Settles O20: the array's sums are those of `newLane`, and `mzero` clears its run; both leave the rest of the core. -/
theorem integerMatrixProduct : Obligations.IntegerMatrixProduct := by
  refine ⟨?_, ?_⟩
  · intro s n h f u c a b k base old dot hn hon _ harr hw hdone hfa hfb hsma hsmb hta htb hpr hold hpa hpb
    have hgo := mmacComplete_next hn hon harr hw hdone hfa hfb hsma hsmb hta htb hpr hold hpa hpb
    simp only [newLane_wordM] at hgo
    exact ⟨_, hgo, _, rfl, matrixDone_fields (by decide) f.acc _ _ _ _ _ _ rfl⟩
  · intro s n h f u hn hon _ hp hw
    obtain ⟨hacc, hkind, hport, htrk, hsreg, -, htile, hspad, hasr, -⟩ := matrixDone_fields (p := .port) (by decide) f.acc .fresh false
      (smapClear (getCore s n).acc (f.acc.toNat * 16384) (f.acc.toNat * 16384 + 16384)) u.seq (getCore s n) _ rfl
    exact ⟨_, mzeroComplete_next hn hon hp hw, _, rfl, hacc, hkind, hport, htrk, hsreg, htile, hspad, hasr⟩

end Sys2Proof.Proofs

/-! Proofs for the family 06_mangle: the block decoder. -/

namespace Sys2Proof.Proofs

open Sys2Proof Sys2Proof.Machine Sys2Proof.Claims Sys2Proof.Laws

/-! ### One block of a stream -/

section Decoding

variable {c : Core} {hd blk : List Byte} {ws : List (BitVec 16)}

/-- The bytes from a header `hd` on hold a well-formed block `blk` of the weights `ws` (06 R166, R173). -/
def SoundBlock (bytes : Nat → Option (List Byte)) (table : List Byte) (word : W64) (hd blk : List Byte) (ws : List (BitVec 16)) : Prop :=
  bytes 8 = some hd ∧ rdN hd 0 1 ≤ clenMax (pressFmt word) ∧ bytes (8 + planeLen (pressFmt word) + rdN hd 0 1) = some blk ∧
    blockWeights table (pressFmt word) blk = some ws

/-- The decoder past a block that ends at `a` (06 R173, R175). -/
def pastBlock (c : Core) (a : Nat) (ws : List (BitVec 16)) : Mangle :=
  { c.mangle with
    addr := a, last := lastGranule c a, index := c.mangle.index + 1, queue := c.mangle.queue ++ [(c.mangle.seq, ws)] }

/-- The decoder with its stream over: idle, but for what the array and the event still need (06 R180). -/
def streamOver (m : Mangle) : Mangle := { m with table := [], word := 0, addr := 0, index := 0, dead := false, last := [] }

/-- A well-formed block that is not the last: the core differs in the decoder alone. -/
theorem decodeBlock_next (hdead : c.mangle.dead = false) (hb : SoundBlock (streamBytes c) c.mangle.table c.mangle.word hd blk ws)
    (hmore : 2 * (c.mangle.index + 1) ≠ mK c.mangle.word) :
    decodeBlock c =
      some ({ c with mangle := pastBlock c (c.mangle.addr + (8 + planeLen (pressFmt c.mangle.word) + rdN hd 0 1)) ws }, false) := by
  obtain ⟨hhead, hlen, hblk, hws⟩ := hb
  simp only [decodeBlock, pastBlock, hdead, hhead, Nat.not_lt.mpr hlen, hblk, hws, hmore, decide_false, Bool.or_self, Bool.false_eq_true,
    if_false]

/-- The last block of a stream: its B range is released and the decoder is idle (04 R136). -/
theorem decodeBlock_last (hdead : c.mangle.dead = false) (hb : SoundBlock (streamBytes c) c.mangle.table c.mangle.word hd blk ws)
    (hlast : 2 * (c.mangle.index + 1) = mK c.mangle.word) :
    decodeBlock c = some ({ releaseRange c.mangle.seq 1 false c with
      mangle := streamOver (pastBlock c (c.mangle.addr + (8 + planeLen (pressFmt c.mangle.word) + rdN hd 0 1)) ws) }, false) := by
  obtain ⟨hhead, hlen, hblk, hws⟩ := hb
  simp only [decodeBlock, pastBlock, streamOver, hdead, hhead, Nat.not_lt.mpr hlen, hblk, hws, hlast, decide_true, Bool.or_true,
    Bool.false_eq_true, if_true, if_false]

end Decoding

/-! ### The stream that the decoder reads -/

section Streams

variable {s : State} {n : Nat} {c c₁ c₂ : Core} {u : Uop}

/-- `c₁` is the core whose stream the decoder reads on: `c` within a stream, or `c` with the stream of its next pressed `mmac` begun
(06 R176). -/
def Reads (c c₁ : Core) : Prop :=
  (c.mangle.word ≠ 0 ∧ c₁ = c) ∨ (c.mangle.word = 0 ∧ ∃ u, nextPressed c = some u ∧ pressReady c u = true ∧ beginStream u c = some c₁)

/-- An empty array takes no decoded row. -/
theorem settle_array_none (ha : c.array = none) : settle n c s = { setCore n c s with free := s.free + 32768 } := by
  have htake : mangleTake s.free 64 c = (c, false) := by simp only [mangleTake, ha]
  simp only [settle, htake, ha]
  rfl

/-- A well-formed block is decoded beside an empty array: no event, and no `mmac` ends. -/
theorem mangleBlockDecode_next (hn : n < 100) (hon : coreOn s n = true) (hq : (getCore s n).mangle.queue.length < 32)
    (hr : Reads (getCore s n) c₁) (hdec : decodeBlock c₁ = some (c₂, false)) (ha : c₂.array = none) :
    Goes (.mangleBlockDecode n) s { setCore n c₂ s with free := s.free + 32768 } := by
  have hgo : ¬ (32 ≤ (getCore s n).mangle.queue.length ∨ ¬ coreOn s n = true) := by simp [hq, hon]
  rw [← settle_array_none ha]
  obtain ⟨hw, rfl⟩ | ⟨hw, u, hu, hready, hbegin⟩ := hr
  · simp only [Goes, exec, execMangleBlockDecode, unitRes, hn, decide_true, if_true, if_neg hgo, ne_eq, hw, not_false_eq_true, hdec,
      Bool.or_false, Bool.false_and, Bool.false_eq_true, if_false]
  · simp only [Goes, exec, execMangleBlockDecode, unitRes, hn, decide_true, if_true, if_neg hgo, ne_eq, hw, not_true_eq_false, hu, hready,
      hbegin, hdec, Bool.or_false, Bool.false_and, Bool.false_eq_true, if_false]

/-- With the array empty, a pressed `mmac` at the head of the matrix queue whose stream has not begun is the next to be decoded. -/
theorem nextPressed_head {rest : List Uop} (ha : c.array = none) (hmq : c.mq = u :: rest) (hop : uopOp u = .mmac)
    (hpress : isPressed u = true) (hseq : c.mangle.begun ≤ u.seq) : nextPressed c = some u := by
  simp [nextPressed, ha, hmq, hop, hpress, hseq]

/-- The core with the stream of `u` begun (06 R176): the table read and its range released. -/
def begunWith (u : Uop) (table : List Byte) (c : Core) : Core :=
  { releaseRange u.seq 1 true c with mangle := { c.mangle with
      table := table, word := u.word, seq := u.seq, addr := sAddr c (mSB u.word), index := 0, dead := false, told := false,
      begun := u.seq + 1, last := [] } }

/-- A stream whose addresses are read from the s-registers, its table valid, is begun. -/
theorem beginStream_valid {table : List Byte} (hsv : u.sv = []) (htab : opnd c (sAddr c (mSB u.word + 1)) 64 = some table)
    (hvalid : tblValid table (pressFmt u.word) = true) : beginStream u c = some (begunWith u table c) := by
  simp only [beginStream, pressAddrs, hsv, List.isEmpty_nil, if_true, htab, Option.map_some, hvalid, Bool.not_true, begunWith]

/-- At the start of a stream no granule is kept: its bytes are those at the address of operand B. -/
theorem streamBytes_begunWith (u : Uop) (table : List Byte) (c : Core) : streamBytes (begunWith u table c) = opnd c (sAddr c (mSB u.word)) := by
  funext k
  exact Option.map_id' ..

/-- ... and the granule in which the next block begins is read from the scratchpad. -/
theorem lastGranule_begunWith (u : Uop) (table : List Byte) (c : Core) (a : Nat) :
    lastGranule (begunWith u table c) a = if a % 32 = 0 then [] else spadBytes c (a / 32 * 32) 32 := by
  have hnone : (a / 32 = (begunWith u table c).mangle.addr / 32 && (begunWith u table c).mangle.last.length = 32) = false :=
    Bool.and_false _
  rw [lastGranule, hnone]
  rfl

end Streams

/-- Settles O21: a block of the stream that is read, its last block, or the first of the pressed `mmac` at the head of the queue. -/
theorem mangleDecodesABlock : Obligations.MangleDecodesABlock := by
  intro s n hd blk ws c res block next hn hon _ ha hq
  refine ⟨fun hw hdead hb => ⟨fun hmore => ?_, fun hlast => ?_⟩, ?_⟩
  · exact mangleBlockDecode_next hn hon hq (.inl ⟨hw, rfl⟩) (decodeBlock_next hdead hb hmore) ha
  · exact mangleBlockDecode_next hn hon hq (.inl ⟨hw, rfl⟩) (decodeBlock_last hdead hb hlast) ha
  · intro u rest table hw hmq hop hpress hseq hsv hready htab hvalid hb hK _ nx
    have hbegins : Reads c (begunWith u table c) :=
      .inr ⟨hw, u, nextPressed_head ha hmq hop hpress hseq, hready, beginStream_valid hsv htab hvalid⟩
    have hsound : SoundBlock (streamBytes (begunWith u table c)) table u.word hd blk ws := by
      rw [streamBytes_begunWith]
      exact hb
    have hgoes := mangleBlockDecode_next hn hon hq hbegins (decodeBlock_next rfl hsound (Ne.symm hK)) ha
    rw [pastBlock, lastGranule_begunWith] at hgoes
    exact hgoes

end Sys2Proof.Proofs

/-! Proofs for the family 08_scratchpad_dma: descriptors that complete, routing requests, and descriptors that move. -/

namespace Sys2Proof.Proofs

open Sys2Proof Sys2Proof.Machine Sys2Proof.Claims Sys2Proof.Laws

/-! ### Descriptors that complete -/

section Completion

variable {s : State} {n : Nat} {d : Desc}

/-- The channels take no turn once the core is where they are to stop. -/
theorem turns_stopped {stop : Core → Bool} (hstop : stop (getCore s n) = true) (tgt : Nat × Nat) (fl : Flips) (f : Nat) (waits : List Nat) :
    turns n tgt fl stop f waits s = s := by
  cases f with
  | zero => rfl
  | succ f => rw [turns, if_pos hstop]

/-- A descriptor that is complete has no turn left. -/
theorem descStops_complete {c : Core} (hf : c.descs.find? (fun x => decide (x.seq = d.seq) && decide (x.sub = d.sub)) = some d)
    (hd : d.st = .complete) : descStops d.seq d.sub c = true := by
  simp only [descStops, hf, hd]

/-- Where no slice holds an access of a descriptor, it leaves no queue. -/
theorem leaveAll_absent {who : Nat × Nat × Nat} (hq : ∀ e ∈ s.bonded.slices, who ∉ e.2.heldQ) : leaveAll who s = s := by
  refine if_neg fun hany => ?_
  obtain ⟨e, he, hwho⟩ := List.any_eq_true.mp hany
  exact hq e he (List.contains_iff_mem.mp hwho)

/-- A core without a descriptor and its ranges (08 R226). -/
def withoutDesc (seq sub : Nat) (c : Core) : Core := { c with
  descs := c.descs.filter (fun x => ¬ (x.seq = seq ∧ x.sub = sub))
  trk := c.trk.filter (fun e => ¬ (e.seq = seq ∧ e.sub = sub)) }

/-- A descriptor that no slice holds is dropped from its core and from what waits for tokens, and nothing else changes. -/
theorem dropDesc_unheld (hwf : smapWf Core.reset s.cores = true) {seq sub : Nat}
    (hq : ∀ e ∈ s.bonded.slices, (n, seq, sub) ∉ e.2.heldQ) : dropDesc n seq sub s = { coreNow n (withoutDesc seq sub) s with
      waiters := s.waiters.filter (fun w => ¬ (w.core = n ∧ w.seq = seq ∧ w.sub = sub)) } := by
  simp only [dropDesc, releaseDesc, modCore_eq, coreNow_coreNow hwf]
  rw [leaveAll_absent]
  · rfl
  · exact hq

/-- A signal of 1, in the words of the statements. -/
theorem semAdd_one (n sem : Nat) (s : State) : semAdd n sem 1 s = signalled n sem (· + 1) s := rfl

/-- A descriptor with SEMEN that names its own core adds 1 to the semaphore there, while the tick runs (08 R220). -/
theorem semenSignal_own {j : CoreJob} (hj : (getCore s n).job = some j) (hrun : j.st = .running) (hphase : s.tick.phase = .run)
    (hcore : dSEMEN d.words = false ∨ dSCORE d.words = 127) :
    semenSignal n d s = if dSEMEN d.words then signalled n (dSEM d.words) (· + 1) s else s := by
  cases hsem : dSEMEN d.words with
  | false => simp only [semenSignal, hsem, Bool.not_false, if_true, Bool.false_eq_true, if_false]
  | true =>
    have h127 : dSCORE d.words = 127 := hcore.resolve_left (by simp [hsem])
    have hpart : partOfCore s n = j.part := by simp only [partOfCore, hj]
    simp [semenSignal, semSignal, hsem, h127, hj, hpart, hrun, hphase, semAdd_one]

/-- Completion is the drop and the signal (08 R220). -/
theorem completeDesc_eq (hf : (getCore s n).descs.find? (fun x => decide (x.seq = d.seq) && decide (x.sub = d.sub)) = some d)
    (hd : d.st = .complete) : completeDesc n d.seq d.sub s = semenSignal n d (dropDesc n d.seq d.sub s) := by
  simp only [completeDesc, hf, hd, if_true]

/-- DMA_DESCRIPTOR_COMPLETE for a descriptor that has made its last access is its completion alone. -/
theorem descriptorComplete_next {slot : Nat} (hn : n < 100) (hslot : (getCore s n).descs[slot]? = some d) (hd : d.st = .complete)
    (hf : (getCore s n).descs.find? (fun x => decide (x.seq = d.seq) && decide (x.sub = d.sub)) = some d) :
    Goes (.dmaDescriptorComplete n ⟨slot, []⟩) s (semenSignal n d (dropDesc n d.seq d.sub s)) := by
  simp only [Goes, exec, execDmaDescriptorComplete, unitRes, hn, hslot, decide_true, if_true, turns_stopped (descStops_complete hf hd),
    ite_self, completeDesc_eq hf hd]

end Completion

/-- Settles O38: the descriptor is dropped, and its signal goes to the semaphore of its own core. -/
theorem descriptorCompletes : Obligations.DescriptorCompletes := by
  intro s n slot d j hn hslot hd hf hj hrun hphase hwf hq hcore t
  have hdrop : dropDesc n d.seq d.sub s = t := dropDesc_unheld hwf hq
  have hjob : (getCore t n).job = some j :=
    (congrArg Core.job (getCore_coreNow_same hwf n (withoutDesc d.seq d.sub))).trans hj
  have hgoes := descriptorComplete_next hn hslot hd hf
  rwa [hdrop, semenSignal_own hjob hrun hphase hcore] at hgoes

/-! ### Routing requests at issue -/

section Requests

variable {s : State} {n : Nat} {o : Op} {h : Head} {f : FmtY}

/-- The instructions that hand a record to the belfry. -/
def IsRequest (o : Op) : Prop := o = .rdisp ∨ o = .rcomb

/-- The length of the record at an address: its header, and the tokens that the header of a dispatch counts (12 R317, R332). -/
def recordLen (o : Op) (c : Core) (a : Nat) : Nat := 64 + 64 * (if o = .rdisp then bits (leNat (spadBytes c a 8)) 31 16 else 0)

/-- A range of whole 64-byte units in S-space is whole granules already (08 R224). -/
theorem sRange_units {a k : Nat} (ha : a % 64 = 0) (hk : k % 64 = 0) (hpos : 0 < k) (hin : a + k ≤ 0x60000) :
    sRange false a k 64 = some ⟨false, 0, a, a + k - 1⟩ := by
  rw [sRange_some false ha hin]
  congr 2 <;> omega

/-- A ready `rdisp` or `rcomb` is `doRequest`. -/
theorem issue_request (ho : IsRequest o) (hr : seqReady s n o (wordY o h f) = true) :
    issue n o (wordY o h f) 0 s = .next (doRequest n o (wordY o h f) s) := by
  obtain ⟨hi, hfree⟩ := effect_free 0 hr
  rw [hi]
  rcases ho with rfl | rfl
  all_goals
    simp only [effect, hfree, Bool.false_eq_true, if_false]
    rfl

/-- A record that no range in flight conflicts with is registered and waits at the belfry (08 R227; log 71). -/
theorem doRequest_free (ho : IsRequest o) {a k : Nat} (haddr : (sRead (getCore s n) f.sv.toNat).toNat = a)
    (hlen : recordLen o (getCore s n) a = k) (ha : a % 64 = 0) (hin : a + k ≤ 0x60000)
    (hhead : trkHit (getCore s n) (some ⟨false, 0, a, a + 63⟩) = false)
    (hrec : trkHit (getCore s n) (some ⟨false, 0, a, a + k - 1⟩) = false) (hroom : (getCore s n).trk.length < 48) :
    doRequest n o (wordY o h f) s = past n 8 (fun c => { c with
      trk := c.trk ++ [{ seq := c.nseq, sub := 0, r1 := some ⟨false, 0, a, a + k - 1⟩, r2 := none }]
      hands := c.hands ++ [{ seq := c.nseq, pc := c.pc, comb := decide (o = .rcomb), sem := f.sem.toNat, addr := a, len := k,
                             at' := s.clk }] }) s := by
  have hunits : k % 64 = 0 ∧ 64 ≤ k := by rw [← hlen, recordLen]; omega
  have hfull : ¬ trkSize ≤ (getCore s n).trk.length := Nat.not_le.mpr hroom
  unfold recordLen at hlen
  rw [doRequest]
  -- two steps: with the ranges rewritten together with the address, the kernel counts `a + 64` up to the end of S-space
  simp only [wordY_sv, wordY_sem, haddr, hlen]
  simp only [sRange_units ha rfl (by omega) (show a + 64 ≤ 0x60000 by omega), sRange_units ha hunits.1 (by omega) hin,
    show a + 64 - 1 = a + 63 by omega, hhead, hrec, hfull, decide_false, Bool.or_self, Bool.false_eq_true, if_false]
  exact issued_next_word (by rcases ho with rfl | rfl <;> decide) _

end Requests

/-! ### Bytes of a record -/

/-- The first values of a run are the shorter run. -/
theorem take_smapWalk {α : Type} (d : α) : ∀ (m : SMap α) (a k len : Nat), k ≤ len → (smapWalk d m a len).take k = smapWalk d m a k
  | _, _, 0, _, _ => by simp [smapWalk]
  | [], a, k + 1, len + 1, hk => by
    rw [smapWalk, smapWalk, List.take_succ_cons, take_smapWalk d [] (a + 1) k len (by omega)]
  | (key, v) :: t, a, k + 1, len + 1, hk => by
    have hk : k ≤ len := by omega
    rw [smapWalk, smapWalk]
    split_ifs <;> rw [List.take_succ_cons, take_smapWalk d _ (a + 1) k len hk]

/-- The header of a record is its first eight bytes. -/
theorem rdN_spadBytes (c : Core) (a : Nat) {len : Nat} (hlen : 8 ≤ len) : rdN (spadBytes c a len) 0 8 = leNat (spadBytes c a 8) :=
  congrArg leNat (take_smapWalk 0 _ a 8 len hlen)

/-! ### The belfry reads a record -/

section Belfry

variable {s : State} {n : Nat}

/-- The event of a bad candidate, raised or not, changes the events alone. -/
theorem routeReqEv_only (b : Bool) (i : Nat) (part : Option Nat) (arg : Nat) (s : State) :
    ∃ e, (if b then routeReqEv i part arg s else s) = { s with events := e } := by
  cases b with
  | false => exact ⟨s.events, rfl⟩
  | true => exact raise_only s 9 i part 0x6001 arg

/-- With no injection armed no request expires at once (20 R542). -/
theorem routeExpire_unarmed (harm : s.test.arm = false) : routeExpire n s = s := by
  have htmo : tmoInj s 4 1 n = false := by simp [tmoInj, harm]
  unfold routeExpire
  split
  · rw [htmo, Bool.and_false, if_neg Bool.false_ne_true]
  · rfl

/-- A layer put in place of one with its index is found there. -/
theorem layerAt_setLayer {i : Nat} {l l' : Layer} (hl : layerAt s i = some l) (hi : l'.index = l.index) :
    layerAt (setLayer l' s) i = some l' := by
  have hkeep : (fun x : Layer => decide (x.index = i)) ∘ (fun x => if x.index = l'.index then l' else x) = fun x => decide (x.index = i) := by
    funext x
    simp only [Function.comp_apply]
    split_ifs with hx
    · rw [hx]
    · rfl
  have hfind : s.layers.find? (fun x => decide (x.index = i)) = some l := hl
  rw [layerAt, setLayer, List.find?_map, hkeep, hfind, Option.map_some, if_pos hi.symm]

/-- A core whose record has been read: its range is released (08 R227). -/
def handRead (x : HandOff) (c : Core) : Core := { c with
  trk := c.trk.filter (fun e => e.seq ≠ x.seq)
  hands := c.hands.filter (fun y => y.seq ≠ x.seq) }

/-- The request that a record makes (12 R317, R332). -/
def requestOf (n : Nat) (j : CoreJob) (x : HandOff) (layer kind exp : Nat) : RouteReq :=
  { core := n, jobid := j.jobid, part := j.part, seq := x.seq, pc := x.pc, sem := x.sem, layer := layer, kind := kind, exp := exp,
    issued := x.at', heldFor := 0, srcs := [], got := [], begun := [] }

variable {j : CoreJob} {x : HandOff} {l : Layer}

/-- A record of good parity is read: a dispatch or a combine request is taken (12 R317, R332). -/
theorem readHand_sound (hj : (getCore s n).job = some j) (hp : spadParity (getCore s n) x.addr x.len = false) :
    readHand n s x = (if x.comb then takeCombine n j x.seq x.pc x.sem x.at' (spadBytes (getCore s n) x.addr x.len)
        (coreNow n (handRead x) s)
      else takeDispatch n j x.seq x.pc x.sem x.at' (spadBytes (getCore s n) x.addr x.len) (coreNow n (handRead x) s)) := by
  simp only [readHand]
  generalize hu : setCore n _ s = u
  obtain rfl : coreNow n (handRead x) s = u := hu
  simp only [hj, opnd, hp, Bool.false_eq_true, if_false]

variable {req : List Byte} {hd : Nat}

/-- A good dispatch request is pending, and its layer holds its number and tokens (12 R319, R321, R322). -/
theorem takeDispatch_good (hhd : rdN req 0 8 = hd) (hl : layerAt s (bits hd 15 0) = some l) (hopen : l.st = .open) (hpart : l.part = j.part)
    (hpos : 0 < bits hd 31 16) (hmax : bits hd 31 16 ≤ 4096) (hno : bits hd 47 32 < l.nreq) (hnew : l.reqs.contains (bits hd 47 32) = false)
    (harm : s.test.arm = false) : ∃ l' e, l'.index = l.index ∧ l'.reqs = l.reqs ++ [bits hd 47 32] ∧
      l'.tokens.length = l.tokens.length + bits hd 31 16 ∧ takeDispatch n j x.seq x.pc x.sem x.at' req s =
        { setLayer l' s with routes := s.routes ++ [requestOf n j x (bits hd 15 0) 0 0], events := e } := by
  have hlive : l.st ≠ .disabled := by rw [hopen]; decide
  have hgood : ¬ (l.part ≠ j.part ∨ bits hd 31 16 = 0 ∨ 4096 < bits hd 31 16 ∨ l.nreq ≤ bits hd 47 32 ∨
      l.reqs.contains (bits hd 47 32) = true) := by
    rintro (h | h | h | h | h)
    · exact h hpart
    · omega
    · omega
    · omega
    · exact Bool.false_ne_true (hnew.symm.trans h)
  rw [takeDispatch]
  simp only [hhd, hl, hlive, hgood, if_false]
  generalize hu : ({ setLayer _ s with routes := _ } : State) = u
  obtain ⟨e, he⟩ := routeReqEv_only _ (bits hd 15 0) (some j.part) (bits hd 47 32) u
  rw [he, routeExpire_unarmed (by subst hu; exact harm), ← hu]
  refine ⟨_, e, ?_, ?_, ?_, rfl⟩
  · rfl
  · rfl
  · simp

/-- A good collect is pending (12 R332). -/
theorem takeCombine_collect (hhd : rdN req 0 8 = hd) (hl : layerAt s (bits hd 15 0) = some l) (hopen : l.st = .open) (hpart : l.part = j.part)
    (hkind : bits hd 33 32 = 0) (harm : s.test.arm = false) : takeCombine n j x.seq x.pc x.sem x.at' req s =
      { s with routes := s.routes ++ [requestOf n j x (bits hd 15 0) 1 (bits hd 31 16)] } := by
  have hlive : l.st ≠ .disabled := by rw [hopen]; decide
  have hgood : ¬ (l.part ≠ j.part ∨ 2 ≤ 0) := by simp [hpart]
  rw [takeCombine]
  simp only [hhd, hl, hkind, hlive, hgood, if_false, if_true]
  exact routeExpire_unarmed harm

/-- ISSUE_STALL_END on a core that waits for nothing has the belfry read the record handed to it (log 71). -/
theorem issueStallEnd_reads {t : State} (hn : n < 100) (hands : (getCore s n).hands = [x]) (ht : readHand n s x = t)
    (hhold : (getCore t n).hold = .none) : Goes (.issueStallEnd n) s t := by
  have hread : readHands n s = t := by rw [readHands, hands, List.foldl_cons, List.foldl_nil, ht]
  simp only [Goes, exec, execIssueStallEnd, hread, unitRes, hn, hhold, decide_true, if_true]

/-- A core whose only record has been read. -/
theorem handRead_last {c : Core} (hands : c.hands = [x]) : (handRead x c).hands = [] := by
  simp [handRead, hands]

end Belfry

/-- Settles O42: both requests issue as `doRequest_free` says; the belfry takes a good one as `takeDispatch_good` and
`takeCombine_collect` say. -/
theorem routingRequests : Obligations.RoutingRequests := by
  intro s n h f j l x c a ntok free waits
  refine ⟨fun hr hfree => ?_, fun hr hfree => ?_, ?_⟩
  · obtain ⟨ha, hin, hhead, hrec, hroom⟩ := hfree
    exact (issue_request (.inl rfl) hr).trans (congrArg _ (doRequest_free (.inl rfl) rfl rfl ha hin hhead hrec hroom))
  · obtain ⟨ha, hin, hhead, hrec, hroom⟩ := hfree
    exact (issue_request (.inr rfl) hr).trans (congrArg _ (doRequest_free (.inr rfl) rfl rfl ha hin hhead hrec hroom))
  · intro hd r hn hands hhold hj hp harm hwf hl hopen hpart read
    have hcore : ∀ t : State, t.cores = (coreNow n (handRead x) s).cores → getCore t n = handRead x c := fun t ht =>
      (congrArg (fun m => smapGet Core.reset m n) ht).trans (getCore_coreNow_same hwf n (handRead x))
    have hread : ∀ t : State, t.cores = (coreNow n (handRead x) s).cores → read t := fun t ht => by
      simp only [read, hcore t ht]
      exact ⟨handRead_last hands, rfl, rfl⟩
    refine ⟨fun hcomb hlen hpos hmax hno hnew => ?_, fun hcomb hlen hkind => ?_⟩
    · have hhd : rdN (spadBytes c x.addr x.len) 0 8 = hd := rdN_spadBytes c x.addr (by omega)
      obtain ⟨l', e, hidx, hreqs, htoks, htake⟩ := takeDispatch_good (s := coreNow n (handRead x) s) (n := n) (x := x) hhd hl hopen hpart
        hpos hmax hno hnew harm
      have hgo := readHand_sound hj hp
      rw [hcomb, if_neg Bool.false_ne_true, htake] at hgo
      refine ⟨_, l', issueStallEnd_reads hn hands hgo ?_, ?_, rfl, layerAt_setLayer hl hidx, hreqs, htoks⟩
      · exact (congrArg Core.hold (hcore _ rfl)).trans hhold
      · exact hread _ rfl
    · have hhd : rdN (spadBytes c x.addr x.len) 0 8 = hd := rdN_spadBytes c x.addr (by omega)
      have hgo := readHand_sound hj hp
      rw [hcomb, if_pos rfl, takeCombine_collect (s := coreNow n (handRead x) s) hhd hl hopen hpart hkind harm] at hgo
      refine ⟨_, issueStallEnd_reads hn hands hgo ?_, ?_, rfl, rfl⟩
      · exact (congrArg Core.hold (hcore _ rfl)).trans hhold
      · exact hread _ rfl

/-! ### The piece of a descriptor within one granule -/

/-- A word of a descriptor has 64 bits. -/
theorem dW_lt (w : List W64) (k : Nat) : dW w k < 2 ^ 64 := (w.getD k 0).isLt

/-- An address is itself modulo 2^64. -/
theorem unsgn_ofNat {k : Nat} (hk : k < 2 ^ 64) : unsgn 64 (k : Int) = k := by
  unfold unsgn
  omega

/-- The first piece begins at SRC and DST and ends with the run or the destination granule (08 R218). -/
theorem pieceAt_zero (w : List W64) : pieceAt w 0 = (dSRC w, dDST w, min (32 - dDST w % 32) (dLEN w), dLEN w) := by
  have hsrc : dSRC w < 2 ^ 64 := dW_lt w 1
  have hdst : dDST w < 2 ^ 64 := dW_lt w 2
  simp only [pieceAt, byteAt, dSrcRun, dDstRun, Nat.zero_div, Nat.zero_mod, Nat.cast_zero, zero_mul, add_zero, unsgn_ofNat hsrc,
    unsgn_ofNat hdst, Nat.mod_eq_of_lt hsrc, Nat.mod_eq_of_lt hdst, Nat.sub_zero]

/-- Bytes within one granule lie in it alone (09 R237). -/
theorem granules_one {a k : Nat} (hk : 0 < k) (ha : a % 32 + k ≤ 32) : granules a k = [gran32 a] := by
  have hlast : (a + k - 1) / 32 - a / 32 + 1 = 1 := by omega
  rw [granules, if_neg (by omega), hlast]
  simp [gran32]

/-- ... and are one piece. -/
theorem granPieces_one {a k : Nat} (hk : 0 < k) (ha : a % 32 + k ≤ 32) : granPieces a k = [(a, k)] := by
  rw [granPieces, granules_one hk ha]
  simp only [List.map_cons, List.map_nil, gran32]
  congr 2 <;> omega

/-- All of them are fetched where none is held yet. -/
theorem fetchPart_all {a k : Nat} (hk : 0 < k) : fetchPart a k k 0 = (a, k) := by
  rw [fetchPart, if_neg (by omega)]
  congr 1
  omega

/-! ### What a turn leaves as it was -/

section Turn

variable {s : State} {n : Nat} {d : Desc}

/-- A state with other tokens and other slices, none of them in another state: what admission and the slices' queues may change. -/
structure Admitted (s u : State) : Prop where
  only : ∃ b sl, u = { s with buckets := b, bonded := { s.bonded with slices := sl } }
  states : ∀ k, (getSlice u k).st = (getSlice s k).st

/-- Tokens taken are the buckets' alone. -/
theorem debits_only (p : Nat) (ds : List (Nat × Nat)) (s : State) :
    ∃ b, ds.foldl (fun s x => debit p x.1 x.2 s) s = { s with buckets := b } := by
  induction ds generalizing s with
  | nil => exact ⟨s.buckets, rfl⟩
  | cons x ds ih =>
    obtain ⟨b, hb⟩ := ih (debit p x.1 x.2 s)
    exact ⟨b, hb⟩

/-- A request of at most 64 B whose buckets hold as much, with none waiting ahead of it, is admitted (13 R367). -/
theorem admitDebits_covered {p seq sub : Nat} {ds : List (Nat × Nat)} (hw : s.waiters = []) (hsum : (ds.map Prod.snd).sum ≤ 64)
    (hpay : ds.all (fun x => decide (1024 * 64 ≤ tokens s p x.1)) = true) :
    ∃ b, admitDebits p n seq sub ds s = (true, { s with buckets := b }) := by
  have hshort : ds.filter (fun x => !canDebit s p x.1 ((ds.filter (fun y => decide (y.1 = x.1))).map Prod.snd).sum
      || waitsAhead s p x.1 n seq sub) = [] := by
    refine List.filter_eq_nil_iff.mpr fun x hx => ?_
    have hle : ((ds.filter (fun y => decide (y.1 = x.1))).map Prod.snd).sum ≤ (ds.map Prod.snd).sum :=
      (List.filter_sublist.map Prod.snd).sum_le_sum (fun _ _ => Nat.zero_le _)
    have hpaid : (1024 * 64 : Int) ≤ tokens s p x.1 := by simpa using List.all_eq_true.mp hpay x hx
    have hcan : canDebit s p x.1 ((ds.filter (fun y => decide (y.1 = x.1))).map Prod.snd).sum = true := by
      refine decide_eq_true ?_
      omega
    simp [hcan, waitsAhead, hw]
  obtain ⟨b, hb⟩ := debits_only p ds s
  refine ⟨b, ?_⟩
  simp only [admitDebits, hshort, hb, hw, List.filter_nil]

/-- An access that is served changes the queue of its slice at most. -/
theorem leaveHeld_admits (hwf : smapWf Slice.reset s.bonded.slices = true) (a : Nat) (who : Nat × Nat × Nat) (b : SMap Int) :
    Admitted s (leaveHeld a who { s with buckets := b }) := by
  unfold leaveHeld
  split_ifs
  · refine ⟨⟨b, _, rfl⟩, fun k => ?_⟩
    rw [modSlice, getSlice_setSlice (s := { s with buckets := b }) hwf]
    split_ifs with hk
    · rw [hk]
      rfl
    · rfl
  · exact ⟨⟨b, s.bonded.slices, rfl⟩, fun _ => rfl⟩

/-- What decides an access to memory is as it was. -/
theorem Admitted.isPoison_eq {u : State} (h : Admitted s u) (pg : Nat) : isPoison u pg = isPoison s pg := by
  obtain ⟨⟨b, sl, rfl⟩, hst⟩ := h
  unfold isPoison
  rw [hst]

/-- ... and everything but tokens and slices. -/
theorem Admitted.frame {u : State} (h : Admitted s u) : u.cores = s.cores ∧ u.test = s.test ∧ u.bonded.mem = s.bonded.mem ∧
    u.bonded.wp = s.bonded.wp ∧ (∀ p a w, bCheck u p a w = bCheck s p a w) ∧ ∀ a k, badByte u a k = badByte s a k := by
  obtain ⟨⟨b, sl, rfl⟩, -⟩ := h
  exact ⟨rfl, rfl, rfl, rfl, fun _ _ _ => rfl, fun _ _ => rfl⟩

/-- The granules of bonded memory that a descriptor within one granule on either side accesses. -/
def accessed (w : List W64) : List Nat := (if dSSP w = 2 then [gran32 (dSRC w)] else []) ++ (if dDSP w = 2 then [dDST w] else [])

/-- A descriptor of one run of bytes, moved and not added, within one granule on either side. -/
structure WithinGranule (w : List W64) : Prop where
  move : dOP w = 0
  n1 : dN1 w = 1
  n2 : dN2 w = 1
  pos : 0 < dLEN w
  src : dSRC w % 32 + dLEN w ≤ 32
  dst : dDST w % 32 + dLEN w ≤ 32

/-- A descriptor that has moved its bytes, at the clk `now`. -/
def movedAt (now : Nat) (d : Desc) : Desc := { d with st := .complete, turnAt := now, buf := [] }

/-- The one turn of such a descriptor: admitted, it fetches its bytes, stores them, and has made its last access (08 R215, R218). -/
theorem moveTurn_one {p a : Nat} {b : SMap Int} {u v t : State} {bytes : List Byte} (hg : WithinGranule d.words) (hbuf : d.buf = [])
    (hacc : accessed d.words = [a]) (hhold : mustHold s a (n, d.seq, d.sub) = false)
    (htouch : dDSP d.words = 2 → smapGet false s.bonded.wp (pageOf (dDST d.words)) = false)
    (hadmit : admitDebits p n d.seq d.sub (turnDebits n d.words [gran32 (dSRC d.words)] (dDST d.words)) s = (true, { s with buckets := b }))
    (hu : leaveHeld a (n, d.seq, d.sub) { s with buckets := b } = u)
    (hfetch : turnFetch p n d (dSRC d.words) (dLEN d.words) u = ⟨0, bytes, v⟩) (hlen : bytes.length = dLEN d.words)
    (hstore : turnStore p n d 0 (dDST d.words) (bytes, []) v = (0, t)) :
    moveTurn p n d 0 [] s = (0, releaseDesc n d.seq d.sub (putDesc n (movedAt u.clk d) t)) := by
  have hfit : min (32 - dDST d.words % 32) (dLEN d.words) = dLEN d.words := by have := hg.dst; omega
  have hwait : (decide (dDSP d.words = 2) && touchWaits s (dDST d.words)) = false := by
    by_cases h2 : dDSP d.words = 2
    · simp [touchWaits, htouch h2]
    · simp [h2]
  have htotal : dTotal d.words = dLEN d.words := by rw [dTotal, hg.n1, hg.n2]; omega
  unfold accessed at hacc
  rw [moveTurn]
  simp only [pieceAt_zero, hfit, hbuf, List.length_nil, fetchPart_all hg.pos, granules_one hg.pos hg.src, hacc, List.find?_cons, hhold,
    List.find?_nil, hwait, hadmit, List.foldl_cons, List.foldl_nil, hu, hfetch, carried, List.isEmpty_nil, if_true,
    List.take_of_length_le hlen.le, hstore, htotal, Nat.zero_add, le_refl, List.drop_of_length_le hlen.le, movedAt, Bool.not_true, Bool.false_eq_true,
    if_false, ne_eq, not_true_eq_false]

/-- Storing bytes keeps every other byte and the cores, and reads back (09 R241). -/
theorem bStore_mem (a : Nat) (bs : List Byte) (s : State) : (bStore a bs s).bonded.mem = smapPut 0 s.bonded.mem a bs := by
  unfold bStore
  dsimp only
  split_ifs <;> rfl

/-- ... and no core changes. -/
theorem bStore_cores (a : Nat) (bs : List Byte) (s : State) : (bStore a bs s).cores = s.cores := by
  unfold bStore
  dsimp only
  split_ifs <;> rfl

/-- An allowed write to a page that is not POISON and not write-protected is stored (09 R241, R242). -/
theorem bWrite_sound {p a : Nat} {bs : List Byte} (hc : bCheck s p a true = 0) (hp : isPoison s (pageOf a) = false)
    (hw : smapGet false s.bonded.wp (pageOf a) = false) : bWrite p a bs false s = ⟨0, [], bStore a bs s⟩ := by
  simp [bWrite, hc, hp, firstTouch, hw]

/-- The state behind a read for core `n`: the slices have counted it, and the core may note a P0 slice (09 R255, 03 R86). -/
structure HasRead (n : Nat) (s v : State) : Prop where
  mem : v.bonded.mem = s.bonded.mem
  test : v.test = s.test
  form : smapWf Core.reset v.cores = true
  core : ∃ m, getCore v n = { getCore s n with p0mask := m }

/-- An allowed read of good parity gives the bytes (09 R240). -/
theorem bRead_sound {p a : Nat} (hwf : smapWf Core.reset s.cores = true) (hc : bCheck s p a false = 0) (hp : isPoison s (pageOf a) = false)
    (hb : badByte s (gran32 a) 32 = none) (len : Nat) : ∃ v, HasRead n s v ∧ bRead p (some n) a len s = ⟨0, bBytes s a len, v⟩ := by
  have hcnt : ∀ x, smapWf Core.reset (cntRead (sliceOf a) x s).cores = true := fun _ => hwf
  by_cases htag : tagOf (cntRead (sliceOf a) len s) a = 0
  · refine ⟨coreNow n (fun c => { c with p0mask := c.p0mask ||| BitVec.ofNat 100 (2 ^ sliceOf a) }) (cntRead (sliceOf a) len s),
      ⟨rfl, rfl, wf_set n _ (hcnt len), _, getCore_coreNow_same (hcnt len) n _⟩, ?_⟩
    simp only [bRead, hc, hp, ctlRead, hb, htag, ne_eq, not_true_eq_false, Bool.false_eq_true, if_false, if_true]
    rfl
  · refine ⟨cntRead (sliceOf a) len s, ⟨rfl, rfl, hwf, _, rfl⟩, ?_⟩
    simp only [bRead, hc, hp, ctlRead, hb, htag, ne_eq, not_true_eq_false, Bool.false_eq_true, if_false]
    rfl

/-- Bytes within one granule are read in one access. -/
theorem readB_one {p a len : Nat} {bs : List Byte} {v : State} (hpos : 0 < len) (ha : a % 32 + len ≤ 32)
    (hr : bRead p (some n) a len s = ⟨0, bs, v⟩) : readB p n a len s = ⟨0, bs, v⟩ := by
  simp only [readB, granPieces_one hpos ha, List.foldl_cons, List.foldl_nil, hr, ne_eq, not_true_eq_false, if_false, List.nil_append]

/-- The debits of a granule read or written at one end of such a descriptor: 32 B at the slice, and 32 B at a router (13 R367). -/
theorem turnDebits_sum {a : Nat} (h : (dSSP d.words = 0 ∧ dDSP d.words = 2) ∨ (dSSP d.words = 2 ∧ dDSP d.words = 0)) (dst : Nat) :
    ((turnDebits n d.words [a] dst).map Prod.snd).sum ≤ 64 := by
  have hgran : ∀ x y, ((granDebits x y).map Prod.snd).sum ≤ 64 := fun x y => by
    cases y <;> simp [granDebits]
  unfold turnDebits
  rcases h with ⟨hs, hd⟩ | ⟨hs, hd⟩
  · simp only [hs, hd, hgran]
  · simp only [hs, hd, List.map_cons, List.map_nil, List.flatten_cons, List.flatten_nil, List.append_nil, hgran]

/-- The only descriptor of a core is the one whose turn it is, wherever the rotation has come to. -/
theorem nextTurn_only {c : Core} (hds : c.descs = [d]) (hst : d.st = .moving 0) (hch : d.ch < 8) :
    activeHead c d.ch = some (d, 0) ∧ nextTurn c [] = some d.ch := by
  have hactive : ∀ ch, (activeHead c ch).isSome = decide (ch = d.ch) := fun ch => by
    by_cases hc : d.ch = ch
    · simp [activeHead, channelHead, hds, hst, hc]
    · simp [activeHead, channelHead, hds, hc, Ne.symm hc]
  refine ⟨by simp [activeHead, channelHead, hds, hst], ?_⟩
  cases hfind : nextTurn c [] with
  | some ch =>
    have hturn := List.find?_some hfind
    rw [hactive] at hturn
    simpa using hturn
  | none =>
    have hmem : d.ch ∈ (List.range 8).map (fun i => (c.rot + i) % 8) :=
      List.mem_map.mpr ⟨(d.ch + 8 - c.rot % 8) % 8, List.mem_range.mpr (by omega), by omega⟩
    have hidle := List.find?_eq_none.mp hfind _ hmem
    rw [hactive] at hidle
    simp at hidle

/-- Leaving the slices' queues changes the slices alone. -/
theorem leaveAll_only (who : Nat × Nat × Nat) (s : State) :
    ∃ sl, leaveAll who s = { s with bonded := { s.bonded with slices := sl } } := by
  unfold leaveAll
  split_ifs
  · exact ⟨_, rfl⟩
  · exact ⟨s.bonded.slices, rfl⟩

/-- A descriptor that is dropped leaves its core, and memory stays. -/
theorem dropDesc_core (hwf : smapWf Core.reset s.cores = true) (seq sub : Nat) :
    getCore (dropDesc n seq sub s) n = withoutDesc seq sub (getCore s n) ∧ (dropDesc n seq sub s).bonded.mem = s.bonded.mem := by
  have hcore := getCore_coreNow_same hwf n (withoutDesc seq sub)
  simp only [dropDesc, releaseDesc, modCore_eq, coreNow_coreNow hwf]
  obtain ⟨sl, hsl⟩ := leaveAll_only (n, seq, sub) (coreNow n (withoutDesc seq sub) s)
  exact ⟨(congrArg (fun u => getCore u n) hsl).trans hcore, congrArg (fun u => u.bonded.mem) hsl⟩

/-- A core behind the one turn of its only descriptor: that is complete, its range released, and the rotation has gone on. -/
def turnedCore (now : Nat) (d : Desc) (c : Core) : Core := { c with
  descs := [movedAt now d]
  trk := c.trk.filter (fun e => ¬ (e.seq = d.seq ∧ e.sub = d.sub))
  rot := (d.ch + 1) % 8 }

/-- What the turn and its end make of the core is `turnedCore`. -/
theorem coreNow_turnedCore {t : State} (hwf : smapWf Core.reset t.cores = true) (hdt : (getCore t n).descs = [d]) (now : Nat) :
    modCore n (fun c => { c with rot := (d.ch + 1) % 8 }) (releaseDesc n d.seq d.sub (putDesc n (movedAt now d) t)) =
      coreNow n (turnedCore now d) t := by
  simp only [releaseDesc, putDesc, modCore_eq, coreNow_coreNow hwf]
  refine coreNow_congr ?_
  simp [turnedCore, movedAt, hdt]

/-- DMA_DESCRIPTOR_COMPLETE of the only descriptor of a core, whose one turn moves all its bytes: it is gone, and the bytes stay moved. -/
theorem onlyDesc_moves {j : CoreJob} {t : State} {now : Nat} (hn : n < 100) (hj : (getCore s n).job = some j) (hruns : dmaRuns s n = true)
    (hds : (getCore s n).descs = [d]) (hst : d.st = .moving 0) (hch : d.ch < 8) (hedge : dEdge d.words = false)
    (hsem : dSEMEN d.words = false) (hwf : smapWf Core.reset t.cores = true) (hdt : (getCore t n).descs = [d])
    (hmove : moveTurn j.part n d 0 [] s = (0, releaseDesc n d.seq d.sub (putDesc n (movedAt now d) t))) :
    ∃ u, Goes (.dmaDescriptorComplete n ⟨0, []⟩) s u ∧ (getCore u n).descs = [] ∧ (getCore u n).spad = (getCore t n).spad ∧
      u.bonded.mem = t.bonded.mem := by
  obtain ⟨hhead, hnext⟩ := nextTurn_only hds hst hch
  have hpart : partOfCore s n = j.part := by simp only [partOfCore, hj]
  have hgoing : descStops d.seq d.sub (getCore s n) = false := by simp [descStops, hds, hst]
  have hturn : turnOf n d.ch (d.seq, d.sub) [] s = (0, releaseDesc n d.seq d.sub (putDesc n (movedAt now d) t)) := by
    simp only [turnOf, hhead, hedge, hpart, ite_self, hmove, Bool.false_eq_true, if_false, true_or, if_true]
  have hcore : getCore (coreNow n (turnedCore now d) t) n = turnedCore now d (getCore t n) := getCore_coreNow_same hwf n _
  have hfind : (getCore (coreNow n (turnedCore now d) t) n).descs.find?
      (fun x => decide (x.seq = (movedAt now d).seq) && decide (x.sub = (movedAt now d).sub)) = some (movedAt now d) := by
    rw [hcore]
    simp [turnedCore]
  have hturns : turns n (d.seq, d.sub) [] (descStops d.seq d.sub) (turnBound (getCore s n)) [] s = coreNow n (turnedCore now d) t := by
    rw [turnBound, turns]
    simp only [hgoing, hnext, hturn, coreNow_turnedCore hwf hdt, Bool.false_eq_true, if_false, if_true]
    exact turns_stopped (descStops_complete hfind rfl) _ _ _ _
  have hend : completeDesc n d.seq d.sub (coreNow n (turnedCore now d) t) = dropDesc n d.seq d.sub (coreNow n (turnedCore now d) t) := by
    refine (completeDesc_eq hfind rfl).trans ?_
    simp [semenSignal, movedAt, hsem]
  obtain ⟨hgone, hmem⟩ := dropDesc_core (s := coreNow n (turnedCore now d) t) (n := n) (wf_set n _ hwf) d.seq d.sub
  have hleft := hgone.trans (congrArg (withoutDesc d.seq d.sub) hcore)
  refine ⟨_, ?_, ?_, ?_, hmem⟩
  · simp only [Goes, exec, execDmaDescriptorComplete, unitRes, hn, hds, hruns, decide_true, if_true, List.getElem?_cons_zero, hturns, hend]
  · rw [hleft]
    simp [withoutDesc, turnedCore, movedAt]
  · rw [hleft]
    rfl

end Turn

section Directions

variable {s : State} {n : Nat} {j : CoreJob} {d : Desc}

/-- DMA_DESCRIPTOR_START: a queued descriptor at the head of its channel, reaching no edge and its range free, begins (08 R215, R225). This is
the first clause of O37. -/
theorem descriptorStart_next {ch : BitVec 3} (hn : n < 100) (hj : (getCore s n).job = some j) (hruns : dmaRuns s n = true)
    (harm : s.test.arm = false) (hands : (getCore s n).hands = []) (hhead : channelHead (getCore s n) ch.toNat = some d)
    (hst : d.st = .queued) (hfree : descFree (getCore s n) d = true) (hedge : dEdge d.words = false) :
    Goes (.dmaDescriptorStart n ch) s (putDesc n { d with startAt := s.clk, turnAt := s.clk, st := .moving 0 } s) := by
  have htmo : ∀ level, tmoInj s level 1 n = false := fun level => by simp [tmoInj, harm]
  simp [Goes, exec, execDmaDescriptorStart, readHands_none hands, unitRes, hn, hj, hhead, hruns, hfree, hst, htmo, hedge]

/-- The premises of O37 on a core's only descriptor, started and of one granule, with the slices in canonical form. -/
structure OneTurn (s : State) (n : Nat) (j : CoreJob) (d : Desc) (a : Nat) : Prop where
  unit : n < 100
  job : (getCore s n).job = some j
  runs : dmaRuns s n = true
  arm : s.test.arm = false
  form : smapWf Core.reset s.cores = true
  slices : smapWf Slice.reset s.bonded.slices = true
  only : (getCore s n).descs = [d]
  started : d.st = .moving 0
  buf : d.buf = []
  chan : d.ch < 8
  edge : dEdge d.words = false
  semen : dSEMEN d.words = false
  waiters : s.waiters = []
  granule : WithinGranule d.words
  tokens : (turnDebits n d.words [gran32 (dSRC d.words)] (dDST d.words)).all (fun x => decide (1024 * 64 ≤ tokens s j.part x.1)) = true
  served : mustHold s a (n, d.seq, d.sub) = false

/-- Its turn is admitted: what it fetches and stores is what completes. -/
theorem OneTurn.moves {a : Nat} (h : OneTurn s n j d a) (hacc : accessed d.words = [a])
    (hpair : (dSSP d.words = 0 ∧ dDSP d.words = 2) ∨ (dSSP d.words = 2 ∧ dDSP d.words = 0))
    (htouch : dDSP d.words = 2 → smapGet false s.bonded.wp (pageOf (dDST d.words)) = false) : ∃ u, Admitted s u ∧
      ∀ (bytes : List Byte) (v t : State), turnFetch j.part n d (dSRC d.words) (dLEN d.words) u = ⟨0, bytes, v⟩ →
        bytes.length = dLEN d.words → turnStore j.part n d 0 (dDST d.words) (bytes, []) v = (0, t) →
        smapWf Core.reset t.cores = true → (getCore t n).descs = [d] →
        ∃ r, Goes (.dmaDescriptorComplete n ⟨0, []⟩) s r ∧ (getCore r n).descs = [] ∧ (getCore r n).spad = (getCore t n).spad ∧
          r.bonded.mem = t.bonded.mem := by
  obtain ⟨b, hadmit⟩ := admitDebits_covered (n := n) (seq := d.seq) (sub := d.sub) h.waiters (turnDebits_sum hpair _) h.tokens
  refine ⟨_, leaveHeld_admits h.slices a (n, d.seq, d.sub) b, fun bytes v t hfetch hlen hstore hwf hds => ?_⟩
  exact onlyDesc_moves h.unit h.job h.runs h.only h.started h.chan h.edge h.semen hwf hds
    (moveTurn_one h.granule h.buf hacc h.served htouch hadmit rfl hfetch hlen hstore)

/-- From the scratchpad to bonded memory (08 Table 8-8): the second clause of O37, in canonical form. -/
theorem toMemory_next (h : OneTurn s n j d (dDST d.words)) (hmem : smapWf 0 s.bonded.mem = true) (hs : dSSP d.words = 0) (hd : dDSP d.words = 2)
    (hparity : spadParity (getCore s n) (dSRC d.words) (dLEN d.words) = false) (hcheck : bCheck s j.part (dDST d.words) true = 0)
    (hpoison : isPoison s (pageOf (dDST d.words)) = false) (hwp : smapGet false s.bonded.wp (pageOf (dDST d.words)) = false) :
    ∃ t, Goes (.dmaDescriptorComplete n ⟨0, []⟩) s t ∧ (getCore t n).descs = [] ∧ ∀ x, smapGet 0 t.bonded.mem x =
      if dDST d.words ≤ x ∧ x < dDST d.words + dLEN d.words then (spadBytes (getCore s n) (dSRC d.words) (dLEN d.words)).getD (x - dDST d.words) 0
      else smapGet 0 s.bonded.mem x := by
  obtain ⟨u, hu, hmove⟩ := h.moves (by simp [accessed, hs, hd]) (.inl ⟨hs, hd⟩) (fun _ => hwp)
  obtain ⟨hcores, -, hmem', hwp', hcheck', -⟩ := hu.frame
  have hcore : getCore u n = getCore s n := by rw [getCore, hcores, ← getCore]
  generalize hbytes : spadBytes (getCore s n) (dSRC d.words) (dLEN d.words) = bytes
  have hlen : bytes.length = dLEN d.words := hbytes ▸ length_smapWalk ..
  have hfetch : turnFetch j.part n d (dSRC d.words) (dLEN d.words) u = ⟨0, bytes, u⟩ := by
    simp [turnFetch, h.granule.pos.ne', hs, hcore, opnd, hparity, h.buf, hbytes]
  have hwrite := bWrite_sound (s := u) (bs := bytes) ((hcheck' _ _ _).trans hcheck) ((hu.isPoison_eq _).trans hpoison) (by rw [hwp', hwp])
  have hstore : turnStore j.part n d 0 (dDST d.words) (bytes, []) u = (0, bStore (dDST d.words) bytes u) := by
    simp [turnStore, hd, writeB, h.granule.move, hwrite]
  have hstored := (bStore_cores (dDST d.words) bytes u).trans hcores
  obtain ⟨t, hgo, hgone, -, ht⟩ := hmove bytes u _ hfetch hlen hstore (by rw [hstored]; exact h.form) (by rw [getCore, hstored]; exact h.only)
  refine ⟨t, hgo, hgone, fun x => ?_⟩
  rw [ht, bStore_mem, hmem', get_put _ _ (canon_of_wf _ _ hmem), hlen]

/-- From bonded memory to the scratchpad (08 Table 8-8): the third clause of O37, in canonical form. -/
theorem toScratchpad_next (h : OneTurn s n j d (gran32 (dSRC d.words))) (hs : dSSP d.words = 2) (hd : dDSP d.words = 0)
    (hcheck : bCheck s j.part (dSRC d.words) false = 0) (hpoison : isPoison s (pageOf (dSRC d.words)) = false)
    (hbad : badByte s (gran32 (dSRC d.words)) 32 = none) : ∃ t, Goes (.dmaDescriptorComplete n ⟨0, []⟩) s t ∧ (getCore t n).descs = [] ∧
      (getCore t n).spad = smapPut 0 (getCore s n).spad (dDST d.words) (bBytes s (dSRC d.words) (dLEN d.words)) ∧
      t.bonded.mem = s.bonded.mem := by
  obtain ⟨u, hu, hmove⟩ := h.moves (by simp [accessed, hs, hd]) (.inr ⟨hs, hd⟩) (by simp [hd])
  obtain ⟨hcores, htest, hmem, -, hcheck', hbad'⟩ := hu.frame
  have hcore : getCore u n = getCore s n := by rw [getCore, hcores, ← getCore]
  obtain ⟨v, hv, hread⟩ := bRead_sound (n := n) (hcores ▸ h.form) ((hcheck' _ _ _).trans hcheck) ((hu.isPoison_eq _).trans hpoison)
    ((hbad' _ _).trans hbad) (dLEN d.words)
  obtain ⟨m, hvcore⟩ := hv.core
  have hbytes : bBytes u (dSRC d.words) (dLEN d.words) = bBytes s (dSRC d.words) (dLEN d.words) := by rw [bBytes, hmem, ← bBytes]
  rw [hbytes] at hread
  generalize hbs : bBytes s (dSRC d.words) (dLEN d.words) = bytes at hread ⊢
  have hlen : bytes.length = dLEN d.words := hbs ▸ length_smapWalk ..
  have hfetch : turnFetch j.part n d (dSRC d.words) (dLEN d.words) u = ⟨0, bytes, v⟩ := by
    simp [turnFetch, h.granule.pos.ne', hs, h.buf, readB_one h.granule.pos h.granule.src hread]
  have hstore : turnStore j.part n d 0 (dDST d.words) (bytes, []) v = (0, coreNow n (spadPut (dDST d.words) bytes) v) := by
    simp [turnStore, hd, landSpad, spadWrite_unarmed (s := v) (by rw [hv.test, htest, h.arm])]
  have hput := (getCore_coreNow_same hv.form n (spadPut (dDST d.words) bytes)).trans (congrArg _ (hvcore.trans (by rw [hcore])))
  obtain ⟨t, hgo, hgone, hspad, ht⟩ := hmove bytes v _ hfetch hlen hstore (wf_set n _ hv.form) ((congrArg Core.descs hput).trans h.only)
  exact ⟨t, hgo, hgone, hspad.trans (congrArg Core.spad hput), ht.trans (hv.mem.trans hmem)⟩

end Directions

/-! ### ... and where the slices are not in canonical form -/

section Refutation

/-- One byte from the start of the scratchpad to the start of bonded memory. -/
def byteDesc : Desc :=
  { seq := 0, sub := 0, pc := 0, ch := 0, words := [0x20, 0, 0, 1, 0, 0, 0, 0], st := .moving 0, startAt := 0, turnAt := 0, heldFor := 0,
    addPos := 0, uid := 0, buf := [] }

/-- A running job of P1. -/
def byteJob : CoreJob := { index := 0, part := 1, jobid := 0, st := .running, startAt := 0, endAt := 0, seed0 := 0, stream0 := 0, ctr0 := 0 }

/-- Core 0 holds the byte 7 and moves it. Slice 0 is listed twice, which no state in canonical form does: first with the held access of the
descriptor and nothing else unlike its reset value, then as FAILED. -/
def twiceListed : State := { State.reset with
  cores := [(0, { Core.reset with job := some byteJob, spad := [(0, 7)], descs := [byteDesc] })]
  bonded := { Bonded.reset with
    gran := [(0, { a := true, ro := false, tag := 1 })]
    slices := [(0, { Slice.reset with heldQ := [(0, 0, 0)] }), (0, { Slice.reset with st := .failed })] }
  parts := [(0, Part.reset0), (1, { Part.reset with exts := [(0, 1)] })]
  buckets := [(1000, 65536)]
  power := { Power.reset with quads := [(0, { Quad.reset with st := .on })] } }

/-- The byte 0 of bonded memory in the state that a command answers. -/
def firstByte (c : Instr) (s : State) : Option Byte :=
  match exec c s with
  | .next t => some (smapGet 0 t.bonded.mem 0)
  | _ => none

theorem firstByte_of_goes {c : Instr} {s t : State} (h : Goes c s t) : firstByte c s = some (smapGet 0 t.bonded.mem 0) := by
  rw [firstByte, h]

/-- The turn takes the descriptor out of the slice's queue; that entry, now the reset value, is no longer listed, and the FAILED one comes
to light. Its pages are POISON, so the write faults and the byte stays. -/
theorem firstByte_twiceListed : firstByte (.dmaDescriptorComplete 0 ⟨0, []⟩) twiceListed = some 0 := by decide +kernel

end Refutation

/-- Refutes O37: its premises ask for canonical cores, memory and buckets, not for canonical slices, and `twiceListed` meets them all. With
canonical slices, which `Inv` has, its three clauses hold: `descriptorStart_next` (in any state), `toMemory_next` and
`toScratchpad_next`. -/
theorem not_localDescriptorMoves : ¬ Obligations.LocalDescriptorMoves := by
  intro h
  obtain ⟨-, hturn⟩ := h twiceListed 0 0 byteJob byteDesc (by decide) rfl (by decide) rfl (by decide)
  obtain ⟨hout, -⟩ := hturn rfl rfl rfl (by decide) (by decide) (by decide) rfl (by decide) (by decide) (by decide) (by decide) (by decide)
    (by decide) (by decide) (by decide) (by decide)
  obtain ⟨t, hgo, -, hmem⟩ := hout (by decide) (by decide) (by decide) (by decide) (by decide) (by decide) (by decide)
  have hseven : smapGet 0 t.bonded.mem 0 = 7 := hmem 0
  have hzero := (firstByte_of_goes hgo).symm.trans firstByte_twiceListed
  rw [hseven] at hzero
  exact absurd hzero (by decide)

end Sys2Proof.Proofs

/-! Proofs for the family 09_bonded_memory: that every step keeps the canonical forms; repairs, temperatures, scrubs, resets, peer
transactions, and memory that reads back.

Every step keeps the canonical forms: one lemma for each function of the model that answers a state, in the model's order, which says that
the state it answers is in canonical form where the one it is given is. A lemma cites those of the functions it calls; only the functions
that write a map themselves say more. -/

namespace Sys2Proof.Claims

open Sys2Proof Sys2Proof.Machine Sys2Proof.Laws

/-- A command that ends in a next state ends in one in canonical form. -/
inductive Ends : Res → Prop
  | next {s : State} (h : Inv s) : Ends (.next s)
  | fault (r : Fault) : Ends (.fault r)

/-! ### Canonical maps -/

section Maps

variable {α : Type} {d : α} {m : SMap α}

theorem canon_filter : ∀ {m : SMap α} {lo : Nat} (p : Nat × α → Bool), Canon d lo m → Canon d lo (m.filter p)
  | [], _, _, _ => trivial
  | (k, v) :: t, lo, p, ⟨hk, hv, ht⟩ => by
    have ih := canon_filter p ht
    rw [List.filter_cons]
    split
    · exact ⟨hk, hv, ih⟩
    · exact ih.weaken (by omega)

/-- A change of every value, with what is now a default taken out. -/
theorem canon_map_filter [DecidableEq α] : ∀ {m : SMap α} {lo : Nat} (g : α → α), Canon d lo m →
    Canon d lo ((m.map fun e => (e.1, g e.2)).filter fun e => e.2 ≠ d)
  | [], _, _, _ => trivial
  | (k, v) :: t, lo, g, ⟨hk, _, ht⟩ => by
    have ih := canon_map_filter g ht
    rw [List.map_cons, List.filter_cons]
    split
    next hg => exact ⟨hk, by simpa using hg, ih⟩
    next => exact ih.weaken (by omega)

theorem canon_map_const {c : α} (hc : c ≠ d) : ∀ {m : SMap α} {lo : Nat}, Canon d lo m → Canon d lo (m.map fun e => (e.1, c))
  | [], _, _ => trivial
  | (_, _) :: _, _, ⟨hk, _, ht⟩ => ⟨hk, hc, canon_map_const hc ht⟩

variable [DecidableEq α]

theorem wf_filter (p : Nat × α → Bool) (h : smapWf d m = true) : smapWf d (m.filter p) = true :=
  wf_of_canon d _ 0 (canon_filter p (canon_of_wf d m h))

theorem wf_map (g : α → α) (h : smapWf d m = true) : smapWf d ((m.map fun e => (e.1, g e.2)).filter fun e => e.2 ≠ d) = true :=
  wf_of_canon d _ 0 (canon_map_filter g (canon_of_wf d m h))

/-- Values put at many keys. -/
theorem wf_setAll {v : α} (ks : List Nat) (h : smapWf d m = true) : smapWf d (ks.foldl (fun m k => smapSet d m k v) m) = true :=
  List.foldlRecOn (motive := fun m => smapWf d m = true) ks _ h fun _ hm k _ => wf_set k v hm

end Maps

/-! ### Shapes of a next state -/

section Shapes

variable {s : State} {α β : Type}

theorem Ends.unit (h : Inv s) {ok : Bool} : Ends (unitRes ok s) := by
  cases ok with
  | true => exact .next h
  | false => exact .fault _

theorem Ends.inv {t : State} (h : Ends (.next t)) : Inv t := by
  cases h with
  | next h => exact h

theorem Inv.pair (h : Inv s) {a : α} : Inv (a, s).2 := h

theorem Inv.triple (h : Inv s) {a : α} {b : β} : Inv (a, b, s).2.2 := h

theorem Inv.ite {p : Prop} {d : Decidable p} {t : State} (h : Inv s) (h' : Inv t) : Inv (if p then s else t) := by
  split <;> assumption

/-- A loop over a list. -/
theorem Inv.foldl (h : Inv s) {g : State → α → State} {l : List α} (hg : ∀ s a, Inv s → Inv (g s a)) : Inv (l.foldl g s) :=
  List.foldlRecOn l g h fun s hs a _ => hg s a hs

/-- A loop over a list that carries a state in what it carries. -/
theorem Inv.foldl_in {x : β} (st : β → State) (h : Inv (st x)) {g : β → α → β} {l : List α} (hg : ∀ x a, Inv (st x) → Inv (st (g x a))) :
    Inv (st (l.foldl g x)) :=
  List.foldlRecOn (motive := fun x => Inv (st x)) l g h fun x hx a _ => hg x a hx

/-- Every field that `Inv` does not speak of, changed: written out field by field, so that it fits an update of any of them. -/
theorem Inv.elsewhere (h : Inv s)
    {pending clk free nuid outbox boot fuseLo fuseHi windows tick conf jobs images pools kvPools seqs seqRecs leaves rings layers routes
    xfers waiters links secure events test digReqs memos flash flashRows tierMem tap}
    {bad attrBad poisoned wayDone remapList}
    {quadEn linksEn flashEn linksSt hostSt memSt flashSt belfrySt trip tripped tripCool input cause mrstn strap0 strap1 boundary tripInj
    preSlot prePend}
    {dscp cnpDscp ackto retry ecn tagFail owner maxqp port0 port1 port2 port3} :
    Inv ⟨pending, clk, free, nuid, outbox, boot, fuseLo, fuseHi, s.cores, ⟨s.bonded.mem, bad, s.bonded.gran, s.bonded.poison, s.bonded.wp,
    attrBad, poisoned, wayDone, s.bonded.slices, remapList⟩, s.parts, windows, tick, conf, jobs, images, pools, kvPools, seqs, seqRecs,
    leaves, rings, layers, routes, xfers, s.buckets, waiters, links, ⟨dscp, cnpDscp, ackto, retry, ecn, tagFail, owner, maxqp, port0,
    port1, port2, port3, s.host.qps⟩, ⟨quadEn, linksEn, flashEn, linksSt, hostSt, memSt, flashSt, belfrySt, trip, tripped, tripCool,
    input, cause, s.power.quads, mrstn, strap0, strap1, boundary, tripInj, preSlot, prePend⟩, secure, events, test, digReqs, memos, flash,
    flashRows, tierMem, tap⟩ :=
  { h with }

/-- A page's WP bit, changed. -/
theorem Inv.set_wp (h : Inv s) {pg : Nat} {b : Bool} : Inv { s with bonded := { s.bonded with wp := smapSet false s.bonded.wp pg b } } :=
  { h with wp := wf_set pg b h.wp }

theorem Inv.after_setCore (h : Inv s) {n : Nat} {c : Core} : Inv (setCore n c s) :=
  { h with cores := wf_set n c h.cores }

theorem Inv.after_setSlice (h : Inv s) {n : Nat} {v : Slice} : Inv (setSlice n v s) :=
  { h with slices := wf_set n v h.slices }

theorem Inv.after_setPart (h : Inv s) {n : Nat} {p : Part} : Inv (setPart n p s) :=
  { h with parts := wf_set n p h.parts }

theorem Inv.after_setQuad (h : Inv s) {n : Nat} {q : Quad} : Inv (setQuad n q s) :=
  { h with quads := wf_set n q h.quads }

theorem Inv.after_setQp (h : Inv s) {n : Nat} {q : Qp} : Inv (setQp n q s) :=
  { h with qps := wf_set n q h.qps }

theorem Inv.after_setTokens (h : Inv s) {p unit : Nat} {v : Int} : Inv (setTokens p unit v s) :=
  { h with buckets := wf_set (bucketKey p unit) v h.buckets }

theorem Inv.after_setPort (h : Inv s) {p : BPort} {v : BkPort} : Inv (setPort p v s) := by
  cases p <;> exact h.elsewhere

theorem Inv.after_setHport (h : Inv s) {p : HPort} {v : HoPort} : Inv (setHport p v s) := by
  cases p <;> exact h.elsewhere

theorem Inv.after_bPut (h : Inv s) {a : Nat} {bs : List Byte} : Inv (bPut a bs s) :=
  { h with mem := bPut_keeps_form a bs h.mem }

theorem Inv.after_raiseI (h : Inv s) {inj : Bool} {kind idx : Nat} {part : Option Nat} {code arg : Nat} :
    Inv (raiseI inj kind idx part code arg s) := by
  obtain ⟨e, he⟩ := raiseI_only s inj kind idx part code arg
  rw [he]
  exact h.elsewhere

theorem Inv.after_setPoison (h : Inv s) {pg : Nat} : Inv (setPoison pg s) :=
  { h with poison := wf_set pg true h.poison }

end Shapes

section

variable {s : State}

/-! ### Time (00 R10; log 1) -/

theorem Inv.after_passTo (h : Inv s) {t : Nat} : Inv (passTo t s) := h.elsewhere

theorem Inv.after_takeFree (h : Inv s) : Inv (takeFree s).2 := h.elsewhere

theorem Inv.after_takeUid (h : Inv s) : Inv (takeUid s).2 := h.elsewhere

theorem Inv.after_emit (h : Inv s) {o : Output} : Inv (emit o s) := h.elsewhere

/-! ### Units -/

theorem Inv.after_modCore (h : Inv s) {n : Nat} {f : Core → Core} : Inv (modCore n f s) := h.after_setCore

theorem Inv.after_modSlice (h : Inv s) {n : Nat} {f : Slice → Slice} : Inv (modSlice n f s) := h.after_setSlice

theorem Inv.after_modPart (h : Inv s) {n : Nat} {f : Machine.Part → Machine.Part} : Inv (modPart n f s) := h.after_setPart

theorem Inv.after_setWin (h : Inv s) {n : Nat} {w : Window} : Inv (setWin n w s) := h.elsewhere

theorem Inv.after_modQuad (h : Inv s) {n : Nat} {f : Quad → Quad} : Inv (modQuad n f s) := h.after_setQuad

theorem Inv.after_modQp (h : Inv s) {n : Nat} {f : Qp → Qp} : Inv (modQp n f s) := h.after_setQp

theorem Inv.after_modPort (h : Inv s) {p : BPort} {f : BkPort → BkPort} : Inv (modPort p f s) := h.after_setPort

theorem Inv.after_modHport (h : Inv s) {p : HPort} {f : HoPort → HoPort} : Inv (modHport p f s) := h.after_setHport

theorem Inv.after_putFrames (h : Inv s) {p : HPort} {frames : Nat} {m : HostMsg} : Inv (putFrames p frames m s) :=
  h.after_emit.after_modHport

theorem Inv.after_flushFrames (h : Inv s) {p : HPort} : Inv (flushFrames p s) := by
  unfold flushFrames
  dsimp only
  split
  · exact h
  · exact .foldl h.after_modHport fun _ _ hs => hs.after_putFrames

theorem Inv.after_sendFrames (h : Inv s) {p : HPort} {frames : Nat} {m : HostMsg} : Inv (sendFrames p frames m s) :=
  .ite h.after_modHport h.after_flushFrames.after_putFrames

/-! ### Events (20 R533 to R538) -/

theorem Inv.after_pushEvent (h : Inv s) {kind idx : Nat} {part : Option Nat} {code arg : Nat} {inj : Bool} :
    Inv (pushEvent kind idx part code arg inj s) :=
  .ite h.elsewhere (.ite (.ite h.elsewhere h.elsewhere) h.elsewhere)

theorem Inv.after_raise (h : Inv s) {kind idx : Nat} {part : Option Nat} {code arg : Nat} : Inv (raise kind idx part code arg s) :=
  h.after_raiseI

theorem Inv.after_ovfEvent (h : Inv s) {b : Bool} {addr : Nat} : Inv (ovfEvent b addr s) := .ite h.after_raise h

/-! ### Faults of a job (03 R86 to R90, R98, R99). -/

theorem Inv.after_takeFault (h : Inv s) {n seq code trap : Nat} {fpc : W64} : Inv (takeFault n seq code trap fpc s) := by
  unfold takeFault
  dsimp only
  split
  · exact h
  · split
    · exact .ite h.after_setCore h.after_setCore
    · exact .ite h.after_setCore h

theorem Inv.after_semSet (h : Inv s) {n sem : Nat} {v : W64} : Inv (semSet n sem v s) := h.after_modCore

theorem Inv.after_semAdd (h : Inv s) {n sem v : Nat} : Inv (semAdd n sem v s) := h.after_semSet

/-! ### Scratchpad -/

theorem Inv.after_injDone (h : Inv s) : Inv (injDone s) := h.elsewhere

theorem Inv.after_spadWrote (h : Inv s) {n : Nat} {rs : List (Nat × Nat)} : Inv (spadWrote n rs s) := .ite h.after_modCore.after_injDone h

theorem Inv.after_spadWrite (h : Inv s) {n a : Nat} {bs : List Byte} : Inv (spadWrite n a bs s) := h.after_modCore.after_spadWrote

/-! ### Regulator buckets (13 R367) -/

theorem Inv.after_debit (h : Inv s) {p unit n : Nat} : Inv (debit p unit n s) := h.after_setTokens

/-! ### Bonded memory: addresses (09 R233, R235) -/

theorem Inv.after_listPoison (h : Inv s) {pg : Nat} : Inv (listPoison pg s) := h.elsewhere

theorem Inv.after_clearPoison (h : Inv s) {pg : Nat} : Inv (clearPoison pg s) :=
  .ite h { h with poison := wf_set pg false h.poison }

/-! ### Parity errors (09 R240, R245, R247 to R251; 14 R404) -/

theorem Inv.after_perrInc (h : Inv s) {sl : Nat} : Inv (perrInc sl s) := h.after_modSlice.after_ovfEvent

theorem Inv.after_rowRepair (h : Inv s) {sl die bank row : Nat} : Inv (rowRepair sl die bank row s) :=
  .ite (.after_raise (.elsewhere h.after_setSlice)) (.elsewhere h.after_setSlice)

theorem Inv.after_bondError (h : Inv s) {sl a row : Nat} : Inv (bondError sl a row s) := h.after_setSlice

theorem Inv.after_modJob (h : Inv s) {idx : Nat} {f : Job → Job} : Inv (modJob idx f s) := by
  unfold modJob
  split
  · exact h.elsewhere
  · exact h

theorem Inv.after_endJob (h : Inv s) {n seq code : Nat} {st : RunSt} {pc : W64} : Inv (endJob n seq code st pc s) := by
  unfold endJob
  dsimp only
  split
  · exact h
  · split
    · exact h.after_takeFault
    · split
      · exact h.after_takeFault.after_modCore
      · exact h.elsewhere.after_setCore

theorem Inv.after_rollJob (h : Inv s) {n seq : Nat} {pc : W64} : Inv (rollJob n seq pc s) := h.after_endJob

theorem Inv.after_rollSettled (h : Inv s) {sl : Nat} : Inv (rollSettled sl s) := h.elsewhere

theorem Inv.after_rollP0 (h : Inv s) {sl : Nat} {who : Option Nat} : Inv (rollP0 sl who s) :=
  .after_rollSettled (.foldl h fun _ _ hs => .ite hs.after_rollJob hs)

theorem Inv.after_parityFound (h : Inv s) {a : Nat} {inj : Bool} {who : Option Nat} : Inv (parityFound a inj who s) := by
  unfold parityFound
  extract_lets sl o s1 s2 s3 s4
  have h3 : Inv s3 := h.after_setPoison.after_listPoison.after_perrInc.after_raiseI
  have h4 : Inv s4 := .ite h3 h3.after_rowRepair.after_bondError
  exact .ite h4.after_rollP0 h4

theorem Inv.after_errorsFound (h : Inv s) {a n : Nat} {who : Option Nat} : Inv (errorsFound a n who s) := by
  unfold errorsFound
  dsimp only
  split
  · refine .after_parityFound ?_
    split
    · exact h.after_parityFound
    · exact h
  · split
    · exact h.after_parityFound
    · exact h

theorem Inv.after_ctlRead (h : Inv s) {a : Nat} {who : Option Nat} : Inv (ctlRead a who s).2 := by
  unfold ctlRead
  split
  · exact h.after_errorsFound
  · exact h

/-! ### Checked accesses -/

theorem Inv.after_cntRead (h : Inv s) {sl n : Nat} : Inv (cntRead sl n s) := h.after_modSlice

theorem Inv.after_cntWrite (h : Inv s) {sl n : Nat} : Inv (cntWrite sl n s) := h.after_modSlice

theorem Inv.after_noteHeld (h : Inv s) {a : Nat} : Inv (noteHeld a s) := by
  unfold noteHeld
  exact h.after_modPart

theorem Inv.after_streamNow (h : Inv s) {a : Nat} : Inv (streamNow a s) := by
  unfold streamNow
  dsimp only
  split
  · exact .after_errorsFound (.set_wp h.after_debit.after_debit)
  · exact .after_modPart (.after_cntRead (.set_wp h.after_debit.after_debit))

theorem Inv.after_touchHeld (h : Inv s) {a : Nat} : Inv (touchHeld a s) := h.after_noteHeld.after_streamNow

theorem Inv.after_attrInj (h : Inv s) : Inv (attrInj s) := .ite h.elsewhere.after_injDone h

theorem Inv.after_attrRepair (h : Inv s) {a : Nat} : Inv (attrRepair a s) := by
  unfold attrRepair
  extract_lets pg inj s1 s2 b s3 s4
  have h2 : Inv s2 := h.after_perrInc.after_raiseI.after_listPoison
  clear_value s2
  have h3 : Inv s3 := { h2 with poison := wf_set pg _ h2.poison }
  have h4 : Inv s4 := .ite h3.after_streamNow h3
  exact .ite h4.after_attrInj h4

theorem Inv.after_bRead (h : Inv s) {p : Nat} {n : Option Nat} {a len : Nat} : Inv (bRead p n a len s).st := by
  unfold bRead
  dsimp only
  split
  · exact .ite h.after_attrRepair h
  · split
    · exact h
    · split
      · exact h.after_ctlRead
      · split
        · exact .ite h.after_cntRead.after_modCore h.after_cntRead
        · exact h.after_cntRead

theorem Inv.after_memoTouch (h : Inv s) {a n : Nat} : Inv (memoTouch a n s) := h.elsewhere

theorem Inv.after_bStore (h : Inv s) {a : Nat} {bs : List Byte} : Inv (bStore a bs s) :=
  .ite (.after_injDone (.elsewhere h.after_bPut.after_cntWrite.after_memoTouch)) h.after_bPut.after_cntWrite.after_memoTouch

theorem Inv.after_firstTouch (h : Inv s) {a : Nat} : Inv (firstTouch a s).2 := by
  unfold firstTouch
  dsimp only
  split
  · exact .pair h
  split
  · exact .pair h
  split
  · exact .pair h.after_errorsFound.after_setPoison
  · exact .pair (.set_wp h.after_cntRead.after_bStore.after_modPart)

theorem Inv.after_carriedBad (h : Inv s) {a : Nat} : Inv (carriedBad a s).2 := h.after_setPoison

theorem Inv.after_bWrite (h : Inv s) {p a : Nat} {bs : List Byte} {mis : Bool} : Inv (bWrite p a bs mis s).st := by
  unfold bWrite
  dsimp only
  split
  · exact .ite h.after_attrRepair h
  · split
    · exact h
    · split
      · exact h.after_carriedBad
      · split
        · exact h.after_firstTouch
        · exact h.after_firstTouch.after_bStore

/-! ### Memory-side adders (09 R253, 10 R276 to R279) -/

theorem Inv.after_addNow (h : Inv s) {op a : Nat} {src : List Byte} {who : Option Nat} : Inv (addNow op a src who s).2 := by
  unfold addNow
  dsimp only
  split
  · exact .pair h.after_attrRepair
  · split
    · exact .pair h
    · split
      · exact .pair h.after_ctlRead
      · split
        · exact h.after_firstTouch
        · exact .pair h.after_firstTouch.after_bStore.after_cntRead.after_modSlice

theorem Inv.after_addWaiting (h : Inv s) {op a : Nat} {src : List Byte} {who : Option Nat} : Inv (addWaiting op a src who s).2 := by
  unfold addWaiting
  dsimp only
  split
  · exact h.after_addNow.after_touchHeld.after_addNow
  · exact h.after_addNow

theorem Inv.after_addLost (h : Inv s) {sl p case : Nat} : Inv (addLost sl p case s) := h.elsewhere.after_modPart.after_raise

theorem Inv.after_memAdd (h : Inv s) {p : Nat} {e : AddEntry} {mis : Bool} : Inv (memAdd p e mis s).2 := by
  unfold memAdd
  dsimp only
  split
  · exact .ite h.after_attrRepair h
  · split
    · exact h
    · split
      · exact h.after_carriedBad
      · split
        · split
          · exact h.after_addLost.after_addNow
          · split
            · exact h.after_addLost.after_addNow
            · split
              · exact h.after_addLost.after_addNow
              · exact h.after_setSlice
        · exact h.after_addNow

theorem Inv.after_applyAdd (h : Inv s) {e : AddEntry} : Inv (applyAdd s e) := by
  unfold applyAdd
  split
  · exact .ite h.after_addWaiting (.ite h.after_addWaiting.after_rollJob (.ite h.after_addWaiting.after_endJob h.after_addWaiting))
  · exact h.after_addWaiting

theorem Inv.after_applyAddLog (h : Inv s) {sl : Nat} : Inv (applyAddLog sl s) := .foldl h.after_setSlice fun _ _ hs => hs.after_applyAdd

/-! ### Belfry accesses (no ownership check; parity and POISON still count, 09 R240) -/

theorem Inv.after_pageStops (h : Inv s) {pg : Nat} : Inv (pageStops pg s).2 := .ite h.after_attrRepair h

theorem Inv.after_cntRange (h : Inv s) {a n : Nat} : Inv (cntRange a n s) := .foldl h fun _ _ hs => hs.after_cntRead

theorem Inv.after_waitHold (h : Inv s) {a n : Nat} : Inv (waitHold a n s) := .ite h h.after_passTo

theorem Inv.after_belRead (h : Inv s) {a n : Nat} : Inv (belRead a n s).2.2 := by
  unfold belRead
  dsimp only
  split
  · refine .foldl_in Prod.snd h.after_waitHold fun _ _ hs => ?_
    split
    · exact hs
    · split
      · exact hs.after_pageStops
      · exact hs.after_pageStops.after_ctlRead
  · refine .after_cntRange (.foldl_in Prod.snd h.after_waitHold fun _ _ hs => ?_)
    split
    · exact hs
    · split
      · exact hs.after_pageStops
      · exact hs.after_pageStops.after_ctlRead

theorem Inv.after_belWrite (h : Inv s) {a : Nat} {bs : List Byte} : Inv (belWrite a bs s).2 := by
  refine .foldl_in Prod.snd h.after_waitHold fun x pb hs => ?_
  extract_lets q t s1
  have ht : Inv t.2 := hs.after_pageStops.after_firstTouch
  have h1 : Inv s1 := .ite ht.after_touchHeld ht
  split
  · exact .pair hs.after_pageStops
  split
  · exact .pair ht
  split
  · exact .pair h1
  · exact .pair h1.after_bStore

theorem Inv.after_rewritePage (h : Inv s) {pg : Nat} {bs : List Byte} : Inv (rewritePage pg bs s) := h.after_bStore.after_clearPoison

/-! ### Sending (16 R428 to R432) -/

theorem Inv.after_laneInj (h : Inv s) {p : BPort} : Inv (laneInj p s) := .ite h.after_modPort.after_injDone h

theorem Inv.after_injFlit (h : Inv s) {p : BPort} {ty : Nat} {bs : List Byte} : Inv (injFlit p ty bs s).2 := by
  unfold injFlit
  split
  · exact h.after_injDone
  · split
    · exact h.after_injDone
    · exact h

theorem Inv.after_emitFlit (h : Inv s) {p : BPort} {ty seq vc : Nat} {pl : List Byte} : Inv (emitFlit p ty seq vc pl s) :=
  h.after_injFlit.after_emit.after_setPort

theorem Inv.after_freeBuf (h : Inv s) {buf : Option (Nat × Nat)} : Inv (freeBuf buf s) := by
  unfold freeBuf
  split
  · split
    · exact h.after_modPort
    · exact h
  · exact h

theorem Inv.after_pumpData {p : BPort} {n : Nat} (h : Inv s) : Inv (pumpData p n s) := by
  induction n generalizing s with
  | zero => exact h
  | succ n ih =>
    unfold pumpData
    extract_lets v
    split
    · exact h
    split
    · exact h
    · exact ih h.after_setPort.after_freeBuf.after_emitFlit

theorem Inv.after_pumpIdle {p : BPort} {n : Nat} (h : Inv s) : Inv (pumpIdle p n s) := by
  induction n generalizing s with
  | zero => exact h
  | succ n ih =>
    unfold pumpIdle
    extract_lets v
    split
    · exact h
    split
    · exact h
    · exact ih h.after_emitFlit

theorem Inv.after_admitFlits (h : Inv s) {p : BPort} : Inv (admitFlits p s) := by
  unfold admitFlits
  dsimp only
  split
  · exact h
  · refine .after_modPort (.foldl_in Prod.snd h fun _ _ hs => ?_)
    split
    · exact .pair hs
    · exact .pair hs.after_debit.after_modPort

theorem Inv.after_pump (h : Inv s) : Inv (pump s) :=
  .foldl (.foldl (.foldl h fun _ _ hs => hs.after_admitFlits) fun _ _ hs => hs.after_pumpData) fun _ _ hs => hs.after_pumpIdle

theorem Inv.after_queueBy (h : Inv s) {free : Bool} {cls : Nat} {t : Txn} : Inv (queueBy free cls t s).2 := by
  unfold queueBy
  dsimp only
  split
  · exact h
  · split
    · exact h
    · exact h.after_setPort

theorem Inv.after_queueTxn (h : Inv s) {cls : Nat} {t : Txn} : Inv (queueTxn cls t s).2 := h.after_queueBy

theorem Inv.after_queueTxns (h : Inv s) {cls : Nat} {ts : List Txn} : Inv (queueTxns cls ts s).2 :=
  .foldl_in Prod.snd h fun _ _ hs => hs.after_queueTxn

theorem Inv.after_withdraw (h : Inv s) {chip : Nat} {tag : BitVec 24} : Inv (withdraw chip tag s) := by
  unfold withdraw
  split
  · exact h.after_modPort
  · exact h

/-! ### Making transactions -/

theorem Inv.after_sendRefuse (h : Inv s) {t : Txn} {reason : Nat} : Inv (sendRefuse t reason s) := h.after_queueTxn

theorem Inv.after_sendAcks (h : Inv s) {chip : Nat} : Inv (sendAcks chip s) := by
  unfold sendAcks
  split
  · exact h
  · exact h.elsewhere.after_queueTxn

theorem Inv.after_ackFlit (h : Inv s) {t : Txn} : Inv (ackFlit t s) := .ite h.elsewhere.after_sendAcks h.elsewhere

/-! ### Receiving (16 R426, R431, R432, R439) -/

theorem Inv.after_discardFlit (h : Inv s) {p : BPort} {bs : List Byte} : Inv (discardFlit p bs s) :=
  .ite h.after_setPort.after_ovfEvent.after_setPort.after_ovfEvent h.after_setPort.after_ovfEvent

theorem Inv.after_flitTake (h : Inv s) {p : BPort} {bs : List Byte} : Inv (flitTake p bs s) := h.after_setPort

theorem Inv.after_sendNak (h : Inv s) {p : BPort} : Inv (sendNak p s) := .ite h h.after_emitFlit.after_modPort

theorem Inv.after_replayAll (h : Inv s) {p : BPort} : Inv (replayAll p s) :=
  .foldl h.after_setPort.after_ovfEvent fun _ _ hs => hs.after_emitFlit

theorem Inv.after_routeFlit (h : Inv s) {p : BPort} {vc : Nat} {t : Txn} : Inv (routeFlit p vc t s) := by
  unfold routeFlit
  split
  · exact .ite h.after_modPort h.elsewhere
  · split
    · exact h.after_modPort.after_sendRefuse
    · exact .ite h.after_modPort.after_sendRefuse h.after_setPort

theorem Inv.after_dataFlit (h : Inv s) {p : BPort} {bs : List Byte} : Inv (dataFlit p bs s) :=
  .ite h.after_setPort.after_routeFlit h.after_sendNak

/-! ### The bandwidth regulators (13 R367, R368): shares, refills and debits. -/

theorem Inv.after_refillPart (h : Inv s) {p : Nat} : Inv (refillPart s p) := .foldl h fun _ _ hs => hs.after_setTokens

theorem Inv.after_setShares (h : Inv s) {p : Nat} {v : Shares} : Inv (setShares p v s) :=
  .foldl h.after_modPart fun _ _ hs => .ite hs.after_setTokens hs.after_setTokens

theorem Inv.after_chargeRead (h : Inv s) {p a n : Nat} : Inv (chargeRead p a n s) := .foldl h fun _ _ hs => hs.after_debit.after_debit

theorem Inv.after_chargeWrite (h : Inv s) {p a n : Nat} : Inv (chargeWrite p a n s) := .foldl h fun _ _ hs => hs.after_debit

theorem Inv.after_partRead (h : Inv s) {p a n : Nat} : Inv (partRead p a n s).2.2 := h.after_belRead.after_chargeRead

theorem Inv.after_partWrite (h : Inv s) {p a : Nat} {bs : List Byte} : Inv (partWrite p a bs s).2 := h.after_belWrite.after_chargeWrite

/-! ### Belfry transfers over the torus -/

theorem Inv.after_localPut (h : Inv s) {p : Nat} {w : Nat × Nat × List Byte} : Inv (localPut p w s).2 := by
  unfold localPut
  split
  · exact h
  · split
    · exact h.after_partWrite
    · exact h.after_chargeWrite.after_addWaiting

theorem Inv.after_gSend (h : Inv s) {owner : XOwner} {part chip : Nat} {ws : List (Nat × Nat × List Byte)} :
    Inv (gSend owner part chip ws s).2 := by
  unfold gSend
  split
  · exact .pair (.foldl_in Prod.snd h fun _ _ hs => .pair hs.after_localPut)
  · dsimp only
    split
    · exact .pair h.after_injDone
    split
    · exact .pair h.after_takeUid
    · refine .pair (.after_pump (.elsewhere ?_))
      exact h.after_takeUid.after_queueTxns

theorem Inv.after_gRead (h : Inv s) {owner : XOwner} {background : Bool} {part gaddr dst n : Nat} :
    Inv (gRead owner background part gaddr dst n s).2 := by
  unfold gRead
  dsimp only
  split
  · exact .pair h
  split
  · exact .pair h.after_injDone
  split
  · exact .pair h.after_takeUid
  · refine .pair (.after_pump (.elsewhere ?_))
    exact .foldl_in Prod.snd (.pair h.after_takeUid) fun _ _ hs => .pair hs.after_queueBy

/-! ### Signals to a job, wherever it is (10 R267, R271) -/

theorem Inv.after_imageSem (h : Inv s) {i : Image} {sem : Nat} {f : Nat → Nat} : Inv (imageSem i sem f s) :=
  .ite h.after_partRead h.after_partRead.after_partWrite

theorem Inv.after_imageSemAdd (h : Inv s) {i : Image} {sem v : Nat} : Inv (imageSemAdd i sem v s) := h.after_imageSem

theorem Inv.after_signalAway (h : Inv s) {t p sem : Nat} {f : Nat → Nat} : Inv (signalAway t p sem f s) := by
  unfold signalAway
  split
  · exact h.after_imageSem
  · exact h

theorem Inv.after_routeExpire (h : Inv s) {n : Nat} : Inv (routeExpire n s) := by
  unfold routeExpire
  split
  · exact .ite (.after_takeFault (.elsewhere h.after_injDone)) h
  · exact h

theorem Inv.after_semSignal (h : Inv s) {core part jobid sem : Nat} : Inv (semSignal core part jobid sem s) := by
  unfold semSignal
  dsimp only
  split
  · split
    · split
      · split
        · exact h.after_imageSemAdd
        · exact h.after_raise
      · exact h.after_semAdd
    · split
      · exact h.after_imageSemAdd
      · exact h.after_raise
  · split
    · exact h.after_imageSemAdd
    · exact h.after_raise

/-! ### Layers -/

theorem Inv.after_setLayer (h : Inv s) {l : Layer} : Inv (setLayer l s) := h.elsewhere

theorem Inv.after_modLayer (h : Inv s) {i : Nat} {f : Layer → Layer} : Inv (modLayer i f s) := h.elsewhere

theorem Inv.after_routeReqEv (h : Inv s) {i : Nat} {part : Option Nat} {arg : Nat} : Inv (routeReqEv i part arg s) := h.after_raise

/-! ### Requests (12 R317, R321, R322, R332) -/

theorem Inv.after_takeDispatch (h : Inv s) {core : Nat} {j : CoreJob} {seq : Nat} {pc : W64} {sem at' : Nat} {req : List Byte} :
    Inv (takeDispatch core j seq pc sem at' req s) := by
  unfold takeDispatch
  dsimp only
  split
  · exact h.after_routeReqEv.after_semSignal
  · split
    · exact h.after_semSignal
    · split
      · exact h.after_routeReqEv.after_semSignal
      · exact .after_routeExpire (.ite (.after_routeReqEv (.elsewhere h.after_setLayer)) (.elsewhere h.after_setLayer))

/-! ### Admission (12 R323, R324) -/

theorem Inv.after_layerRead (h : Inv s) {l : Layer} {a n : Nat} : Inv (layerRead l a n s).2.2 := by
  unfold layerRead
  split
  · exact h.after_partRead
  · exact h

theorem Inv.after_layerWrite (h : Inv s) {l : Layer} {a : Nat} {bs : List Byte} : Inv (layerWrite l a bs s).2 := by
  unfold layerWrite
  split
  · exact h.after_partWrite
  · exact h

theorem Inv.after_layerWord (h : Inv s) {l : Layer} {a k : Nat} : Inv (layerWord l a k s).2 := h.after_layerRead

theorem Inv.after_writeOutcomes (h : Inv s) {l : Layer} {p : Nat → Bool} : Inv (writeOutcomes l p s) :=
  .foldl h fun _ _ hs => .ite hs.after_layerWrite hs

theorem Inv.after_abortSlots (h : Inv s) {l : Layer} {p : Slot → Bool} : Inv (abortSlots l p s) :=
  .ite h h.after_setLayer.after_writeOutcomes

/-! ### Dispatch (12 R329) -/

theorem Inv.after_abortOne (h : Inv s) {layer : Nat} {k : Option (Nat × Nat)} : Inv (abortOne layer k s) := by
  unfold abortOne
  split
  · exact h.after_abortSlots
  · exact h

theorem Inv.after_expertWrites (h : Inv s) {l : Layer} {e : Nat} {x : Expert} : Inv (expertWrites l e x s).2 :=
  .foldl_in Prod.snd h fun _ _ hs => hs.after_layerRead

theorem Inv.after_sendDone (h : Inv s) {layer chip : Nat} : Inv (sendDone layer chip s) := by
  unfold sendDone
  dsimp only
  split
  · exact h
  · split
    · exact h
    · split
      · exact h.after_gSend
      · exact h.after_gSend.after_setLayer

theorem Inv.after_homeSettled (h : Inv s) {layer chip : Nat} : Inv (homeSettled layer chip s) := by
  unfold homeSettled
  split
  · exact .ite h.after_sendDone h
  · exact h

theorem Inv.after_copyHere (h : Inv s) {l : Layer} {base : Nat} {c : Copy} : Inv (copyHere l base s c) := by
  unfold copyHere
  extract_lets r
  have hr : Inv r.2 := .foldl_in Prod.snd h fun _ _ hs => .pair hs.after_layerWrite
  exact .ite hr.after_abortOne hr

theorem Inv.after_copyHome (h : Inv s) {layer part chip : Nat} {c : Copy} : Inv (copyHome layer part chip s c) :=
  .ite h.after_abortOne (.ite h.after_gSend.after_abortOne h.after_gSend)

theorem Inv.after_dispatchHome (h : Inv s) {layer h' : Nat} : Inv (dispatchHome layer s h') := by
  unfold dispatchHome
  split
  · exact h
  · refine .after_homeSettled ?_
    refine .foldl ?_ fun _ _ hs => hs.after_copyHome
    refine .foldl_in Prod.snd h fun _ _ hs => ?_
    split
    · exact hs.after_expertWrites
    · exact hs

theorem Inv.after_beginHomes {layer f : Nat} (h : Inv s) : Inv (beginHomes layer f s) := by
  induction f generalizing s with
  | zero => exact h
  | succ f ih =>
    unfold beginHomes
    split
    · exact h
    split
    · exact h
    · exact .ite h (.ite h (ih h.after_setLayer.after_dispatchHome))

theorem Inv.after_finishDispatch (h : Inv s) {layer : Nat} : Inv (finishDispatch layer s) := by
  unfold finishDispatch
  dsimp only
  split
  · exact h.after_beginHomes
  · split
    · exact h.after_beginHomes
    · exact .foldl (.elsewhere h.after_beginHomes.after_setLayer) fun _ _ hs => hs.after_semSignal

theorem Inv.after_dispatch (h : Inv s) {layer : Nat} : Inv (dispatch layer s) := by
  unfold dispatch
  split
  · exact h
  · refine .after_finishDispatch (.after_modLayer (.foldl h fun _ _ hs => ?_))
    split
    · exact .foldl hs.after_expertWrites fun _ _ hs1 => hs1.after_copyHere
    · exact hs

/-! ### Combine (12 R333, R334) -/

theorem Inv.after_noteCombine (h : Inv s) {a n : Nat} : Inv (noteCombine a n s) := h.elsewhere

theorem Inv.after_abortAt (h : Inv s) {part g : Nat} : Inv (abortAt part g s) := by
  unfold abortAt
  refine .foldl h fun _ _ hs => ?_
  split
  · split
    · exact hs.after_abortSlots
    · exact hs
  · exact hs

theorem Inv.after_outServed (h : Inv s) {layer exp src core sem : Nat} : Inv (outServed layer exp src core sem s) := by
  unfold outServed
  split
  · exact h
  · exact .ite h.elsewhere.after_semSignal h.elsewhere

theorem Inv.after_outGot (h : Inv s) {layer exp src core sem : Nat} : Inv (outGot layer exp src core sem s) := by
  unfold outGot
  split
  · exact h
  · exact h.elsewhere

theorem Inv.after_combineDoneAdd (h : Inv s) {layer exp src core sem : Nat} : Inv (combineDoneAdd layer exp src core sem s) := by
  unfold combineDoneAdd
  split
  · exact h
  · split
    · exact h
    · split
      · exact h
      · exact .ite h.after_layerWord.after_gSend h.after_layerWord.after_gSend.after_outServed

theorem Inv.after_combineSettled (h : Inv s) {layer exp src core sem : Nat} : Inv (combineSettled layer exp src core sem s) := by
  unfold combineSettled
  split
  · exact h
  · exact .ite h (.ite h.after_combineDoneAdd h.after_outServed)

theorem Inv.after_copyOut (h : Inv s) {layer exp src core sem part chip row slot : Nat} {bs : List Byte} :
    Inv (copyOut layer exp src core sem part chip row slot bs s) := by
  unfold copyOut
  dsimp only
  split
  · refine .after_outGot ?_
    split
    · exact h.after_gSend.after_noteCombine
    · exact h.after_gSend
  · exact h.after_gSend
  · exact .ite h.after_gSend.after_abortAt h.after_gSend

theorem Inv.after_serveSource (h : Inv s) {layer exp core sem i : Nat} : Inv (serveSource layer exp core sem s i) := by
  unfold serveSource
  dsimp only
  split
  · exact h
  · split
    · exact h
    · split
      · exact h
      · refine .after_combineSettled (.foldl h.after_layerWord.after_layerWord fun _ _ hs => ?_)
        split
        · exact .ite hs.after_layerWord.after_layerRead.after_abortAt hs.after_layerWord.after_layerRead
        · exact hs.after_layerWord.after_layerRead.after_copyOut

theorem Inv.after_beginSources {layer exp core sem f : Nat} (h : Inv s) : Inv (beginSources layer exp core sem f s) := by
  induction f generalizing s with
  | zero => exact h
  | succ f ih =>
    unfold beginSources
    split
    · split
      · exact h
      · exact .ite h (ih (.after_serveSource h.elsewhere))
    · exact h

theorem Inv.after_combineNext (h : Inv s) {layer exp src core sem : Nat} : Inv (combineNext layer exp src core sem s) :=
  h.after_combineSettled.after_beginSources

theorem Inv.after_takeCombine (h : Inv s) {core : Nat} {j : CoreJob} {seq : Nat} {pc : W64} {sem at' : Nat} {req : List Byte} :
    Inv (takeCombine core j seq pc sem at' req s) := by
  unfold takeCombine
  dsimp only
  split
  · exact h.after_routeReqEv.after_semSignal
  · split
    · exact h.after_semSignal
    · split
      · exact h.after_routeReqEv.after_semSignal
      · split
        · exact h.elsewhere.after_routeExpire
        · split
          · exact h.after_routeReqEv.after_semSignal
          · exact .ite h.after_routeReqEv.after_semSignal (.ite h.elsewhere.after_routeExpire h.elsewhere.after_beginSources)

theorem Inv.after_readHand (h : Inv s) {n : Nat} {x : HandOff} : Inv (readHand n s x) := by
  unfold readHand
  dsimp only
  split
  · exact .ite h.after_setCore.after_takeCombine h.after_setCore.after_takeDispatch
  · exact h.after_setCore.after_takeFault
  · exact h.after_setCore

theorem Inv.after_readHands (h : Inv s) {n : Nat} : Inv (readHands n s) := .foldl h fun _ _ hs => hs.after_readHand

theorem Inv.after_readAllHands (h : Inv s) : Inv (readAllHands s) := .foldl h fun _ _ hs => hs.after_readHands

theorem Inv.after_zeroSlots (h : Inv s) {l : Layer} {p : Slot → Bool} : Inv (zeroSlots l p s) :=
  .foldl h fun _ _ hs => .ite hs.after_layerWrite hs

/-! ### The commands -/

theorem Inv.after_execRouteAdmit (h : Inv s) {layer : Nat} : Ends (execRouteAdmit layer s) := by
  unfold execRouteAdmit
  dsimp only
  split
  · exact .next h.after_readAllHands
  · split
    · exact .next h.after_readAllHands
    · exact .next h.after_readAllHands.after_setLayer.after_writeOutcomes.after_abortSlots.after_dispatch

theorem Inv.after_sourceWord (h : Inv s) {l : Layer} : Inv (sourceWord l s).2 := by
  unfold sourceWord
  split
  · exact h.after_layerWord
  · exact h

theorem Inv.after_execSourceDonePoll (h : Inv s) {layer : Nat} : Ends (execSourceDonePoll layer s) := by
  unfold execSourceDonePoll
  dsimp only
  split
  · exact .next h
  · split
    · exact .next h.after_sourceWord
    · exact .next (.foldl h.after_sourceWord.after_setLayer fun _ _ hs => .ite hs.after_semAdd hs)

theorem Inv.after_execCombineCollectDone (h : Inv s) {req : Nat} : Ends (execCombineCollectDone req s) := by
  unfold execCombineCollectDone
  dsimp only
  split
  · exact .next h.after_readAllHands
  · split
    · exact .next h.after_readAllHands
    · split
      · exact .next h.after_readAllHands.after_layerWord
      · exact .next (.after_semSignal (.elsewhere h.after_readAllHands.after_layerWord.after_setLayer.after_zeroSlots))

theorem Inv.after_execDispatchTimeout (h : Inv s) {req : Nat} : Ends (execDispatchTimeout req s) := by
  unfold execDispatchTimeout
  dsimp only
  split
  · exact .next h.after_readAllHands
  · split
    · exact .next h.after_readAllHands
    · exact .next (.after_takeFault (.elsewhere h.after_readAllHands.after_passTo))

/-! ### Results of issue -/

theorem Inv.after_issued (h : Inv s) {n : Nat} {pc : W64} {f : Core → Core} : Inv (issued n pc f s) := h.after_modCore

theorem Inv.after_stallAt (h : Inv s) {n : Nat} {w ext : W64} : Inv (stallAt n w ext s) := h.after_modCore

theorem Inv.after_faultAt (h : Inv s) {n code trap : Nat} : Inv (faultAt n code trap s) := h.after_takeFault

theorem Inv.after_faultAfter (h : Inv s) {n seq code : Nat} {fpc : W64} : Inv (faultAfter n seq code fpc s) := h.after_takeFault

/-! ### The effects, by class -/

theorem Inv.after_doAlu (h : Inv s) {n : Nat} {o : Op} {w : W64} : Inv (doAlu n o w s) := h.after_issued

theorem Inv.after_doPred (h : Inv s) {n : Nat} {o : Op} {w : W64} : Inv (doPred n o w s) := h.after_issued

theorem Inv.after_doMem (h : Inv s) {n : Nat} {o : Op} {w : W64} : Inv (doMem n o w s) := by
  unfold doMem
  dsimp only
  split
  · exact h.after_faultAt
  · split
    · exact h.after_stallAt
    · split
      · exact h.after_spadWrite.after_issued
      · split
        · exact h.after_issued
        · exact h.after_issued.after_faultAfter

theorem Inv.after_doCtl (h : Inv s) {n : Nat} {o : Op} {w : W64} : Inv (doCtl n o w s) := by
  unfold doCtl
  dsimp only
  split
  · exact h.after_stallAt
  · split
    · exact h.after_issued
    · exact h.after_issued
    · exact h.after_issued
    · exact h.after_issued
    · exact h.after_issued

theorem Inv.after_doBranch (h : Inv s) {n : Nat} {o : Op} {w : W64} : Inv (doBranch n o w s) := by
  unfold doBranch
  split
  · exact h.after_issued
  · exact h.after_issued
  · exact h.after_issued
  · exact h.after_issued

theorem Inv.after_doSig (h : Inv s) {n : Nat} {o : Op} {w : W64} : Inv (doSig n o w s) := by
  unfold doSig
  dsimp only
  split
  · exact h.after_stallAt
  · split
    · exact .ite h.after_issued.after_semAdd h.after_issued.after_semSet
    · exact .ite h.after_issued.after_signalAway h.after_issued.after_faultAfter

theorem Inv.after_holdUnless (h : Inv s) {n : Nat} {o : Op} {ok : Bool} {h' : Hold} : Inv (holdUnless n o ok h' s) :=
  .ite h.after_issued h.after_modCore

theorem Inv.after_doHalt (h : Inv s) {n : Nat} : Inv (doHalt n s) := h.after_modCore

theorem Inv.after_doRequest (h : Inv s) {n : Nat} {o : Op} {w : W64} : Inv (doRequest n o w s) := by
  unfold doRequest
  dsimp only
  split
  · exact h.after_faultAt
  · split
    · exact h.after_stallAt
    · split
      · exact h.after_faultAt
      · exact .ite h.after_stallAt h.after_issued

theorem Inv.after_skipDma (h : Inv s) {n : Nat} {w : W64} : Inv (skipDma n w s) := by
  unfold skipDma
  dsimp only
  split
  · exact h.after_issued
  · split
    · exact h.after_stallAt
    · split
      · exact h.after_issued
      · exact .ite h.after_issued h.after_faultAt

theorem Inv.after_doQueue (h : Inv s) {n : Nat} {o : Op} {w : W64} : Inv (doQueue n o w s) := by
  unfold doQueue
  extract_lets c full u draws
  split
  · exact h.after_stallAt
  split
  · exact h.after_faultAt
  · exact .ite h.after_stallAt h.after_issued

theorem Inv.after_doDma (h : Inv s) {n : Nat} {o : Op} {w : W64} : Inv (doDma n o w s) := by
  unfold doDma
  dsimp only
  split
  · exact h.after_stallAt
  · split
    · exact h.after_faultAt
    · split
      · exact h.after_stallAt
      · split
        · exact h.after_faultAt
        · exact .ite h.after_faultAt (.ite h.after_faultAt (.ite h.after_stallAt h.after_issued))

theorem Inv.after_effect (h : Inv s) {n : Nat} {o : Op} {w ext : W64} : Inv (effect n o w ext s) := by
  unfold effect
  dsimp only
  split
  · exact h.after_stallAt
  · split
    · exact .ite h.after_doAlu (.ite h.after_doPred (.ite h.after_doMem h.after_doCtl))
    · exact h.after_issued
    · exact h.after_doBranch
    · exact h.after_doQueue
    · exact h.after_doQueue
    · exact .ite h.after_doDma (.ite h.after_holdUnless h.after_holdUnless)
    · split
      · exact h.after_doSig
      · exact h.after_doSig
      · exact h.after_holdUnless
      · exact h.after_holdUnless
      · exact h.after_doHalt
      · exact h.after_faultAt
      · exact h.after_doRequest

theorem Inv.after_attempt (h : Inv s) {n : Nat} {o : Op} {w ext : W64} : Inv (attempt n o w ext s) := by
  unfold attempt
  dsimp only
  split
  · exact h.after_faultAt
  · split
    · exact h.after_stallAt
    · exact .ite h.after_faultAt (.ite h.after_faultAt (.ite h.after_stallAt (.ite h.after_effect (.ite h.after_skipDma h.after_issued))))

theorem Inv.after_issue (h : Inv s) {n : Nat} {o : Op} {w ext : W64} : Ends (issue n o w ext s) := .unit (.ite h.after_attempt h)

/-! ### Ends of holds -/

theorem Inv.after_execIssueStallEnd (h : Inv s) {core : Nat} : Ends (execIssueStallEnd core s) := by
  unfold execIssueStallEnd
  refine .unit ?_
  split
  · exact .ite h.after_readHands.after_modCore.after_attempt h.after_readHands
  · exact h.after_readHands

theorem Inv.after_execSwaitRelease (h : Inv s) {core : Nat} : Ends (execSwaitRelease core s) := by
  unfold execSwaitRelease
  refine .unit ?_
  split
  · exact .ite h.after_issued h
  · exact h

theorem Inv.after_execLfenceRelease (h : Inv s) {core : Nat} : Ends (execLfenceRelease core s) := by
  unfold execLfenceRelease
  refine .unit ?_
  split
  · exact .ite h.after_issued h
  · exact h

theorem Inv.after_execDwaitRelease (h : Inv s) {core : Nat} : Ends (execDwaitRelease core s) := by
  unfold execDwaitRelease
  refine .unit ?_
  split
  · exact .ite h.after_issued h
  · exact .ite h.after_issued h
  · exact h

/-! ### The mangle (06 R173 to R177) -/

theorem Inv.after_settle (h : Inv s) {n : Nat} {c : Core} : Inv (settle n c s) := by
  unfold settle
  dsimp only
  split
  · exact .ite h.elsewhere.after_setCore.after_takeFault h.elsewhere.after_setCore
  · exact h.elsewhere.after_setCore

theorem Inv.after_execMangleBlockDecode (h : Inv s) {core : Nat} : Ends (execMangleBlockDecode core s) := by
  unfold execMangleBlockDecode
  dsimp only
  refine .unit ?_
  split
  · exact h
  · split
    · exact h
    · split
      · exact h.after_setCore.after_takeFault
      · exact h
    · split
      · exact h.after_setCore.after_takeFault
      · exact .ite h.after_settle.after_raise h.after_settle

/-! ### QUEUED_INSTR_START -/

theorem Inv.after_queueDescs (h : Inv s) {n : Nat} {q : DmaWait} {lo hi : Nat} : Inv (queueDescs n q lo hi s) :=
  .foldl h fun _ _ hs => hs.after_takeUid.after_setCore

theorem Inv.after_execQueuedInstrStart (h : Inv s) {core : Nat} {q : IQueue} : Ends (execQueuedInstrStart core q s) := by
  unfold execQueuedInstrStart
  refine .unit ?_
  split
  · exact h.after_readHands
  · split
    · split
      · exact h.after_readHands
      · exact h.after_readHands.after_setCore.after_queueDescs
    · split
      · exact h.after_readHands
      · exact .ite (.ite h.after_readHands.after_settle h.after_readHands.after_setCore) h.after_readHands

/-! ### INSTR_COMPLETE -/

theorem Inv.after_unitsWrote (h : Inv s) {n : Nat} {o : Op} {u : Uop} {i k : Nat} : Inv (unitsWrote n o u i k s) := h.after_spadWrote

theorem Inv.after_topkEvent (h : Inv s) {n : Nat} {u : Uop} {c : Core} : Inv (topkEvent n u c s) := by
  unfold topkEvent
  split
  · exact h
  · exact h.after_raise

theorem Inv.after_completeUop (h : Inv s) {n : Nat} {p : Pipe} {u : Uop} : Inv (completeUop n p u s) := by
  unfold completeUop
  dsimp only
  split
  · exact .after_takeFault (.after_setCore (.ite (.after_topkEvent (.ite h.elsewhere h)) (.ite h.elsewhere h)))
  · exact .after_unitsWrote (.after_setCore (.ite (.after_topkEvent (.ite h.elsewhere h)) (.ite h.elsewhere h)))

theorem Inv.after_execInstrComplete (h : Inv s) {core : Nat} {p : Pipe} : Ends (execInstrComplete core p s) := by
  unfold execInstrComplete
  refine .unit ?_
  split
  · exact h
  · exact .ite h (.ite (.ite h.after_setCore h) h.after_completeUop)

/-! ### The queue of a core -/

theorem Inv.after_putDesc (h : Inv s) {n : Nat} {d : Desc} : Inv (putDesc n d s) := h.after_modCore

theorem Inv.after_releaseDesc (h : Inv s) {n seq sub : Nat} : Inv (releaseDesc n seq sub s) := h.after_modCore

theorem Inv.after_leaveAll (h : Inv s) {who : Nat × Nat × Nat} : Inv (leaveAll who s) :=
  .ite { h with slices := wf_map (fun v => { v with heldQ := v.heldQ.filter (fun x => x ≠ who) }) h.slices } h

theorem Inv.after_dropDesc (h : Inv s) {n seq sub : Nat} : Inv (dropDesc n seq sub s) :=
  .elsewhere h.after_releaseDesc.after_modCore.after_leaveAll

theorem Inv.after_endWaits (h : Inv s) {x : Xfer} : Inv (endWaits x s) := by
  unfold endWaits
  split
  · exact h.after_withdraw
  · exact h

theorem Inv.after_failDesc (h : Inv s) {n : Nat} {d : Desc} {code : Nat} : Inv (failDesc n d code s) :=
  .after_takeFault (.elsewhere (.foldl h.after_dropDesc fun _ _ hs => hs.after_endWaits))

/-! ### Regulators (13 R367) -/

theorem Inv.after_admitDebits (h : Inv s) {p n seq sub : Nat} {ds : List (Nat × Nat)} : Inv (admitDebits p n seq sub ds s).2 := by
  unfold admitDebits
  dsimp only
  split
  · exact .elsewhere (.foldl h fun _ _ hs => hs.after_debit)
  · split
    · exact h
    · exact h.elsewhere

/-! ### One turn -/

theorem Inv.after_joinHeld (h : Inv s) {a : Nat} {who : Nat × Nat × Nat} : Inv (joinHeld a who s) := h.after_modSlice

theorem Inv.after_leaveHeld (h : Inv s) {a : Nat} {who : Nat × Nat × Nat} : Inv (leaveHeld a who s) := .ite h.after_modSlice h

theorem Inv.after_readB (h : Inv s) {p n a len : Nat} : Inv (readB p n a len s).st := by
  unfold readB
  refine .foldl_in Acc.st h fun _ _ hs => ?_
  split
  · exact hs
  · exact hs.after_bRead

theorem Inv.after_writeB (h : Inv s) {p n : Nat} {d : Desc} {order a : Nat} {bs : List Byte} {mis : Bool} :
    Inv (writeB p n d order a bs mis s).2 := by
  unfold writeB
  dsimp only
  split
  · exact .pair h.after_bWrite
  · exact h.after_memAdd

theorem Inv.after_landSpad (h : Inv s) {t a : Nat} {x : List Byte × List Nat} : Inv (landSpad t a x s) :=
  .ite h.after_spadWrite h.after_spadWrite.after_modCore

theorem Inv.after_turnFetch (h : Inv s) {p n : Nat} {d : Desc} {a len : Nat} : Inv (turnFetch p n d a len s).st := by
  unfold turnFetch
  dsimp only
  split
  · exact h
  · split
    · exact h.after_readB
    · split
      · exact h
      · exact h
    · split
      · exact h
      · split
        · exact h
        · exact h

theorem Inv.after_turnStore (h : Inv s) {p n : Nat} {d : Desc} {k dst : Nat} {x : List Byte × List Nat} :
    Inv (turnStore p n d k dst x s).2 := by
  unfold turnStore
  dsimp only
  split
  · exact h.after_writeB
  · exact .pair h.after_landSpad
  · split
    · exact .pair h
    · exact .pair h.after_landSpad

theorem Inv.after_moveTurn (h : Inv s) {p n : Nat} {d : Desc} {k : Nat} {fl : Flips} : Inv (moveTurn p n d k fl s).2 := by
  unfold moveTurn
  extract_lets w i f src who mine a s1 r q k' st s2
  have h1 : Inv s1 := .foldl h.after_admitDebits fun _ _ hs => hs.after_leaveHeld
  have hq : Inv q.2 := h1.after_turnFetch.after_turnStore
  split
  · exact .pair h.after_joinHeld
  split
  · exact .pair h.after_noteHeld
  split
  · exact .pair h.after_admitDebits
  split
  · exact .pair h1.after_turnFetch
  split
  · exact hq
  · exact .pair (.ite hq.after_putDesc.after_releaseDesc hq.after_putDesc)

/-! ### Edge descriptors -/

theorem Inv.after_sealChunk (h : Inv s) {p : Nat} {pt : List Byte} {r : List Byte × State} (hr : sealChunk p pt s = some r) : Inv r.2 := by
  unfold sealChunk at hr
  split at hr
  · cases hr
  · obtain rfl := Option.some.inj hr
    exact .pair h.after_modPart

theorem Inv.after_sealAll {p f : Nat} {bs : List Byte} (h : Inv s) {r : List Byte × State} (hr : sealAll p f bs s = some r) : Inv r.2 := by
  induction f generalizing bs s r with
  | zero =>
    cases hr
    exact .pair h
  | succ f ih =>
    unfold sealAll at hr
    split at hr
    · cases hr
      exact .pair h
    split at hr
    · cases hr
    next c t hc =>
      obtain ⟨r', hr', rfl⟩ := Option.map_eq_some_iff.mp hr
      have ht : Inv t := h.after_sealChunk hc
      exact .pair (ih ht hr')

theorem Inv.after_tagFailure (h : Inv s) {inj : Bool} {p q kid : Nat} : Inv (tagFailure inj p q kid s) :=
  h.elsewhere.after_ovfEvent.after_raiseI

theorem Inv.after_emitQp (h : Inv s) {q frames : Nat} {m : HostMsg} : Inv (emitQp q frames m s) := h.after_sendFrames

theorem Inv.after_paceQp (h : Inv s) {q n : Nat} : Inv (paceQp q n s) := h.after_modQp

theorem Inv.after_outOne (h : Inv s) {q : Nat} : Inv (outOne q s) := h.after_modQp

theorem Inv.after_sendHostWrite (h : Inv s) {q va : Nat} {rkey : W32} {bs : List Byte} : Inv (sendHostWrite q va rkey bs s) :=
  h.after_emitQp.after_outOne.after_paceQp

theorem Inv.after_sendHostRead (h : Inv s) {q va : Nat} {rkey : W32} {n : Nat} : Inv (sendHostRead q va rkey n s) :=
  h.after_emitQp.after_outOne

theorem Inv.after_startXfer (h : Inv s) {p n : Nat} {d : Desc} : Inv (startXfer p n d s) := h.elsewhere

theorem Inv.after_sendRun (h : Inv s) {p n : Nat} {d : Desc} {dst : Nat} {fin : Bool} {bs : List Byte} :
    Inv (sendRun p n d dst fin bs s).2.2 := by
  unfold sendRun
  extract_lets op cut r
  split
  · exact .triple h
  · exact .triple h.after_queueTxns.after_pump

theorem Inv.after_sendHostMsg (h : Inv s) {p : Nat} {d : List W64} {j : Nat} {bs : List Byte} : Inv (sendHostMsg p d j bs s).2 := by
  unfold sendHostMsg
  extract_lets q put
  split
  · exact .pair h
  split
  · exact .pair h.after_sendHostWrite
  split
  · exact .pair h
  next hc => exact .pair (h.after_sealAll hc).after_sendHostWrite

theorem Inv.after_sendPart (h : Inv s) {p : Nat} {d : Desc} {k : Nat} : Inv (sendPart p d k s) := .ite h.after_sendHostMsg h

theorem Inv.after_edgeRead (h : Inv s) {p n : Nat} {d : Desc} {k : Nat} : Inv (edgeRead p n d k s).2.2 := by
  unfold edgeRead
  dsimp only
  split
  · exact h.after_bRead.after_sendPart
  · split
    · exact h.after_bRead.after_sendRun
    · split
      · exact .elsewhere h.after_bRead.after_sendHostMsg
      · exact h.after_bRead

theorem Inv.after_askQp {q f : Nat} (h : Inv s) : Inv (askQp q f s) := by
  induction f generalizing s with
  | zero => exact h
  | succ f ih =>
    unfold askQp
    split
    · exact h
    split
    · exact h
    split
    · exact h
    · exact ih (.elsewhere h.after_sendHostRead)

theorem Inv.after_edgeAsk (h : Inv s) {p : Nat} {d : Desc} : Inv (edgeAsk p d s).2.2 := by
  unfold edgeAsk
  dsimp only
  split
  · exact .triple h.elsewhere.after_askQp
  · exact .triple h.after_queueTxns.after_pump

theorem Inv.after_edgeStep (h : Inv s) {p n : Nat} {d : Desc} {k : Nat} : Inv (edgeStep p n d k s).2.2 := by
  unfold edgeStep
  split
  · exact h.after_edgeAsk
  · exact h.after_edgeRead

theorem Inv.after_stampXfer (h : Inv s) {uid : Nat} : Inv (stampXfer uid s) := h.elsewhere

theorem Inv.after_edgeTurn (h : Inv s) {p n : Nat} {d : Desc} {k : Nat} : Inv (edgeTurn p n d k s).2 := by
  unfold edgeTurn
  extract_lets w who e write a r s1 s2
  have ha : Inv a.2 := by
    unfold a
    split
    · exact h.after_admitDebits
    · exact .pair h
  have h1 : Inv s1 := .after_edgeStep (.ite ha.after_leaveHeld ha)
  split
  · exact .pair h
  split
  · exact .pair h.after_joinHeld
  split
  · exact .pair ha
  split
  · exact .pair h1
  split
  · exact .pair h1.after_putDesc
  · extract_lets s3
    have h3 : Inv s3 := .after_stampXfer (.ite h1.after_putDesc.after_releaseDesc h1.after_putDesc)
    split
    · exact .pair h3.after_injDone
    · exact .pair h3

theorem Inv.after_edgeRest {p n f : Nat} {d : Desc} (h : Inv s) : Inv (edgeRest p n f d s).2 := by
  induction f generalizing s d with
  | zero => exact h
  | succ f ih =>
    unfold edgeRest
    split
    · extract_lets e s1 r
      have h1 : Inv s1 := .ite (.foldl h fun _ _ hs => hs.after_debit) h
      split
      · exact h1.after_edgeStep
      · exact ih h1.after_edgeStep
    · exact h.after_stampXfer

/-! ### Turns of a core's channels (08 R215) -/

theorem Inv.after_turnOf (h : Inv s) {n ch : Nat} {tgt : Nat × Nat} {fl : Flips} : Inv (turnOf n ch tgt fl s).2 := by
  unfold turnOf
  split
  · exact .pair h
  · extract_lets p r
    have hr : Inv r.2 := by
      unfold r
      split
      · exact h.after_edgeTurn
      · exact h.after_moveTurn
    split
    · exact hr
    · exact .pair hr.after_failDesc

theorem Inv.after_turns {n : Nat} {tgt : Nat × Nat} {fl : Flips} {stop : Core → Bool} {f : Nat} {waits : List Nat} (h : Inv s) :
    Inv (turns n tgt fl stop f waits s) := by
  induction f generalizing s waits with
  | zero => exact h
  | succ f ih =>
    unfold turns
    extract_lets c
    split
    · exact h
    split
    · exact h
    · exact ih (.after_modCore h.after_turnOf)

theorem Inv.after_startEdge (h : Inv s) {p n : Nat} {fresh : Bool} {d : Desc} : Inv (startEdge p n fresh d s) :=
  .ite h.after_failDesc (.after_turns (.ite h.after_putDesc.after_startXfer h.after_putDesc))

/-! ### The commands -/

theorem Inv.after_execDmaDescriptorStart (h : Inv s) {core : Nat} {ch : BitVec 3} : Ends (execDmaDescriptorStart core ch s) := by
  unfold execDmaDescriptorStart
  refine .unit ?_
  split
  · split
    · exact h.after_readHands
    · exact .ite h.after_readHands.after_injDone.after_failDesc (.ite h.after_readHands.after_startEdge h.after_readHands.after_putDesc)
  · exact h.after_readHands

theorem Inv.after_semenSignal (h : Inv s) {n : Nat} {d : Desc} : Inv (semenSignal n d s) := by
  unfold semenSignal
  dsimp only
  split
  · exact h
  · split
    · exact .ite h.after_takeFault (.ite h.after_raise h.after_semSignal)
    · split
      · exact .ite h.after_semSignal h.after_signalAway
      · exact h.after_takeFault

theorem Inv.after_completeDesc (h : Inv s) {core seq sub : Nat} : Inv (completeDesc core seq sub s) := by
  unfold completeDesc
  split
  · exact h
  · exact .ite h.after_dropDesc.after_semenSignal h

theorem Inv.after_execDmaDescriptorComplete (h : Inv s) {core : Nat} {slot : DescEnd} : Ends (execDmaDescriptorComplete core slot s) := by
  unfold execDmaDescriptorComplete
  refine .unit ?_
  split
  · exact h
  · exact .after_completeDesc (.ite h.after_turns h)

theorem Inv.after_execRegulatorRefill (h : Inv s) : Ends (execRegulatorRefill s) :=
  .next (.after_pump (.foldl (.elsewhere h.after_passTo) fun _ _ hs => hs.after_refillPart))

/-! ### Stopping (03 R93; log 12) -/

theorem Inv.after_stopPipe (h : Inv s) {n : Nat} {p : Pipe} : Inv (stopPipe n s p) := by
  unfold stopPipe
  dsimp only
  split
  · exact h
  · split
    · exact h.after_takeFree.after_setCore
    · split
      · exact h.elsewhere.after_completeUop
      · split
        · exact h.elsewhere
        · split
          · exact h.elsewhere.after_setCore
          · exact .ite (.after_takeFault (.after_setCore (.elsewhere h.elsewhere)))
              (.after_unitsWrote (.after_setCore (.elsewhere h.elsewhere)))

theorem Inv.after_stopTurns (h : Inv s) {n : Nat} : Inv (stopTurns n s) := h.after_takeFree.after_turns

theorem Inv.after_readSome (h : Inv s) {n : Nat} : Inv (readSome n s) := by
  unfold readSome
  split
  · exact h
  · exact h.after_takeFree.after_modCore.after_queueDescs

theorem Inv.after_finishDescs (h : Inv s) {n : Nat} : Inv (finishDescs n s) := .foldl h fun _ _ hs => hs.after_dropDesc.after_semenSignal

/-! ### The image (03 Table 3-16) -/

theorem Inv.after_writeImage (h : Inv s) {save : Nat} {m : SMap Byte} : Inv (writeImage save m s) :=
  .foldl h fun _ _ hs => hs.after_belWrite

theorem Inv.after_debitImage (h : Inv s) {p n save : Nat} {out : Bool} : Inv (debitImage p n save out s) :=
  .foldl h fun _ _ hs => .ite hs.after_debit hs.after_debit.after_debit

/-! ### Preemption -/

theorem Inv.after_handOver (h : Inv s) {n : Nat} {j : CoreJob} {c : Core} : Inv (handOver n j c s) := h.elsewhere

theorem Inv.after_keepImage (h : Inv s) {i : Image} : Inv (keepImage i s) := h.elsewhere

theorem Inv.after_orderLost (h : Inv s) {n : Nat} {j : CoreJob} {c : Core} : Inv (orderLost n j c s) := .ite h.after_addLost h

theorem Inv.after_imageRelease (h : Inv s) {i : Image} {slot : Nat} : Inv (imageRelease i slot s) :=
  .ite h.after_belRead h.after_belRead.after_belWrite

theorem Inv.after_imageDescFail (h : Inv s) {part jobid ch : Nat} {fpc : W64} {code : Nat} :
    Inv (imageDescFail part jobid ch fpc code s) := by
  have hwrite : ∀ a bs s, Inv s → Inv (belWrite a bs s).2 := fun _ _ _ hs => hs.after_belWrite
  unfold imageDescFail
  -- opaque, so that no check of a type runs it
  obtain ⟨wr, hwr⟩ : ∃ f, belWrite = f := ⟨_, rfl⟩
  rw [hwr] at hwrite ⊢
  split
  · exact h
  · exact hwrite _ _ _ (hwrite _ _ _ h)

theorem Inv.after_runOn (h : Inv s) {n : Nat} {i : Image} {d : Desc} {slot : Nat} : Inv (runOn n i d slot s) := by
  unfold runOn
  split
  · split
    · exact .ite (.ite h.after_edgeRest.after_imageRelease h.after_edgeRest) (.after_imageDescFail (.elsewhere h.after_edgeRest))
    · exact h
  · exact h

theorem Inv.after_preempt (h : Inv s) {n : Nat} : Inv (preempt n s) := by
  unfold preempt
  split
  · exact h
  split
  · exact h
  extract_lets s1 s2 c
  have h2 : Inv s2 := .foldl h.after_readHands.after_stopTurns.after_readSome.after_finishDescs fun _ _ hs => hs.after_stopPipe
  split
  · split
    · exact h2
    split
    · exact h2.after_takeFault
    split
    · exact .after_takeFault (.foldl h2 fun _ _ hs => hs.after_attrRepair)
    split
    · exact h2.after_takeFault
    · extract_lets s3 i s4 s5 s6
      have h4 : Inv s4 := h2.after_debitImage.after_writeImage.after_orderLost.after_handOver.after_keepImage
      have h5 : Inv s5 := .foldl h4 fun _ _ hs => hs.after_runOn
      clear_value s5
      exact .after_modCore h5.elsewhere
  · exact h2

/-! ### Results and power (13 R363, 19 R507, R509) -/

theorem Inv.after_settleJob (h : Inv s) {n : Nat} : Inv (settleJob n s) := by
  unfold settleJob
  dsimp only
  split
  · exact h
  · split
    · exact h
    · exact h.elsewhere

theorem Inv.after_quadOff (h : Inv s) {q : Nat} : Inv (quadOff q s) := by
  unfold quadOff
  exact .after_modQuad (.foldl h fun _ _ hs => hs.after_settleJob.after_setCore)

/-! ### After the save (03 R95, 10 R271) -/

theorem Inv.after_imageChannel (h : Inv s) {i : Image} {ch : Nat} : Inv (imageChannel i ch s) := by
  have hread : ∀ a n, Inv (belRead a n s).2.2 := fun _ _ => h.after_belRead
  have hwrite : ∀ a bs s, Inv s → Inv (belWrite a bs s).2 := fun _ _ _ hs => hs.after_belWrite
  unfold imageChannel
  -- opaque, so that no check of a type runs them
  obtain ⟨rd, hrd⟩ : ∃ f, belRead = f := ⟨_, rfl⟩
  obtain ⟨wr, hwr⟩ : ∃ f, belWrite = f := ⟨_, rfl⟩
  rw [hrd] at hread ⊢
  rw [hwr] at hwrite ⊢
  dsimp only
  split
  · exact hread _ _
  split
  · exact hwrite _ _ _ (hread _ _)
  split
  · exact hwrite _ _ _ (hread _ _)
  · exact hwrite _ _ _ (hwrite _ _ _ (hread _ _))

theorem Inv.after_lateSemen (h : Inv s) {part tcore tjob tick sem : Nat} : Inv (lateSemen part tcore tjob tick sem s) := by
  unfold lateSemen
  split
  · exact .ite h.after_semAdd h.after_raise
  · exact .ite h.after_imageSemAdd h.after_raise
  · exact h.after_raise

theorem Inv.after_imageDescDone (h : Inv s) {d : ImgDesc} : Inv (imageDescDone d s) := by
  unfold imageDescDone
  dsimp only
  split
  · split
    · exact h.after_belWrite.after_imageRelease.after_imageChannel
    · exact h
  · split
    · refine .after_lateSemen ?_
      split
      · exact h.after_belWrite.after_imageRelease.after_imageChannel
      · exact h
    · refine .after_imageDescFail ?_
      split
      · exact h.after_belWrite.after_imageRelease.after_imageChannel
      · exact h

/-! ### Resumption (03 R94) -/

theorem Inv.after_readImage (h : Inv s) {save : Nat} : Inv (readImage save s).2 := by
  unfold readImage
  refine .foldl_in Prod.snd h fun _ _ hs => ?_
  split
  · exact hs
  · exact hs.after_belRead

theorem Inv.after_resumeJob (h : Inv s) {n : Nat} {j : CoreJob} {i : Image} {arb : BitVec 1} : Inv (resumeJob n j i arb s) := by
  unfold resumeJob
  extract_lets +onlyGivenNames r s1 m c0 c _ s2
  have h1 : Inv s1 := h.after_debitImage.after_readImage
  have h2 : Inv s2 := h1.after_setCore.after_spadWrote
  clear_value s2
  split
  · exact h1.after_setCore.after_takeFault
  split
  · extract_lets +onlyGivenNames _ f s3
    have h3 : Inv s3 := h2.after_setCore
    clear_value s3
    exact h3.elsewhere
  · exact h2

/-! ### Row remaps (09 R247, R248) -/

theorem Inv.after_execRowRemapDone (h : Inv s) {slice : Nat} : Ends (execRowRemapDone slice s) := by
  unfold execRowRemapDone
  refine .unit ?_
  split
  · exact h
  · exact .ite h h.after_passTo.after_setSlice

/-! ### Retrains (09 R251) -/

theorem Inv.after_failSlice (h : Inv s) {n : Nat} : Inv (failSlice n s) := h.after_modSlice.after_raise

theorem Inv.after_execSliceRetrain (h : Inv s) {slice : Nat} : Ends (execSliceRetrain slice s) :=
  .unit (.ite h (.ite h.elsewhere.after_failSlice h.elsewhere.after_setSlice))

theorem Inv.after_creditHeld (h : Inv s) {slice t : Nat} : Inv (creditHeld slice t s) :=
  .foldl h.elsewhere fun _ _ hs => .ite hs.after_setCore hs

theorem Inv.after_execSliceRetrainRelease (h : Inv s) {slice : Nat} : Ends (execSliceRetrainRelease slice s) := by
  unfold execSliceRetrainRelease
  refine .unit ?_
  split
  · exact h.after_passTo.after_creditHeld.after_setSlice.after_raise
  · exact h

/-! ### Refresh (15 R412) -/

theorem Inv.after_execRefreshHold (h : Inv s) {slice : Nat} : Ends (execRefreshHold slice s) := .unit h.after_passTo.after_setSlice

/-! ### Patrol scrub (09 R240, 20 R522) -/

theorem Inv.after_abortWhere (h : Inv s) {p : Nat → Bool} : Inv (abortWhere p s) := .foldl h fun _ _ hs => .ite hs.after_modPart hs

theorem Inv.after_reserveError (h : Inv s) {slice o : Nat} : Inv (reserveError slice o s) := by
  unfold reserveError
  dsimp only
  split
  · exact h.after_setPoison.after_listPoison.after_perrInc.after_raise.after_rowRepair.after_bondError.after_takeFree.after_abortWhere
  · exact h.after_setPoison.after_listPoison.after_perrInc.after_raise.after_rowRepair.after_bondError.after_takeFree.after_abortWhere
  · exact h.after_setPoison.after_listPoison.after_perrInc.after_raise.after_rowRepair.after_bondError.after_takeFree

theorem Inv.after_upsetBytes (h : Inv s) {a : Nat} {fl : Flips} : Inv (upsetBytes a fl s) :=
  .foldl h fun _ _ hs => .ite hs { hs with mem := wf_set _ _ hs.mem }

theorem Inv.after_execPatrolScrub (h : Inv s) {slice granule : Nat} {upset : Flips} : Ends (execPatrolScrub slice granule upset s) := by
  unfold execPatrolScrub
  refine .unit ?_
  split
  · exact h
  · split
    · exact .ite h.after_cntRead.after_reserveError h.after_cntRead
    · exact .ite h.after_upsetBytes.after_pageStops h.after_upsetBytes.after_pageStops.after_cntRead.after_ctlRead

/-! ### Attributes and scrubs (13 R366, R372) -/

theorem Inv.after_execAttributeWriteComplete (h : Inv s) {granule : Nat} : Ends (execAttributeWriteComplete granule s) := by
  refine .unit ?_
  split
  · exact h
  · extract_lets b g s1
    have h1 : Inv s1 := { h with gran := wf_set granule g h.gran, wp := wf_clear (Nat.le_add_right _ _) h.wp }
    exact h1.after_modPart

theorem Inv.after_zeroGranule (h : Inv s) {g : Nat} : Inv (zeroGranule g s) := by
  unfold zeroGranule
  extract_lets s1 b s2
  have h1 : Inv s1 := h.after_cntWrite.after_memoTouch
  have h2 : Inv s2 := { h1 with mem := wf_clear (Nat.le_add_right _ _) h1.mem }
  exact .foldl h2 fun _ _ hs => hs.after_clearPoison

theorem Inv.after_execGranuleScrubComplete (h : Inv s) {granule : Nat} : Ends (execGranuleScrubComplete granule s) := by
  unfold execGranuleScrubComplete
  refine .unit ?_
  split
  · exact h
  · exact .after_modPart (.after_zeroGranule (.ite h h.after_debit))

/-! ### Completion -/

theorem Inv.after_modFold (h : Inv s) {p : Nat} {f : Fold → Fold} : Inv (modFold p f s) := h.after_modPart

theorem Inv.after_descDone (h : Inv s) {n seq sub : Nat} : Inv (descDone n seq sub s) := by
  unfold descDone
  exact h.after_releaseDesc.after_modCore

theorem Inv.after_setPull (h : Inv s) {layer idx st : Nat} : Inv (setPull layer idx st s) := h.after_modLayer

theorem Inv.after_doneAcked (h : Inv s) {layer chip : Nat} : Inv (doneAcked layer chip s) := h.after_modLayer.after_finishDispatch

theorem Inv.after_refillDone (h : Inv s) {page : Nat} : Inv (refillDone page s) := h.after_clearPoison.after_memoTouch.after_raise

theorem Inv.after_xferDone (h : Inv s) {x : Xfer} : Inv (xferDone x s) := by
  unfold xferDone
  split
  · exact h.after_descDone
  · exact h.after_imageDescDone
  · exact h.after_homeSettled.after_finishDispatch
  · exact h.after_doneAcked
  · exact h.after_outGot.after_combineNext
  · exact h.after_outServed.after_combineNext
  · exact .ite h.after_setPull h
  · exact h.after_modFold
  · exact h.after_modFold
  · exact h.after_modFold
  · exact h.after_modFold
  · exact h.after_modFold
  · exact h.after_modFold
  · exact h.after_refillDone
  · exact h.elsewhere
  · exact h
  · exact .ite h.elsewhere h

/-! ### Failure -/

theorem Inv.after_clearWp (h : Inv s) {pages : List Nat} : Inv (clearWp pages s) :=
  { h with wp := wf_setAll pages h.wp }

theorem Inv.after_disown (h : Inv s) {p : XOwner → Bool} : Inv (disown p s) := h.elsewhere

theorem Inv.after_foldBroken (h : Inv s) {p : Nat} : Inv (foldBroken p s) := by
  unfold foldBroken
  refine .after_raise (.after_modFold (.after_disown ?_))
  split
  · exact h.after_clearWp
  · exact h

theorem Inv.after_pullFailed (h : Inv s) {layer idx : Nat} : Inv (pullFailed layer idx s) := by
  unfold pullFailed
  dsimp only
  split
  · split
    · exact h.after_setPull.after_abortSlots
    · exact h.after_setPull
  · exact h.after_setPull

theorem Inv.after_tier3Failed (h : Inv s) {p : Nat} : Inv (tier3Failed p s) := by
  unfold tier3Failed
  exact h.after_modFold

theorem Inv.after_xferFail (h : Inv s) {x : Xfer} {code : Nat} : Inv (xferFail x code s) := by
  unfold xferFail
  split
  · split
    · exact h.after_failDesc
    · exact h
  · exact h.after_imageDescFail
  · exact h.after_abortOne.after_homeSettled.after_finishDispatch
  · exact h.after_doneAcked
  · exact h.after_combineNext
  · exact h.after_outServed.after_combineNext
  · exact .ite h.after_pullFailed h
  · exact h.after_foldBroken
  · exact h.after_foldBroken
  · exact h.after_tier3Failed
  · exact h.after_foldBroken
  · exact h.after_tier3Failed
  · exact h
  · exact h
  · exact h
  · exact h
  · exact h

theorem Inv.after_dropXfer (h : Inv s) {x : Xfer} : Inv (dropXfer x s) := h.elsewhere

theorem Inv.after_putXfer (h : Inv s) {x : Xfer} : Inv (putXfer x s) := h.elsewhere

theorem Inv.after_settleQuads (h : Inv s) : Inv (settleQuads s) := .foldl h fun _ _ hs => .ite hs.after_quadOff hs

theorem Inv.after_endFail (h : Inv s) {x : Xfer} {code : Nat} : Inv (endFail x code s) :=
  h.after_dropXfer.after_endWaits.after_xferFail.after_settleQuads

theorem Inv.after_discardReads (h : Inv s) {p : Xfer → Bool} : Inv (discardReads p s) := h.elsewhere

theorem Inv.after_timeoutDesc (h : Inv s) {core : Nat} {d : Desc} {net : Bool} {limit : Nat} : Inv (timeoutDesc core d net limit s) := by
  unfold timeoutDesc
  split
  · exact .ite h h.after_passTo.after_failDesc
  · exact .ite h h.after_passTo.after_discardReads.after_failDesc.after_settleQuads
  · exact h

theorem Inv.after_timeoutImage (h : Inv s) {x : Xfer} {limit : Nat} : Inv (timeoutImage x limit s) := by
  unfold timeoutImage
  split
  · exact h
  · refine .after_settleQuads (.after_xferFail ?_)
    split
    · exact h.after_passTo.after_discardReads
    · exact h.after_passTo.after_dropXfer

theorem Inv.after_timeoutSlot (h : Inv s) {core slot : Nat} {net : Bool} {limit : Nat} : Inv (timeoutSlot core slot net limit s) := by
  unfold timeoutSlot
  split
  · exact h.after_timeoutDesc
  · split
    · exact h.after_timeoutImage
    · exact h

theorem Inv.after_progress (h : Inv s) {x : Xfer} {n : Nat} : Inv (progress x n s) :=
  .ite h.after_dropXfer.after_xferDone.after_settleQuads h.after_putXfer

/-! ### A port that goes down (16 R452) -/

theorem Inv.after_refuseFlit (h : Inv s) {reason : Nat} {f : TxFlit} : Inv (refuseFlit reason f s) := by
  unfold refuseFlit
  dsimp only
  split
  · exact h.after_freeBuf.after_sendRefuse
  · split
    · exact h.after_freeBuf
    · split
      · exact h.after_freeBuf.after_endFail
      · exact h.after_freeBuf

theorem Inv.after_dropPort (h : Inv s) {reason : Nat} {p : BPort} {st : PortSt} : Inv (dropPort reason p st s) := by
  unfold dropPort
  exact .after_pump (.foldl h.after_setPort fun _ _ hs => hs.after_refuseFlit)

theorem Inv.after_portDown (h : Inv s) {p : BPort} : Inv (portDown p s) := h.after_dropPort.after_raise

theorem Inv.after_replayPort (h : Inv s) {p : BPort} : Inv (replayPort p s) := .ite h.after_replayAll.after_portDown h.after_replayAll

/-! ### Flits -/

theorem Inv.after_loopError (h : Inv s) {p : BPort} {n : Nat} : Inv (loopError p n s) := h.after_setPort.after_ovfEvent

theorem Inv.after_idleFlit (h : Inv s) {p : BPort} {bs : List Byte} : Inv (idleFlit p bs s) :=
  .ite (.ite h.after_loopError h) (.ite h.after_emit h)

theorem Inv.after_execFlitData (h : Inv s) {port : BPort} {flit : List Byte} : Ends (execFlitData port flit s) :=
  .next (.ite h.after_idleFlit (.ite h.after_discardFlit.after_sendNak (.ite h h.after_flitTake.after_dataFlit.after_pump)))

theorem Inv.after_execFlitNak (h : Inv s) {port : BPort} {flit : List Byte} : Ends (execFlitNak port flit s) := by
  unfold execFlitNak
  refine .next ?_
  split
  · exact h.after_idleFlit
  · exact .ite h.after_discardFlit (.ite h (.ite h.after_flitTake.after_pump h.after_flitTake.after_replayPort.after_pump))

theorem Inv.after_execFlitCtrl (h : Inv s) {port : BPort} {flit : List Byte} : Ends (execFlitCtrl port flit s) := by
  unfold execFlitCtrl
  dsimp only
  refine .next ?_
  split
  · exact h.after_idleFlit
  · split
    · exact h.after_discardFlit
    · split
      · exact h
      · split
        · exact h.after_flitTake.after_pump
        · exact .after_pump (.after_raise (.foldl h.after_flitTake.after_setPort fun _ _ hs => hs.after_modPart))

theorem Inv.after_execFlitIdle (h : Inv s) {port : BPort} {flit : List Byte} : Ends (execFlitIdle port flit s) :=
  .next (.ite h.after_idleFlit (.ite h.after_discardFlit (.ite h h.after_flitTake.after_pump)))

theorem Inv.after_execReplayTimeout (h : Inv s) {port : BPort} : Ends (execReplayTimeout port s) :=
  .next (.ite h h.after_passTo.after_replayPort.after_pump)

/-! ### Domains off (19 R506, R508, R514) -/

theorem Inv.after_linksOff (h : Inv s) : Inv (linksOff s) := by
  unfold linksOff
  extract_lets +onlyGivenNames s1
  have h1 : Inv s1 := .foldl h fun _ _ hs => hs.after_dropPort.after_modPort
  clear_value s1
  exact h1.elsewhere

theorem Inv.after_flashOff (h : Inv s) : Inv (flashOff s) := .elsewhere (.foldl h fun _ _ hs => hs.after_modFold)

theorem Inv.after_tripOff (h : Inv s) : Inv (tripOff s) :=
  .ite (.ite (.after_flashOff (.ite h.after_linksOff h)) (.ite h.after_linksOff h)) h

/-! ### Time limits (20 R528 to R531) -/

theorem Inv.after_execDmaDescriptorTimeout (h : Inv s) {core slot : Nat} : Ends (execDmaDescriptorTimeout core slot s) :=
  .unit h.after_timeoutSlot.after_tripOff

theorem Inv.after_execNetworkRequestTimeout (h : Inv s) {core slot : Nat} : Ends (execNetworkRequestTimeout core slot s) :=
  .unit h.after_timeoutSlot.after_tripOff

theorem Inv.after_execRemoteCompletionTimeout (h : Inv s) {uid : Nat} : Ends (execRemoteCompletionTimeout uid s) := by
  unfold execRemoteCompletionTimeout
  split
  · exact .next h
  · split
    · exact .next h
    · exact .next (.ite h h.after_passTo.after_endFail.after_tripOff)

/-! ### Transactions for this module (16 R434 to R437, R442 to R445) -/

theorem Inv.after_dropRx (h : Inv s) {opc : Nat} : Inv (dropRx opc s) := h.elsewhere

theorem Inv.after_takeTxn (h : Inv s) {opc : Nat} : Inv (takeTxn opc s) := h.after_dropRx.after_freeBuf

theorem Inv.after_refuseTxn (h : Inv s) {t : Txn} {reason : Nat} : Inv (refuseTxn t reason s) := by
  unfold refuseTxn
  exact .after_pump (.after_sendRefuse (.ite h.elsewhere.after_ovfEvent h.elsewhere.after_ovfEvent.after_setWin.after_raise))

theorem Inv.after_noteWaits (h : Inv s) {a n : Nat} {write : Bool} : Inv (noteWaits a n write s) := by
  unfold noteWaits
  split
  · exact .foldl h fun _ _ hs => .ite hs.after_noteHeld hs
  · exact h

theorem Inv.after_repairPages (h : Inv s) {a n : Nat} : Inv (repairPages a n s) := .foldl h fun _ _ hs => .ite hs.after_attrRepair hs

theorem Inv.after_takeHeld (h : Inv s) {opc : Nat} : Inv (takeHeld opc s) := h.elsewhere.after_freeBuf

theorem Inv.after_serveTxn (h : Inv s) {opc : Nat} {write : Bool} {serve : HeldTxn → State → State} {refused : Txn → Nat → State → State}
    (hserve : ∀ x s, Inv s → Inv (serve x s)) (hrefused : ∀ t r s, Inv s → Inv (refused t r s)) :
    Inv (serveTxn opc write serve refused s) := by
  unfold serveTxn
  split
  · exact .ite h (hserve _ _ h.after_takeHeld)
  split
  · exact h
  · extract_lets t r w a x s1
    split
    · exact hrefused _ _ _ (.after_takeTxn (.ite h.after_repairPages h))
    split
    · have h1 : Inv s1 := h.after_dropRx.after_noteWaits
      exact h1.elsewhere
    · exact hserve _ _ h.after_takeTxn

theorem Inv.after_writeRefused (h : Inv s) {t : Txn} {reason : Nat} : Inv (writeRefused t reason s) := by
  unfold writeRefused
  exact .ite h.after_refuseTxn.after_abortAt h.after_refuseTxn

theorem Inv.after_serveWrite (h : Inv s) {h' : HeldTxn} : Inv (serveWrite h' s) :=
  .ite h.after_partWrite.after_writeRefused h.after_partWrite.after_noteCombine.after_ackFlit.after_pump

theorem Inv.after_execTxnWrite (h : Inv s) : Ends (execTxnWrite s) :=
  .next (h.after_serveTxn (fun _ _ hs => hs.after_serveWrite) fun _ _ _ hs => hs.after_writeRefused)

theorem Inv.after_serveAdd (h : Inv s) {x : HeldTxn} : Inv (serveAdd x s) := by
  unfold serveAdd
  extract_lets t u pos r
  have hr : Inv r.2 := by
    refine .foldl_in Prod.snd (.pair h.after_takeUid.after_chargeWrite) fun _ _ hs => ?_
    split
    · exact hs
    · exact hs.after_memAdd
  exact .ite hr.after_refuseTxn hr.after_ackFlit.after_pump

theorem Inv.after_execTxnAdd (h : Inv s) : Ends (execTxnAdd s) :=
  .next (h.after_serveTxn (fun _ _ hs => hs.after_serveAdd) fun _ _ _ hs => hs.after_refuseTxn)

theorem Inv.after_serveRead (h : Inv s) {h' : HeldTxn} : Inv (serveRead h' s) :=
  .ite h.after_partRead.after_refuseTxn h.after_partRead.after_queueTxns.after_pump

theorem Inv.after_execTxnRead (h : Inv s) : Ends (execTxnRead s) :=
  .next (h.after_serveTxn (fun _ _ hs => hs.after_serveRead) fun _ _ _ hs => hs.after_refuseTxn)

theorem Inv.after_respWrite (h : Inv s) {p a : Nat} {bs : List Byte} : Inv (respWrite p a bs s).2 := by
  unfold respWrite
  dsimp only
  split
  · split
    · exact h.after_waitHold
    · exact h.after_waitHold.after_bStore
  · split
    · exact h.after_waitHold.after_bWrite.after_touchHeld.after_bWrite
    · exact h.after_waitHold.after_bWrite

theorem Inv.after_landBytes (h : Inv s) {x : Xfer} {a : Nat} {bs : List Byte} : Inv (landBytes x a bs s).2 := by
  unfold landBytes
  split
  · split
    · exact h.after_bStore
    · exact h
  · refine .foldl_in Prod.snd h fun _ _ hs => ?_
    split
    · exact hs
    · exact hs.after_respWrite
  · refine .foldl_in Prod.snd h fun _ _ hs => ?_
    split
    · exact hs
    · exact hs.after_respWrite
  · split
    · exact h.after_belWrite
    · exact h

theorem Inv.after_execTxnReadrsp (h : Inv s) : Ends (execTxnReadrsp s) := by
  unfold execTxnReadrsp
  split
  · exact .next h
  split
  · exact .next h.after_takeTxn.after_pump
  · extract_lets a n free waits s1 r
    have h1 : Inv s1 := h.after_takeTxn
    have hr : Inv r.2 := .after_landBytes (.ite h1 h1.after_chargeWrite)
    split
    · exact .next h.after_noteWaits
    · exact .next (.after_tripOff (.after_pump (.ite hr.after_endFail hr.after_progress)))

theorem Inv.after_ackTag (h : Inv s) {chip tag n : Nat} : Inv (ackTag chip tag n s) := by
  unfold ackTag
  dsimp only
  refine .foldl_in Prod.snd h fun _ _ hs => ?_
  split
  · exact hs
  · exact hs.after_progress

theorem Inv.after_execTxnAcks (h : Inv s) : Ends (execTxnAcks s) := by
  unfold execTxnAcks
  split
  · exact .next h
  · exact .next (.after_tripOff (.after_pump (.foldl h.after_takeTxn fun _ _ hs => hs.after_ackTag)))

theorem Inv.after_execTxnRefuse (h : Inv s) : Ends (execTxnRefuse s) := by
  unfold execTxnRefuse
  split
  · exact .next h
  · refine .next ?_
    refine .after_tripOff (.after_pump (.foldl h.after_takeTxn fun _ _ hs => ?_))
    split
    · exact hs.after_endFail
    · exact hs

theorem Inv.after_execAcksFlush (h : Inv s) {chip : BitVec 10} : Ends (execAcksFlush chip s) := by
  unfold execAcksFlush
  split
  · exact .next h
  · exact .next h.after_passTo.after_sendAcks.after_pump

/-! ### Training and port states (16 R447 to R450) -/

theorem Inv.after_execPortTraining (h : Inv s) {port : BPort} : Ends (execPortTraining port s) := .next (.ite h.after_setPort h)

theorem Inv.after_forgetBufs (h : Inv s) {p : BPort} : Inv (forgetBufs p s) := .foldl h.elsewhere fun _ _ hs => hs.after_modPort

theorem Inv.after_trainFailed (h : Inv s) {p : BPort} : Inv (trainFailed p s) := h.after_dropPort.after_modPort

theorem Inv.after_execPortTrainingComplete (h : Inv s) {port : BPort} {res : TrainResult} : Ends (execPortTrainingComplete port res s) := by
  unfold execPortTrainingComplete
  dsimp only
  refine .next ?_
  split
  · exact h
  · split
    · exact h.after_trainFailed
    · split
      · exact h.after_setPort.after_forgetBufs.after_emitFlit.after_setPort.after_raise
      · exact h.after_setPort.after_forgetBufs.after_emitFlit.after_setPort.after_laneInj

theorem Inv.after_execPortDownRetry (h : Inv s) {port : BPort} : Ends (execPortDownRetry port s) :=
  .next (.ite h h.after_passTo.after_setPort)

theorem Inv.after_execPortRetrain (h : Inv s) {port : BPort} : Ends (execPortRetrain port s) := .next (.ite h.after_setPort h)

theorem Inv.after_creditPort (h : Inv s) {p : BPort} {t : Nat} : Inv (creditPort p t s) := h.elsewhere

theorem Inv.after_resetCredits (h : Inv s) {p : BPort} : Inv (resetCredits p s) := h.after_modPort.after_forgetBufs

theorem Inv.after_execPortRetrainComplete (h : Inv s) {port : BPort} {res : TrainResult} : Ends (execPortRetrainComplete port res s) := by
  unfold execPortRetrainComplete
  extract_lets v s1 all bad noSpare sub s2 s3 s4
  have h1 : Inv s1 := h.after_creditPort
  have h3 : Inv s3 := .ite h1.after_modPort.after_resetCredits h1.after_modPort
  have h4 : Inv s4 := .ite h3 h3.after_replayPort
  exact .next (.ite h (.ite h1.after_dropPort h4.after_laneInj.after_raiseI.after_pump))

theorem Inv.after_execFecErrorWindow (h : Inv s) {port : BPort} {lane errors : Nat} : Ends (execFecErrorWindow port lane errors s) :=
  .next (.ite (.ite h.after_loopError h) (.ite h h.after_setPort))

theorem Inv.after_execLaneLockLoss (h : Inv s) {port : BPort} {lane : Nat} : Ends (execLaneLockLoss port lane s) :=
  .next (.ite h h.after_setPort)

/-! ### Frames (17 R456, R457, R466) -/

theorem Inv.after_dropFrame (h : Inv s) {p : HPort} : Inv (dropFrame p s) := h.after_modHport.after_ovfEvent

theorem Inv.after_icrcFrame (h : Inv s) {p : HPort} : Inv (icrcFrame p s) := h.after_modHport.after_ovfEvent

theorem Inv.after_hearFrame (h : Inv s) {p : HPort} : Inv (hearFrame p s).2 := by
  unfold hearFrame
  dsimp only
  split
  · exact .pair h
  · split
    · exact .pair h.after_modHport.after_injDone.after_dropFrame
    · exact .pair h.after_modHport

theorem Inv.after_loopFrame (h : Inv s) {p : HPort} : Inv (loopFrame p s) := .ite h.after_dropFrame h

theorem Inv.after_fecFrame (h : Inv s) {p : HPort} : Inv (fecFrame p s) := h.after_modHport.after_ovfEvent.after_dropFrame

theorem Inv.after_emitFrame (h : Inv s) {p : HPort} {m : HostMsg} : Inv (emitFrame p m s) := h.after_sendFrames

theorem Inv.after_notifyCe (h : Inv s) {q : Nat} : Inv (notifyCe q s) := .ite h h.after_modQp.after_emitQp

theorem Inv.after_execRocePacket (h : Inv s) {port : HPort} {pkt : RocePacket} : Ends (execRocePacket port pkt s) := by
  unfold execRocePacket
  refine .next ?_
  split
  · exact .ite h.after_hearFrame h.after_hearFrame.after_loopFrame
  · split
    · exact h.after_hearFrame.after_dropFrame
    · exact .ite h.after_hearFrame.after_icrcFrame (.ite h.after_hearFrame.after_notifyCe h.after_hearFrame)

theorem Inv.after_learnPeer (h : Inv s) {p : HPort} {ip : BitVec 128} {mac : BitVec 48} : Inv (learnPeer p ip mac s) := h.after_modHport

theorem Inv.after_execArpFrame (h : Inv s) {port : HPort} {arp : ArpFrame} : Ends (execArpFrame port arp s) :=
  .next (.ite h.after_hearFrame (.ite h.after_hearFrame.after_learnPeer.after_emitFrame h.after_hearFrame.after_learnPeer))

theorem Inv.after_execNdFrame (h : Inv s) {port : HPort} {nd : NdFrame} : Ends (execNdFrame port nd s) :=
  .next (.ite h.after_hearFrame (.ite h.after_hearFrame.after_learnPeer.after_emitFrame h.after_hearFrame.after_learnPeer))

theorem Inv.after_execIcmpEchoRequest (h : Inv s) {port : HPort} {v6 : Bool} {dst : BitVec 128} {payload : List Byte} :
    Ends (execIcmpEchoRequest port v6 dst payload s) :=
  .next (.ite h.after_hearFrame (.ite h.after_hearFrame.after_dropFrame (.ite h.after_hearFrame.after_emitFrame h.after_hearFrame)))

theorem Inv.after_execPfcFrame (h : Inv s) {port : HPort} {prio : BitVec 3} {quanta : BitVec 16} : Ends (execPfcFrame port prio quanta s) :=
  .next (.ite h.after_hearFrame (.ite h.after_hearFrame.after_modHport.after_flushFrames h.after_hearFrame))

theorem Inv.after_execPfcPauseExpiry (h : Inv s) {port : HPort} {prio : BitVec 3} : Ends (execPfcPauseExpiry port prio s) :=
  .next (.ite h h.after_passTo.after_modHport.after_flushFrames)

theorem Inv.after_execUnsupportedFrame (h : Inv s) {port : HPort} {why : DropReason} : Ends (execUnsupportedFrame port why s) := by
  unfold execUnsupportedFrame
  refine .next ?_
  split
  · exact h.after_hearFrame.after_loopFrame
  · split
    · exact h.after_hearFrame.after_icrcFrame
    · exact h.after_hearFrame.after_fecFrame
    · exact h.after_hearFrame.after_dropFrame
    · exact h.after_hearFrame.after_dropFrame
    · exact h.after_hearFrame.after_dropFrame

/-! ### Ports (17 R563) -/

theorem Inv.after_execHostPortTrained (h : Inv s) {port : HPort} : Ends (execHostPortTrained port s) := .next (.ite h.after_setHport h)

theorem Inv.after_execHostPortTrainingFailed (h : Inv s) {port : HPort} : Ends (execHostPortTrainingFailed port s) :=
  .next (.ite h.after_setHport h)

theorem Inv.after_execHostLinkLoss (h : Inv s) {port : HPort} : Ends (execHostLinkLoss port s) := .next (.ite h.after_setHport h)

/-! ### Ends of sessions and queue pairs (17 R463, R464, R474) -/

theorem Inv.after_noteOut (h : Inv s) {q : Nat} : Inv (noteOut q s) := h.after_modQp

theorem Inv.after_endSession (h : Inv s) {q : Nat} : Inv (endSession q s) := by
  unfold endSession
  split
  · exact .ite h.elsewhere h
  · exact h

theorem Inv.after_qpError (h : Inv s) {q : Nat} : Inv (qpError q s) := by
  unfold qpError
  dsimp only
  split
  · exact h
  · exact .after_noteOut (.after_endSession (.foldl h.after_setQp.after_emitQp fun _ _ hs => hs.after_endFail))

theorem Inv.after_closeQp (h : Inv s) {q : Nat} : Inv (closeQp q s) := .ite h.after_setQp.after_endSession h

theorem Inv.after_freeQp (h : Inv s) {q : Nat} : Inv (freeQp q s) := h.elsewhere.after_setQp

/-! ### Connections (17 R459, R460, R462) -/

theorem Inv.after_resolvePeer (h : Inv s) {p : HPort} {ip : BitVec 128} : Inv (resolvePeer p ip s) := .ite h h.after_emitFrame

theorem Inv.after_execCmReq (h : Inv s) {port : HPort} {req : CmReq} : Ends (execCmReq port req s) := by
  unfold execCmReq
  refine .next ?_
  split
  · exact h
  · split
    · exact .after_emitFrame (.ite (.elsewhere h.after_setQp.after_resolvePeer) h.after_setQp.after_resolvePeer)
    · exact h.after_emitFrame

theorem Inv.after_execCmRtu (h : Inv s) {qp : BitVec 12} : Ends (execCmRtu qp s) :=
  .next (.ite h (.ite (.elsewhere h.after_setQp) h.after_setQp))

theorem Inv.after_execCmDreq (h : Inv s) {qp : BitVec 12} : Ends (execCmDreq qp s) := .next (.ite h h.after_emitQp.after_closeQp)

theorem Inv.after_execCmDrep (h : Inv s) {qp : BitVec 12} : Ends (execCmDrep qp s) := .next (.ite h.after_freeQp h)

theorem Inv.after_execQpDreqTimeout (h : Inv s) {qp : BitVec 12} : Ends (execQpDreqTimeout qp s) := by
  unfold execQpDreqTimeout
  refine .next ?_
  split
  · exact h.after_passTo.after_freeQp
  · exact h

/-! ### The J9 as responder (17 R461, R472, R473) -/

theorem Inv.after_nakError (h : Inv s) {q : Nat} : Inv (nakError q s) := h.after_emitQp.after_qpError

theorem Inv.after_cspaceRead (h : Inv s) {q va len : Nat} : Inv (cspaceRead q va len s) := .ite h.after_emitQp h.after_nakError

theorem Inv.after_execCspaceRdmaRead (h : Inv s) {qp : BitVec 12} {va : W64} {len : Nat} : Ends (execCspaceRdmaRead qp va len s) :=
  .next (.ite h (.ite h.after_emitQp h.after_cspaceRead))

theorem Inv.after_hostRefuse (h : Inv s) {fit : Bool} {q reason : Nat} : Inv (hostRefuse fit q reason s) :=
  h.after_emitQp.after_qpError.after_raise

theorem Inv.after_openOn (h : Inv s) {p q : Nat} {ch : List Byte} : Inv (openOn p q ch s).2.2 := by
  unfold openOn
  split
  · exact h.after_injDone
  · exact h

theorem Inv.after_touchPages (h : Inv s) {a n : Nat} : Inv (touchPages a n s).2 := by
  unfold touchPages
  refine .foldl_in Prod.snd h.after_waitHold fun _ _ hs => ?_
  split
  · exact hs
  · exact .ite hs.after_firstTouch.after_touchHeld hs.after_firstTouch

theorem Inv.after_landChunks {p q f a : Nat} {bs : List Byte} (h : Inv s) : Inv (landChunks p q f a bs s).2 := by
  induction f generalizing s a bs with
  | zero => exact .pair h
  | succ f ih =>
    unfold landChunks
    extract_lets c r
    have hr : Inv r.2.2 := h.after_openOn
    split
    · exact .pair h
    split
    · exact .pair hr.after_tagFailure
    · extract_lets w
      have hw : Inv w.2 := hr.after_partWrite
      split
      · exact .pair hw
      · exact ih hw

theorem Inv.after_execHostRdmaWrite (h : Inv s) {qp : BitVec 12} {rkey : W32} {va : W64} {data : List Byte} :
    Ends (execHostRdmaWrite qp rkey va data s) := by
  unfold execHostRdmaWrite
  dsimp only
  refine .next ?_
  split
  · exact h
  · split
    · exact h.after_emitQp
    · split
      · exact h.after_nakError
      · split
        · exact .after_hostRefuse (.ite h.after_repairPages h)
        · split
          · exact h.after_touchPages.after_hostRefuse
          · split
            · exact .ite h.after_touchPages.after_partWrite.after_hostRefuse h.after_touchPages.after_partWrite.after_emitQp
            · split
              · exact h.after_touchPages.after_landChunks.after_emitQp
              · exact h.after_touchPages.after_landChunks.after_nakError
              · exact h.after_touchPages.after_landChunks.after_hostRefuse

theorem Inv.after_execHostRdmaRead (h : Inv s) {qp : BitVec 12} {rkey : W32} {va : W64} {len : Nat} :
    Ends (execHostRdmaRead qp rkey va len s) := by
  unfold execHostRdmaRead
  extract_lets q v w p r g x
  have hx : Inv x.2.2 := h.after_partRead
  refine .next ?_
  split
  · exact h
  split
  · exact h.after_emitQp
  split
  · exact h.after_cspaceRead
  split
  · exact .after_hostRefuse (.ite h.after_repairPages h)
  split
  · exact hx.after_hostRefuse
  split
  · exact hx.after_debit.after_emitQp
  split
  · exact hx.after_nakError
  next hs => exact (hx.after_sealAll hs).after_debit.after_emitQp

theorem Inv.after_execUnsupportedRdmaOp (h : Inv s) {qp : BitVec 12} : Ends (execUnsupportedRdmaOp qp s) := .next (.ite h.after_emitQp h)

/-! ### The J9 as requester (17 R463, R471, R473) -/

theorem Inv.after_landSealed {x : Xfer} {q f k : Nat} {bs : List Byte} (h : Inv s) : Inv (landSealed x q f k bs s).2.2 := by
  induction f generalizing s k bs with
  | zero => exact .triple h
  | succ f ih =>
    unfold landSealed
    extract_lets c r
    have hr : Inv r.2.2 := h.after_openOn
    split
    · exact .triple h
    split
    · exact .triple hr.after_tagFailure
    · extract_lets w
      have hw : Inv w.2 := hr.after_landBytes
      split
      · exact .triple hw
      · exact ih hw

theorem Inv.after_landRead (h : Inv s) {x : Xfer} {q : Nat} {bs : List Byte} : Inv (landRead x q bs s).2.2 := by
  unfold landRead
  split
  · exact h
  · split
    · refine .foldl_in Prod.snd h fun _ _ hs => ?_
      split
      · exact hs
      · exact hs.after_landBytes
    · exact h.after_landSealed

theorem Inv.after_execRdmaReadResponse (h : Inv s) {qp : BitVec 12} {data : List Byte} : Ends (execRdmaReadResponse qp data s) := by
  unfold execRdmaReadResponse
  dsimp only
  refine .next ?_
  split
  · exact h
  · split
    · exact h
    · split
      · exact h.after_modQp.after_landRead.after_progress.after_askQp.after_noteOut
      · exact h.after_modQp.after_landRead.after_progress.after_xferFail.after_askQp.after_noteOut

theorem Inv.after_execRoceAck (h : Inv s) {qp : BitVec 12} : Ends (execRoceAck qp s) := by
  unfold execRoceAck
  refine .next ?_
  split
  · exact h
  · split
    · exact h
    · exact h.after_modQp.after_progress.after_noteOut

theorem Inv.after_execRoceNak (h : Inv s) {qp : BitVec 12} {seqErr : Bool} : Ends (execRoceNak qp seqErr s) :=
  .next (.ite h (.ite h.after_modQp.after_emitQp h.after_qpError))

theorem Inv.after_execRoceAckTimeout (h : Inv s) {qp : BitVec 12} : Ends (execRoceAckTimeout qp s) :=
  .next (.ite h (.ite h.after_passTo.after_modQp.after_emitQp h.after_passTo.after_qpError))

theorem Inv.after_execCnpReceive (h : Inv s) {qp : BitVec 12} : Ends (execCnpReceive qp s) :=
  .next (.ite h (.ite h.after_modHport.after_modQp h.after_modHport.after_modQp))

theorem Inv.after_execCnpRateRaise (h : Inv s) {qp : BitVec 12} : Ends (execCnpRateRaise qp s) := .next (.ite h h.after_passTo.after_modQp)

/-! ### The owner session (17 R460, R464, 18 R492 to R494) -/

theorem Inv.after_ownerWrite (h : Inv s) {w : XOwner} {va : Nat} {rkey : W32} {bs : List Byte} : Inv (ownerWrite w va rkey bs s) := by
  unfold ownerWrite
  split
  · exact h
  · exact .elsewhere h.after_takeUid.after_sendHostWrite

theorem Inv.after_queueReport (h : Inv s) {slot : Nat} {body : List Byte} : Inv (queueReport slot body s) := h.elsewhere

theorem Inv.after_execOwnerHelloPoll (h : Inv s) {hello : List Byte} : Ends (execOwnerHelloPoll hello s) := by
  unfold execOwnerHelloPoll
  refine .next ?_
  split
  · exact h
  · exact .ite h (.ite (.after_queueReport (.elsewhere h.after_passTo.after_emitQp)) (.elsewhere h.after_passTo.after_emitQp))

theorem Inv.after_execOwnerHelloTimeout (h : Inv s) : Ends (execOwnerHelloTimeout s) := by
  unfold execOwnerHelloTimeout
  refine .next ?_
  split
  · exact h
  · split
    · exact .ite h h.after_passTo.after_qpError
    · exact h

theorem Inv.after_execAttestationReportSigned (h : Inv s) : Ends (execAttestationReportSigned s) := by
  unfold execAttestationReportSigned
  dsimp only
  refine .next ?_
  split
  · exact h
  · split
    · exact .ite h.elsewhere.after_modPart h.elsewhere
    · exact .after_ownerWrite (.ite h.elsewhere.after_modPart h.elsewhere)

/-! ### Events (20 R533, R535, R536) -/

theorem Inv.after_execEventRecordWrite (h : Inv s) : Ends (execEventRecordWrite s) := by
  unfold execEventRecordWrite
  dsimp only
  refine .next ?_
  split
  · exact h
  · split
    · exact h
    · split
      · exact .foldl h.elsewhere fun _ _ hs => hs.after_ownerWrite
      · exact .after_raise (.elsewhere (.foldl h.elsewhere fun _ _ hs => hs.after_ownerWrite))

/-! ### Fetch and arrival (13 R345) -/

theorem Inv.after_execPlanFetch (h : Inv s) : Ends (execPlanFetch s) := by
  unfold execPlanFetch
  refine .next ?_
  split
  · exact .ite h (.after_noteOut (.elsewhere h.after_passTo.after_emitQp))
  · exact h

theorem Inv.after_execPlanArrival (h : Inv s) {bytes : List Byte} : Ends (execPlanArrival bytes s) := by
  unfold execPlanArrival
  refine .next ?_
  split
  · exact .ite h (.ite h (.after_noteOut (.elsewhere (.ite (.after_injDone (.ite h.after_emitQp h)) (.ite h.after_emitQp h)))))
  · exact h

/-! ### Lists (13 R369, R370, R374) -/

theorem Inv.after_putConf (h : Inv s) {c : Conf} : Inv (putConf c s) := .ite h h.elsewhere

theorem Inv.after_applyConfigs {rs : List (List Byte)} {i : Nat} (h : Inv s) : Inv (applyConfigs i rs s) := by
  induction rs generalizing s i with
  | nil => exact h
  | cons r t ih => exact ih (.ite h.after_raise h.after_putConf)

theorem Inv.after_applyWrites {rs : List (List Byte)} {i : Nat} (h : Inv s) : Inv (applyWrites i rs s).2 := by
  induction rs generalizing s i with
  | nil => exact .pair h
  | cons r t ih =>
    unfold applyWrites
    dsimp only
    split
    · exact .pair (ih h.after_putConf)
    split
    · exact ih h.after_raise
    · exact .pair (ih h.after_putConf)

/-! ### Ports -/

theorem Inv.after_portDisable (h : Inv s) {p : BPort} : Inv (portDisable p s) := .ite h.after_setPort h.after_setPort

theorem Inv.after_setPortCtrl (h : Inv s) {p : BPort} {w : Nat} : Inv (setPortCtrl p w s) :=
  .ite h.after_setPort.after_portDisable (.ite h.after_setPort.after_setPort h.after_setPort)

theorem Inv.after_portKick (h : Inv s) {p : BPort} : Inv (portKick p s) := .ite h.after_setPort (.ite h.after_setPort h)

theorem Inv.after_setHostCtrl (h : Inv s) {p : HPort} {w : Nat} : Inv (setHostCtrl p w s) := by
  unfold setHostCtrl
  dsimp only
  split
  · exact h.after_setHport
  · exact .foldl h.after_setHport fun _ _ hs => .ite hs.after_closeQp hs

/-! ### Power (19 R507 to R509) -/

theorem Inv.after_quadRamp (h : Inv s) {q : Nat} : Inv (quadRamp q s) := h.after_modQuad

theorem Inv.after_quadStop (h : Inv s) {q : Nat} : Inv (quadStop q s) := .ite h (.ite h.after_quadOff h.after_setQuad.after_raise)

theorem Inv.after_setQuadEn (h : Inv s) {w : Nat} : Inv (setQuadEn w s) :=
  .foldl h.elsewhere fun _ _ hs => .ite (.ite (.after_quadRamp (.ite hs.after_modQuad hs)) (.ite hs.after_modQuad hs)) hs.after_quadStop

theorem Inv.after_setDomEn (h : Inv s) {w : Nat} {maint : Bool} : Inv (setDomEn w maint s) := by
  unfold setDomEn
  dsimp only
  split
  · exact .elsewhere (.ite h.elsewhere (.ite h.after_raise h.elsewhere.after_linksOff))
  · split
    · exact .after_raise (.ite h.elsewhere (.ite h.after_raise h.elsewhere.after_linksOff))
    · exact .after_flashOff (.elsewhere (.ite h.elsewhere (.ite h.after_raise h.elsewhere.after_linksOff)))

theorem Inv.after_quadCycle (h : Inv s) {w : Nat} : Inv (quadCycle w s) := .ite h h.after_setQuad.after_quadStop

/-! ### Injection and loop-backs (20 R540 to R543) -/

theorem Inv.after_armInj (h : Inv s) : Inv (armInj s) := .foldl h.after_attrInj fun _ _ hs => hs.after_laneInj

theorem Inv.after_setInj (h : Inv s) {w : Nat} {maint : Bool} : Inv (setInj w maint s) := h.elsewhere.after_armInj

theorem Inv.after_setLoop (h : Inv s) {w : Nat} {maint : Bool} : Inv (setLoop w maint s) := by
  unfold setLoop
  dsimp only
  split
  · exact h.elsewhere
  · exact .ite (.ite (.elsewhere h.elsewhere) h.elsewhere) (.ite (.after_modSlice (.elsewhere h.elsewhere)) h.elsewhere)

theorem Inv.after_execTstLoopEnd (h : Inv s) {errors : Nat} : Ends (execTstLoopEnd errors s) := by
  unfold execTstLoopEnd
  refine .next ?_
  split
  · exact h
  extract_lets +onlyGivenNames s1 s2 r
  have h2 : Inv s2 := .foldl h.after_passTo fun _ _ hs => .ite hs.after_modSlice.after_creditHeld hs
  clear_value s2
  exact .after_ovfEvent h2.elsewhere

/-! ### Registers -/

theorem Inv.after_applyReg (h : Inv s) {a v : Nat} {maint : Bool} : Inv (applyReg a v maint s) := by
  unfold applyReg
  dsimp only
  split
  · exact h.after_modPart
  · split
    · split
      · exact h.elsewhere
      · exact .foldl h.elsewhere fun _ _ hs => hs.after_portDisable
    · split
      · exact h.after_setPortCtrl
      · exact h
  · split
    · exact h.elsewhere
    · split
      · exact h.elsewhere
      · split
        · split
          · exact h.after_setHostCtrl
          · exact h.after_modHport
          · exact h.after_modHport
          · exact h.after_modHport
        · exact h
  · exact .ite h.after_setQuadEn h.after_setDomEn
  · exact h.elsewhere
  · exact .ite h.after_setInj (.ite h.elsewhere h.after_setLoop)
  · exact h.after_modSlice

theorem Inv.after_applyRegs (h : Inv s) {mode : Nat} : Inv (applyRegs mode s) := .foldl h fun _ _ hs => .ite hs.after_applyReg hs

theorem Inv.after_clearCtr (h : Inv s) {a v : Nat} : Inv (clearCtr a v s) := by
  unfold clearCtr
  dsimp only
  split
  · exact h.elsewhere
  · exact h.elsewhere
  · exact h.elsewhere
  · exact h.elsewhere
  · exact h.elsewhere
  · exact h.elsewhere
  · exact h.elsewhere
  · exact h.elsewhere
  · exact h.elsewhere
  · split
    · split
      · split
        · exact h.after_modPort
        · exact h.after_modPort
        · exact h.after_modPort
        · exact h.after_modPort
        · exact h
      · exact h
    · split
      · split
        · split
          · exact h.after_modHport
          · exact h.after_modHport
          · exact h.after_modHport
          · exact h
        · exact h
      · exact .ite h.after_modSlice h

theorem Inv.after_fwWrite (h : Inv s) {v : Nat} {maint : Bool} : Inv (fwWrite v maint s) := .ite h.after_raise h.elsewhere

theorem Inv.after_clearOnce (h : Inv s) {e : Nat × Nat} : Inv (clearOnce e s) := .ite (.ite h.elsewhere h) h.after_clearCtr

theorem Inv.after_applyOnce (h : Inv s) {maint : Bool} {e : Nat × Nat} : Inv (applyOnce maint e s) := by
  unfold applyOnce
  dsimp only
  split
  · exact h.after_closeQp
  · split
    · exact h.after_fwWrite
    · split
      · exact h.after_quadCycle
      · split
        · split
          · exact .ite h.after_portKick h
          · exact h
        · exact h

theorem Inv.after_openLists (h : Inv s) {b : List Byte} : Inv (openLists b s).2 := by
  unfold openLists
  split
  · exact h.after_applyConfigs.after_applyWrites
  · exact h.after_applyWrites.after_applyConfigs

theorem Inv.after_openClears (h : Inv s) {es : List (Nat × Nat)} : Inv (openClears es s) := .foldl h fun _ _ hs => hs.after_clearOnce

theorem Inv.after_openConfig (h : Inv s) {b : List Byte} : Inv (openConfig b s).2 := by
  unfold openConfig
  extract_lets +onlyGivenNames w s1 want maintOk mode s2 _ s3 _ s4 s5 es
  have h1 : Inv s1 := h.after_openLists
  have h2 : Inv s2 := .ite h1.after_raise h1
  have h3 : Inv s3 := h2.elsewhere
  have h4 : Inv s4 := .ite h3 h3.elsewhere
  have h5 : Inv s5 := h4.after_applyRegs
  exact .pair (.foldl h5 fun _ _ hs => hs.after_applyOnce)

/-! ### Partition records (13 Table 13-11, R365) -/

theorem Inv.after_unassign (h : Inv s) {gs : List Nat} : Inv (unassign gs s) :=
  { h with gran := wf_filter _ h.gran, wp := wf_filter _ h.wp }

theorem Inv.after_dropFold (h : Inv s) {p : Nat} : Inv (dropFold p s) := by
  unfold dropFold
  extract_lets b s1
  have h1 : Inv s1 := { h with wp := wf_filter _ h.wp }
  exact h1.after_modFold

theorem Inv.after_assignPart (h : Inv s) {r : List Byte} : Inv (assignPart r s) := by
  unfold assignPart
  exact .after_modPart (.ite h.after_unassign.after_setShares.after_dropFold h.after_unassign.after_setShares)

theorem Inv.after_tearPart (h : Inv s) {p : Nat} : Inv (tearPart p s) :=
  .elsewhere (.foldl (.foldl h.after_dropFold.after_modFold.after_modPart fun _ _ hs => .ite hs.after_setWin hs) fun _ _ hs => .ite
    hs.after_closeQp hs)

theorem Inv.after_applyPart (h : Inv s) {r : List Byte} : Inv (applyPart s r) :=
  .ite h.after_raise (.ite h.after_tearPart h.after_assignPart)

theorem Inv.after_freeParts (h : Inv s) : Inv (freeParts s) := .foldl h fun _ _ hs => .ite hs.after_setShares.after_setPart hs

/-! ### Window records (16 Table 16-5, R443) -/

theorem Inv.after_applyWin (h : Inv s) {r : List Byte} : Inv (applyWin s r) :=
  .ite h.after_raise (.ite h.after_setWin.after_modPart (.ite h h.after_setWin.after_modPart))

/-! ### Ring records (13 R357, 11 R302) -/

theorem Inv.after_applyRing (h : Inv s) {r : List Byte} : Inv (applyRing s r) := .ite h.elsewhere h.elsewhere.after_raise

/-! ### Drains (13 R377 to R379) -/

theorem Inv.after_abortXfers (h : Inv s) {kind idx : Nat} {part : Option Nat} {p : Xfer → Bool} : Inv (abortXfers kind idx part p s) := by
  unfold abortXfers
  dsimp only
  split
  · exact .foldl h fun _ _ hs => .ite hs.after_endFail hs.after_endFail.after_modPart
  · exact .after_raise (.foldl h fun _ _ hs => .ite hs.after_endFail hs.after_endFail.after_modPart)

theorem Inv.after_abortHeld (h : Inv s) {kind idx : Nat} {part : Option Nat} {p : HeldTxn → Bool} : Inv (abortHeld kind idx part p s) := by
  unfold abortHeld
  dsimp only
  split
  · exact .foldl h.elsewhere fun _ _ hs => hs.after_modPart.after_freeBuf.after_sendRefuse
  · exact .after_pump (.after_raise (.foldl h.elsewhere fun _ _ hs => hs.after_modPart.after_freeBuf.after_sendRefuse))

theorem Inv.after_abortForeign (h : Inv s) {p : BPort} : Inv (abortForeign p s) := by
  unfold abortForeign
  dsimp only
  split
  · exact .foldl h fun _ _ hs => hs.after_modPart
  · exact .after_raise (.foldl h fun _ _ hs => hs.after_modPart)

theorem Inv.after_drainWin (h : Inv s) {n : Nat} : Inv (drainWin n s) := h.after_abortHeld.after_setWin

theorem Inv.after_drainQp (h : Inv s) {q : Nat} : Inv (drainQp q s) := h.after_abortXfers.after_freeQp

theorem Inv.after_drainPart (h : Inv s) {p : Nat} : Inv (drainPart p s) := by
  unfold drainPart
  exact .after_modPart (.after_dropFold
    (.after_unassign (.foldl (.after_abortXfers (.foldl h fun _ _ hs => .ite hs.after_drainQp hs)) fun _ _ hs => .ite hs.after_drainWin
    hs)))

theorem Inv.after_drained (h : Inv s) {t : Nat} : Inv (drained t s) := h.after_passTo

theorem Inv.after_expireCore (h : Inv s) {n : Nat} : Inv (expireCore s n) := by
  unfold expireCore
  dsimp only
  split
  · exact h
  · split
    · exact h
    · exact .after_modCore (.after_modCore (.foldl (.foldl h fun _ _ hs => hs.after_failDesc) fun _ _ hs => hs.after_takeFault))

theorem Inv.after_execDrainExpiry (h : Inv s) {target : DrainTarget} : Ends (execDrainExpiry target s) := by
  unfold execDrainExpiry
  dsimp only
  refine .next (.after_tripOff ?_)
  split
  · split
    · exact h.after_drained.after_drainPart.after_settleQuads
    · exact h
  · split
    · exact h.after_drained.after_abortXfers.after_abortHeld.after_modPart
    · exact h
  · split
    · exact h.after_drained.after_drainWin
    · exact h
  · split
    · exact h.after_drained.after_drainQp
    · exact h
  · split
    · exact h.after_drained.after_abortXfers.after_abortForeign.after_dropPort.after_modPort
    · exact h
  · split
    · exact .after_settleQuads (.foldl h.after_drained.after_abortXfers fun _ _ hs => hs.after_expireCore)
    · exact h

/-! ### Tenant keys -/

theorem Inv.after_modKeys (h : Inv s) {p : Nat} {f : Keys → Keys} : Inv (modKeys p f s) := h.after_modPart

theorem Inv.after_keyRefused (h : Inv s) {p kind : Nat} : Inv (keyRefused p kind s) := h.after_raise

/-! ### Bundles (18 R498, R499) -/

theorem Inv.after_installBundle (h : Inv s) {p : Nat} {b : List Byte} : Inv (installBundle p b s) := by
  unfold installBundle
  exact h.after_modKeys.after_modPart

/-! ### KEYS records (18 R495 to R500) -/

theorem Inv.after_attest (h : Inv s) {p slot : Nat} {r : List Byte} : Inv (attest p slot r s) :=
  h.after_takeFree.after_modKeys.after_queueReport

theorem Inv.after_install (h : Inv s) {p : Nat} {r : List Byte} : Inv (install p r s) := by
  unfold install
  dsimp only
  split
  · exact h.after_keyRefused
  · split
    · exact h.after_modKeys.after_keyRefused
    · exact .ite h.after_modKeys.after_installBundle h.after_modKeys.after_keyRefused

theorem Inv.after_retire (h : Inv s) {p : Nat} {r : List Byte} : Inv (retire p r s) := by
  unfold retire
  dsimp only
  split
  · exact .ite h.after_keyRefused h.after_modKeys.after_modPart
  · exact h.after_keyRefused

theorem Inv.after_applyKeys {rs : List (List Byte)} {n : Nat} (h : Inv s) : Inv (applyKeys n rs s) := by
  induction rs generalizing s n with
  | nil => exact h
  | cons r t ih =>
    unfold applyKeys
    extract_lets +onlyGivenNames g kind p n'
    clear_value kind
    apply ih
    split
    · exact h.after_keyRefused
    split
    · exact .ite h.after_keyRefused h.after_attest
    · exact h.after_install
    · exact h.after_retire
    · exact h.after_keyRefused

theorem Inv.after_execPendingKeyExpire (h : Inv s) {part : BitVec 4} : Ends (execPendingKeyExpire part s) := .next (.ite h.after_modKeys h)

/-! ### Program digests (15 R417, 18 R501) -/

theorem Inv.after_progOf (h : Inv s) {image len : Nat} {bs : List Byte} : Inv (progOf image len bs s).2 := by
  unfold progOf
  split
  · exact h
  · exact h.elsewhere

/-! ### Pools (11 Table 11-3, R281, R283 to R285) -/

theorem Inv.after_applyPool (h : Inv s) {r : List Byte} : Inv (applyPool s r) :=
  .ite (.after_raise (.ite h.elsewhere h.elsewhere.after_raise)) (.ite h.elsewhere h.elsewhere.after_raise)

/-! ### Sequences (11 R286 to R288, 13 R358, R361) -/

theorem Inv.after_modSeq (h : Inv s) {id : Nat} {f : Machine.Seq → Machine.Seq} : Inv (modSeq id f s) := h.elsewhere

theorem Inv.after_applyLeave (h : Inv s) {r : List Byte} : Inv (applyLeave s r) := by
  unfold applyLeave
  dsimp only
  split
  · exact .ite h.elsewhere h.elsewhere.after_raise
  · exact h.elsewhere.after_raise

theorem Inv.after_joinSeq (h : Inv s) {r : SeqRec} {part : Nat} : Inv (joinSeq r part s) := by
  unfold joinSeq
  dsimp only
  split
  · exact h.after_modSeq
  · exact h.elsewhere

theorem Inv.after_applySeq (h : Inv s) {off : Nat} {b : List Byte} : Inv (applySeq off b s) := by
  unfold applySeq
  dsimp only
  split
  · exact h.elsewhere.after_raise
  · split
    · exact .ite h.after_joinSeq h
    · exact .ite (.after_raise (.elsewhere (.ite h.after_joinSeq h))) (.elsewhere (.ite h.after_joinSeq h))

theorem Inv.after_applySeqs {bs : List (List Byte)} {off : Nat} (h : Inv s) : Inv (applySeqs off bs s) := by
  induction bs generalizing s off with
  | nil => exact h
  | cons b t ih => exact ih h.after_applySeq

/-! ### Books (11 R311) -/

theorem Inv.after_abortTick (h : Inv s) {p : Nat} : Inv (abortTick p s) := h.after_modPart

theorem Inv.after_checkKvBooks (h : Inv s) : Inv (checkKvBooks s) := by
  unfold checkKvBooks
  dsimp only
  refine .foldl h fun _ _ hs => ?_
  split
  · exact hs
  · split
    · exact hs.after_abortTick.after_raise
    · exact .ite hs hs.after_abortTick.after_raise

/-! ### Commits (11 R292, R293, 13 R360) -/

theorem Inv.after_commitSeq (h : Inv s) {r : SeqRec} : Inv (commitSeq s r) := by
  unfold commitSeq
  split
  · exact h
  · exact h.elsewhere.after_modSeq

theorem Inv.after_commitRead (h : Inv s) {p : Pool} {list : List Nat} {lo hi : Nat} : Inv (commitRead p list lo hi s).2 := by
  unfold commitRead
  refine .foldl_in Prod.snd h fun _ _ hs => ?_
  split
  · exact hs
  · exact hs.after_partRead

/-! ### Open (13 R342, step 6) -/

theorem Inv.after_startPull (h : Inv s) {l : Layer} {idx : Nat} {p : Pull} : Inv (startPull l idx p s) :=
  .ite h.after_pullFailed (.ite h.after_setPull (.ite h.after_setPull.after_gRead h.after_setPull.after_gRead.after_pullFailed))

theorem Inv.after_applyLayer (h : Inv s) {l : Layer} : Inv (applyLayer s l) := by
  unfold applyLayer
  split
  · exact .foldl h.elsewhere fun _ _ hs => hs.after_startPull
  · exact h.elsewhere.after_routeReqEv

theorem Inv.after_applyLayers (h : Inv s) {recs : List (List Byte)} : Inv (applyLayers recs s) := .foldl h fun _ _ hs => hs.after_applyLayer

/-! ### Deadline (12 R330, R336) -/

theorem Inv.after_clearDone (h : Inv s) : Inv (clearDone s) := by
  unfold clearDone
  dsimp only
  refine .foldl h fun _ _ hs => ?_
  split
  · split
    · exact hs.after_layerWrite.after_layerWrite
    · exact hs.after_layerWrite
  · exact hs.after_layerWrite

theorem Inv.after_endLayer (h : Inv s) {l : Layer} : Inv (endLayer s l) := by
  unfold endLayer
  split
  · exact h
  · exact h.after_setLayer.after_writeOutcomes.after_zeroSlots
  · exact .ite h.after_setLayer h.after_setLayer.after_abortSlots.after_zeroSlots

theorem Inv.after_endRouting (h : Inv s) : Inv (endRouting s) :=
  .foldl (.elsewhere (.foldl h fun _ _ hs => hs.after_endLayer)) fun _ _ hs => hs.after_semSignal

/-! ### Books and counters (12 R325 to R327) -/

theorem Inv.after_checkRouteBooks (h : Inv s) : Inv (checkRouteBooks s) :=
  .foldl h fun _ _ hs => .ite hs.after_setLayer.after_raise.after_abortTick hs

/-! ### Module flash (18 R503) -/

theorem Inv.after_flashWrite (h : Inv s) {p off : Nat} {bs : List Byte} : Inv (flashWrite p off bs s) := h.elsewhere

/-! ### FOLD records (14 R388, Tables 14-2 and 14-3) -/

theorem Inv.after_recallTiers (h : Inv s) {p : Nat} {t : Tiers} : Inv (recallTiers p t s) := by
  unfold recallTiers
  split
  · exact h
  · exact h.elsewhere.after_modFold

theorem Inv.after_applyFold {x : FoldScan × State} {r : List Byte} (h : Inv x.2) : Inv (applyFold x r).2 := by
  unfold applyFold
  extract_lets +onlyGivenNames c k p next
  split
  · exact .pair h
  extract_lets +onlyGivenNames first
  generalize foldRefused _ _ _ = refused
  split
  · exact .pair h.after_raise
  split
  · exact .pair h.after_modFold.after_recallTiers
  split
  · exact .pair h.after_modFold
  extract_lets +onlyGivenNames a n w src
  split
  · exact .pair h.after_modFold
  · exact .pair h.after_modFold

theorem Inv.after_applyFolds (h : Inv s) {recs : List (List Byte)} : Inv (applyFolds recs s) :=
  .foldl_in Prod.snd (.pair h) fun _ _ hs => hs.after_applyFold

/-! ### Segments (14 R390, Table 14-4) -/

theorem Inv.after_pageNow (h : Inv s) {p pg : Nat} : Inv (pageNow p pg s).2 := by
  unfold pageNow
  dsimp only
  exact h.after_partRead

theorem Inv.after_readPages (h : Inv s) {p : Nat} {ps : List (FoldPage × Option (List Byte))} : Inv (readPages p ps s).2 := by
  unfold readPages
  refine .foldl_in Prod.snd h fun _ _ hs => ?_
  split
  · exact .pair hs
  · exact .pair hs.after_pageNow

theorem Inv.after_execFoldSegmentStream (h : Inv s) {part : BitVec 4} : Ends (execFoldSegmentStream part s) := by
  unfold execFoldSegmentStream
  extract_lets +onlyGivenNames p f
  split
  · split
    · exact .next h
    extract_lets +onlyGivenNames r g1 bs pl g2 at' ws s1 q
    have h1 : Inv s1 := h.after_readPages.after_modFold.after_clearWp
    have hq : Inv q.2 := h1.after_gSend
    exact .next (.ite hq.after_modFold (.ite hq.after_foldBroken hq))
  · exact .next h

/-! ### Tiers 2 and 3 (14 R394) -/

theorem Inv.after_t3Send (h : Inv s) {owner : XOwner} {p : Nat} {t : Tiers} {o : Nat} {bs : List Byte} :
    Inv (t3Send owner p t o bs s).2 := by
  unfold t3Send
  extract_lets +onlyGivenNames q sealed
  split
  · exact .pair h
  have hs : ∀ r, sealed = some r → Inv r.2 := by
    unfold sealed
    split
    · rintro r ⟨⟩
      exact .pair h
    · exact fun r hr => h.after_sealAll hr
  clear_value sealed
  split
  · exact .pair h
  · extract_lets +onlyGivenNames ms s1 u
    have h1 : Inv s1 := .foldl (hs _ rfl).after_debit fun _ _ ht => ht.after_sendHostWrite
    exact .pair h1.after_takeUid.elsewhere

theorem Inv.after_startTier (h : Inv s) {tier : Tier} {p : Nat} : Inv (startTier tier p s) := by
  unfold startTier
  extract_lets +onlyGivenNames f
  split
  · exact h
  extract_lets +onlyGivenNames due all since rest
  split
  · exact h
  extract_lets +onlyGivenNames own r pad area pos pages last g bs bs'
  have hr : Inv r.2 := h.after_readPages
  split
  · exact hr
  extract_lets +onlyGivenNames pl g' vs
  split
  · extract_lets +onlyGivenNames s1
    have h1 : Inv s1 := by
      unfold s1
      split
      · exact hr.after_flashWrite
      · exact hr
    exact h1.after_flashWrite.after_modFold
  · extract_lets +onlyGivenNames s1 q
    have h1 : Inv s1 := by
      unfold s1
      split
      · exact hr.after_t3Send
      · exact hr
    have hq : Inv q.2 := h1.after_t3Send
    exact .ite hq.after_modFold hq

theorem Inv.after_execFoldSegmentComplete (h : Inv s) {part : BitVec 4} {tier : Tier} : Ends (execFoldSegmentComplete part tier s) := by
  unfold execFoldSegmentComplete
  dsimp only
  split
  · split
    · exact .next h
    · split
      · split
        · exact .next h
        · exact .next (.ite h.after_modFold.after_gSend.after_modFold
            (.ite h.after_modFold.after_gSend.after_foldBroken h.after_modFold.after_gSend))
      · split
        · exact .next h
        · exact .next h.after_flashWrite.after_modFold
      · exact .next (.ite h.after_t3Send.after_modFold h)
  · exact .next h

/-! ### The fold of a close (14 R385, R391, R392) -/

theorem Inv.after_setWp (h : Inv s) {pages : List Nat} : Inv (setWp pages s) :=
  { h with wp := wf_setAll pages h.wp }

theorem Inv.after_declareFold (h : Inv s) {p : Nat} : Inv (declareFold p s) := by
  unfold declareFold
  extract_lets +onlyGivenNames pages due s1 f now
  have h1 : Inv s1 := h.after_modFold
  split
  extract_lets +onlyGivenNames s2 all s3
  have h2 : Inv s3 := .ite h1.after_disown.after_modFold.after_raise h1
  split
  · exact h2
  split
  · exact h2.after_modFold.after_clearWp.after_raise
  · exact h2.after_modFold.after_setWp

/-! ### Commit digests and the log (14 R395 to R398, Table 14-5) -/

theorem Inv.after_execCommitDigestCompute (h : Inv s) {part : BitVec 4} : Ends (execCommitDigestCompute part s) := by
  unfold execCommitDigestCompute
  dsimp only
  split
  · exact .next h
  · exact .next h.after_modFold

theorem Inv.after_lateDigests (h : Inv s) {p : Nat} : Inv (lateDigests p s) := .ite h h.after_modFold.after_raise

theorem Inv.after_loggedTokens (h : Inv s) {p : Nat} {t : Option Tiers} {r : SeqRec} : Inv (loggedTokens p t r s).2 := by
  unfold loggedTokens
  split
  · exact h
  · split
    · exact h
    · exact h.after_partRead

theorem Inv.after_logSeqs (h : Inv s) {p : Nat} {t : Option Tiers} : Inv (logSeqs p t s).2 := by
  unfold logSeqs
  refine .foldl_in Prod.snd h fun _ _ hs => ?_
  split
  · exact hs.after_loggedTokens
  · exact hs

theorem Inv.after_logWrap (h : Inv s) {p : Nat} {recs : List LogRec} : Inv (logWrap p recs s) := .foldl h fun _ _ hs => hs.after_raise

theorem Inv.after_wrapLog (h : Inv s) {p off n : Nat} {skip : Option Nat} : Inv (wrapLog p off n skip s) := h.after_modFold.after_logWrap

theorem Inv.after_pendDigests (h : Inv s) {p : Nat} : Inv (pendDigests p s).2 := by
  unfold pendDigests
  refine .foldl_in Prod.snd h fun _ _ hs => ?_
  split
  · split
    · exact hs.after_commitRead
    · exact hs
  · exact hs

theorem Inv.after_sealLog (h : Inv s) {p : Nat} : Inv (sealLog p s) := by
  unfold sealLog
  exact .after_modFold (.after_pendDigests (.ite h.after_logSeqs.after_wrapLog h.after_logSeqs))

theorem Inv.after_execLogRecordWrite (h : Inv s) {part : BitVec 4} : Ends (execLogRecordWrite part s) := by
  unfold execLogRecordWrite
  extract_lets +onlyGivenNames p f
  split
  · extract_lets +onlyGivenNames s1 q
    have h1 : Inv s1 := .ite (.after_modFold (.foldl h fun _ _ hs => hs.after_flashWrite)) h
    have hq : Inv q.2 := h1.after_modFold.after_gSend
    split
    · exact .next (.ite hq.after_modFold (.ite hq.after_foldBroken hq))
    · exact .next h1
  · exact .next h

theorem Inv.after_copyLog (h : Inv s) {p : Nat} : Inv (copyLog p s) := by
  unfold copyLog
  extract_lets +onlyGivenNames f
  split
  · exact h
  extract_lets +onlyGivenNames rs bs bs'
  split
  · exact h
  extract_lets +onlyGivenNames pl now g s1 hit q
  have h1 : Inv s1 := by
    unfold s1
    split
    · exact h.after_t3Send
    · exact h
  have hq : Inv q.2 := h1.after_t3Send
  exact .ite hq.after_modFold.after_logWrap h1

theorem Inv.after_closeFold (h : Inv s) {p : Nat} : Inv (closeFold p s) := by
  unfold closeFold
  dsimp only
  split
  · exact h.after_lateDigests.after_declareFold.after_sealLog
  · refine .after_startTier (.after_startTier ?_)
    split
    · exact h.after_lateDigests.after_declareFold.after_sealLog.after_modFold.after_copyLog
    · exact h.after_lateDigests.after_declareFold.after_sealLog.after_modFold

/-! ### The log as a restore reads it (14 R400, R401) -/

theorem Inv.after_rangeExact (h : Inv s) {f : Fold} {p : Pool} {list : List Nat} {x : LogRec × LogSeq} :
    Inv (rangeExact f p list x s).2 := by
  unfold rangeExact
  split
  · exact h.after_commitRead
  · exact h

theorem Inv.after_inexact (h : Inv s) {f : Fold} {p : Pool} {list : List Nat} {rs : List (LogRec × LogSeq)} :
    Inv (inexact f p list rs s).2 :=
  .foldl_in Prod.snd h fun _ _ hs => hs.after_rangeExact

theorem Inv.after_checkedLi (h : Inv s) {f : Fold} {p : Pool} {list : List Nat} {id : Nat} {b : Rebuild} :
    Inv (checkedLi f p list id b s).2 :=
  h.after_inexact

/-! ### Rebuilds (14 R399 to R402) -/

theorem Inv.after_finishPages (h : Inv s) {q : Machine.Seq} {b : Rebuild} {p : Pool} {list : List Nat} : Inv (finishPages q b p list s) :=
  .ite h.after_checkedLi.after_modSeq (.ite h.after_checkedLi.after_modSeq h.after_checkedLi.after_partWrite.after_modSeq)

theorem Inv.after_startRestore (h : Inv s) {r : List Byte} : Inv (startRestore r s) := by
  unfold startRestore
  dsimp only
  split
  · exact h
  · split
    · exact h
    · exact .ite (.after_finishPages (.after_modSeq (.ite h.elsewhere h))) (.after_modSeq (.ite h.elsewhere h))

theorem Inv.after_applyRestores (h : Inv s) {recs : List (List Byte)} : Inv (applyRestores recs s) :=
  .foldl h fun _ _ hs => .ite hs (.ite hs.after_raise hs.after_startRestore)

theorem Inv.after_openRebuilds (h : Inv s) : Inv (openRebuilds s) := h.elsewhere

theorem Inv.after_bestVersion {p pool id entry page lc : Nat} {ts : List Tier} {best : Option Version} (h : Inv s) :
    Inv (bestVersion p pool id entry page lc ts best s).2 := by
  induction ts generalizing s best with
  | nil => exact .pair h
  | cons tier ts ih =>
    unfold bestVersion
    extract_lets +onlyGivenNames f r s1 b
    have h1 : Inv s1 := .foldl h fun _ _ hs => hs.after_raise
    clear_value b
    split
    · split
      · exact .pair h1
      · exact ih h1
    · exact ih h1

theorem Inv.after_fetchDebit (h : Inv s) {p : Nat} {tier : Tier} : Inv (fetchDebit p tier s) := by
  unfold fetchDebit
  split
  · split
    · exact h.after_debit
    · exact h
  · exact h.after_debit
  · exact h

theorem Inv.after_execRestorePage (h : Inv s) {seqid : Nat} : Ends (execRestorePage seqid s) := by
  unfold execRestorePage
  dsimp only
  split
  · exact .next h
  · split
    · split
      · split
        · exact .next h
        · refine .next ?_
          split
          · refine .after_finishPages (.after_modSeq ?_)
            split
            · exact .pair h.after_bestVersion
            · exact .pair h.after_bestVersion.after_fetchDebit.after_rewritePage.after_memoTouch.after_chargeWrite
          · refine .after_modSeq ?_
            split
            · exact .pair h.after_bestVersion
            · exact .pair h.after_bestVersion.after_fetchDebit.after_rewritePage.after_memoTouch.after_chargeWrite
      · exact .next h
    · exact .next h

theorem Inv.after_checkListed (h : Inv s) {r : SeqRec} : Inv (checkListed s r) := by
  unfold checkListed
  split
  · split
    · exact .ite h.after_finishPages h
    · exact h
  · exact h

theorem Inv.after_mendClose (h : Inv s) {r : SeqRec} : Inv (mendClose s r) := by
  unfold mendClose
  dsimp only
  split
  · split
    · exact h.after_checkListed
    · split
      · exact h.after_checkListed
      · refine .after_modSeq ?_
        refine .foldl ?_ fun _ _ hs => .ite hs.after_raise hs
        split
        · exact h.after_checkListed.after_inexact
        · exact h.after_checkListed
  · exact h.after_checkListed

/-! ### The belfry's SRAM (14 R403) -/

theorem Inv.after_sramRestore (h : Inv s) {q : Machine.Seq} : Inv (sramRestore q s) := by
  unfold sramRestore
  dsimp only
  split
  · exact h.after_modSeq
  · split
    · exact h.after_modSeq.after_finishPages
    · exact h.after_modSeq

theorem Inv.after_sramCheck (h : Inv s) : Inv (sramCheck s) := .foldl h.after_takeFree fun _ _ hs => .ite hs.after_sramRestore hs

/-! ### Way back of poisoned pages (09 R243, 14 R384) -/

theorem Inv.after_restorePoison (h : Inv s) {id i k : Nat} : Inv (restorePoison id i k s) := h.after_modSeq

theorem Inv.after_wayChosen (h : Inv s) {pg : Nat} : Inv (wayChosen pg s) := h.elsewhere

theorem Inv.after_zeroPage (h : Inv s) {p pg : Nat} : Inv (zeroPage p pg s) := .after_raise (.elsewhere h.after_rewritePage.after_memoTouch)

theorem Inv.after_weightLost (h : Inv s) {pg : Nat} : Inv (weightLost pg s) := h.after_wayChosen.after_raise

theorem Inv.after_wayBack (h : Inv s) {pg : Nat} : Inv (wayBack s pg) := by
  unfold wayBack
  dsimp only
  split
  · exact h
  · split
    · exact h.after_weightLost
    · split
      · exact h
      · split
        · exact .ite h.after_weightLost h.after_wayChosen
        · split
          · exact h.after_zeroPage
          · split
            · exact .ite h h.after_zeroPage
            · exact .ite h.after_restorePoison.after_wayChosen h.after_modSeq.after_zeroPage

theorem Inv.after_closeRepairs (h : Inv s) : Inv (closeRepairs s) := by
  unfold closeRepairs
  dsimp only
  split
  · exact .elsewhere (.foldl h fun _ _ hs => hs.after_wayBack)
  · exact .foldl h fun _ _ hs => hs.after_wayBack

theorem Inv.after_execPoisonPageRefill (h : Inv s) {page : Nat} : Ends (execPoisonPageRefill page s) := by
  unfold execPoisonPageRefill
  dsimp only
  refine .unit ?_
  split
  · exact h
  · split
    · exact .ite h.after_weightLost h
    · exact .ite h (.ite (.ite h.after_bStore.after_refillDone (.ite h.after_weightLost h)) (.ite h h.after_gRead))

/-! ### Stores (14 R389) -/

theorem Inv.after_storePages {p n a : Nat} (h : Inv s) : Inv (storePages p n a s).2.2 := by
  induction n generalizing s a with
  | zero => exact .triple h
  | succ n ih =>
    unfold storePages
    extract_lets +onlyGivenNames r t
    split
    · exact .triple h.after_partRead
    · exact .triple (ih h.after_partRead)

theorem Inv.after_execStoreComplete (h : Inv s) {part : BitVec 4} : Ends (execStoreComplete part s) := by
  unfold execStoreComplete
  dsimp only
  split
  · exact .next h
  · split
    · exact .next h
    · refine .next ?_
      split
      · exact h.after_storePages.after_flashWrite.after_modFold
      · exact h.after_storePages.after_flashWrite.after_modFold.after_raise

/-! ### The FOLD status section (14 R405, Table 14-6) -/

theorem Inv.after_clearFoldCounts (h : Inv s) : Inv (clearFoldCounts s) := .foldl h fun _ _ hs => hs.after_modFold

/-! ### Result digests (15 R409, R415 to R420). -/

theorem Inv.after_digFlags (h : Inv s) {p addr flags : Nat} {r : List Byte} : Inv (digFlags p addr flags r s) := h.after_partWrite

theorem Inv.after_digEnd (h : Inv s) {p addr tick flags : Nat} {r : List Byte} : Inv (digEnd p addr tick flags r s) :=
  h.after_partWrite.after_digFlags

theorem Inv.after_digAsked (h : Inv s) {p i : Nat} : Inv (digAsked s p i).2 := by
  unfold digAsked
  dsimp only
  split
  · exact .pair h
  · exact .pair h.after_partRead

theorem Inv.after_takeDigest (h : Inv s) {p i : Nat} : Inv (takeDigest p i s) := by
  unfold takeDigest
  dsimp only
  split
  · exact h.after_digAsked
  · split
    · exact h.after_digAsked.after_digEnd
    · exact .ite h.after_digAsked.after_digEnd (.elsewhere h.after_digAsked)

theorem Inv.after_closeDigests (h : Inv s) : Inv (closeDigests s) := by
  unfold closeDigests
  dsimp only
  refine .foldl (.foldl h.elsewhere fun _ _ hs => hs.after_digEnd) fun _ _ hs => ?_
  split
  · exact .foldl hs fun _ _ hs1 => hs1.after_takeDigest
  · exact hs

theorem Inv.after_digBytes (h : Inv s) {p : Nat} {x : Nat × Nat} : Inv (digBytes p x s).2 := by
  unfold digBytes
  split
  · exact h
  · exact h.after_partRead

theorem Inv.after_digWeights (h : Inv s) {p : Nat} {r : List Byte} : Inv (digWeights p r s).2 := by
  unfold digWeights
  dsimp only
  split
  · exact h
  · split
    · exact .elsewhere h.after_digBytes.after_digBytes
    · exact h.after_digBytes.after_digBytes

theorem Inv.after_execDigestHash (h : Inv s) : Ends (execDigestHash s) := by
  unfold execDigestHash
  dsimp only
  split
  · exact .next h
  · split
    · exact .next h
    · split
      · exact .next (.after_digFlags
          (.foldl (.elsewhere h.after_digWeights.after_digBytes.after_digBytes) fun _ _ hs => hs.after_partWrite))
      · exact .next (.elsewhere h.after_digWeights.after_digBytes.after_digBytes)

/-! ### Sensors (19 R512, 09 R252; 20 Table 20-11, DET 11) -/

theorem Inv.after_thermDone (h : Inv s) : Inv (thermDone s) := .ite h.elsewhere h

/-! ### Pre-emption by heat (19 R513, R514) -/

theorem Inv.after_heatStop (h : Inv s) {n : Nat} : Inv (heatStop s n) := by
  unfold heatStop
  split
  · exact h
  · split
    · exact h
    · split
      · split
        · exact .elsewhere h.after_setCore
        · exact h.after_setCore
      · exact h.after_preempt

theorem Inv.after_heatQuad (h : Inv s) {q : Nat} : Inv (heatQuad q s) := by
  unfold heatQuad
  dsimp only
  split
  · exact .foldl h fun _ _ hs => hs.after_heatStop
  · exact .after_settleQuads (.after_setQuad (.foldl h fun _ _ hs => hs.after_heatStop))

theorem Inv.after_setRefresh (h : Inv s) {inj : Bool} {n : Nat} {step : BitVec 2} : Inv (setRefresh inj n step s) :=
  .ite h h.after_modSlice.after_raiseI

theorem Inv.after_trip (h : Inv s) {inj : Bool} : Inv (trip inj s) := by
  unfold trip
  split
  · exact h
  · exact .after_tripOff
      (.foldl (.foldl (.elsewhere h.after_raiseI) fun _ _ hs => hs.after_heatQuad) fun _ _ hs => .ite hs hs.after_setRefresh)

theorem Inv.after_trackCool (h : Inv s) : Inv (trackCool s) := h.elsewhere

theorem Inv.after_execStackTempSample (h : Inv s) {slice : Nat} {l0 l7 : Int} : Ends (execStackTempSample slice l0 l7 s) := by
  refine .unit ?_
  split
  · exact h
  extract_lets +onlyGivenNames inj t s1 v up cool low down s2
  have h2 : Inv s2 := h.after_thermDone.after_modSlice.after_setRefresh.after_trackCool
  exact .after_tripOff (.ite h2.after_trip h2)

theorem Inv.after_execJunctionSample (h : Inv s) {quad : Nat} {temp : Int} : Ends (execJunctionSample quad temp s) := by
  unfold execJunctionSample
  refine .unit ?_
  split
  · exact h
  · refine .after_tripOff (.after_settleQuads ?_)
    split
    · refine .after_trip (.after_trackCool ?_)
      split
      · exact h.after_thermDone.after_setQuad
      · split
        · exact h.after_thermDone.after_setQuad
        · exact h.after_thermDone.after_setQuad.after_raiseI
        · exact h.after_thermDone.after_setQuad.after_raiseI
        · exact h.after_thermDone.after_setQuad.after_raiseI.after_heatQuad
    · refine .after_trackCool ?_
      split
      · exact h.after_thermDone.after_setQuad
      · split
        · exact h.after_thermDone.after_setQuad
        · exact h.after_thermDone.after_setQuad.after_raiseI
        · exact h.after_thermDone.after_setQuad.after_raiseI
        · exact h.after_thermDone.after_setQuad.after_raiseI.after_heatQuad

/-! ### Quads (19 R507, R509) -/

theorem Inv.after_execQuadRampComplete (h : Inv s) {quad : Nat} : Ends (execQuadRampComplete quad s) :=
  .unit (.ite h (.ite h.after_passTo.after_quadOff h.after_passTo.after_setQuad))

theorem Inv.after_execQuadCycleOffEnd (h : Inv s) {quad : Nat} : Ends (execQuadCycleOffEnd quad s) := by
  unfold execQuadCycleOffEnd
  dsimp only
  refine .unit ?_
  split
  · exact h
  · exact .ite h (.ite h.after_passTo.after_setQuad.after_quadRamp h.after_passTo.after_setQuad)

/-! ### Domains off (19 R506) and bring-up (19 R517, R518) -/

theorem Inv.after_domainsOff (h : Inv s) {cause : Nat} : Inv (domainsOff cause s) := by
  have hsl : smapWf Slice.reset (failedSlices s) = true :=
    wf_of_canon _ _ 0 (canon_map_const (by decide) (canon_filter _ (canon_of_wf _ _ h.slices)))
  exact ⟨rfl, rfl, hsl, rfl, rfl, rfl, rfl, rfl, rfl, rfl⟩

theorem Inv.after_applyRow (h : Inv s) {e : Nat × FailRow} : Inv (applyRow s e) := .ite h.after_setSlice h.after_setSlice.after_setPoison

theorem Inv.after_trainSlices (h : Inv s) {u : BringUp} : Inv (trainSlices u s) := .foldl h fun _ _ hs => .ite hs.after_modSlice hs

theorem Inv.after_startRefresh (h : Inv s) : Inv (startRefresh s) := .foldl h fun _ _ hs => hs.after_modSlice

theorem Inv.after_bringUp (h : Inv s) {u : BringUp} : Inv (bringUp u s) := by
  unfold bringUp
  extract_lets +onlyGivenNames _ s1 _
  have h1 : Inv s1 := h.elsewhere
  split
  · exact h1.elsewhere
  extract_lets +onlyGivenNames s2 _ s3 s4 s5 s6 s7 s8 due
  have h2 : Inv s2 := h1.elsewhere
  have h3 : Inv s3 := h2.elsewhere
  have h4 : Inv s4 := .ite h3 h3.after_raise
  have h5 : Inv s5 := .foldl h4 fun _ _ hs => hs.after_modHport
  have h6 : Inv s6 := h5.after_trainSlices.after_startRefresh
  have h7 : Inv s7 := .ite (.foldl h6 fun _ _ hs => hs.after_applyRow) h6
  have h8 : Inv s8 := .foldl h7 fun _ _ hs => .ite hs.after_modQuad.after_raise hs.after_modQuad
  clear_value s8
  exact h8.elsewhere

theorem Inv.after_setInput (h : Inv s) {v : BitVec 16} : Inv (setInput v s) := h.elsewhere

theorem Inv.after_execPowerOn (h : Inv s) {input : BitVec 16} {unit : BringUp} : Ends (execPowerOn input unit s) :=
  .next (.ite h (.ite h.after_setInput.after_bringUp h.after_setInput))

theorem Inv.after_execModuleReset (h : Inv s) {lowNs : Nat} : Ends (execModuleReset lowNs s) := by
  unfold execModuleReset
  refine .next ?_
  split
  · exact h.elsewhere
  · split
    · exact .ite h.elsewhere.after_domainsOff h.elsewhere
    · exact .ite (.ite h.elsewhere.after_takeFree.after_domainsOff h.elsewhere.after_takeFree) h.elsewhere.after_takeFree

theorem Inv.after_execMrstNRelease (h : Inv s) {unit : BringUp} : Ends (execMrstNRelease unit s) :=
  .next (.ite h (.ite h.elsewhere.after_bringUp h.elsewhere))

theorem Inv.after_inputLost (h : Inv s) : Inv (inputLost s) := .ite h.after_domainsOff h.elsewhere

theorem Inv.after_execInputUndervoltage (h : Inv s) {input : BitVec 16} {lowUs : Nat} : Ends (execInputUndervoltage input lowUs s) :=
  .next (.ite h.after_setInput (.ite h.after_setInput.after_inputLost (.ite h.after_setInput.after_domainsOff h.after_setInput)))

theorem Inv.after_execInputLeavesRange (h : Inv s) {input : BitVec 16} : Ends (execInputLeavesRange input s) :=
  .next (.ite h.after_setInput.after_inputLost h.after_setInput)

theorem Inv.after_execThermalCut (h : Inv s) {quad : Nat} {temp : Int} : Ends (execThermalCut quad temp s) :=
  .unit (.ite h.after_domainsOff h)

/-! ### Warm reset (19 R516) -/

theorem Inv.after_poisonRetired (h : Inv s) : Inv (poisonRetired s) := .foldl h fun _ _ hs => .foldl hs fun _ _ hs1 => hs1.after_setPoison

theorem Inv.after_warmFinds (h : Inv s) : Inv (warmFinds s).2.2 := h.after_takeFree

theorem Inv.after_execWarmReset (h : Inv s) : Ends (execWarmReset s) := by
  refine .next ?_
  split
  · exact h
  extract_lets +onlyGivenNames s1 n
  have h1 : Inv s1 := .foldl h fun _ _ hs => hs.after_emitQp
  have hn : Inv n := h1.after_domainsOff
  split
  · exact hn.elsewhere
  extract_lets found m keep g due slices _ quads flashSt _ b _ w _ t h' m' m''
  have hm : Inv m := hn.after_warmFinds
  have hsl : smapWf Slice.reset slices = true := wf_map warmSlice h1.slices
  have hq : smapWf Quad.reset quads = true := wf_of_canon _ _ 0 (canon_of _ _)
  have h2 : Inv m' := .after_startRefresh (.after_poisonRetired { hm with slices := hsl, quads := hq })
  have h3 : Inv m'' := .ite h2 h2.after_raise
  exact .foldl h3 fun _ _ hs => hs.after_raise

/-! ### The belfry watchdog (20 R532) -/

theorem Inv.after_freezeCore (h : Inv s) {n : Nat} : Inv (freezeCore s n) := by
  unfold freezeCore
  split
  · exact h
  · exact h.after_modCore

theorem Inv.after_execBelfryWatchdog (h : Inv s) : Ends (execBelfryWatchdog s) := by
  refine .next ?_
  split
  · exact h
  extract_lets +onlyGivenNames inj s1 s2 now ticks r _ s3 s4 s5 _ s6 _ _
  have h1 : Inv s1 := .ite h.after_injDone h.after_passTo
  have h2 : Inv s2 := .foldl h1 fun _ _ hs => hs.after_freezeCore
  clear_value s2
  have h3 : Inv s3 := .after_ovfEvent h2.elsewhere
  have h4 : Inv s4 := h3.after_raiseI
  have h5 : Inv s5 := .ite (.foldl h4 fun _ _ hs => hs.after_abortTick) h4
  have h6 : Inv s6 := .after_sramCheck h5.elsewhere
  clear_value s6
  split
  · exact h6.elsewhere
  · exact h6.elsewhere

/-! ### Firmware (18 R488, R490) -/

theorem Inv.after_fwImage (h : Inv s) {src : Nat} : Inv (fwImage src s).2 := by
  have hread : ∀ a n s, Inv s → Inv (belRead a n s).2.2 := fun _ _ _ hs => hs.after_belRead
  unfold fwImage
  -- opaque, so that no check of a type runs it
  obtain ⟨rd, hrd⟩ : ∃ f, belRead = f := ⟨_, rfl⟩
  rw [hrd] at hread ⊢
  dsimp only
  split
  · exact hread _ _ _ h
  · exact hread _ _ _ (hread _ _ _ (hread _ _ _ h))

theorem Inv.after_execFirmwareUpdateComplete (h : Inv s) : Ends (execFirmwareUpdateComplete s) := by
  unfold execFirmwareUpdateComplete
  dsimp only
  refine .next ?_
  split
  · exact h
  · split
    · exact .after_raise (.elsewhere h.after_fwImage)
    · exact .elsewhere (.elsewhere h.after_fwImage)

theorem Inv.after_execFlashWearLevelling (h : Inv s) : Ends (execFlashWearLevelling s) := .next h

/-! ### SMBus (17 Table 17-5) -/

theorem Inv.after_smbAnswer (h : Inv s) {cmd : Nat} {bs : List Byte} : Inv (smbAnswer cmd bs s) := .ite h.after_emit h

theorem Inv.after_smbWord (h : Inv s) {cmd v : Nat} : Inv (smbWord cmd v s) := h.after_smbAnswer

theorem Inv.after_execSmbIdentity (h : Inv s) : Ends (execSmbIdentity s) := .next h.after_smbAnswer

theorem Inv.after_execSmbDieTemp (h : Inv s) : Ends (execSmbDieTemp s) := .next h.after_smbWord

theorem Inv.after_execSmbStackTemp (h : Inv s) : Ends (execSmbStackTemp s) := .next h.after_smbWord

theorem Inv.after_execSmbThermalStatus (h : Inv s) : Ends (execSmbThermalStatus s) := .next h.after_smbWord

theorem Inv.after_execSmbPortState (h : Inv s) : Ends (execSmbPortState s) := .next h.after_smbWord

theorem Inv.after_execSmbOtherNack (h : Inv s) : Ends (execSmbOtherNack s) := .next (.ite h.after_emit h)

/-! ### The TAP -/

theorem Inv.after_loadTap (h : Inv s) {t : Tap} : Inv (loadTap t s) := h.elsewhere

theorem Inv.after_execJtagBypass (h : Inv s) : Ends (execJtagBypass s) := .next (.ite h.after_loadTap h)

theorem Inv.after_execJtagIdcode (h : Inv s) : Ends (execJtagIdcode s) := .next (.ite h.after_loadTap.after_emit h)

theorem Inv.after_pinLevels (h : Inv s) : Inv (pinLevels s).2 := h.after_takeFree

theorem Inv.after_preload (h : Inv s) {v : BitVec 13} : Inv (preload v s) := h.elsewhere

theorem Inv.after_samplePins (h : Inv s) {data : BitVec 13} : Inv (samplePins data s) := h.after_pinLevels.after_emit.after_preload

theorem Inv.after_execJtagSamplePreload (h : Inv s) : Ends (execJtagSamplePreload s) :=
  .next (.ite h.after_takeFree.after_loadTap.after_samplePins h)

theorem Inv.after_execJtagExtest (h : Inv s) {drive : BitVec 13} : Ends (execJtagExtest drive s) :=
  .next (.ite h (.ite h.after_loadTap.after_samplePins h.after_loadTap.after_emit.after_preload.after_emit))

/-! ### Jobs at an open -/

theorem Inv.after_placeJob (h : Inv s) {lists : List (Nat × Bool)} {e : JobEnt} : Inv (placeJob lists s e) := by
  unfold placeJob
  dsimp only
  split
  · exact .elsewhere h.after_raise
  · split
    · exact h.elsewhere
    · split
      · exact h.elsewhere
      · exact .elsewhere h.after_setCore

theorem Inv.after_placeJobs (h : Inv s) {ents lists : List (List Byte)} : Inv (placeJobs ents lists s) :=
  .foldl h fun _ _ hs => hs.after_placeJob

theorem Inv.after_startFirst (h : Inv s) {n idx : Nat} {j : Job} {r : CoreJob} {arb : BitVec 1} : Inv (startFirst n idx j r arb s) := by
  unfold startFirst
  extract_lets +onlyGivenNames e img args prog _ s1 drop s2 dig s3 _ c
  have hargs : Inv args.2.2 := h.after_partRead.after_partRead
  have hprog : Inv prog.2 := by
    unfold prog
    split
    · exact .pair hargs
    · exact hargs.after_progOf
  split
  · exact hprog.after_setCore.after_modJob.after_raise
  · have h2 : Inv s2 := hprog.elsewhere
    have h3 : Inv s3 := h2.after_modJob
    exact .ite h3.after_setCore.after_takeFault h3.after_setCore.after_spadWrote

theorem Inv.after_startJob (h : Inv s) {idx : Nat} : Inv (startJob s idx) := by
  unfold startJob
  split
  · exact h
  · split
    · split
      · exact h
      · split
        · split
          · exact h.after_resumeJob.after_modJob
          · exact h
        · exact h.after_startFirst
    · exact h

theorem Inv.after_idleArbs (h : Inv s) : Inv (idleArbs s) := .foldl h fun _ _ hs => .ite hs (.ite hs hs.after_modCore)

theorem Inv.after_startJobs (h : Inv s) : Inv (startJobs s) := .after_idleArbs (.foldl h fun _ _ hs => hs.after_startJob)

/-! ### Markers (13 R350, 16 R446) -/

theorem Inv.after_sendMarkers (h : Inv s) {skip : Option BPort} {pl : List Byte} : Inv (sendMarkers skip pl s) :=
  .foldl h fun _ _ hs => .ite hs.after_emitFlit hs

theorem Inv.after_ringBell (h : Inv s) : Inv (ringBell s) := .ite h.after_takeFree.after_sendMarkers h

/-! ### Open (13 R342, R348) -/

theorem Inv.after_clearTick (h : Inv s) : Inv (clearTick s) := by
  unfold clearTick
  exact { h with cores := rfl, parts := wf_map (fun v => { v with lost := false }) h.parts }

theorem Inv.after_clearCounts (h : Inv s) : Inv (clearCounts s) := by
  unfold clearCounts
  exact { h with parts := wf_map (fun v => { v with overrun := 0, aborted := 0, tabort := false }) h.parts }

theorem Inv.after_endLoad (h : Inv s) : Inv (endLoad s) := h.after_modPart

theorem Inv.after_openQuad (h : Inv s) {q : Nat} : Inv (openQuad s q) := by
  unfold openQuad
  dsimp only
  split
  · exact .ite h.after_setQuad h.after_setQuad
  · exact .ite (.ite h.after_setQuad.after_quadRamp h.after_setQuad) h
  · exact h

theorem Inv.after_endTrip (h : Inv s) : Inv (endTrip s) := by
  unfold endTrip
  extract_lets +onlyGivenNames cool
  split
  · exact h
  extract_lets +onlyGivenNames _ s1 s2
  have h1 : Inv s1 := h.elsewhere
  have h2 : Inv s2 := .foldl h1 fun _ _ hs => .ite hs.after_quadRamp hs
  exact .foldl h2 fun _ _ hs => .ite hs.after_modPort hs

theorem Inv.after_openTimes (h : Inv s) {due : Nat} : Inv (openTimes due s) := h.elsewhere.after_ovfEvent

theorem Inv.after_openIdle (h : Inv s) {counts : Bool} : Inv (openIdle counts s) := by
  unfold openIdle
  extract_lets +onlyGivenNames r missed _ s1 _ s2 s3 _ s4
  have h1 : Inv s1 := .after_ovfEvent h.elsewhere
  have h2 : Inv s2 := .ite h1 h1.elsewhere
  have h3 : Inv s3 := h2.after_freeParts
  clear_value s3
  have h4 : Inv s4 := .ite (.after_raise h3.elsewhere) h3
  exact h4.after_idleArbs.after_ringBell

theorem Inv.after_openHeader (h : Inv s) {b : List Byte} : Inv (openHeader b s) := h.elsewhere

theorem Inv.after_openBell (h : Inv s) {b : List Byte} : Inv (openBell b s) := h.elsewhere

theorem Inv.after_openPlan (h : Inv s) {b : List Byte} : Inv (openPlan b s).2 := by
  unfold openPlan
  dsimp only
  exact .after_ringBell
    (.after_startJobs (.after_applyLayers
    (.after_placeJobs (.after_applyRestores
    (.after_applySeqs (.foldl
    (.elsewhere (.foldl (.after_applyFolds
    (.foldl (.foldl (.after_applyKeys
    (.foldl h.after_openHeader.after_openConfig.after_openBell.after_freeParts fun _ _ hs => hs.after_applyPart)) fun _ _ hs =>
    hs.after_applyWin) fun _ _ hs => hs.after_applyRing)) fun _ _ hs => hs.after_applyPool)) fun _ _ hs => hs.after_applyLeave))))))

theorem Inv.after_openWork (h : Inv s) {due : Nat} : Inv (openWork due s).2 := by
  unfold openWork
  extract_lets +onlyGivenNames next dog s1 s2 now s3 r s4 _ _
  have h1 : Inv s1 := h.after_clearTick.after_openTimes.after_endLoad.after_openRebuilds
  have h2 : Inv s2 := .after_endTrip (.after_tripOff (.after_settleQuads (.foldl h1 fun _ _ hs => hs.after_openQuad)))
  clear_value next
  have h3 : Inv s3 := by
    unfold s3
    split
    · exact h2.after_raise
    · exact h2.after_raise
    · exact h2.after_raiseI
    · exact h2
  have hr : Inv r.2 := by
    unfold r
    split
    · exact .pair h3.after_raiseI.after_openIdle
    split
    · exact .pair h3.after_openIdle
    split
    · exact h3.after_openPlan
    · exact .pair h3.after_openIdle
  exact .pair hr.elsewhere

theorem Inv.after_openTick (h : Inv s) {due : Nat} : Inv (openTick due s) := h.after_openWork.after_openClears

theorem Inv.after_openMarked (h : Inv s) {at' due period : Nat} : Inv (openMarked at' due period s) :=
  .after_openClears (.ite (.elsewhere h.after_openWork)
    (.elsewhere (.ite (.elsewhere h.after_openWork) (.after_raise (.elsewhere h.after_openWork)))))

theorem Inv.after_execTickOpen (h : Inv s) : Ends (execTickOpen s) := by
  unfold execTickOpen
  refine .next ?_
  split
  · exact h
  · split
    · split
      · exact h.after_openMarked
      · exact h
    · exact h.after_passTo.after_openTick

/-! ### Close (13 R343) -/

theorem Inv.after_overrunCore (h : Inv s) {n : Nat} : Inv (overrunCore s n) := by
  unfold overrunCore
  dsimp only
  split
  · exact h
  · split
    · exact h
    · split
      · exact .ite (.after_ovfEvent (.elsewhere h.after_preempt.after_modPart)) h.after_preempt
      · exact h.after_preempt

theorem Inv.after_writeStatus (h : Inv s) : Inv (writeStatus s) := by
  unfold writeStatus
  split
  · exact h
  · exact .elsewhere h.after_ownerWrite.after_ownerWrite

theorem Inv.after_execStatusSeal (h : Inv s) : Ends (execStatusSeal s) := by
  unfold execStatusSeal
  dsimp only
  refine .next ?_
  split
  · exact h
  · split
    · exact h.elsewhere.after_ownerWrite
    · exact h.elsewhere

theorem Inv.after_suppressedEvents (h : Inv s) : Inv (suppressedEvents s) := .foldl h fun _ _ hs => .ite hs.after_pushEvent hs

theorem Inv.after_dropImages (h : Inv s) : Inv (dropImages s) := h.elsewhere

theorem Inv.after_sendAudits (h : Inv s) : Inv (sendAudits s) := .foldl h fun _ _ hs => .ite hs.after_emitFlit hs

theorem Inv.after_closeLate (h : Inv s) : Inv (closeLate s) := .ite h h.elsewhere.after_raise

theorem Inv.after_finishClose (h : Inv s) : Inv (finishClose s) := by
  unfold finishClose
  extract_lets +onlyGivenNames _ s1 s2 s3 s4 recs s5 s6 s7 s8 s9 s10 _
  have h1 : Inv s1 := .after_sendAudits h.elsewhere
  have h2 : Inv s2 := .foldl h1 fun _ _ hs => .ite hs hs.after_applyAddLog
  have h4 : Inv s4 := .foldl h2.after_checkKvBooks.after_checkRouteBooks fun _ _ hs => hs.after_settleJob
  have h5 : Inv s5 := .foldl (.foldl h4 fun _ _ hs => hs.after_commitSeq) fun _ _ hs => hs.after_mendClose
  have h7 : Inv s7 := .foldl h5.after_closeRepairs fun _ _ hs => .ite hs.after_closeFold hs
  have h9 : Inv s9 := h7.after_closeDigests.after_dropImages.after_closeLate.after_suppressedEvents.after_writeStatus.after_clearCounts
  have h10 : Inv s10 := h9.after_clearFoldCounts.after_settleQuads.after_tripOff
  clear_value s10
  exact h10.elsewhere

theorem Inv.after_closeTick (h : Inv s) : Inv (closeTick s) := by
  unfold closeTick
  split
  · extract_lets +onlyGivenNames s1 s2
    have h2 : Inv s2 := .after_endRouting (.foldl h.after_readAllHands.after_clearDone fun _ _ hs => hs.after_overrunCore)
    clear_value s2
    exact .ite h2.elsewhere h2.after_finishClose
  · split
    · exact h.after_finishClose
    · extract_lets +onlyGivenNames s1
      have h1 : Inv s1 := .foldl h.after_passTo fun _ _ hs => hs.after_expireCore
      exact .ite h1 h1.after_finishClose
  · exact h

theorem Inv.after_execClose (h : Inv s) : Ends (execClose s) :=
  .next (.ite h (.ite h.after_passTo.after_passTo.after_closeTick h.after_passTo.after_closeTick))

/-! ### Followers (13 R350 to R352) -/

theorem Inv.after_takeMarker (h : Inv s) {p : BPort} {pl : List Byte} : Inv (takeMarker p pl s) := by
  unfold takeMarker
  extract_lets +onlyGivenNames bell tick period pd delay
  split
  · exact h
  extract_lets +onlyGivenNames f s1 _ s2 mine due _
  have h1 : Inv s1 := h.after_takeFree.after_sendMarkers
  have h2 : Inv s2 := h1.elsewhere
  split
  · exact h2.elsewhere
  extract_lets +onlyGivenNames s3 s4
  have h3 : Inv s3 := h2.elsewhere
  have h4 : Inv s4 := .ite h3.after_closeTick h3
  exact .ite h4.after_openMarked h4.elsewhere

theorem Inv.after_execTickMarker (h : Inv s) {port : BPort} {flit : List Byte} : Ends (execTickMarker port flit s) :=
  .next (.ite h (.ite h.after_discardFlit (.ite h.after_flitTake h.after_flitTake.after_takeMarker)))

theorem Inv.after_execMarkLost (h : Inv s) : Ends (execMarkLost s) := by
  unfold execMarkLost
  refine .next ?_
  split
  · exact h
  · refine .after_openClears ?_
    split
    · exact .elsewhere (.after_raise (.after_openWork (.elsewhere h.after_passTo)))
    · exact .after_raise (.after_openWork (.elsewhere h.after_passTo))

/-! ### The step -/

/-- A row of the instruction set is issued to its core; every other command has its own lemma. -/
theorem Inv.after_exec (h : Inv s) : ∀ c, Ends (exec c s)
  | .add .. | .sub .. | .mul .. | .mulh .. | .mulhu .. | .and .. | .or .. | .xor .. | .shl .. | .shr .. | .sra .. | .min ..
  | .max .. | .minu .. | .maxu .. | .pcmpEq .. | .pcmpNe .. | .pcmpLt .. | .pcmpGe .. | .pcmpLtu .. | .pcmpGeu .. | .pand ..
  | .por .. | .pxor .. | .pnot .. | .ldB .. | .ldBu .. | .ldH .. | .ldHu .. | .ldW .. | .ldWu .. | .ldD .. | .stB .. | .stH ..
  | .stW .. | .stD .. | .crd .. | .cwr .. | .mvm .. | .rdclk .. | .rdtick .. | .li64 .. | .brCond .. | .call .. | .jr ..
  | .bdnz .. | .ssigAdd .. | .ssigSet .. | .swait .. | .lfence .. | .halt .. | .strap .. | .mmac .. | .mdrain .. | .mload ..
  | .mzero .. | .vadd .. | .vsub .. | .vmul .. | .vmulh .. | .vand .. | .vor .. | .vxor .. | .vandn .. | .vnot .. | .vshl ..
  | .vshr .. | .vsra .. | .vrotl .. | .vimin .. | .vimax .. | .vfadd .. | .vfsub .. | .vfmul .. | .vfma .. | .vfmin ..
  | .vfmax .. | .vfcmp .. | .vsel .. | .vneg .. | .vabs .. | .vcpsgn .. | .vexp2 .. | .vlog2 .. | .vrcp .. | .vrsqrt ..
  | .vtanh .. | .vld .. | .vst .. | .vcvti .. | .vcvtf .. | .vredRow .. | .vredCol .. | .vredall .. | .vcmpcnt .. | .vqapp ..
  | .vsmstat .. | .vsmexp .. | .vrng .. | .vmov .. | .vbcast .. | .vzero .. | .vtopk .. | .rgsum .. | .rdisp .. | .rcomb ..
  | .dma .. | .dwait .. | .dwaitall .. => h.after_issue
  | .swaitRelease .. => h.after_execSwaitRelease
  | .lfenceRelease .. => h.after_execLfenceRelease
  | .dwaitRelease .. => h.after_execDwaitRelease
  | .issueStallEnd .. => h.after_execIssueStallEnd
  | .queuedInstrStart .. => h.after_execQueuedInstrStart
  | .instrComplete .. => h.after_execInstrComplete
  | .mangleBlockDecode .. => h.after_execMangleBlockDecode
  | .dmaDescriptorStart .. => h.after_execDmaDescriptorStart
  | .dmaDescriptorComplete .. => h.after_execDmaDescriptorComplete
  | .dmaDescriptorTimeout .. => h.after_execDmaDescriptorTimeout
  | .networkRequestTimeout .. => h.after_execNetworkRequestTimeout
  | .remoteCompletionTimeout .. => h.after_execRemoteCompletionTimeout
  | .dispatchTimeout .. => h.after_execDispatchTimeout
  | .rowRemapDone .. => h.after_execRowRemapDone
  | .sliceRetrain .. => h.after_execSliceRetrain
  | .sliceRetrainRelease .. => h.after_execSliceRetrainRelease
  | .refreshHold .. => h.after_execRefreshHold
  | .stackTempSample .. => h.after_execStackTempSample
  | .patrolScrub .. => h.after_execPatrolScrub
  | .junctionSample .. => h.after_execJunctionSample
  | .thermalCut .. => h.after_execThermalCut
  | .tickOpen => h.after_execTickOpen
  | .storeComplete .. => h.after_execStoreComplete
  | .tstLoopEnd .. => h.after_execTstLoopEnd
  | .planFetch => h.after_execPlanFetch
  | .planArrival .. => h.after_execPlanArrival
  | .close => h.after_execClose
  | .statusSeal => h.after_execStatusSeal
  | .warmReset => h.after_execWarmReset
  | .foldSegmentStream .. => h.after_execFoldSegmentStream
  | .foldSegmentComplete .. => h.after_execFoldSegmentComplete
  | .logRecordWrite .. => h.after_execLogRecordWrite
  | .commitDigestCompute .. => h.after_execCommitDigestCompute
  | .restorePage .. => h.after_execRestorePage
  | .digestHash => h.after_execDigestHash
  | .poisonPageRefill .. => h.after_execPoisonPageRefill
  | .attributeWriteComplete .. => h.after_execAttributeWriteComplete
  | .granuleScrubComplete .. => h.after_execGranuleScrubComplete
  | .drainExpiry .. => h.after_execDrainExpiry
  | .pendingKeyExpire .. => h.after_execPendingKeyExpire
  | .routeAdmit .. => h.after_execRouteAdmit
  | .sourceDonePoll .. => h.after_execSourceDonePoll
  | .combineCollectDone .. => h.after_execCombineCollectDone
  | .tickMarker .. => h.after_execTickMarker
  | .markLost => h.after_execMarkLost
  | .flitData .. => h.after_execFlitData
  | .flitNak .. => h.after_execFlitNak
  | .flitCtrl .. => h.after_execFlitCtrl
  | .flitIdle .. => h.after_execFlitIdle
  | .replayTimeout .. => h.after_execReplayTimeout
  | .txnWrite => h.after_execTxnWrite
  | .txnAdd => h.after_execTxnAdd
  | .txnRead => h.after_execTxnRead
  | .txnReadrsp => h.after_execTxnReadrsp
  | .txnAcks => h.after_execTxnAcks
  | .txnRefuse => h.after_execTxnRefuse
  | .acksFlush .. => h.after_execAcksFlush
  | .portTraining .. => h.after_execPortTraining
  | .portTrainingComplete .. => h.after_execPortTrainingComplete
  | .portDownRetry .. => h.after_execPortDownRetry
  | .portRetrain .. => h.after_execPortRetrain
  | .portRetrainComplete .. => h.after_execPortRetrainComplete
  | .fecErrorWindow .. => h.after_execFecErrorWindow
  | .laneLockLoss .. => h.after_execLaneLockLoss
  | .rocePacket .. => h.after_execRocePacket
  | .arpFrame .. => h.after_execArpFrame
  | .ndFrame .. => h.after_execNdFrame
  | .icmpEchoRequest .. => h.after_execIcmpEchoRequest
  | .pfcFrame .. => h.after_execPfcFrame
  | .unsupportedFrame .. => h.after_execUnsupportedFrame
  | .cmReq .. => h.after_execCmReq
  | .cmRtu .. => h.after_execCmRtu
  | .cmDreq .. => h.after_execCmDreq
  | .cmDrep .. => h.after_execCmDrep
  | .qpDreqTimeout .. => h.after_execQpDreqTimeout
  | .cspaceRdmaRead .. => h.after_execCspaceRdmaRead
  | .hostRdmaWrite .. => h.after_execHostRdmaWrite
  | .hostRdmaRead .. => h.after_execHostRdmaRead
  | .unsupportedRdmaOp .. => h.after_execUnsupportedRdmaOp
  | .rdmaReadResponse .. => h.after_execRdmaReadResponse
  | .roceAck .. => h.after_execRoceAck
  | .roceNak .. => h.after_execRoceNak
  | .roceAckTimeout .. => h.after_execRoceAckTimeout
  | .cnpReceive .. => h.after_execCnpReceive
  | .cnpRateRaise .. => h.after_execCnpRateRaise
  | .hostPortTrained .. => h.after_execHostPortTrained
  | .hostLinkLoss .. => h.after_execHostLinkLoss
  | .ownerHelloPoll .. => h.after_execOwnerHelloPoll
  | .ownerHelloTimeout => h.after_execOwnerHelloTimeout
  | .eventRecordWrite => h.after_execEventRecordWrite
  | .smbIdentity => h.after_execSmbIdentity
  | .smbDieTemp => h.after_execSmbDieTemp
  | .smbStackTemp => h.after_execSmbStackTemp
  | .smbThermalStatus => h.after_execSmbThermalStatus
  | .smbPortState => h.after_execSmbPortState
  | .smbOtherNack => h.after_execSmbOtherNack
  | .jtagBypass => h.after_execJtagBypass
  | .jtagIdcode => h.after_execJtagIdcode
  | .jtagSamplePreload => h.after_execJtagSamplePreload
  | .jtagExtest .. => h.after_execJtagExtest
  | .powerOn .. => h.after_execPowerOn
  | .moduleReset .. => h.after_execModuleReset
  | .inputUndervoltage .. => h.after_execInputUndervoltage
  | .belfryWatchdog => h.after_execBelfryWatchdog
  | .quadRampComplete .. => h.after_execQuadRampComplete
  | .quadCycleOffEnd .. => h.after_execQuadCycleOffEnd
  | .regulatorRefill => h.after_execRegulatorRefill
  | .pfcPauseExpiry .. => h.after_execPfcPauseExpiry
  | .hostPortTrainingFailed .. => h.after_execHostPortTrainingFailed
  | .mrstNRelease .. => h.after_execMrstNRelease
  | .inputLeavesRange .. => h.after_execInputLeavesRange
  | .flashWearLevelling => h.after_execFlashWearLevelling
  | .firmwareUpdateComplete => h.after_execFirmwareUpdateComplete
  | .attestationReportSigned => h.after_execAttestationReportSigned

theorem Inv.after_step (h : Inv s) : Ends (step s) := by
  unfold step
  split
  · exact .next h.elsewhere
  · exact Inv.after_exec h.elsewhere _

end
end Sys2Proof.Claims

namespace Sys2Proof.Proofs

open Sys2Proof Sys2Proof.Machine Sys2Proof.Claims

/-- Settles O60, by cases on the command at the front of the queue: no function of the model leaves a part in another form. -/
theorem stepKeepsInv : Obligations.StepKeepsInv := by
  intro s t h hgo
  have hstep : Ends (.next t) := hgo ▸ h.after_step
  exact hstep.inv

end Sys2Proof.Proofs

namespace Sys2Proof.Proofs

open Sys2Proof Sys2Proof.Machine Sys2Proof.Claims Sys2Proof.Laws

/-- A command that names a unit of the spec. -/
theorem unitRes_next {s : State} {ok : Bool} (h : ok = true) : unitRes ok s = .next s := by
  rw [h]
  rfl

/-! ### Memory that reads back -/

section Memory

variable {α : Type} {d : α} {m : SMap α}

/-- A read after a run of keys is cleared: the default inside it, the old value outside it. -/
theorem get_clear (h : Canon d 0 m) {lo hi : Nat} (hl : lo ≤ hi) (n : Nat) :
    smapGet d (smapClear m lo hi) n = if lo ≤ n ∧ n < hi then d else smapGet d m n := by
  rw [smapClear, get_append (canon_below lo h) (under_below m lo) ((canon_from hi h).weaken (by omega))]
  by_cases hlo : n < lo
  · simp [hlo, show ¬ lo ≤ n by omega, get_below_filter lo n h hlo]
  · by_cases hhi : n < hi
    · simp [hlo, hhi, show lo ≤ n by omega, get_below (canon_from hi h) (show n < max 0 hi by omega)]
    · simp [hlo, hhi, get_from_filter hi n h (by omega)]

theorem bPut_reads {s : State} (h : Memory.wf s = true) (a : Nat) (bs : List Byte) (x : Nat) :
    smapGet 0 (bPut a bs s).bonded.mem x = if a ≤ x ∧ x < a + bs.length then bs.getD (x - a) 0 else smapGet 0 s.bonded.mem x :=
  get_put a bs (canon_of_wf _ _ h) x

theorem bBytes_bPut {s : State} (h : Memory.wf s = true) (a : Nat) (bs : List Byte) : bBytes (bPut a bs s) a bs.length = bs := by
  refine (run_eq a bs.length (canon_of_wf _ _ (bPut_keeps_form a bs h))).trans (List.ext_getElem (by simp) fun i _ hi => ?_)
  rw [List.getElem_map, List.getElem_range, bPut_reads h]
  simp [hi]

theorem zeroGranule_reads {s : State} (h : Memory.wf s = true) (g x : Nat) :
    smapGet 0 (zeroGranule g s).bonded.mem x = if x / granSize = g then 0 else smapGet 0 s.bonded.mem x := by
  obtain ⟨p, w, q, _, _, _, hz⟩ := zeroGranule_only g s
  rw [hz]
  refine (get_clear (canon_of_wf _ _ h) (Nat.le_add_right _ _) x).trans (ite_congr (propext ?_) (fun _ => rfl) fun _ => rfl)
  unfold granSize
  omega

end Memory

/-- Settles O57: a run put into canonical memory reads back (`get_put`), and a granule is a run of keys that is cleared. -/
theorem memoryReadsBack : Obligations.MemoryReadsBack :=
  fun _ a g bs h => ⟨bBytes_bPut h a bs, bPut_reads h a bs, zeroGranule_reads h g⟩

/-! ### Repairs and refresh of a slice -/

section Repairs

variable {s : State} {n : Nat}

theorem mem_of_firstRemap : ∀ {l : List (Nat × Nat × Nat × Nat)} {r}, firstRemap l = some r → r ∈ l
  | a :: l, r, h => by
    simp only [firstRemap] at h
    split at h
    next x hx =>
      split at h <;> cases h
      · exact List.mem_cons_of_mem _ (mem_of_firstRemap hx)
      · exact List.mem_cons_self
    next =>
      cases h
      exact List.mem_cons_self

/-- The remap that ends before every other is the one that is done first. -/
theorem firstRemap_eq_of_least : ∀ {l : List (Nat × Nat × Nat × Nat)} {r}, r ∈ l → (∀ x ∈ l, x ≠ r → r.2.2.2 < x.2.2.2) →
    firstRemap l = some r
  | a :: l, r, hr, hleast => by
    have hl : ∀ x ∈ l, x ≠ r → r.2.2.2 < x.2.2.2 := fun x hx => hleast x (List.mem_cons_of_mem _ hx)
    by_cases ha : a = r
    · subst ha
      simp only [firstRemap]
      split
      next x hx =>
        by_cases hxa : x = a
        · simp [hxa]
        · have := hl x (mem_of_firstRemap hx) hxa
          exact if_neg (by omega)
      next => rfl
    · have hmem : r ∈ l := (List.mem_cons.mp hr).resolve_left fun h => ha h.symm
      simp only [firstRemap, firstRemap_eq_of_least hmem hl]
      exact if_pos (hleast a List.mem_cons_self ha)

theorem dropFirst_eq_erase {α : Type} [BEq α] [LawfulBEq α] [DecidableEq α] (r : α) : ∀ l : List α, dropFirst (fun x => x = r) l = l.erase r
  | [] => rfl
  | a :: l => by
    by_cases h : a = r
    · simp [dropFirst, h]
    · simp [dropFirst, h, dropFirst_eq_erase r l]

theorem rowRemapDone_next (hn : n < 100) {r : Nat × Nat × Nat × Nat} (hr : firstRemap (getSlice s n).remaps = some r)
    (hhold : (getSlice s n).holdAt = none) :
    Goes (.rowRemapDone n) s (setSlice n { getSlice s n with remaps := (getSlice s n).remaps.erase r } (passTo r.2.2.2 s)) := by
  refine (unitRes_next (decide_eq_true hn)).trans (congrArg _ ?_)
  rw [hr, ← dropFirst_eq_erase r]
  exact if_neg (by simp [hhold])

/-- What holds where SLICE_RETRAIN takes slice `n`: the start of the run phase, the first retrain of the tick, and `n` the lowest slice
that waits for one. -/
def RetrainDue (s : State) (n : Nat) : Prop :=
  s.tick.phase = .run ∧ s.clk = s.tick.runAt ∧ belfryRuns s = true ∧ s.tick.retrained = false ∧ (retrainWaiting s).head? = some n ∧
    (getSlice s n).holdAt = none

theorem sliceRetrain_next (hn : n < 100) (hdue : RetrainDue s n) :
    Goes (.sliceRetrain n) s (let s := { s with tick := { s.tick with retrained := true } }
      if 16 ≤ (getSlice s n).spareBonds then failSlice n s
      else setSlice n { getSlice s n with st := .retrain, holdAt := some s.clk } s) := by
  obtain ⟨hphase, hclk, hruns, hfirst, hhead, hhold⟩ := hdue
  refine (unitRes_next (decide_eq_true hn)).trans (congrArg _ ?_)
  exact if_neg (by simp [hphase, hclk, hruns, hfirst, hhead, hhold])

/-- The end of a hold changes what the descriptors and the reads that waited count as held, nothing else. -/
theorem creditHeld_only (n t : Nat) (s : State) : ∃ c x, creditHeld n t s = { s with cores := c, xfers := x } := by
  unfold creditHeld
  extract_lets held ofRead s1
  refine List.foldlRecOn (motive := fun u : State => ∃ (c : SMap Core) (x : List Xfer), u = { s with cores := c, xfers := x }) _ _
    ⟨s.cores, _, rfl⟩ fun u hu m _ => ?_
  obtain ⟨c, x, rfl⟩ := hu
  dsimp only
  split
  · exact ⟨_, _, rfl⟩
  · exact ⟨_, _, rfl⟩

theorem sliceRetrainRelease_next (hn : n < 100) {t : Nat} (hst : (getSlice s n).st = .retrain) (hhold : (getSlice s n).holdAt = some t) :
    ∃ c x e b, Goes (.sliceRetrainRelease n) s { setSlice n { getSlice s n with
        st := restState (getSlice s n), holdAt := none, spareBonds := (getSlice s n).spareBonds + 1, retrainReq := false, bondErrs := b }
      (passTo (t + us 40) s) with cores := c, xfers := x, events := e } := by
  obtain ⟨c, x, hcredit⟩ := creditHeld_only n t (passTo (t + us 40) s)
  show ∃ c x e b, execSliceRetrainRelease n s = _
  unfold execSliceRetrainRelease
  rw [unitRes_next (decide_eq_true hn), hst, hhold]
  dsimp only
  rw [hcredit]
  obtain ⟨e, he⟩ := raise_only _ 2 n none 0x3003 _
  rw [he]
  exact ⟨c, x, e, _, rfl⟩

theorem refreshHold_next (hn : n < 100) : Goes (.refreshHold n) s
    (setSlice n { getSlice s n with refAt := (getSlice s n).refAt + refInterval (getSlice s n).refStep }
      (passTo ((getSlice s n).refAt + refInterval (getSlice s n).refStep) s)) :=
  unitRes_next (decide_eq_true hn)

end Repairs

/-- Settles O22: one lemma for each of the four commands; the release keeps bonded memory but for its slice (`creditHeld_only`). -/
theorem sliceRepairAndRefresh : Obligations.SliceRepairAndRefresh := by
  intro s n hn v due
  refine ⟨fun r hr hhold hleast _ => rowRemapDone_next hn (firstRemap_eq_of_least hr hleast) hhold, fun hdue hspare => ?_,
    fun hdue hspare => ?_, fun t hst hhold => ?_, refreshHold_next hn⟩
  · have h := sliceRetrain_next hn hdue
    rwa [if_neg (by exact Nat.not_le.mpr hspare)] at h
  · have h := sliceRetrain_next hn hdue
    rwa [if_pos (by exact hspare)] at h
  · obtain ⟨c, x, e, b, hgo⟩ := sliceRetrainRelease_next hn hst hhold
    exact ⟨_, _, hgo, rfl, rfl, rfl, rfl, rfl, rfl, rfl, rfl, rfl⟩

/-! ### Temperatures -/

section Temperatures

variable {s : State}

theorem tripOff_of_not_tripped (h : s.power.tripped = false) : tripOff s = s := by
  unfold tripOff
  exact if_neg (by simp [h])

theorem settleQuads_of_none_wants_off (h : ∀ q, q < 25 → (getQuad s q).wantOff = false) : settleQuads s = s := by
  unfold settleQuads
  refine List.foldlRecOn (motive := fun t => t = s) _ _ rfl fun t ht q hq => ?_
  rw [ht]
  exact if_neg (by simp [h q (List.mem_range.mp hq)])

theorem thermOff_of_not_armed (h : s.test.arm = false) (kind idx : Nat) : thermOff s kind idx = 0 := by
  simp [thermOff, thermInj, h]

theorem thermDone_of_not_armed (h : s.test.arm = false) : thermDone s = s := by
  simp [thermDone, h]

theorem setRefresh_only (inj : Bool) (n : Nat) (step : BitVec 2) (s : State) : ∃ sl e, setRefresh inj n step s =
    { s with bonded := { s.bonded with slices := sl }, events := e } := by
  unfold setRefresh
  split
  · exact ⟨_, _, rfl⟩
  · obtain ⟨e, he⟩ := raiseI_only (modSlice n (fun v => { v with refStep := step }) s) inj 2 n none 0x3005 step.toNat
    rw [he]
    exact ⟨_, _, rfl⟩

theorem getSlice_setRefresh (h : smapWf Slice.reset s.bonded.slices = true) (inj : Bool) (n m : Nat) (step : BitVec 2) :
    getSlice (setRefresh inj n step s) m = if m = n then { getSlice s n with refStep := step } else getSlice s m := by
  unfold setRefresh
  split
  next hstep =>
    split
    next hm => rw [hm, ← hstep]
    next => rfl
  · rw [getSlice, raiseI_bonded]
    exact getSlice_setSlice h n m _

/-- A step that does not fall, below the step of a trip, is the step of the temperature: whatever the step down would be. -/
theorem rising_step : ∀ (old up low : BitVec 2) (held : Bool), old.toNat ≤ up.toNat → up ≠ 3 →
    (let down : BitVec 2 := if old = 3 && held then 3 else if old.toNat ≤ low.toNat then old else low
     if old.toNat < up.toNat then up else if down.toNat < up.toNat then up else down) = up := by decide

/-- A slice with the temperature that a sample found at `clk`. -/
def sampled (temp : Int) (clk : Nat) (v : Slice) : Slice :=
  { v with
    temp := temp
    above82 := if 82 < temp then clk else v.above82
    above92 := if 92 < temp then clk else v.above92
    above102 := if 102 < temp then clk else v.above102 }

/-- A sample that trips nothing, and whose step is not a step down: the slice takes the temperature and its step. -/
theorem stackTempSample_next {n : Nat} {a b : Int} (hn : n < 100) (hup : isUp s = true) (harm : s.test.arm = false)
    (htrip : s.power.tripped = false) (hmax : max a b ≤ 105) (hsl : smapWf Slice.reset s.bonded.slices = true)
    (hstep : (getSlice s n).refStep.toNat ≤ (stackStep (max a b)).toNat) :
    Goes (.stackTempSample n a b) s
      (trackCool (setRefresh (thermInj s 2 n) n (stackStep (max a b)) (modSlice n (sampled (max a b) s.clk) s))) := by
  have hnot : stackStep (max a b) ≠ 3 := by
    unfold stackStep
    rw [if_neg (by omega)]
    split
    · decide
    · split <;> decide
  refine (unitRes_next (decide_eq_true hn)).trans (congrArg _ ?_)
  rw [if_neg (by simp [hup]), thermOff_of_not_armed harm, thermDone_of_not_armed harm, Int.add_zero]
  extract_lets inj t s1 v up cool low down s2
  have hv : v.refStep = (getSlice s n).refStep := by
    have : v = sampled t s.clk (getSlice s n) := (getSlice_setSlice hsl n n _).trans (if_pos rfl)
    rw [this]
    rfl
  have hup : (if v.refStep.toNat < up.toNat then up else if down.toNat < up.toNat then up else down) = up :=
    rising_step v.refStep up low (!cool v.above102) (hv ▸ hstep) hnot
  have hs2 : s2 = trackCool (setRefresh inj n up s1) := congrArg (fun r => trackCool (setRefresh inj n r s1)) hup
  rw [if_neg (by omega), hs2]
  refine tripOff_of_not_tripped ?_
  obtain ⟨sl, e, he⟩ := setRefresh_only inj n up s1
  rw [he]
  exact htrip

/-- A quad, till now in no thermal step, with the junction temperature that a sample found at `clk`: below EMERG. -/
def heated (temp : Int) (clk : Nat) (v : Quad) : Quad :=
  { v with
    temp := temp
    step := if 100 < temp then .hold else if 95 < temp then .warn else .normal
    coolAt := if temp ≤ 95 then some (v.coolAt.getD clk) else none }

theorem junctionSample_next {q : Nat} {x : Int} (hq : q < 25) (hup : isUp s = true) (harm : s.test.arm = false)
    (htrip : s.power.tripped = false) (hmax : x ≤ 104) (hstep : (getQuad s q).step = .normal)
    (hquads : smapWf Quad.reset s.power.quads = true) (hwant : ∀ k, k < 25 → (getQuad s k).wantOff = false) :
    ∃ e, Goes (.junctionSample q x) s (trackCool { setQuad q (heated x s.clk (getQuad s q)) s with events := e }) := by
  have hjunction : junctionStep .normal x = if 100 < x then .hold else if 95 < x then .warn else .normal := by
    simp [junctionStep, show ¬ 104 < x by omega]
  show ∃ e, execJunctionSample q x s = _
  unfold execJunctionSample
  rw [unitRes_next (decide_eq_true hq), if_neg (by simp [hup]), thermOff_of_not_armed harm, thermDone_of_not_armed harm, Int.add_zero]
  extract_lets inj t v step s1 s2 s3
  have hst : step = if 100 < x then .hold else if 95 < x then .warn else .normal :=
    (congrArg (junctionStep · x) hstep).trans hjunction
  have hs1 : s1 = setQuad q (heated x s.clk v) s := congrArg (fun st => setQuad q { heated x s.clk v with step := st } s) hst
  have hevent : ∀ st, st ≠ .emerg → step = st → ∃ e, s2 = { s1 with events := e } := by
    intro st hcool hst
    unfold s2
    rw [hst]
    split
    · exact ⟨_, rfl⟩
    cases st with
    | normal => exact ⟨_, rfl⟩
    | warn => exact raiseI_only _ _ _ _ _ _ _
    | hold => exact raiseI_only _ _ _ _ _ _ _
    | emerg => exact absurd rfl hcool
  obtain ⟨e, he⟩ := hevent _ (by split_ifs <;> decide) hst
  have hwant1 : ∀ k, k < 25 → (getQuad s1 k).wantOff = false := by
    intro k hk
    rw [getQuad_setQuad hquads]
    split
    · exact hwant q hq
    · exact hwant k hk
  have h3 : s3 = trackCool { s1 with events := e } := congrArg trackCool he
  have hquads3 : ∀ k, getQuad s3 k = getQuad s1 k := fun k => by rw [h3]; rfl
  rw [if_neg (by omega), settleQuads_of_none_wants_off fun k hk => by rw [hquads3]; exact hwant1 k hk,
    tripOff_of_not_tripped (by rw [h3]; exact htrip), h3, hs1]
  exact ⟨e, rfl⟩

end Temperatures

/-- Settles O23: a sample that trips nothing ends in one write of its slice, or of its quad (`stackTempSample_next`,
`junctionSample_next`). -/
theorem temperatureSteps : Obligations.TemperatureSteps := by
  constructor
  · intro s n a b t step hn hup harm htrip hmax hsl hstep
    have hst : stackStep t = step := if_neg (by omega)
    have hgo := stackTempSample_next hn hup harm htrip hmax hsl (hst ▸ hstep)
    have hsl1 : smapWf Slice.reset (modSlice n (sampled t s.clk) s).bonded.slices = true := wf_set _ _ hsl
    have hget := getSlice_setRefresh hsl1 (thermInj s 2 n) n
    have hn1 : getSlice (modSlice n (sampled t s.clk) s) n = sampled t s.clk (getSlice s n) :=
      (getSlice_setSlice hsl n n _).trans (if_pos rfl)
    obtain ⟨sl, e, he⟩ := setRefresh_only (thermInj s 2 n) n (stackStep t) (modSlice n (sampled t s.clk) s)
    refine ⟨_, hgo, ?_, ?_, by rw [he]; exact htrip, by rw [he]; rfl, by rw [he]; rfl, fun m hm => ?_⟩
    · exact (congrArg Slice.temp (hget n _)).trans (by rw [if_pos rfl, hn1]; rfl)
    · exact (congrArg Slice.refStep (hget n _)).trans (by rw [if_pos rfl]; exact hst)
    · exact (hget m _).trans (by rw [if_neg hm]; exact (getSlice_setSlice hsl n m _).trans (if_neg hm))
  · intro s q x v hq hup harm htrip hstep hmax hquads hwant
    obtain ⟨e, hgo⟩ := junctionSample_next hq hup harm htrip hmax hstep hquads hwant
    exact ⟨_, hgo, rfl, rfl, rfl, htrip⟩

/-! ### Patrol scrubs -/

section Scrub

variable {s : State}

/-- A local address lies on the same byte of a granule of 32 as its place in the stack. -/
theorem addrOfLocal_mod {n o a : Nat} (h : addrOfLocal n o = some a) : a % 32 = o % 32 := by
  unfold addrOfLocal granSize at h
  dsimp only at h
  split at h
  · cases h
    omega
  · split at h
    · cases h
      omega
    · cases h

theorem patrolScrub_next {n g a : Nat} {flips : Flips} (hn : n < 100) (hg : g < 64487424) (hpm : (getSlice s n).scrubpm ≠ 0)
    (hst : (getSlice s n).st ≠ .failed) (hbank : bankHeld (getSlice s n) (g * 32) = false) (ha : addrOfLocal n (g * 32) = some a)
    (hpoison : isPoison (upsetBytes a flips s) (pageOf a) = false) (hattr : smapGet 0 (upsetBytes a flips s).bonded.attrBad (pageOf a) = 0) :
    Goes (.patrolScrub n g flips) s (ctlRead a none (cntRead n 32 (upsetBytes a flips s))).2 := by
  have hok : (decide (n < 100) && decide (g * 32 < 984 * granSize)) = true := by simp [hn, granule_in_slice hg]
  have hpage : pageStops (pageOf a) (upsetBytes a flips s) = (false, upsetBytes a flips s) := by simp [pageStops, hpoison, hattr]
  refine (unitRes_next hok).trans (congrArg _ ?_)
  rw [if_neg (by simpa [hst, hbank] using hpm), ha]
  dsimp only
  rw [hpage]
  rfl

/-- A read for the controller of bytes of good parity. -/
theorem ctlRead_of_good {a : Nat} {who : Option Nat} (h : badByte s (gran32 a) 32 = none) : (ctlRead a who s).2 = s := by
  rw [ctlRead, h]

theorem ctlRead_of_bad {a b : Nat} {who : Option Nat} {inj : Bool} (h : badByte s (gran32 a) 32 = some (b, inj)) :
    (ctlRead a who s).2 = errorsFound (gran32 a) 32 who s := by
  rw [ctlRead, h]

/-! What a parity error found does to the poison of pages: it sets that of its own. -/

theorem perrInc_poison (sl : Nat) (s : State) : (perrInc sl s).bonded.poison = s.bonded.poison := by
  obtain ⟨e, he⟩ := ovfEvent_only (modSlice sl (fun v => { v with perr := (ctrInc (getSlice s sl).perr).1 }) s)
    (ctrInc (getSlice s sl).perr).2 (0x01000000 + sl * 0x10000 + 0x10)
  rw [perrInc, he]
  rfl

theorem rowRepair_poison (sl die bank row : Nat) (s : State) : (rowRepair sl die bank row s).bonded.poison = s.bonded.poison := by
  unfold rowRepair
  extract_lets
  split
  · rw [raise_bonded]
    rfl
  · rfl

theorem bondError_poison (sl a row : Nat) (s : State) : (bondError sl a row s).bonded.poison = s.bonded.poison := rfl

theorem endJob_bonded (n seq code : Nat) (st : RunSt) (pc : W64) (s : State) : (endJob n seq code st pc s).bonded = s.bonded := by
  have hfault : (takeFault n seq code 0 pc s).bonded = s.bonded := by
    rcases takeFault_only n seq code 0 pc s with h | ⟨f, h, j, he⟩
    · rw [h]
    · rw [he]
      rfl
  unfold endJob
  dsimp only
  split
  · rfl
  split
  · exact hfault
  split
  · exact hfault
  · rfl

theorem rollP0_bonded (sl : Nat) (who : Option Nat) (s : State) : (rollP0 sl who s).bonded = s.bonded := by
  refine List.foldlRecOn (motive := fun t : State => t.bonded = s.bonded) (List.range 100) _ rfl fun t ht n _ => ?_
  dsimp only
  split
  · exact (endJob_bonded _ _ _ _ _ _).trans ht
  · exact ht

theorem parityFound_poison (a : Nat) (inj : Bool) (who : Option Nat) (s : State) :
    (parityFound a inj who s).bonded.poison = smapSet false s.bonded.poison (pageOf a) true := by
  unfold parityFound
  extract_lets sl o s1 s2 s3 s4
  have h3 : s3.bonded.poison = smapSet false s.bonded.poison (pageOf a) true := by
    unfold s3
    rw [raiseI_bonded]
    exact perrInc_poison sl s1
  have h4 : s4.bonded.poison = smapSet false s.bonded.poison (pageOf a) true := by
    unfold s4
    split
    · exact h3
    · rw [bondError_poison, rowRepair_poison]
      exact h3
  split
  · rw [rollP0_bonded]
    exact h4
  · exact h4

/-- One byte of a granule with flipped bits: its data is changed, and its parity where an odd number of them flipped. -/
theorem upsetBytes_one {k : Nat} (hk : k < 32) (a : Nat) (m : BitVec 9) (s : State) :
    upsetBytes a [(k, m)] s = { s with bonded := { s.bonded with
      mem := smapSet 0 s.bonded.mem (a + k) (smapGet 0 s.bonded.mem (a + k) ^^^ m.setWidth 8)
      bad := if oddFlip m then smapSet 0 s.bonded.bad (a + k) (if smapGet 0 s.bonded.bad (a + k) = 0 then 1 else 0) else s.bonded.bad } } :=
  if_neg (by exact Nat.not_le.mpr hk)

theorem not_oddFlip_two : ∀ j, j < 9 → ∀ i, i < j → oddFlip (2 ^ i + 2 ^ j) = false := by decide

theorem oddFlip_one : ∀ i, i < 9 → oddFlip (2 ^ i) = true := by decide

theorem badByte_one {a b : Nat} (hbad : s.bonded.bad = [(b, 1)]) (hlo : a ≤ b) (hhi : b < a + 32) : badByte s a 32 = some (b, false) := by
  simp [badByte, hbad, hlo, hhi]

/-- A granule with one bad byte: its error is found there, and its page is POISON. -/
theorem errorsFound_poison {a b : Nat} (hbad : s.bonded.bad = [(b, 1)]) (hlo : a ≤ b) (hhi : b < a + 32) (who : Option Nat) :
    (errorsFound a 32 who s).bonded.poison = smapSet false s.bonded.poison (pageOf b) true := by
  have hreal : badOf s a 32 false = some b := by simp [badOf, hbad, hlo, hhi]
  have hmade : badOf s a 32 true = none := by simp [badOf, hbad]
  rw [errorsFound, hreal, hmade]
  exact parityFound_poison b false who s

end Scrub

/-- Settles O24: the command ends in the controller's read of the granule with the flips in it (`patrolScrub_next`), which is good where
an even number of bits flipped, and finds the byte where one did. -/
theorem patrolScrubReads : Obligations.PatrolScrubReads := by
  intro s n g a hn hg hpm hst hbank ha hpoison hattr read
  refine ⟨fun hgood => ?_, fun k i j hk hij hj hgood => ?_, fun k i hk hi hbad hnone => ?_⟩
  · have hgo := patrolScrub_next (flips := []) hn hg hpm hst hbank ha hpoison hattr
    exact hgo.trans (congrArg _ (ctlRead_of_good (s := cntRead n 32 s) hgood))
  · have hupset := upsetBytes_one hk a (2 ^ i + 2 ^ j) s
    rw [not_oddFlip_two j hj i hij] at hupset
    have hgo := patrolScrub_next (flips := [(k, 2 ^ i + 2 ^ j)]) hn hg hpm hst hbank ha (by rw [hupset]; exact hpoison)
      (by rw [hupset]; exact hattr)
    rw [hupset] at hgo
    exact hgo.trans (congrArg _ (ctlRead_of_good hgood))
  · have hupset := upsetBytes_one hk a (2 ^ i) s
    rw [oddFlip_one i hi] at hupset
    have hgo := patrolScrub_next (flips := [(k, 2 ^ i)]) hn hg hpm hst hbank ha (by rw [hupset]; exact hpoison)
      (by rw [hupset]; exact hattr)
    refine ⟨_, hgo, ?_⟩
    have ha32 : a % 32 = 0 := by have := addrOfLocal_mod ha; omega
    have hlo : gran32 a ≤ a + k := by unfold gran32; omega
    have hhi : a + k < gran32 a + 32 := by unfold gran32; omega
    have hpage : pageOf (a + k) = a / 4096 := by unfold pageOf pageSize; omega
    have hb : (cntRead n 32 (upsetBytes a [(k, 2 ^ i)] s)).bonded.bad = [(a + k, 1)] := by
      rw [hupset]
      simp [cntRead, modSlice, hbad, smapSet, smapGet]
    rw [ctlRead_of_bad (badByte_one hb hlo hhi), errorsFound_poison hb hlo hhi, hpage, hupset]
    show smapGet false (smapSet false s.bonded.poison (a / 4096) true) (a / 4096) = true
    simp [hnone, smapSet, smapGet]

/-! ### Cuts, resets and losses of input -/

section Losses

variable {s : State}

/-- What is left of a module `s` that went down, whatever took it down. -/
def Down (s t : State) (cause : BitVec 3) : Prop :=
  t.boot = .off ∧ t.power.cause = cause ∧ t.cores = [] ∧ t.bonded = { Bonded.reset with slices := failedSlices s } ∧
    t.host.qps = [] ∧ t.fuseLo = s.fuseLo ∧ t.fuseHi = s.fuseHi ∧ t.flash = s.flash

theorem down_domainsOff (cause : Nat) (s : State) : Down s (domainsOff cause s) (BitVec.ofNat 3 cause) :=
  ⟨rfl, rfl, rfl, rfl, rfl, rfl, rfl, rfl⟩

theorem thermalCut_next {q : Nat} (hq : q < 25) (hup : isUp s = true) (x : Int) :
    Goes (.thermalCut q x) s (if 115 < x then domainsOff 3 s else s) := by
  refine (unitRes_next (decide_eq_true hq)).trans (congrArg _ ?_)
  simp [hup]

theorem moduleReset_next_short {k : Nat} (hk : k < 1000) : Goes (.moduleReset k) s { s with power := { s.power with mrstn := false } } :=
  congrArg _ (if_pos hk)

theorem moduleReset_next_long {k : Nat} (hk : 10000 ≤ k) (hup : isUp s = true) :
    Goes (.moduleReset k) s (domainsOff 1 { s with power := { s.power with mrstn := false } }) := by
  refine congrArg Host.Outcome.next ?_
  dsimp only
  rw [if_neg (by omega), if_pos hk]
  exact if_pos hup

theorem inputUndervoltage_next {v : BitVec 16} {k : Nat} (hv : v.toNat < 4600) (hup : isUp s = true) :
    Goes (.inputUndervoltage v k) s
      (if inStep1 s then inputLost (setInput v s) else if 1000 < k then domainsOff 0 (setInput v s) else setInput v s) := by
  refine congrArg Host.Outcome.next ?_
  dsimp only
  have hup' : isUp (setInput v s) = true := hup
  rw [if_neg (by omega), hup']
  rfl

theorem inputLeavesRange_next {v : BitVec 16} (hup : isUp s = true) :
    Goes (.inputLeavesRange v) s (if !inputOk v && inStep1 s then inputLost (setInput v s) else setInput v s) := by
  refine congrArg Host.Outcome.next ?_
  dsimp only
  have hup' : isUp (setInput v s) = true := hup
  rw [hup']
  rfl

/-- A loss of input keeps the cause of a thermal cut. -/
theorem down_inputLost (hup : isUp s = true) (v : BitVec 16) :
    Down s (inputLost (setInput v s)) (if s.power.cause = 3 then 3 else 0) ∧ (inputLost (setInput v s)).power.input = v := by
  have hlost : inputLost (setInput v s) = domainsOff (if s.power.cause = 3 then 3 else 0) (setInput v s) := if_pos hup
  rw [hlost]
  obtain ⟨hboot, hcause, hrest⟩ := down_domainsOff (if s.power.cause = 3 then 3 else 0) (setInput v s)
  refine ⟨⟨hboot, hcause.trans ?_, hrest⟩, rfl⟩
  split <;> rfl

theorem inStep1_of_up {t0 : Nat} {b : Bool} (h : s.boot = .up t0 b) : inStep1 s = decide (s.clk < t0 + 12000000) := by
  rw [inStep1, h]
  rfl

end Losses

/-- Settles O25: each command answers the state of `domainsOff` where it takes the module down (`down_domainsOff`). -/
theorem resetsAndCuts : Obligations.ResetsAndCuts := by
  unfold Obligations.ResetsAndCuts
  intro emptied
  refine ⟨fun s q x hq hup => ⟨fun hx => ?_, fun hx => ?_⟩, fun s v k hup => ?_⟩
  · have hgo := thermalCut_next hq hup x
    rw [if_pos hx] at hgo
    exact ⟨_, hgo, rfl, rfl, rfl, rfl, rfl, rfl, rfl, rfl, rfl⟩
  · have hgo := thermalCut_next hq hup x
    rwa [if_neg (by omega)] at hgo
  intro down withInput
  refine ⟨fun hk => ⟨_, moduleReset_next_long hk hup, down_domainsOff 1 _, rfl⟩, fun hk => moduleReset_next_short hk,
    fun t0 b hboot hclk => ?_, fun t0 b hboot hclk => ?_⟩
  · have hstep : inStep1 s = false := (inStep1_of_up hboot).trans (decide_eq_false (by omega))
    refine ⟨fun hv hk => ?_, fun hv hk => ?_, ?_⟩
    · have hgo := inputUndervoltage_next (k := k) hv hup
      rw [hstep, if_neg Bool.false_ne_true, if_pos hk] at hgo
      exact ⟨_, hgo, down_domainsOff 0 _⟩
    · have hgo := inputUndervoltage_next (k := k) hv hup
      rwa [hstep, if_neg Bool.false_ne_true, if_neg (by omega)] at hgo
    · have hgo := inputLeavesRange_next (v := v) hup
      rwa [hstep, Bool.and_false, if_neg Bool.false_ne_true] at hgo
  · intro cause
    have hstep : inStep1 s = true := (inStep1_of_up hboot).trans (decide_eq_true hclk)
    refine ⟨fun hv => ⟨_, ?_, down_inputLost hup v⟩, fun hv => ⟨_, ?_, down_inputLost hup v⟩⟩
    · have hgo := inputUndervoltage_next (k := k) hv hup
      rwa [hstep, if_pos rfl] at hgo
    · have hout : inputOk v = false := by
        unfold inputOk
        simp
        omega
      have hgo := inputLeavesRange_next (v := v) hup
      rw [hstep, hout] at hgo
      exact hgo

/-! ### A refused transfer whose descriptor waits for a slice -/

section RefusedWhileHeld

/-- A write of 64 bytes from bonded memory to chip 34, half of them sent. -/
def heldDesc : Desc :=
  { seq := 3, sub := 0, pc := 0, ch := 0, words := [0x32, 0, BitVec.ofNat 64 (34 * 2 ^ 54), 64, 0, 0, 0, 0], st := .moving 32, startAt := 0,
    turnAt := 0, heldFor := 0, addPos := 0, uid := 7, buf := [] }

/-- Its transfer. -/
def heldXfer : Xfer :=
  { uid := 7, owner := .desc 0 3 0, via := .link 34, read := false, part := 1, tag := 9, total := 2, acked := 0, startAt := 0, lastAt := 0,
    heldFor := 0, dst := 0, len := 64, msg := 0, sent := 2, todo := [], bytes := [] }

/-- Its running job, of P1. -/
def heldJob : CoreJob := { index := 0, part := 1, jobid := 0, st := .running, startAt := 0, endAt := 0, seed0 := 0, stream0 := 0, ctr0 := 0 }

/-- Chip 34 refuses the half that was sent, for reason 4. -/
def refusal : Txn := recsTxn 5 34 33 [(9 + 4 * 2 ^ 24, 1)]

/-- The refusal comes while the descriptor waits for slice 0, which a retrain holds, to read the other half (`joinHeld`). -/
def refusedWhileHeld : State := { State.reset with
  cores := [(0, { Core.reset with job := some heldJob, descs := [heldDesc] })]
  bonded := { Bonded.reset with slices := [(0, { Slice.reset with st := .retrain, holdAt := some 0, heldQ := [(0, 3, 0)] })] }
  parts := [(0, Part.reset0), (1, { Part.reset with st := .active, exts := [(0, 4)] })]
  links := { Links.reset with chip := 33, xdim := 4, ydim := 4, rx := [{ txn := refusal, inbuf := none }] }
  xfers := [heldXfer] }

/-- What waits for slice 0 in the state that a command answers. -/
def waitingAfter (c : Instr) (s : State) : Option (List (Nat × Nat × Nat)) :=
  match exec c s with
  | .next t => some (getSlice t 0).heldQ
  | _ => none

theorem waitingAfter_of_goes {c : Instr} {s t : State} (h : Goes c s t) : waitingAfter c s = some (getSlice t 0).heldQ := by
  rw [waitingAfter, h]

/-- The state is one in canonical form. -/
theorem inv_refusedWhileHeld : Inv refusedWhileHeld := by
  constructor <;> decide +kernel

/-- The failing descriptor leaves the queue of the slice (`dropDesc`). -/
theorem waitingAfter_refused : waitingAfter .txnRefuse refusedWhileHeld = some [] := by decide +kernel

end RefusedWhileHeld

/-- Refutes O48: its clause on refusals says that bonded memory stays as it is, slices and all, and its premises do not keep the descriptor
out of a slice's queue of waiting accesses, which it leaves as it fails. `refusedWhileHeld` is in canonical form. -/
theorem not_peerTransactions : ¬ Obligations.PeerTransactions := by
  intro h
  obtain ⟨-, -, -, -, -, -, hrefuse, -⟩ := h refusedWhileHeld refusal (by decide +kernel)
  obtain ⟨t, hgo, -, -, hbonded, -⟩ := hrefuse heldXfer (9 + 4 * 2 ^ 24) 1 0 3 0 heldDesc heldJob (by decide +kernel) (by decide +kernel) rfl
    (by decide) rfl rfl (by decide) (by decide +kernel) (by decide +kernel) (by decide +kernel) rfl (by decide +kernel) (by decide +kernel) rfl
  have hwaits : (getSlice t 0).heldQ = [(0, 3, 0)] := by
    rw [getSlice, hbonded]
    rfl
  have hnone := (waitingAfter_of_goes hgo).symm.trans waitingAfter_refused
  rw [hwaits] at hnone
  exact absurd hnone (by decide)

end Sys2Proof.Proofs

/-! Proofs for the family 12_experts: what admission gives to an expert, and how the layers of a tick go on. -/

namespace Sys2Proof.Proofs

open Sys2Proof Sys2Proof.Machine Sys2Proof.Claims Sys2Proof.Laws

/-! ### Rows given by admission -/

section Quota

/-- The slot takes a row of expert `e`. -/
def takesRow (e : Nat) (y : Slot) : Bool := (y.st = .admitted || y.st = .overflow) && decide (y.exp = e)

theorem takesRow_iff {e : Nat} {y : Slot} : takesRow e y = true ↔ (y.st = .admitted ∨ y.st = .overflow) ∧ y.exp = e := by
  simp [takesRow]

/-! Sorting gives the slots again. -/

theorem slotInsert_perm (before : Slot → Slot → Bool) (x : Slot) (l : List Slot) : (slotInsert before x l).Perm (x :: l) := by
  induction l with
  | nil => exact .refl _
  | cons h t ih =>
    unfold slotInsert
    split
    · exact .refl _
    · exact (ih.cons h).trans (.swap x h t)

theorem slotSort_perm (before : Slot → Slot → Bool) (l : List Slot) : (slotSort before l).Perm l := by
  suffices h : ∀ acc, (l.foldl (fun acc x => slotInsert before x acc) acc).Perm (l ++ acc) by
    have h' := h []
    rwa [List.append_nil] at h'
  induction l with
  | nil => exact fun acc => .refl _
  | cons x t ih => exact fun acc => (ih _).trans (((slotInsert_perm before x acc).append_left t).trans List.perm_middle)

/-- A slot stands for the expert it chose. -/
theorem exp_of_chosen {k : Nat} {toks : List Token} {x : Slot} {e : Nat} (hx : x ∈ makeSlots k toks) (he : x.chosen = some e) :
    x.exp = e := by
  simp only [makeSlots, List.mem_flatten, List.mem_map] at hx
  obtain ⟨_, ⟨t, -, rfl⟩, hx⟩ := hx
  obtain ⟨r, -, rfl⟩ := List.mem_map.mp hx
  split at he
  · exact Option.some.inj he
  · cases he

/-! The primary pass admits slots as they are, as many as are left of the quota. -/

variable {quota n : Nat} {slots : List Slot}

theorem length_primaryPass : (primaryPass quota n slots).1.length ≤ quota - n := by
  induction slots generalizing n with
  | nil => exact Nat.zero_le _
  | cons x t ih =>
    unfold primaryPass
    split
    · have := ih (n := n + 1)
      simp only [List.length_cons]
      omega
    · exact ih

theorem exp_of_primaryPass {e : Nat} (h : ∀ x ∈ slots, x.exp = e) : ∀ y ∈ (primaryPass quota n slots).1, y.exp = e := by
  induction slots generalizing n with
  | nil => exact fun y hy => nomatch hy
  | cons x t ih =>
    obtain ⟨hx, ht⟩ := List.forall_mem_cons.mp h
    unfold primaryPass
    split
    · exact List.forall_mem_cons.mpr ⟨hx, ih ht⟩
    · exact ih ht

/-- The primary pass over the slots that chose an expert, in primary order (12 R323). -/
def primaryOf (slots : List Slot) (e : Expert × Nat) : List Slot × List Slot :=
  primaryPass e.1.quota 0 (slotSort primaryBefore (slots.filter (fun x => decide (x.chosen = some e.2))))

/-- ... over each expert in turn. -/
def primaries (experts : List Expert) (slots : List Slot) : List (List Slot × List Slot) :=
  (experts.zip (List.range experts.length)).map (primaryOf slots)

/-- The loads that the primary passes leave. -/
def primaryLoads (experts : List Expert) (slots : List Slot) : SMap Nat :=
  smapOf 0 0 ((primaries experts slots).map (fun p => p.1.length))

/-- Admission in its three parts: the primary passes, the overflow pass from the loads they leave, and the empty slots. -/
theorem admitSlots_parts (l : Layer) : ∃ slots rej l', l'.experts = l.experts ∧ (∀ x ∈ slots, ∀ e, x.chosen = some e → x.exp = e) ∧
    (admitSlots l).1 = ((primaries l.experts slots).map Prod.fst).flatten ++ overflowPass l' (primaryLoads l.experts slots) [] rej
      ++ slots.filter (fun x => decide (x.st = .empty)) :=
  ⟨_, _, { l with tokens := l.tokens.foldl (fun a x => tokInsert x a) [] }, rfl, fun _ hx _ he => exp_of_chosen hx he, rfl⟩

variable {experts : List Expert} {e : Nat} {x : Expert}

theorem primaries_iff {r : List Slot × List Slot} :
    (primaries experts slots)[e]? = some r ↔ ∃ x, experts[e]? = some x ∧ primaryOf slots (x, e) = r := by
  rw [primaries, List.getElem?_map, Option.map_eq_some_iff]
  constructor
  · rintro ⟨⟨x, e'⟩, hzip, hr⟩
    obtain ⟨hx, he⟩ := List.getElem?_zip_eq_some.mp hzip
    obtain ⟨hlt, he⟩ := List.getElem?_eq_some_iff.mp he
    rw [List.getElem_range] at he
    obtain rfl : e = e' := he
    exact ⟨x, hx, hr⟩
  · rintro ⟨x, hx, hr⟩
    obtain ⟨hlt, -⟩ := List.getElem?_eq_some_iff.mp hx
    exact ⟨(x, e), List.getElem?_zip_eq_some.mpr ⟨hx, List.getElem?_range hlt⟩, hr⟩

/-- The slots that one expert's primary pass admits are that expert's. -/
theorem exp_of_primaryOf (hs : ∀ y ∈ slots, ∀ e, y.chosen = some e → y.exp = e) : ∀ y ∈ (primaryOf slots (x, e)).1, y.exp = e := by
  refine exp_of_primaryPass fun y hy => ?_
  obtain ⟨hmem, hchosen⟩ := List.mem_filter.mp ((slotSort_perm _ _).mem_iff.mp hy)
  exact hs y hmem e (of_decide_eq_true hchosen)

/-- Where only the list at place `e` holds an element that meets `p`, their join holds no more of them than that list is long. -/
theorem countP_flatten_le {α : Type} {p : α → Bool} {ls : List (List α)} (h : ∀ j l, ls[j]? = some l → ∀ y ∈ l, p y = true → j = e) :
    ls.flatten.countP p ≤ (ls.map List.length).getD e 0 := by
  induction ls generalizing e with
  | nil => exact Nat.zero_le _
  | cons l ls ih =>
    rw [List.flatten_cons, List.countP_append]
    cases e with
    | zero =>
      have hrest : ls.flatten.countP p = 0 := List.countP_eq_zero.mpr fun y hy hp => by
        obtain ⟨l', hl', hy⟩ := List.mem_flatten.mp hy
        obtain ⟨j, hj⟩ := List.getElem?_of_mem hl'
        exact Nat.succ_ne_zero j (h (j + 1) l' hj y hy hp)
      rw [hrest]
      exact List.countP_le_length
    | succ e =>
      have hfirst : l.countP p = 0 := List.countP_eq_zero.mpr fun y hy hp => absurd (h 0 l rfl y hy hp) (Nat.succ_ne_zero e).symm
      rw [hfirst, Nat.zero_add]
      exact ih fun j l' hj y hy hp => Nat.succ.inj (h (j + 1) l' hj y hy hp)

/-- An expert's load after the primary passes is within its quota. -/
theorem primaryLoads_le (hx : experts[e]? = some x) : smapGet 0 (primaryLoads experts slots) e ≤ x.quota := by
  have hat : (primaries experts slots)[e]? = some (primaryOf slots (x, e)) := primaries_iff.mpr ⟨x, hx, rfl⟩
  rw [primaryLoads, get_of, if_pos (Nat.zero_le _), Nat.sub_zero, List.getD_eq_getElem?_getD, List.getElem?_map, hat]
  exact length_primaryPass

/-- ... and counts the rows that they give it. -/
theorem countP_primaries (hs : ∀ y ∈ slots, ∀ e, y.chosen = some e → y.exp = e) :
    ((primaries experts slots).map Prod.fst).flatten.countP (takesRow e) ≤ smapGet 0 (primaryLoads experts slots) e := by
  rw [primaryLoads, get_of, if_pos (Nat.zero_le _), Nat.sub_zero]
  refine (countP_flatten_le fun j b hj y hy hp => ?_).trans_eq (by rw [List.map_map]; rfl)
  rw [List.getElem?_map, Option.map_eq_some_iff] at hj
  obtain ⟨r, hr, rfl⟩ := hj
  obtain ⟨x, -, rfl⟩ := primaries_iff.mp hr
  exact (exp_of_primaryOf hs y hy).symm.trans (takesRow_iff.mp hp).2

/-! The overflow pass gives rows where there is room. -/

/-- A fallback has room. -/
theorem fallback_room {loads : SMap Nat} {used : List Nat} {cands : List (Option (Nat × W32))} (hx : experts[e]? = some x)
    (h : fallback experts loads used cands = some e) : smapGet 0 loads e < x.quota := by
  induction cands with
  | nil => cases h
  | cons c t ih =>
    rcases c with _ | ⟨f, sc⟩
    · exact ih h
    unfold fallback at h
    split at h
    next x' hx' =>
      split at h
      next => exact ih h
      next hroom =>
        obtain rfl : f = e := Option.some.inj h
        obtain rfl : x' = x := Option.some.inj (hx'.symm.trans hx)
        simp only [Bool.or_eq_true, decide_eq_true_eq, not_or, not_le] at hroom
        exact hroom.2
    next => exact ih h

/-- What the overflow pass adds to an expert's load leaves it within its quota. -/
theorem countP_overflowPass {l : Layer} (hx : l.experts[e]? = some x) {loads : SMap Nat} (hc : Canon 0 0 loads)
    (hq : smapGet 0 loads e ≤ x.quota) (used : List (Nat × Nat)) (rej : List Slot) :
    smapGet 0 loads e + (overflowPass l loads used rej).countP (takesRow e) ≤ x.quota := by
  induction rej generalizing loads used with
  | nil => exact hq
  | cons y t ih =>
    unfold overflowPass
    split
    · rw [List.countP_cons_of_neg (by simp [takesRow])]
      exact ih hc hq used
    dsimp only
    split
    next f hf =>
      have hget := get_set f e (smapGet 0 loads f + 1) hc
      have hrest := ih (canon_set f (smapGet 0 loads f + 1) hc (Nat.zero_le f))
      by_cases hfe : e = f
      · subst hfe
        have hroom := fallback_room hx hf
        rw [if_pos rfl] at hget
        rw [List.countP_cons_of_pos (by simp [takesRow])]
        have := hrest (by omega) (used ++ [(y.order, e)])
        omega
      · rw [if_neg hfe] at hget
        rw [List.countP_cons_of_neg (by simp [takesRow, Ne.symm hfe]), ← hget]
        exact hrest (by omega) _
    next =>
      rw [List.countP_cons_of_neg (by simp [takesRow])]
      exact ih hc hq used

/-- An empty slot takes no row. -/
theorem countP_empty : (slots.filter (fun y => decide (y.st = .empty))).countP (takesRow e) = 0 := by
  refine List.countP_eq_zero.mpr fun y hy hp => ?_
  have hempty : y.st = .empty := of_decide_eq_true (List.mem_filter.mp hy).2
  simp [takesRow, hempty] at hp

end Quota

/-- Settles O41: the primary passes give an expert as many rows as its load then is, within its quota, and the overflow pass as many as
that leaves. -/
theorem admissionKeepsQuotas : Obligations.AdmissionKeepsQuotas := by
  intro l e x hx
  obtain ⟨slots, rej, l', hexp, hchosen, hparts⟩ := admitSlots_parts l
  have hprim := countP_primaries (experts := l.experts) (e := e) hchosen
  have hover := countP_overflowPass (hexp ▸ hx) (canon_of _ 0) (primaryLoads_le (slots := slots) hx) [] rej
  change (List.filter (takesRow e) _).length ≤ _
  rw [← List.countP_eq_length_filter, hparts, List.countP_append, List.countP_append, countP_empty]
  exact (Nat.add_le_add_right hprim _).trans hover

/-! ### What leaves the layers -/

section Unlayered

variable {s : State}

/-- A loop each of whose turns leaves the layers. -/
theorem layers_foldl {α : Type} {g : State → α → State} (hg : ∀ t a, (g t a).layers = t.layers) (l : List α) (s : State) :
    (l.foldl g s).layers = s.layers :=
  List.foldlRecOn (motive := fun t => t.layers = s.layers) l g rfl fun t ht a _ => (hg t a).trans ht

/-- ... and one that carries a state in what it carries. -/
theorem layers_foldl_in {α β : Type} (st : β → State) {g : β → α → β} (hg : ∀ x a, (st (g x a)).layers = (st x).layers) (l : List α) (x : β) :
    (st (l.foldl g x)).layers = (st x).layers :=
  List.foldlRecOn (motive := fun y => (st y).layers = (st x).layers) l g rfl fun y hy a _ => (hg y a).trans hy

@[simp] theorem takeFault_layers (n seq code trap : Nat) (fpc : W64) (s : State) : (takeFault n seq code trap fpc s).layers = s.layers := by
  rcases takeFault_only n seq code trap fpc s with h | ⟨f, h, j, he⟩
  · rw [h]
  · rw [he]
    rfl

@[simp] theorem endJob_layers (n seq code : Nat) (st : RunSt) (pc : W64) (s : State) : (endJob n seq code st pc s).layers = s.layers := by
  unfold endJob
  dsimp only
  split
  · rfl
  split
  · simp
  split <;> simp

theorem rollSettled_layers (sl : Nat) (s : State) : (rollSettled sl s).layers = s.layers := rfl

theorem rollP0_layers (sl : Nat) (who : Option Nat) (s : State) : (rollP0 sl who s).layers = s.layers := by
  rw [rollP0, rollSettled_layers]
  exact layers_foldl (fun t n => by dsimp only; split <;> simp [rollJob]) (List.range 100) s

@[simp] theorem perrInc_layers (sl : Nat) (s : State) : (perrInc sl s).layers = s.layers := by simp [perrInc]

theorem rowRepair_layers (sl die bank row : Nat) (s : State) : (rowRepair sl die bank row s).layers = s.layers := by
  unfold rowRepair
  extract_lets
  split
  · rw [raise_layers]
    rfl
  · rfl

theorem bondError_layers (sl a row : Nat) (s : State) : (bondError sl a row s).layers = s.layers := rfl

@[simp] theorem parityFound_layers (a : Nat) (inj : Bool) (who : Option Nat) (s : State) : (parityFound a inj who s).layers = s.layers := by
  unfold parityFound
  extract_lets sl o s1 s2 s3 s4
  have h3 : s3.layers = s.layers := by
    unfold s3
    rw [raiseI_layers]
    exact perrInc_layers sl s1
  have h4 : s4.layers = s.layers := by
    unfold s4
    split
    · exact h3
    · rw [bondError_layers, rowRepair_layers, h3]
  split
  · rw [rollP0_layers, h4]
  · exact h4

@[simp] theorem errorsFound_layers (a n : Nat) (who : Option Nat) (s : State) : (errorsFound a n who s).layers = s.layers := by
  unfold errorsFound
  dsimp only
  split <;> split <;> simp

@[simp] theorem ctlRead_layers (a : Nat) (who : Option Nat) (s : State) : (ctlRead a who s).2.layers = s.layers := by
  unfold ctlRead
  split <;> simp

@[simp] theorem streamNow_layers (a : Nat) (s : State) : (streamNow a s).layers = s.layers := by
  unfold streamNow
  dsimp only
  split
  · rw [errorsFound_layers]
    rfl
  · rfl

@[simp] theorem touchHeld_layers (a : Nat) (s : State) : (touchHeld a s).layers = s.layers := streamNow_layers a _

@[simp] theorem attrInj_layers (s : State) : (attrInj s).layers = s.layers := by
  unfold attrInj
  dsimp only
  split <;> rfl

@[simp] theorem attrRepair_layers (a : Nat) (s : State) : (attrRepair a s).layers = s.layers := by
  unfold attrRepair
  extract_lets pg inj s1 s2 b s3 s4
  have h3 : s3.layers = s.layers := by
    dsimp only [s3, s2, listPoison]
    unfold s1
    rw [raiseI_layers, perrInc_layers]
  have h4 : s4.layers = s.layers := by
    unfold s4
    split <;> simp [h3]
  split <;> simp [h4]

@[simp] theorem bStore_layers (a : Nat) (bs : List Byte) (s : State) : (bStore a bs s).layers = s.layers := by
  unfold bStore
  dsimp only
  split <;> rfl

@[simp] theorem firstTouch_layers (a : Nat) (s : State) : (firstTouch a s).2.layers = s.layers := by
  unfold firstTouch
  dsimp only
  split
  · rfl
  split
  · rfl
  split
  · exact errorsFound_layers ..
  · exact bStore_layers ..

@[simp] theorem addNow_layers (op a : Nat) (src : List Byte) (who : Option Nat) (s : State) : (addNow op a src who s).2.layers = s.layers := by
  unfold addNow
  dsimp only
  split
  · simp
  split
  · rfl
  split
  · simp
  split <;> simp [cntRead]

@[simp] theorem addWaiting_layers (op a : Nat) (src : List Byte) (who : Option Nat) (s : State) :
    (addWaiting op a src who s).2.layers = s.layers := by
  unfold addWaiting
  dsimp only
  split <;> simp

@[simp] theorem pageStops_layers (pg : Nat) (s : State) : (pageStops pg s).2.layers = s.layers := by
  unfold pageStops
  dsimp only
  split <;> simp

@[simp] theorem waitHold_layers (a n : Nat) (s : State) : (waitHold a n s).layers = s.layers := by
  unfold waitHold
  split <;> rfl

@[simp] theorem cntRange_layers (a n : Nat) (s : State) : (cntRange a n s).layers = s.layers := by
  refine layers_foldl (fun _ _ => ?_) _ s
  rfl

@[simp] theorem belRead_layers (a n : Nat) (s : State) : (belRead a n s).2.2.layers = s.layers := by
  unfold belRead
  extract_lets t r
  have hr : r.2.layers = s.layers := by
    refine (layers_foldl_in Prod.snd (fun x g => ?_) (granules a n) (false, t)).trans (waitHold_layers a n s)
    dsimp only
    split
    · rfl
    split <;> simp
  split <;> simp [hr]

@[simp] theorem belWrite_layers (a : Nat) (bs : List Byte) (s : State) : (belWrite a bs s).2.layers = s.layers := by
  refine (layers_foldl_in Prod.snd (fun x pb => ?_) _ _).trans (waitHold_layers a bs.length s)
  extract_lets q t u
  have ht : t.2.layers = x.2.layers := by simp [t, q]
  have hu : u.layers = x.2.layers := by
    unfold u
    split <;> simp [ht]
  split
  · simp [q]
  split
  · exact ht
  split
  · exact hu
  · simp [hu]

@[simp] theorem chargeRead_layers (p a n : Nat) (s : State) : (chargeRead p a n s).layers = s.layers := by
  refine layers_foldl (fun _ _ => ?_) _ s
  rfl

@[simp] theorem chargeWrite_layers (p a n : Nat) (s : State) : (chargeWrite p a n s).layers = s.layers := by
  refine layers_foldl (fun _ _ => ?_) _ s
  rfl

@[simp] theorem partRead_layers (p a n : Nat) (s : State) : (partRead p a n s).2.2.layers = s.layers := by simp [partRead]

@[simp] theorem partWrite_layers (p a : Nat) (bs : List Byte) (s : State) : (partWrite p a bs s).2.layers = s.layers := by simp [partWrite]

@[simp] theorem localPut_layers (p : Nat) (w : Nat × Nat × List Byte) (s : State) : (localPut p w s).2.layers = s.layers := by
  unfold localPut
  split
  · rfl
  split <;> simp

@[simp] theorem gSend_layers (owner : XOwner) (part chip : Nat) (ws : List (Nat × Nat × List Byte)) (s : State) :
    (gSend owner part chip ws s).2.layers = s.layers := by
  unfold gSend
  split
  · refine layers_foldl_in Prod.snd (fun x w => ?_) ws (true, s)
    exact localPut_layers part w x.2
  extract_lets u ts r tag x
  have hr : r.2.layers = s.layers := (edge_queueTxns 3 ts u.2).layers
  split
  · rfl
  split
  · rfl
  · rw [(edge_pump _).layers]
    exact hr

@[simp] theorem imageSem_layers (i : Image) (sem : Nat) (f : Nat → Nat) (s : State) : (imageSem i sem f s).layers = s.layers := by
  unfold imageSem
  extract_lets a r
  have hr : r.2.2.layers = s.layers := partRead_layers i.part a 8 s
  split
  · exact hr
  · exact (partWrite_layers ..).trans hr

@[simp] theorem semSignal_layers (core part jobid sem : Nat) (s : State) : (semSignal core part jobid sem s).layers = s.layers := by
  unfold semSignal
  extract_lets late inImage
  have himage : (inImage s).layers = s.layers := by
    unfold inImage
    split
    · exact imageSem_layers ..
    · exact raise_layers ..
  split
  · split
    · split
      · exact himage
      · rfl
    · exact himage
  · exact himage

@[simp] theorem layerRead_layers (l : Layer) (a n : Nat) (s : State) : (layerRead l a n s).2.2.layers = s.layers := by
  unfold layerRead
  split <;> simp

@[simp] theorem layerWrite_layers (l : Layer) (a : Nat) (bs : List Byte) (s : State) : (layerWrite l a bs s).2.layers = s.layers := by
  unfold layerWrite
  split <;> simp

@[simp] theorem writeOutcomes_layers (l : Layer) (p : Nat → Bool) (s : State) : (writeOutcomes l p s).layers = s.layers := by
  refine layers_foldl (fun s t => ?_) _ s
  split <;> simp

@[simp] theorem expertWrites_layers (l : Layer) (e : Nat) (x : Expert) (s : State) : (expertWrites l e x s).2.layers = s.layers := by
  refine layers_foldl_in Prod.snd (fun a y => ?_) _ ([], s)
  exact layerRead_layers _ _ _ a.2

end Unlayered

/-! ### An admitted layer stays so -/

section Admission

variable {s t : State} {i j : Nat} {l : Layer}

theorem layerAt_congr (h : t.layers = s.layers) (i : Nat) : layerAt t i = layerAt s i :=
  congrArg (List.find? fun l : Layer => decide (l.index = i)) h

theorem index_of_layerAt (h : layerAt s i = some l) : l.index = i := by
  simpa using List.find?_some h

/-- Where the layers of an index are changed and keep it, a layer is found as it was, changed where it has that index. -/
theorem layerAt_modLayer {f : Layer → Layer} (hf : ∀ l, l.index = j → (f l).index = j) :
    layerAt (modLayer j f s) i = (layerAt s i).map (fun l => if l.index = j then f l else l) := by
  have hkeep : (fun l : Layer => decide (l.index = i)) ∘ (fun l => if l.index = j then f l else l) = fun l => decide (l.index = i) := by
    funext l
    simp only [Function.comp_apply]
    split_ifs with hl
    · rw [hf l hl, hl]
    · rfl
  rw [layerAt, modLayer, List.find?_map, hkeep]
  rfl

/-- The tick has the layer, admitted. -/
def IsAdmitted (i : Nat) (s : State) : Prop := ∃ l, layerAt s i = some l ∧ l.st = .admitted

theorem IsAdmitted.st_of_layerAt (h : IsAdmitted i s) (hl : layerAt s i = some l) : l.st = .admitted := by
  obtain ⟨l', hl', hst⟩ := h
  obtain rfl : l' = l := Option.some.inj (hl'.symm.trans hl)
  exact hst

theorem IsAdmitted.of_layers (h : IsAdmitted i s) (ht : t.layers = s.layers) : IsAdmitted i t := by
  unfold IsAdmitted at *
  rwa [layerAt_congr ht]

theorem IsAdmitted.after_modLayer (h : IsAdmitted i s) {f : Layer → Layer} (hf : ∀ l, l.index = j → (f l).index = j)
    (hst : ∀ l, l.st = .admitted → (f l).st = .admitted) : IsAdmitted i (modLayer j f s) := by
  obtain ⟨l, hl, hadm⟩ := h
  refine ⟨_, (layerAt_modLayer hf).trans (congrArg _ hl), ?_⟩
  dsimp only
  split
  · exact hst l hadm
  · exact hadm

theorem IsAdmitted.after_setLayer (h : IsAdmitted i s) (hl : l.st = .admitted) : IsAdmitted i (setLayer l s) :=
  h.after_modLayer (j := l.index) (f := fun _ => l) (fun _ _ => rfl) fun _ _ => hl

theorem IsAdmitted.after_abortSlots (h : IsAdmitted i s) (hl : l.st = .admitted) {p : Slot → Bool} : IsAdmitted i (abortSlots l p s) := by
  unfold abortSlots
  extract_lets hit n orders l'
  split
  · exact h
  · exact (h.after_setLayer (l := l') hl).of_layers (writeOutcomes_layers ..)

theorem IsAdmitted.after_abortOne (h : IsAdmitted i s) {k : Option (Nat × Nat)} : IsAdmitted i (abortOne i k s) := by
  unfold abortOne
  split
  next l k hl => exact h.after_abortSlots (h.st_of_layerAt hl)
  next => exact h

theorem IsAdmitted.after_sendDone (h : IsAdmitted i s) {chip : Nat} : IsAdmitted i (sendDone i chip s) := by
  unfold sendDone
  split
  · exact h
  next l hl =>
    split
    · exact h
    extract_lets a r
    have hr : IsAdmitted i r.2 := h.of_layers (gSend_layers ..)
    split
    · exact hr
    next l' hl' => exact hr.after_setLayer (hr.st_of_layerAt hl' :)

theorem IsAdmitted.after_homeSettled (h : IsAdmitted i s) {chip : Nat} : IsAdmitted i (homeSettled i chip s) := by
  unfold homeSettled
  split
  · split
    · exact h.after_sendDone
    · exact h
  · exact h

theorem IsAdmitted.after_copyHere (h : IsAdmitted i s) (hl : l.index = i) {base : Nat} {c : Copy} : IsAdmitted i (copyHere l base s c) := by
  unfold copyHere
  extract_lets r
  have hr : IsAdmitted i r.2 := by
    refine h.of_layers (layers_foldl_in Prod.snd (fun a w => ?_) c.2 (c.2.isEmpty, s))
    exact layerWrite_layers ..
  split
  · rw [hl]
    exact hr.after_abortOne
  · exact hr

theorem IsAdmitted.after_copyHome (h : IsAdmitted i s) {part chip : Nat} {c : Copy} : IsAdmitted i (copyHome i part chip s c) := by
  unfold copyHome
  split
  · exact h.after_abortOne
  · extract_lets q
    have hq : IsAdmitted i q.2 := h.of_layers (gSend_layers ..)
    split
    · exact hq.after_abortOne
    · exact hq

theorem IsAdmitted.after_dispatchHome (h : IsAdmitted i s) {home : Nat} : IsAdmitted i (dispatchHome i s home) := by
  unfold dispatchHome
  split
  · exact h
  next l hl =>
    extract_lets r
    have hr : IsAdmitted i r.2 := by
      refine h.of_layers (layers_foldl_in Prod.snd (fun a e => ?_) _ ([], s))
      dsimp only
      split
      · exact expertWrites_layers ..
      · rfl
    exact (List.foldlRecOn r.1 _ hr fun _ hs _ _ => hs.after_copyHome).after_homeSettled

theorem IsAdmitted.after_beginHomes {f : Nat} (h : IsAdmitted i s) : IsAdmitted i (beginHomes i f s) := by
  induction f generalizing s with
  | zero => exact h
  | succ f ih =>
    unfold beginHomes
    split
    · exact h
    next l hl =>
      split
      · exact h
      next home rest htodo =>
        split
        · exact h
        split
        · exact h
        · exact ih (h.after_setLayer (l := { l with todo := rest }) (h.st_of_layerAt hl :)).after_dispatchHome

theorem IsAdmitted.after_finishDispatch (h : IsAdmitted i s) : IsAdmitted i (finishDispatch i s) := by
  unfold finishDispatch
  extract_lets u
  have hu : IsAdmitted i u := h.after_beginHomes
  split
  · exact hu
  next l hl =>
    split
    · exact hu
    · have hset : IsAdmitted i (setLayer { l with dispatched := true } u) := hu.after_setLayer (hu.st_of_layerAt hl :)
      exact hset.of_layers (layers_foldl (fun _ _ => semSignal_layers ..) _ _)

theorem IsAdmitted.after_dispatch (h : IsAdmitted i s) : IsAdmitted i (dispatch i s) := by
  unfold dispatch
  split
  · exact h
  next l hl =>
    refine .after_finishDispatch (.after_modLayer ?_ (fun _ hj => hj) fun _ hst => hst)
    refine List.foldlRecOn _ _ h fun u hu e _ => ?_
    dsimp only
    split
    · refine List.foldlRecOn _ _ ?_ fun v hv c _ => hv.after_copyHere (index_of_layerAt hl)
      exact hu.of_layers (expertWrites_layers ..)
    · exact hu

/-- What holds of the default and of every value listed holds of every value read. -/
theorem smapGet_of_forall {α : Type} {d : α} {P : α → Prop} (hd : P d) : ∀ {m : SMap α}, (∀ e ∈ m, P e.2) → ∀ n, P (smapGet d m n)
  | [], _, _ => hd
  | (k, v) :: m, h, n => by
    obtain ⟨hv, hm⟩ := List.forall_mem_cons.mp h
    unfold smapGet
    split_ifs
    · exact hv
    · exact hd
    · exact smapGet_of_forall hd hm n

/-- With no record handed over the belfry has none to read. -/
theorem readAllHands_idle (h : ∀ e ∈ s.cores, e.2.hands = []) : readAllHands s = s := by
  refine List.foldl_fixed' (fun e => ?_) s.cores
  have hnone : (getCore s e.1).hands = [] := smapGet_of_forall (P := fun c : Core => c.hands = []) rfl h e.1
  rw [readHands, hnone]
  rfl

/-- A layer as its admission at a clk leaves it (12 R323, R324). -/
def admittedLayer (now : Nat) (l : Layer) : Layer :=
  let slots := (admitSlots l).1
  let empty := (slots.filter (fun x => decide (x.st = .empty))).length
  { l with
    st := .admitted
    slots := slots
    experts := (l.experts.zip (List.range l.experts.length)).map (fun e => countExpert slots e.2 e.1)
    nEmpty := empty
    nDisp := slots.length - empty
    build := now - l.readAt }

/-- The slot is one of an expert whose pull has failed (12 R331). -/
def ofFailedPull (l : Layer) (x : Slot) : Bool := ((l.pulls.filter (fun p => decide (p.st = 3))).map (fun p => p.exp)).contains x.exp

/-- ROUTE_ADMIT of a layer whose turn it is: its outcomes are written, the slots of failed pulls aborted, and its dispatch begun. -/
theorem routeAdmit_next (hl : layerAt s i = some l) (hands : ∀ e ∈ s.cores, e.2.hands = []) (hphase : s.tick.phase = .run)
    (hnext : admitNext s l = true) : Goes (.routeAdmit i) s (dispatch i (abortSlots (admittedLayer s.clk l) (ofFailedPull l)
      (writeOutcomes (admittedLayer s.clk l) (fun _ => true) (setLayer (admittedLayer s.clk l) s)))) := by
  have hgo : ¬ (s.tick.phase ≠ .run ∨ ¬ admitNext s l = true) := by simp [hphase, hnext]
  simp only [Goes, exec, execRouteAdmit, readAllHands_idle hands, hl, hgo, if_false]
  rfl

/-- The layer is admitted in the end. -/
theorem isAdmitted_routeAdmit (hl : layerAt s i = some l) (p : Slot → Bool) (q : Nat → Bool) : IsAdmitted i (dispatch i
    (abortSlots (admittedLayer s.clk l) p (writeOutcomes (admittedLayer s.clk l) q (setLayer (admittedLayer s.clk l) s)))) := by
  have hset : IsAdmitted i (setLayer (admittedLayer s.clk l) s) := ⟨_, layerAt_setLayer hl rfl, rfl⟩
  have hwritten := hset.of_layers (writeOutcomes_layers (admittedLayer s.clk l) q _)
  exact (hwritten.after_abortSlots rfl).after_dispatch

end Admission

/-! ### A word that the belfry reads -/

section Words

variable {s : State} {i a : Nat} {l : Layer}

/-- The eight bytes at `a` can be read for partition `p`: aligned, of good parity, on a good page, within its extents. -/
def CleanWord (s : State) (p a : Nat) : Prop :=
  a % 8 = 0 ∧ isPoison s (a / 4096) = false ∧ smapGet 0 s.bonded.attrBad (a / 4096) = 0 ∧ badByte s (a / 32 * 32) 32 = none ∧
    rangeIn (getPart s p).exts a 8 = true

/-- `t` is `s` after a read by the belfry: time has passed, the slices have counted it, the partition is charged (09 R255, 13 R368). -/
def HasBeenRead (s t : State) : Prop := ∃ k sl b, t = { s with clk := k, bonded := { s.bonded with slices := sl }, buckets := b }

theorem HasBeenRead.frame {t : State} (h : HasBeenRead s t) :
    t.cores = s.cores ∧ t.layers = s.layers ∧ t.bonded.mem = s.bonded.mem := by
  obtain ⟨k, sl, b, rfl⟩ := h
  exact ⟨rfl, rfl, rfl⟩

theorem hasBeenRead_waitHold (a n : Nat) (s : State) : HasBeenRead s (waitHold a n s) := by
  unfold waitHold
  split
  · exact ⟨s.clk, s.bonded.slices, s.buckets, rfl⟩
  · exact ⟨_, s.bonded.slices, s.buckets, rfl⟩

theorem HasBeenRead.after_cntRange {t : State} (h : HasBeenRead s t) (a n : Nat) : HasBeenRead s (cntRange a n t) := by
  refine List.foldlRecOn _ _ h fun u hu q _ => ?_
  obtain ⟨k, sl, b, rfl⟩ := hu
  exact ⟨k, _, b, rfl⟩

theorem HasBeenRead.after_chargeRead {t : State} (h : HasBeenRead s t) (p a n : Nat) : HasBeenRead s (chargeRead p a n t) := by
  refine List.foldlRecOn _ _ h fun u hu q _ => ?_
  obtain ⟨k, sl, b, rfl⟩ := hu
  exact ⟨k, sl, _, rfl⟩

/-- A hold that is waited for delays a read and nothing more. -/
theorem belRead_clean {p : Nat} (h : CleanWord s p a) : belRead a 8 s = (false, bBytes s a 8, cntRange a 8 (waitHold a 8 s)) := by
  obtain ⟨h8, hpoison, hattr, hbad, -⟩ := h
  have hpage : pageOf (gran32 a) = a / 4096 := by unfold pageOf gran32 pageSize; omega
  have hgran : gran32 (gran32 a) = a / 32 * 32 := by unfold gran32; omega
  obtain ⟨k, hwait⟩ : ∃ k, waitHold a 8 s = { s with clk := k } := ⟨_, rfl⟩
  have hstops : pageStops (a / 4096) { s with clk := k } = (false, { s with clk := k }) :=
    Prod.ext hpoison (if_neg (by simpa using hattr))
  have hctl : ctlRead (gran32 a) none { s with clk := k } = (false, { s with clk := k }) := by
    unfold ctlRead
    rw [hgran, show badByte { s with clk := k } (a / 32 * 32) 32 = none from hbad]
  simp only [belRead, hwait, granules_one (show 0 < 8 by decide) (show a % 32 + 8 ≤ 32 by omega), List.foldl_cons, List.foldl_nil, hpage,
    hstops, hctl, Bool.false_eq_true, if_false]
  rfl

/-- The belfry reads a word of a layer as it stands. -/
theorem layerWord_clean (h : CleanWord s l.part a) : ∃ t, HasBeenRead s t ∧ layerWord l a 8 s = (leNat (bBytes s a 8), t) := by
  have hread := belRead_clean h
  obtain ⟨-, -, -, -, hin⟩ := h
  have hin : inLayer s l a 8 = true := hin
  refine ⟨_, ((hasBeenRead_waitHold a 8 s).after_cntRange a 8).after_chargeRead l.part a 8, ?_⟩
  rw [layerWord, layerRead, if_pos hin, partRead, hread]

end Words

/-! ### Signals to the cores of a layer, and to the core that collects -/

section LayerSignals

variable {s : State} {i : Nat} {l : Layer}

/-- A signalled core, read back: its semaphore, and its hold at most. -/
theorem getCore_signalled (hwf : smapWf Core.reset s.cores = true) (m k : Nat) (g : W64 → W64) (n : Nat) :
    ∃ h, getCore (signalled m k g s) n = if n = m then { getCore s n with
      sems := smapSet 0 (getCore s n).sems k (g (smapGet 0 (getCore s n).sems k)), hold := h } else getCore s n := by
  obtain ⟨h, hsees⟩ := swaitSees_only k (g (smapGet 0 (getCore s m).sems k))
    { getCore s m with sems := smapSet 0 (getCore s m).sems k (g (smapGet 0 (getCore s m).sems k)) }
  refine ⟨h, (getCore_coreNow hwf m n _).trans ?_⟩
  by_cases hn : n = m
  · subst hn
    rw [if_pos rfl, if_pos rfl]
    exact hsees
  · rw [if_neg hn, if_neg hn]

/-- The belfry adds 1 to the semaphore of one core, where that runs a job of the partition (12 R330). -/
def signalJob (p k : Nat) (s : State) (n : Nat) : State := if runsPart s n p then semAdd n k 1 s else s

theorem signalJob_layers (p k : Nat) (s : State) (n : Nat) : (signalJob p k s n).layers = s.layers := by
  unfold signalJob
  split <;> rfl

theorem signalJob_form (hwf : smapWf Core.reset s.cores = true) (p k m : Nat) : smapWf Core.reset (signalJob p k s m).cores = true := by
  unfold signalJob
  split
  · exact wf_set m _ hwf
  · exact hwf

theorem signalJob_core (hwf : smapWf Core.reset s.cores = true) (p k m n : Nat) :
    runsPart (signalJob p k s m) n p = runsPart s n p ∧ (getCore (signalJob p k s m) n).sems = if n = m ∧ runsPart s n p = true then
      smapSet 0 (getCore s n).sems k (smapGet 0 (getCore s n).sems k + 1) else (getCore s n).sems := by
  unfold signalJob
  split
  next hruns =>
    rw [semAdd_one]
    obtain ⟨h, hcore⟩ := getCore_signalled hwf m k (· + 1) n
    by_cases hn : n = m
    · subst hn
      rw [if_pos rfl] at hcore
      rw [if_pos ⟨rfl, hruns⟩, runsPart, hcore]
      exact ⟨rfl, rfl⟩
    · rw [if_neg hn] at hcore
      rw [if_neg fun hc => hn hc.1, runsPart, hcore]
      exact ⟨rfl, rfl⟩
  next hruns =>
    refine ⟨rfl, (if_neg ?_).symm⟩
    rintro ⟨rfl, hr⟩
    exact hruns hr

/-- Each core of a list without repeats is signalled once. -/
theorem signalJobs_sems (p k n : Nat) {ms : List Nat} (hms : ms.Nodup) (hwf : smapWf Core.reset s.cores = true) :
    (getCore (ms.foldl (signalJob p k) s) n).sems = if n ∈ ms ∧ runsPart s n p = true then
      smapSet 0 (getCore s n).sems k (smapGet 0 (getCore s n).sems k + 1) else (getCore s n).sems := by
  induction ms generalizing s with
  | nil => simp
  | cons m ms ih =>
    obtain ⟨hm, hms⟩ := List.nodup_cons.mp hms
    obtain ⟨hruns, hsems⟩ := signalJob_core hwf p k m n
    rw [List.foldl_cons, ih hms (signalJob_form hwf p k m), hruns]
    by_cases hn : n = m
    · subst hn
      simp [hm, hsems]
    · simp [hn, hsems]

/-- SOURCE_DONE_POLL of a layer whose sources are done signals its waiting cores (12 R330). -/
theorem sourceDonePoll_next (hl : layerAt s i = some l) (hphase : s.tick.phase = .run) (hst : l.st = .admitted) (hsent : l.lsemSent = false)
    {a : Nat} (haddr : localG s (globalAddr (chipNo s) l.lwin (pairWord s l.doneOff)) 8 = some a) (hclean : CleanWord s l.part a)
    (hdone : sourcesDone s l (leNat (bBytes s a 8)) = true) : ∃ u, HasBeenRead s u ∧
      Goes (.sourceDonePoll i) s (((List.range 100).filter (fun n => l.wait.getLsbD n)).foldl (signalJob l.part l.lsem)
        (setLayer { l with lsemSent := true } u)) := by
  obtain ⟨u, hu, hword⟩ := layerWord_clean hclean
  have hsource : sourceWord l s = (leNat (bBytes s a 8), u) := by rw [sourceWord, haddr, ← hword]
  obtain ⟨k, sl, b, rfl⟩ := hu
  refine ⟨_, ⟨k, sl, b, rfl⟩, ?_⟩
  have hgo : ¬ (s.tick.phase ≠ .run ∨ l.lsemSent = true ∨ l.st ≠ .admitted ∨ ¬ sourcesDone s l (leNat (bBytes s a 8)) = true) := by
    simp [hphase, hst, hsent, hdone]
  simp only [Goes, exec, execSourceDonePoll, hl, hsource]
  exact if_neg hgo

/-- With every slot in use there is none whose combine bytes are zeroed (12 R334). -/
theorem zeroSlots_none {p : Slot → Bool} (h : ∀ x ∈ l.slots, p x = false) : zeroSlots l p s = s := by
  refine List.foldlRecOn (motive := fun t => t = s) l.slots _ rfl fun t ht x hx => ?_
  rw [h x hx, if_neg Bool.false_ne_true]
  exact ht

/-- A signal to the job that runs on its core (10 R271). -/
theorem semSignal_running {c sem : Nat} {j : CoreJob} (hj : (getCore s c).job = some j) (hrun : j.st = .running) :
    semSignal c j.part j.jobid sem s = signalled c sem (· + 1) s := by
  simp [semSignal, hj, hrun, semAdd_one]

/-- COMBINE_COLLECT_DONE of a collect whose experts have all added their word (12 R334). -/
theorem combineCollectDone_next {k : Nat} {r : RouteReq} {j : CoreJob} (hl : layerAt s i = some l)
    (hands : ∀ e ∈ s.cores, e.2.hands = []) (hr : s.routes[k]? = some r) (hi : r.layer = i) (hkind : r.kind = 1) (hst : l.st = .admitted)
    (hclean : CleanWord s l.part (pairWord s l.cdone)) (hword : leNat (bBytes s (pairWord s l.cdone) 8) = liveExperts l)
    (hslots : ∀ x ∈ l.slots, x.st = .admitted ∨ x.st = .overflow) (hj : (getCore s r.core).job = some j) (hpart : j.part = r.part)
    (hjob : j.jobid = r.jobid) (hrun : j.st = .running) : ∃ u, HasBeenRead s u ∧ Goes (.combineCollectDone k) s
      (signalled r.core r.sem (· + 1) { setLayer { l with combined := true } u with routes := s.routes.eraseIdx k }) := by
  obtain ⟨_, ⟨clk, sl, b, rfl⟩, hread⟩ := layerWord_clean hclean
  refine ⟨_, ⟨clk, sl, b, rfl⟩, ?_⟩
  have hgo : ¬ (r.kind ≠ 1 ∨ l.st ≠ .admitted ∨ leNat (bBytes s (pairWord s l.cdone) 8) ≠ liveExperts l) := by simp [hkind, hst, hword]
  have hused : ∀ x ∈ l.slots, (x.st = .spilled || x.st = .empty || (x.st = .aborted && !x.acked)) = false := fun x hx => by
    rcases hslots x hx with h | h <;> simp [h]
  simp only [Goes, exec, execCombineCollectDone, readAllHands_idle hands, hr, hi, hl, hread, hgo, if_false, zeroSlots_none hused]
  rw [← hpart, ← hjob]
  exact congrArg _ (semSignal_running hj hrun)

end LayerSignals

/-- Settles O43: a layer's admission stays through its dispatch (`IsAdmitted.after_dispatch`), and the two polls answer the states of
`sourceDonePoll_next` and `combineCollectDone_next`. -/
theorem routingProgress : Obligations.RoutingProgress := by
  intro s i l hl hphase hands clean
  refine ⟨fun hnext => ?_, fun a hst hsent haddr hclean hdone hwf => ?_, fun k r j hr hi hkind hst hclean hword hslots hj hpart hjob hrun => ?_⟩
  · obtain ⟨l', hl', hst⟩ := isAdmitted_routeAdmit hl (ofFailedPull l) (fun _ => true)
    exact ⟨_, l', routeAdmit_next hl hands hphase hnext, hl', hst⟩
  · obtain ⟨u, hu, hgo⟩ := sourceDonePoll_next hl hphase hst hsent haddr hclean hdone
    obtain ⟨hcores, hlayers, -⟩ := hu.frame
    have hset := layerAt_setLayer (l' := { l with lsemSent := true }) ((layerAt_congr hlayers i).trans hl) rfl
    refine ⟨_, hgo, ?_, fun n hn => ?_⟩
    · rw [layerAt_congr (layers_foldl (signalJob_layers l.part l.lsem) _ _), hset]
      rfl
    · have hsame : getCore (setLayer { l with lsemSent := true } u) n = getCore s n := congrArg (fun m => smapGet Core.reset m n) hcores
      have hwaits : n ∈ (List.range 100).filter (fun n => l.wait.getLsbD n) ↔ l.wait.getLsbD n = true := by simp [hn]
      rw [signalJobs_sems l.part l.lsem n (List.nodup_range.filter _) (hcores ▸ hwf)]
      simp only [hwaits, runsPart, hsame, Bool.and_eq_true]
  · obtain ⟨u, hu, hgo⟩ := combineCollectDone_next hl hands hr hi hkind hst hclean hword hslots hj hpart hjob hrun
    obtain ⟨hcores, hlayers, hmem⟩ := hu.frame
    have hset := layerAt_setLayer (l' := { l with combined := true }) ((layerAt_congr hlayers i).trans hl) rfl
    refine ⟨_, hgo, rfl, congrArg (Option.map fun x => x.combined) hset, ?_, hmem⟩
    exact congrArg (fun m => (signalled r.core r.sem (· + 1) { s with cores := m }).cores) hcores

end Sys2Proof.Proofs

namespace Sys2Proof.Proofs

open Sys2Proof Sys2Proof.Machine Sys2Proof.Claims Sys2Proof.Laws

/-! ### Reset -/

/-- Reset keeps one entry, partition 0's, in its canonical maps. -/
theorem inv_reset : Inv State.reset :=
  ⟨rfl, rfl, rfl, by decide, rfl, rfl, rfl, rfl, rfl, rfl⟩

theorem getPart_reset_of_pos {p : Nat} (hp : 0 < p) : getPart State.reset p = Part.reset := by
  have h0 : p ≠ 0 := Nat.ne_of_gt hp
  simp [getPart, State.reset, smapGet, h0]

/-- Settles O59: each value is read off the reset state. -/
theorem resetState : Obligations.ResetState := by
  unfold Obligations.ResetState
  have hpart (p : Nat) (hp : 0 < p) (_ : p < 16) : (getPart State.reset p).st = .free ∧ (getPart State.reset p).exts = [] ∧
      (getPart State.reset p).keys = Keys.reset := by
    rw [getPart_reset_of_pos hp]
    exact ⟨rfl, rfl, rfl⟩
  have hport (p : BPort) : (getPort State.reset p).st = .disabled ∧ (getPort State.reset p).serth = 4096 ∧
      (getPort State.reset p).subst = 31 := by
    cases p <;> exact ⟨rfl, rfl, rfl⟩
  have hhport (p : HPort) : (getHport State.reset p).st = .training ∧ (getHport State.reset p).en = true := by
    cases p <;> exact ⟨rfl, rfl⟩
  exact ⟨inv_reset, rfl, rfl, rfl, rfl, rfl, rfl, rfl, rfl, rfl, rfl, rfl, hpart, fun _ _ => rfl, hport, hhport, fun _ _ => rfl,
    rfl, rfl, rfl, rfl, rfl, rfl, rfl, rfl, rfl, rfl, rfl, rfl, rfl, rfl, rfl, rfl, rfl⟩

/-! ### The conditions of a plan (13 R341, R347) -/

theorem legal_times {b : List Byte} (h : timeOk b = true) :
    100 ≤ plPeriod b ∧ plPeriod b ≤ 250000 ∧ 20 ≤ plClosew b ∧ plClosew b ≤ plPeriod b / 2 ∧ plClosew b ≤ 65535 ∧
      10 ≤ plPlead b ∧ plPlead b + 10 + plClosew b ≤ plPeriod b := by
  simp only [timeOk, Bool.and_eq_true, decide_eq_true_eq, le_min_iff] at h
  omega

/-- Settles O33: each case of the plan's check that is passed over gives its conditions. -/
theorem validPlanConditions : Obligations.ValidPlanConditions := by
  unfold Obligations.ValidPlanConditions planCase
  intro s slot p h
  split at h
  next => omega
  next hmagic =>
  split at h
  next => omega
  next hlen =>
  split at h
  next => omega
  next htick =>
  split at h
  next => omega
  next hseq =>
  split at h
  next => omega
  next htime =>
  split at h
  next => omega
  next =>
  split at h
  next => omega
  next hdigest =>
    simp only [Bool.false_or, decide_eq_true_eq, not_not] at hdigest
    simp only [Bool.and_eq_true, decide_eq_true_eq, not_and, Nat.not_le] at hseq
    obtain ⟨hp, hpm, hc, hch, hcm, hl, hsum⟩ := legal_times (b := p) (by simpa using htime)
    simp only [plLen, plTick, plSeq] at hlen htick hseq
    exact ⟨by omega, by omega, by omega, by omega, by omega, not_not.mp htick, hseq, hp, hpm, hc, hch, hcm, hl, hsum, hdigest⟩

end Sys2Proof.Proofs

namespace Sys2Proof.Proofs

open Sys2Proof Sys2Proof.Machine Sys2Proof.Claims Sys2Proof.Laws

/-! ### Drains (13 R377 to R380) -/

section Drains

variable {s : State}

theorem abortXfers_none (h : s.xfers = []) (kind idx : Nat) (part : Option Nat) (p : Xfer → Bool) : abortXfers kind idx part p s = s := by
  simp [abortXfers, h]

theorem abortHeld_none (h : s.links.held = []) (kind idx : Nat) (part : Option Nat) (p : HeldTxn → Bool) : abortHeld kind idx part p s = s := by
  have hs : { s with links := { s.links with held := [] } } = s := by rw [← h]
  simp [abortHeld, h, hs]

/-- What the abort of waiting accesses keeps: time, memory, power and, of every partition, all but its count of aborted accesses. -/
structure Aborting (s₀ s : State) : Prop where
  clk    : s.clk = s₀.clk
  bonded : s.bonded = s₀.bonded
  power  : s.power = s₀.power
  wf     : smapWf Part.reset s.parts = true
  part   : ∀ n, ∃ a, getPart s n = { getPart s₀ n with aborted := a }

theorem Aborting.refl (h : smapWf Part.reset s.parts = true) : Aborting s s := ⟨rfl, rfl, rfl, h, fun _ => ⟨_, rfl⟩⟩

variable {s₀ : State}

/-- Every field that `Aborting` does not speak of, changed. -/
theorem Aborting.elsewhere (h : Aborting s₀ s) {t : State} (hclk : t.clk = s.clk) (hbonded : t.bonded = s.bonded) (hpower : t.power = s.power)
    (hparts : t.parts = s.parts) : Aborting s₀ t := by
  refine ⟨hclk.trans h.clk, hbonded.trans h.bonded, hpower.trans h.power, hparts ▸ h.wf, fun n => ?_⟩
  rw [getPart, hparts]
  exact h.part n

theorem Aborting.of_edge (h : Aborting s₀ s) {t : State} (ht : EdgeOnly s t) : Aborting s₀ t := h.elsewhere ht.clk ht.bonded ht.power ht.parts

theorem Aborting.after_raise (h : Aborting s₀ s) {kind idx : Nat} {part : Option Nat} {code arg : Nat} :
    Aborting s₀ (raise kind idx part code arg s) := by
  obtain ⟨e, he⟩ := raise_only (s := s) kind idx part code arg
  rw [he]
  exact h.elsewhere rfl rfl rfl rfl

theorem Aborting.after_count (h : Aborting s₀ s) (n : Nat) : Aborting s₀ (modPart n (fun v => { v with aborted := v.aborted + 1 }) s) := by
  refine ⟨h.clk, h.bonded, h.power, wf_set _ _ h.wf, fun m => ?_⟩
  obtain ⟨a, ha⟩ := h.part m
  rw [modPart, getPart_setPart h.wf]
  split
  next hm => exact ⟨a + 1, by rw [← hm, ha]⟩
  next => exact ⟨a, ha⟩

theorem Aborting.after_abortHeld (h : Aborting s₀ s) {kind idx : Nat} {part : Option Nat} {p : HeldTxn → Bool} :
    Aborting s₀ (abortHeld kind idx part p s) := by
  unfold abortHeld
  extract_lets hs links s1 s2
  have h1 : Aborting s₀ s1 := h.elsewhere rfl rfl rfl rfl
  have h2 : Aborting s₀ s2 :=
    List.foldlRecOn hs _ h1 fun u hu x _ => ((hu.after_count x.part).of_edge (edge_freeBuf ..)).of_edge (edge_sendRefuse ..)
  split
  · exact h2
  · exact h2.after_raise.of_edge (edge_pump _)

theorem Aborting.after_drainWin (h : Aborting s₀ s) {n : Nat} : Aborting s₀ (drainWin n s) :=
  h.after_abortHeld.elsewhere rfl rfl rfl rfl

theorem drainWin_none (h : s.links.held = []) (n : Nat) :
    drainWin n s = setWin n { Window.reset with evented := (getWin s n).evented } s := by
  simp only [drainWin, abortHeld_none h]

theorem drained_eq (a : Nat) (s : State) : drained a s = { s with clk := max s.clk (a + 240000) } := by simp only [drained, passTo, us]

/-- A torn-down partition as its drain leaves it (13 R380, 18 R504). -/
def tornDown (v : Machine.Part) : Machine.Part :=
  { v with st := .scrub, drainAt := none, exts := [], pend := [], scrub := v.scrub ++ extGrans v.exts, keys := Keys.reset
           foldSt := Fold.reset, record := [] }

/-- The fold that a partition drops changes nothing else of the partition. -/
theorem dropFold_part (hparts : smapWf Part.reset s.parts = true) (n : Nat) :
    smapWf Part.reset (dropFold n s).parts = true ∧ ∃ f, getPart (dropFold n s) n = { getPart s n with foldSt := f } :=
  ⟨wf_set _ _ hparts, _, (get_set n n _ (canon_of_wf _ _ hparts)).trans (if_pos rfl)⟩

/-- A drained partition that no transfer and no queue pair still names is torn down. -/
theorem drainPart_torn (hparts : smapWf Part.reset s.parts = true) (hxfers : s.xfers = []) (hqps : s.host.qps = []) (n : Nat) :
    ∃ a, getPart (drainPart n s) n = tornDown { getPart s n with aborted := a } ∧ (drainPart n s).clk = s.clk ∧
      (drainPart n s).power = s.power ∧ (drainPart n s).bonded.mem = s.bonded.mem ∧
      (drainPart n s).bonded.gran = s.bonded.gran.filter (fun e => !(extGrans (getPart s n).exts).contains e.1) := by
  unfold drainPart
  simp only [hqps, List.foldl_nil, abortXfers_none hxfers]
  set u := s.windows.foldl (fun s e => if decide (e.2.part.toNat = n) && e.2.closing.isSome then drainWin e.1 s else s) s
  have hu : Aborting s u := List.foldlRecOn _ _ (.refl hparts) fun u hu e _ => by
    split
    · exact hu.after_drainWin
    · exact hu
  obtain ⟨a, ha⟩ := hu.part n
  refine ⟨a, ?_, hu.clk, hu.power, congrArg (·.mem) hu.bonded, ?_⟩
  · have hexts : (getPart u n).exts = (getPart s n).exts := by rw [ha]
    obtain ⟨hwf, f, hf⟩ := dropFold_part (s := unassign (extGrans (getPart u n).exts) u) hu.wf n
    have hf' : getPart (dropFold n (unassign (extGrans (getPart u n).exts) u)) n = { getPart s n with aborted := a, foldSt := f } := by
      rw [hf]
      exact congrArg (fun v : Machine.Part => { v with foldSt := f }) ha
    rw [modPart, getPart_setPart hwf, if_pos rfl, hf', hexts]
    rfl
  · change u.bonded.gran.filter _ = _
    rw [hu.bonded, ha]

end Drains

/-! ### Granules of a partition (13 R366, R378) -/

section Granules

variable {s : State} {g n : Nat}

/-- The state once granule `g` has its attributes of partition `n` (13 R366). -/
def attributed (g n : Nat) (s : State) : State :=
  modPart n (fun p => { p with pend := p.pend.filter (· ≠ g) }) { s with bonded := { s.bonded with
    gran := smapSet GranAttr.reset s.bonded.gran g { a := true, ro := decide (n = 0), tag := BitVec.ofNat 4 n }
    wp := smapClear s.bonded.wp (g * 512) (g * 512 + 512) } }

theorem attributeWrite_goes (hg : g < 98304) (hfind : findPart s (fun p => p.pend.contains g) = some n) :
    Goes (.attributeWriteComplete g) s (attributed g n s) := by
  simp only [Goes, exec, execAttributeWriteComplete, hfind, unitRes, hg, decide_true, if_true]
  rfl

/-- The state once granule `g` of partition `n` is scrubbed (13 R378). -/
def scrubbed (g n : Nat) (s : State) : State :=
  modPart n (fun p => { p with scrub := p.scrub.filter (· ≠ g) })
    (zeroGranule g (if (getPart s n).shares.bm = 0 then s else debit n (sliceOfGran g) granSize s))

theorem granuleScrub_goes (hg : g < 98304) (hfind : findPart s (fun p => p.scrub.contains g) = some n) :
    Goes (.granuleScrubComplete g) s (scrubbed g n s) := by
  simp only [Goes, exec, execGranuleScrubComplete, hfind, unitRes, hg, decide_true, if_true]
  rfl

/-- A scrub changes memory as `zeroGranule` does and, of its partition, the granules that wait. -/
theorem scrubbed_reads (hmem : smapWf 0 s.bonded.mem = true) (hparts : smapWf Part.reset s.parts = true) :
    (∀ a, smapGet 0 (scrubbed g n s).bonded.mem a = if a / 0x200000 = g then 0 else smapGet 0 s.bonded.mem a) ∧
      (getPart (scrubbed g n s) n).scrub = (getPart s n).scrub.filter (· ≠ g) ∧ (scrubbed g n s).cores = s.cores := by
  unfold scrubbed
  set u := if (getPart s n).shares.bm = 0 then s else debit n (sliceOfGran g) granSize s
  have hu : EdgeOnly s u := by
    unfold u
    split
    · exact .refl s
    · exact edge_debit ..
  have hform : Memory.wf u = true := by rwa [Memory.wf, hu.bonded]
  obtain ⟨p, w, q, sl, m, i, hz⟩ := zeroGranule_only g u
  have hzparts : (zeroGranule g u).parts = s.parts := by rw [hz]; exact hu.parts
  refine ⟨fun a => ?_, ?_, ?_⟩
  · exact (zeroGranule_reads hform g a).trans (by rw [hu.bonded]; rfl)
  · rw [modPart, getPart_setPart (hzparts ▸ hparts), if_pos rfl, getPart, hzparts]
    rfl
  · change (zeroGranule g u).cores = _
    rw [hz]
    exact hu.cores

end Granules

/-- Settles O46: attributes, scrubs and keys are one write each, and a drain aborts nothing that its clauses name (`Aborting`). -/
theorem partitionTimers : Obligations.PartitionTimers := by
  unfold Obligations.PartitionTimers
  refine ⟨fun s g n hg hgran hwp hparts hfind => ?_, fun s g n hg hmem hparts hfind => ?_, fun s w a hclosing hheld htrip => ?_,
    fun s n a hdrain hparts hxfers hqps hquads htrip => ?_, fun s n => ⟨fun hk hold => ?_, fun hk hyoung => ?_⟩⟩
  · refine ⟨_, attributeWrite_goes hg hfind, ?_, fun k hk => ?_, fun pg => ?_, ?_, rfl, rfl⟩
    · exact (get_set g g _ (canon_of_wf _ _ hgran)).trans (if_pos rfl)
    · exact (get_set g k _ (canon_of_wf _ _ hgran)).trans (if_neg hk)
    · refine (get_clear (canon_of_wf _ _ hwp) (Nat.le_add_right _ _) pg).trans (ite_congr (propext ?_) (fun _ => rfl) fun _ => rfl)
      omega
    · exact congrArg Part.pend ((getPart_setPart hparts n n _).trans (if_pos rfl))
  · have hreads := scrubbed_reads (g := g) (n := n) hmem hparts
    exact ⟨_, granuleScrub_goes hg hfind, hreads⟩
  · have hwindow := drainWin_none (s := drained a s) hheld w.toNat
    simp only [Goes, exec, execDrainExpiry, hclosing, hwindow]
    rw [tripOff_of_not_tripped (by exact htrip), drained_eq]
    rfl
  · obtain ⟨b, hpart, hclk, hpower, hmem, hgran⟩ := drainPart_torn (s := drained a s) hparts hxfers hqps n.toNat
    have hsettle : settleQuads (drainPart n.toNat (drained a s)) = drainPart n.toNat (drained a s) :=
      settleQuads_of_none_wants_off fun q hq => by rw [getQuad, hpower]; exact hquads q hq
    have hgo : Goes (.drainExpiry (.teardown n)) s (drainPart n.toNat (drained a s)) := by
      simp only [Goes, exec, execDrainExpiry, hdrain, hsettle]
      exact congrArg Host.Outcome.next (tripOff_of_not_tripped (by rw [hpower]; exact htrip))
    refine ⟨_, hgo, ?_, ?_, ?_, ?_, by rw [hclk, drained_eq], hmem, fun g hg e he => ?_⟩
    · rw [hpart]; rfl
    · rw [hpart]; rfl
    · rw [hpart]; rfl
    · rw [hpart]; rfl
    · rw [hgran] at he
      have hout : e.1 ∉ extGrans (getPart (drained a s) n.toNat).exts := by simpa using (List.mem_filter.mp he).2
      rintro rfl
      exact hout hg
  · simp only [Goes, exec, execPendingKeyExpire, hk, hold, decide_true, Bool.and_true, if_true]
    rfl
  · simp only [Goes, exec, execPendingKeyExpire, Nat.not_le.mpr hyoung, decide_false, Bool.and_false]
    rfl

end Sys2Proof.Proofs

namespace Sys2Proof.Proofs

open Sys2Proof Sys2Proof.Machine Sys2Proof.Claims Sys2Proof.Laws

/-! ### The regulator's refill (13 R367) -/

section Refill

variable {s : State}

/-- Tokens `x` of unit `u` after one refill at shares `v`. -/
def refilled (v : Shares) (u : Nat) (x : Int) : Int := min (x + refillOf v u) (4 * refillOf v u)

theorem bucketKey_inj {p q u w : Nat} (hu : u < 1000) (hw : w < 1000) : bucketKey q w = bucketKey p u ↔ q = p ∧ w = u := by
  unfold bucketKey
  omega

/-- The refill of some units of partition `p`. -/
def refillUnits (v : Shares) (p : Nat) (l : List Nat) (s : State) : State :=
  l.foldl (fun s u => setTokens p u (refilled v u (tokens s p u)) s) s

theorem foldl_buckets_only {α : Type} {g : State → α → State} (hg : ∀ s a, ∃ b, g s a = { s with buckets := b }) (l : List α) (s : State) :
    ∃ b, l.foldl g s = { s with buckets := b } :=
  List.foldlRecOn (motive := fun u : State => ∃ b, u = { s with buckets := b }) l g ⟨_, rfl⟩ fun u ⟨_, hu⟩ a _ => by
    obtain ⟨b, hb⟩ := hg u a
    exact ⟨b, by rw [hb, hu]⟩

theorem refillUnits_only (v : Shares) (p : Nat) (l : List Nat) (s : State) : ∃ b, refillUnits v p l s = { s with buckets := b } :=
  foldl_buckets_only (fun _ _ => ⟨_, rfl⟩) l s

theorem refillUnits_keeps_form (v : Shares) (p : Nat) (l : List Nat) (h : smapWf 0 s.buckets = true) :
    smapWf 0 (refillUnits v p l s).buckets = true :=
  List.foldlRecOn (motive := fun u : State => smapWf 0 u.buckets = true) l _ h fun _ hu _ _ => wf_set _ _ hu

theorem tokens_refillUnits (v : Shares) (p q w : Nat) (hw : w < 1000) : ∀ {l : List Nat} {s : State}, l.Nodup → (∀ u ∈ l, u < 1000) →
    smapWf 0 s.buckets = true → tokens (refillUnits v p l s) q w = if q = p ∧ w ∈ l then refilled v w (tokens s q w) else tokens s q w
  | [], s, _, _, _ => by simp [refillUnits]
  | u :: l, s, hl, hu, h => by
    obtain ⟨hul, hl⟩ := List.nodup_cons.mp hl
    have ih := tokens_refillUnits v p q w hw (s := setTokens p u (refilled v u (tokens s p u)) s) hl
      (fun x hx => hu x (List.mem_cons_of_mem _ hx)) (wf_set _ _ h)
    rw [refillUnits, List.foldl_cons]
    refine ih.trans ?_
    rw [tokens_setTokens h]
    simp only [bucketKey_inj (hu u List.mem_cons_self) hw, List.mem_cons]
    by_cases hqw : q = p ∧ w = u
    · obtain ⟨rfl, rfl⟩ := hqw
      simp [hul]
    · by_cases hq : q = p <;> simp_all

theorem refillPart_eq (s : State) (p : Nat) : refillPart s p = refillUnits (getPart s p).shares p allUnits s := rfl

theorem tokens_refillParts (q w : Nat) (hw : w < 205) : ∀ {l : List Nat} {s : State}, l.Nodup → smapWf 0 s.buckets = true →
    tokens (l.foldl refillPart s) q w = if q ∈ l then refilled (getPart s q).shares w (tokens s q w) else tokens s q w
  | [], s, _, _ => by simp
  | p :: l, s, hl, h => by
    obtain ⟨hpl, hl⟩ := List.nodup_cons.mp hl
    have hparts : (refillPart s p).parts = s.parts := by
      obtain ⟨b, hb⟩ := refillUnits_only (getPart s p).shares p allUnits s
      rw [refillPart_eq, hb]
    have ih := tokens_refillParts q w hw (s := refillPart s p) hl (refillUnits_keeps_form _ _ _ h)
    have hpart := tokens_refillUnits (getPart s p).shares p q w (by omega) (l := List.range 205) List.nodup_range
      (fun u hu => (List.mem_range.mp hu).trans (by decide)) h
    rw [List.foldl_cons, ih, getPart, hparts, refillPart_eq, allUnits, hpart]
    by_cases hq : q = p
    · subst hq
      simp [hpl, hw]
    · simp [hq, getPart]

/-! ### What the ports send takes no tokens while no flit waits for its own -/

theorem injFlit_buckets (p : BPort) (ty : Nat) (bs : List Byte) (s : State) : (injFlit p ty bs s).2.buckets = s.buckets := by
  unfold injFlit
  split
  · rfl
  · split <;> rfl

theorem emitFlit_buckets (p : BPort) (ty seq vc : Nat) (pl : List Byte) (s : State) : (emitFlit p ty seq vc pl s).buckets = s.buckets :=
  (setPort_buckets ..).trans (injFlit_buckets ..)

theorem freeBuf_buckets (f : Option (Nat × Nat)) (s : State) : (freeBuf f s).buckets = s.buckets := by
  unfold freeBuf
  split
  · split
    · exact setPort_buckets ..
    · rfl
  · rfl

theorem pumpData_buckets (p : BPort) : ∀ (n : Nat) (s : State), (pumpData p n s).buckets = s.buckets
  | 0, _ => rfl
  | n + 1, s => by
    unfold pumpData
    dsimp only
    split
    · rfl
    · split
      · rfl
      · exact (pumpData_buckets p n _).trans ((emitFlit_buckets ..).trans ((freeBuf_buckets ..).trans (setPort_buckets ..)))

theorem pumpIdle_buckets (p : BPort) : ∀ (n : Nat) (s : State), (pumpIdle p n s).buckets = s.buckets
  | 0, _ => rfl
  | n + 1, s => by
    unfold pumpIdle
    dsimp only
    split
    · rfl
    · split
      · rfl
      · exact (pumpIdle_buckets p n _).trans (emitFlit_buckets ..)

theorem foldl_buckets {α : Type} {g : State → α → State} (hg : ∀ s a, (g s a).buckets = s.buckets) (l : List α) (s : State) :
    (l.foldl g s).buckets = s.buckets :=
  List.foldlRecOn (motive := fun u : State => u.buckets = s.buckets) l g rfl fun u hu a _ => (hg u a).trans hu

theorem admitFlits_none {p : BPort} (h : (getPort s p).regq = []) : admitFlits p s = s := by simp [admitFlits, h]

theorem pump_buckets (h : ∀ p, (getPort s p).regq = []) : (pump s).buckets = s.buckets := by
  have hadmit : allPorts.foldl (fun s p => admitFlits p s) s = s :=
    List.foldlRecOn (motive := (· = s)) allPorts _ rfl fun u hu p _ => by rw [hu, admitFlits_none (h p)]
  rw [pump, hadmit]
  exact (foldl_buckets (fun _ _ => pumpIdle_buckets ..) ..).trans (foldl_buckets (fun _ _ => pumpData_buckets ..) ..)

end Refill

/-- Settles O40: the sixteen partitions' buckets are distinct keys, and the ports that then send take no tokens. -/
theorem regulatorRefill : Obligations.RegulatorRefill := by
  unfold Obligations.RegulatorRefill
  intro s hwf hregq
  set u : State := { s with clk := max s.clk (s.tick.refillAt + 1200), tick := { s.tick with refillAt := s.tick.refillAt + 1200 } }
  set v := (List.range 16).foldl refillPart u
  obtain ⟨b, hv⟩ : ∃ b, v = { u with buckets := b } := foldl_buckets_only (fun s p => refillUnits_only (getPart s p).shares p allUnits s) _ u
  have hport (p : BPort) : (getPort v p).regq = [] := by
    rw [hv]
    exact hregq p
  have hp := edge_pump v
  refine ⟨pump v, rfl, ?_, ?_, fun p w hp16 hw => ?_, ?_, ?_, ?_⟩
  · rw [hp.tick, hv]
  · rw [hp.clk, hv]
  · have htokens := tokens_refillParts p w hw (s := u) (l := List.range 16) List.nodup_range hwf
    rw [tokens, pump_buckets hport]
    exact htokens.trans (if_pos (List.mem_range.mpr hp16))
  · rw [hp.cores, hv]
  · rw [hp.bonded, hv]
  · rw [hp.parts, hv]

end Sys2Proof.Proofs

namespace Sys2Proof.Proofs

open Sys2Proof Sys2Proof.Machine Sys2Proof.Claims Sys2Proof.Laws

/-! ### What the belfry sends to its owner (17 R466) -/

section Sending

variable {s : State}

/-- `t` is `s` but for its host edge and the outputs `os` that it has sent. -/
def Speaks (s t : State) (os : List Output) : Prop := t = { s with host := t.host, outbox := s.outbox ++ os }

theorem Speaks.trans {t u : State} {os ps : List Output} (h : Speaks s t os) (h' : Speaks t u ps) : Speaks s u (os ++ ps) := by
  unfold Speaks at *
  rw [h']
  generalize u.host = x
  rw [h]
  simp only [List.append_assoc]

theorem Speaks.refl (s : State) : Speaks s s [] := by simp [Speaks]

theorem speaks_modHport (p : HPort) (g : HoPort → HoPort) (s : State) : Speaks s (modHport p g s) [] := by
  cases p <;> simp [Speaks, modHport, setHport]

theorem speaks_emit (o : Output) (s : State) : Speaks s (emit o s) [o] := rfl

theorem speaks_putFrames (p : HPort) (frames : Nat) (m : HostMsg) (s : State) : Speaks s (putFrames p frames m s) [framed s p m] :=
  (speaks_emit _ s).trans (speaks_modHport ..)

theorem speaks_flushFrames (p : HPort) (s : State) : ∃ os, Speaks s (flushFrames p s) os := by
  unfold flushFrames
  dsimp only
  split
  · exact ⟨_, .refl s⟩
  · refine List.foldlRecOn (motive := fun u => ∃ os, Speaks s u os) _ _ ⟨_, speaks_modHport ..⟩ fun u ⟨os, hu⟩ x _ => ?_
    exact ⟨_, hu.trans (speaks_putFrames ..)⟩

/-- A message to a queue pair waits at its port, or is sent behind those that do. -/
theorem speaks_emitQp (q frames : Nat) (m : HostMsg) (s : State) : ∃ os, Speaks s (emitQp q frames m s) os := by
  unfold emitQp sendFrames
  split
  · exact ⟨_, speaks_modHport ..⟩
  · obtain ⟨os, h⟩ := speaks_flushFrames (getQp s q).port s
    exact ⟨_, h.trans (speaks_putFrames ..)⟩

/-- Where nothing keeps frames back, a message to a queue pair is sent. -/
theorem speaks_emitQp_of_sends {q : Nat} (h : sends s (getQp s q).port = true) (frames : Nat) (m : HostMsg) :
    Speaks s (emitQp q frames m s) [said s q m] := by
  simp only [sends, Bool.and_eq_true, Bool.not_eq_true'] at h
  obtain ⟨hpause, htxq⟩ := h
  have hsend : emitQp q frames m s = putFrames (getQp s q).port frames m s := by
    simp [emitQp, sendFrames, flushFrames, hpause, htxq]
  rw [hsend]
  exact speaks_putFrames ..

theorem speaks_modQp (q : Nat) (g : Qp → Qp) (s : State) : Speaks s (modQp q g s) [] := by simp [Speaks, modQp, setQp]

theorem speaks_noteOut (q : Nat) (s : State) : Speaks s (noteOut q s) [] := speaks_modQp ..

theorem speaks_outOne (q : Nat) (s : State) : Speaks s (outOne q s) [] := speaks_modQp ..

theorem speaks_paceQp (q n : Nat) (s : State) : Speaks s (paceQp q n s) [] := speaks_modQp ..

theorem speaks_sendHostWrite_of_sends {q : Nat} (h : sends s (getQp s q).port = true) (va : Nat) (rkey : W32) (bs : List Byte) :
    Speaks s (sendHostWrite q va rkey bs s) [said s q (.hostWrite q (BitVec.ofNat 64 va) rkey bs)] :=
  ((speaks_emitQp_of_sends h ..).trans (speaks_outOne ..)).trans (speaks_paceQp ..)

theorem Speaks.outbox {t : State} {os : List Output} (h : Speaks s t os) : t.outbox = s.outbox ++ os := by rw [h]
theorem Speaks.tick {t : State} {os : List Output} (h : Speaks s t os) : t.tick = s.tick := by rw [h]
theorem Speaks.clk {t : State} {os : List Output} (h : Speaks s t os) : t.clk = s.clk := by rw [h]
theorem Speaks.bonded {t : State} {os : List Output} (h : Speaks s t os) : t.bonded = s.bonded := by rw [h]
theorem Speaks.cores {t : State} {os : List Output} (h : Speaks s t os) : t.cores = s.cores := by rw [h]

/-- Time that passes ends a pause and begins none. -/
theorem sends_passTo {p : HPort} (h : sends s p = true) (t : Nat) : sends (passTo t s) p = true := by
  simp only [sends, portPaused, Bool.and_eq_true, Bool.not_eq_true', decide_eq_false_iff_not, Nat.not_lt] at h ⊢
  exact ⟨h.1.trans (Nat.le_max_left ..), h.2⟩

theorem ownerQp_of_rts {o : Owner} (ho : s.host.owner = some o) (hq : (getQp s o.qp).st = .rts) : ownerQp s = some o := by
  simp [ownerQp, ho, hq]

end Sending

/-! ### The plan's header (13 R345, R347) -/

section Plan

variable {s : State} {o : Owner}

/-- The state in which the belfry has asked for the next plan's header. -/
def fetchBegun (o : Owner) (s : State) : State :=
  let u := passTo (fetchPoint s.tick) s
  let v := emitQp o.qp 1 (.hostRead o.qp (BitVec.ofNat 64 (planAddr s o)) o.planRkey 0x180) u
  noteOut o.qp { v with tick := { v.tick with next := .fetching } }

theorem planFetch_goes (ho : ownerQp s = some o) (hrun : s.tick.phase = .run) (hnext : s.tick.next = .none) (hdone : o.done = true) :
    Goes .planFetch s (fetchBegun o s) := by
  simp only [Goes, exec, execPlanFetch, ho, hrun, hnext, hdone]
  rfl

/-- The tick once `bytes` have arrived as the next plan's header and their check answered `c`. -/
def arrivedTick (c : Nat) (bytes : List Byte) (t : Tick) : Tick :=
  let t := { t with fetchSeq := BitVec.ofNat 64 (plSeq bytes) }
  if c = 0 then { t with next := .valid (bytes.take (plLen bytes)), lastSeq := BitVec.ofNat 64 (plSeq bytes), anySeq := true }
  else { t with next := .invalid c false }

/-- The rest of a plan longer than its header is asked for, where the header says its length. -/
def askRest (o : Owner) (bytes : List Byte) (s : State) : State :=
  if decide (0x180 < plLen bytes) && decide (planCase s o.planSlot false bytes ≠ 1) && decide (planCase s o.planSlot false bytes ≠ 2) then
    emitQp o.qp 1 (.hostRead o.qp (BitVec.ofNat 64 (planAddr s o + 0x180)) o.planRkey (plLen bytes - 0x180)) s
  else s

/-- The state in which the next plan's header has arrived. -/
def arrived (o : Owner) (bytes : List Byte) (s : State) : State :=
  let u := askRest o bytes s
  noteOut o.qp { u with tick := arrivedTick (planCase s o.planSlot false bytes) bytes u.tick }

theorem planArrival_goes {p : List Byte} (ho : ownerQp s = some o) (hrun : s.tick.phase = .run) (hnext : s.tick.next = .fetching)
    (harm : s.test.arm = false) (hlen : plLen p ≤ p.length) : Goes (.planArrival p) s (arrived o p s) := by
  have hinj : planInj s = false := by simp [planInj, harm]
  have hshort : decide (p.length < plLen p) = false := by simpa using hlen
  simp only [Goes, exec, execPlanArrival, ho, hnext, hinj, hshort, hrun, Bool.and_false, Bool.false_and, Bool.false_eq_true, if_false, ne_eq,
    not_true_eq_false]
  rfl

theorem speaks_askRest (o : Owner) (p : List Byte) (s : State) : ∃ os, Speaks s (askRest o p s) os := by
  unfold askRest
  split
  · exact speaks_emitQp ..
  · exact ⟨_, .refl s⟩

/-- What has arrived changes the tick by the plan's check, and of the rest the host edge and the outbox alone. -/
theorem speaks_arrived (o : Owner) (p : List Byte) (s : State) :
    ∃ os, Speaks { s with tick := arrivedTick (planCase s o.planSlot false p) p s.tick } (arrived o p s) os := by
  obtain ⟨os, h⟩ := speaks_askRest o p s
  refine ⟨os ++ [], Speaks.trans ?_ (speaks_noteOut ..)⟩
  unfold Speaks at *
  rw [h]

end Plan

/-- Settles O32: the fetch sends one read, and the arrival answers with the plan's check. -/
theorem planFetchAndArrival : Obligations.PlanFetchAndArrival := by
  unfold Obligations.PlanFetchAndArrival
  intro s o p howner hrts hrun
  have ho := ownerQp_of_rts howner hrts
  refine ⟨fun hnext hdone hsends => ?_, fun hnext harm hlen => ?_⟩
  · have hemit := speaks_emitQp_of_sends (s := passTo (fetchPoint s.tick) s) (q := o.qp) (sends_passTo hsends _) 1
      (.hostRead o.qp (BitVec.ofNat 64 (planAddr s o)) o.planRkey 0x180)
    refine ⟨_, planFetch_goes ho hrun hnext hdone, rfl, hemit.clk, hemit.outbox⟩
  · obtain ⟨os, ht⟩ := speaks_arrived o p s
    have htick := ht.tick
    refine ⟨_, planArrival_goes ho hrun hnext harm hlen, ?_, ht.bonded, ht.cores, ?_⟩
    · rw [htick]
      unfold arrivedTick
      split <;> rfl
    · rw [htick]
      unfold arrivedTick
      split <;> exact ⟨rfl, rfl, rfl⟩

end Sys2Proof.Proofs

namespace Sys2Proof.Proofs

open Sys2Proof Sys2Proof.Machine Sys2Proof.Claims Sys2Proof.Laws

/-! ### Cores without a job -/

section Jobless

variable {s : State}

/-- No core holds a job. -/
def Jobless (s : State) : Prop := ∀ e ∈ s.cores, e.2.job = none

theorem Jobless.job_none (h : Jobless s) (n : Nat) : (getCore s n).job = none :=
  smapGet_of_forall (P := fun c : Core => c.job = none) rfl h n

/-- What a map lists after a write is what was written or what it listed before. -/
theorem mem_of_mem_smapSet {α : Type} [DecidableEq α] {d v : α} {n : Nat} {e : Nat × α} :
    ∀ {m : SMap α}, e ∈ smapSet d m n v → e = (n, v) ∨ e ∈ m
  | [], h => by
    simp only [smapSet] at h
    split_ifs at h <;> simp_all
  | (k, w) :: m, h => by
    simp only [smapSet] at h
    split_ifs at h with h1 h2 h3 h4
    · exact .inr h
    · simpa using h
    · exact .inr (List.mem_cons_of_mem _ h)
    · exact (List.mem_cons.mp h).imp_right (List.mem_cons_of_mem _)
    · rcases List.mem_cons.mp h with rfl | h
      · exact .inr List.mem_cons_self
      · exact (mem_of_mem_smapSet h).imp_right (List.mem_cons_of_mem _)

theorem Jobless.after_setCore (h : Jobless s) {n : Nat} {c : Core} (hc : c.job = none) : Jobless (setCore n c s) := by
  intro e he
  rcases mem_of_mem_smapSet he with rfl | he
  · exact hc
  · exact h e he

end Jobless

/-! ### The course of a tick -/

/-- A tick but for what an open after its first step, or a close, may still change: its counts and status records, the overlay, the bell
source, and whether a plan is still on its way. -/
def course (t : Tick) : Tick :=
  { t with
    mode := 0, bellen := false, bell := 0, isBell := false, aligned := false, bellLost := false
    idle := EvCtr.reset, overrun := EvCtr.reset, late := EvCtr.reset, lateNext := 0, status := [], next := .none }

/-- From `s₀` to `s` time does not go back, the tick keeps its course, and no plan comes in; where `idle` is set, no core of `s` holds a
job. -/
structure Still (idle : Bool) (s₀ s : State) : Prop where
  clk     : s₀.clk ≤ s.clk
  tick    : course s.tick = course s₀.tick
  next    : s.tick.next = s₀.tick.next ∨ s.tick.next = .none
  jobless : idle = true → Jobless s

section Shapes

variable {idle : Bool} {s₀ s : State} {α β : Type}

theorem Still.refl (s : State) : Still false s s := ⟨Nat.le_refl _, rfl, .inl rfl, nofun⟩

theorem Still.pair (h : Still idle s₀ s) {a : α} : Still idle s₀ (a, s).2 := h

theorem Still.ite (h : Still idle s₀ s) {p : Prop} {d : Decidable p} {t : State} (h' : Still idle s₀ t) :
    Still idle s₀ (if p then s else t) := by
  split <;> assumption

/-- A loop over a list. -/
theorem Still.foldl (h : Still idle s₀ s) {g : State → α → State} {l : List α} (hg : ∀ s a, Still idle s₀ s → Still idle s₀ (g s a)) :
    Still idle s₀ (l.foldl g s) :=
  List.foldlRecOn l g h fun s hs a _ => hg s a hs

/-- A loop over a list that carries a state in what it carries. -/
theorem Still.foldl_in {x : β} (st : β → State) (h : Still idle s₀ (st x)) {g : β → α → β} {l : List α}
    (hg : ∀ x a, Still idle s₀ (st x) → Still idle s₀ (st (g x a))) : Still idle s₀ (st (l.foldl g x)) :=
  List.foldlRecOn (motive := fun x => Still idle s₀ (st x)) l g h fun x hx a _ => hg x a hx

/-- Every field but the time, the cores and the tick, changed: written out field by field, so that it fits an update of any of them. -/
theorem Still.elsewhere (h : Still idle s₀ s)
    {pending free nuid outbox boot fuseLo fuseHi bonded parts windows conf jobs images pools kvPools seqs seqRecs leaves rings layers routes
    xfers buckets waiters links host power secure events test digReqs memos flash flashRows tierMem tap} :
    Still idle s₀ ⟨pending, s.clk, free, nuid, outbox, boot, fuseLo, fuseHi, s.cores, bonded, parts, windows, s.tick, conf, jobs, images, pools,
    kvPools, seqs, seqRecs, leaves, rings, layers, routes, xfers, buckets, waiters, links, host, power, secure, events, test, digReqs, memos,
    flash, flashRows, tierMem, tap⟩ :=
  ⟨h.clk, h.tick, h.next, h.jobless⟩

theorem Still.not_idle (h : Still idle s₀ s) {n : Nat} {x : CoreJob} (hx : (getCore s n).job = some x) : ¬ idle = true := fun hi =>
  nomatch hx.symm.trans ((h.jobless hi).job_none n)

/-- The tick, changed in what its course does not show. -/
theorem Still.after_note (h : Still idle s₀ s) {t : Tick} (ht : course t = course s.tick) (hn : t.next = s.tick.next) :
    Still idle s₀ { s with tick := t } :=
  ⟨h.clk, ht.trans h.tick, hn ▸ h.next, h.jobless⟩

/-- What the peer edge does beside its own registers is nothing. -/
theorem Still.of_edge (h : Still idle s₀ s) {t : State} (ht : EdgeOnly s t) : Still idle s₀ t :=
  ⟨h.clk.trans_eq ht.clk.symm, (congrArg course ht.tick).trans h.tick, ht.tick ▸ h.next, fun hi e he => h.jobless hi e (ht.cores ▸ he)⟩

theorem Still.now (h : Still idle s₀ s) : s.tick.now = s₀.tick.now := (congrArg Tick.now h.tick :)

theorem Still.phase (h : Still idle s₀ s) : s.tick.phase = s₀.tick.phase := (congrArg Tick.phase h.tick :)

end Shapes

/-! The functions that the work of an open and of a close is made of, in the model's order: each lemma follows its function's branches and
cites those of the functions it calls. Those that place, start or resume a job say nothing of cores without one (`idle` is false). -/

section Course

variable {idle : Bool} {s₀ s : State}

/-! ### Shapes of a next state -/

theorem Still.after_setCore (h : Still idle s₀ s) {n : Nat} {c : Core} (hc : idle = true → c.job = none := by nofun) :
    Still idle s₀ (setCore n c s) :=
  ⟨h.clk, h.tick, h.next, fun hi => (h.jobless hi).after_setCore (hc hi)⟩

theorem Still.after_setSlice (h : Still idle s₀ s) {n : Nat} {v : Slice} : Still idle s₀ (setSlice n v s) := h.elsewhere

theorem Still.after_setPart (h : Still idle s₀ s) {n : Nat} {p : Machine.Part} : Still idle s₀ (setPart n p s) := h.elsewhere

theorem Still.after_setQuad (h : Still idle s₀ s) {n : Nat} {q : Quad} : Still idle s₀ (setQuad n q s) := h.elsewhere

theorem Still.after_setQp (h : Still idle s₀ s) {n : Nat} {q : Qp} : Still idle s₀ (setQp n q s) := h.elsewhere

theorem Still.after_setTokens (h : Still idle s₀ s) {p unit : Nat} {v : Int} : Still idle s₀ (setTokens p unit v s) := h.elsewhere

theorem Still.after_setPort (h : Still idle s₀ s) {p : BPort} {v : BkPort} : Still idle s₀ (setPort p v s) := by
  cases p <;> exact h.elsewhere

theorem Still.after_setHport (h : Still idle s₀ s) {p : HPort} {v : HoPort} : Still idle s₀ (setHport p v s) := by
  cases p <;> exact h.elsewhere

theorem Still.after_bPut (h : Still idle s₀ s) {a : Nat} {bs : List Byte} : Still idle s₀ (bPut a bs s) := h.elsewhere

theorem Still.after_raiseI (h : Still idle s₀ s) {inj : Bool} {kind idx : Nat} {part : Option Nat} {code arg : Nat} :
    Still idle s₀ (raiseI inj kind idx part code arg s) := by
  obtain ⟨e, he⟩ := raiseI_only s inj kind idx part code arg
  rw [he]
  exact h.elsewhere

theorem Still.after_setPoison (h : Still idle s₀ s) {pg : Nat} : Still idle s₀ (setPoison pg s) := h.elsewhere

/-! ### Time (00 R10; log 1) -/

theorem Still.after_passTo (h : Still idle s₀ s) {t : Nat} : Still idle s₀ (passTo t s) :=
  ⟨h.clk.trans (Nat.le_max_left ..), h.tick, h.next, h.jobless⟩

theorem Still.after_takeFree (h : Still idle s₀ s) : Still idle s₀ (takeFree s).2 := h.elsewhere

theorem Still.after_takeUid (h : Still idle s₀ s) : Still idle s₀ (takeUid s).2 := h.elsewhere

theorem Still.after_emit (h : Still idle s₀ s) {o : Output} : Still idle s₀ (emit o s) := h.elsewhere

/-! ### Units -/

theorem Still.after_modCore (h : Still idle s₀ s) {n : Nat} {f : Core → Core}
    (hf : idle = true → ∀ c, c.job = none → (f c).job = none := by nofun) : Still idle s₀ (modCore n f s) :=
  h.after_setCore fun hi => hf hi _ ((h.jobless hi).job_none n)

theorem Still.after_modSlice (h : Still idle s₀ s) {n : Nat} {f : Slice → Slice} : Still idle s₀ (modSlice n f s) := h.after_setSlice

theorem Still.after_modPart (h : Still idle s₀ s) {n : Nat} {f : Machine.Part → Machine.Part} : Still idle s₀ (modPart n f s) := h.after_setPart

theorem Still.after_setWin (h : Still idle s₀ s) {n : Nat} {w : Window} : Still idle s₀ (setWin n w s) := h.elsewhere

theorem Still.after_modQuad (h : Still idle s₀ s) {n : Nat} {f : Quad → Quad} : Still idle s₀ (modQuad n f s) := h.after_setQuad

theorem Still.after_modQp (h : Still idle s₀ s) {n : Nat} {f : Qp → Qp} : Still idle s₀ (modQp n f s) := h.after_setQp

theorem Still.after_modPort (h : Still idle s₀ s) {p : BPort} {f : BkPort → BkPort} : Still idle s₀ (modPort p f s) := h.after_setPort

theorem Still.after_modHport (h : Still idle s₀ s) {p : HPort} {f : HoPort → HoPort} : Still idle s₀ (modHport p f s) := h.after_setHport

theorem Still.after_putFrames (h : Still idle s₀ s) {p : HPort} {frames : Nat} {m : HostMsg} : Still idle s₀ (putFrames p frames m s) :=
  h.after_emit.after_modHport

theorem Still.after_flushFrames (h : Still idle s₀ s) {p : HPort} : Still idle s₀ (flushFrames p s) := by
  unfold flushFrames
  dsimp only
  split
  · exact h
  · exact .foldl h.after_modHport fun _ _ hs => hs.after_putFrames

theorem Still.after_sendFrames (h : Still idle s₀ s) {p : HPort} {frames : Nat} {m : HostMsg} : Still idle s₀ (sendFrames p frames m s) :=
  .ite h.after_modHport h.after_flushFrames.after_putFrames

/-! ### Events (20 R533 to R538) -/

theorem Still.after_pushEvent (h : Still idle s₀ s) {kind idx : Nat} {part : Option Nat} {code arg : Nat} {inj : Bool} :
    Still idle s₀ (pushEvent kind idx part code arg inj s) :=
  .ite h.elsewhere (.ite (.ite h.elsewhere h.elsewhere) h.elsewhere)

theorem Still.after_raise (h : Still idle s₀ s) {kind idx : Nat} {part : Option Nat} {code arg : Nat} :
    Still idle s₀ (raise kind idx part code arg s) :=
  h.after_raiseI

theorem Still.after_ovfEvent (h : Still idle s₀ s) {b : Bool} {addr : Nat} : Still idle s₀ (ovfEvent b addr s) := .ite h.after_raise h

/-! ### Faults of a job (03 R86 to R90, R98, R99). -/

theorem Still.after_takeFault (h : Still idle s₀ s) {n seq code trap : Nat} {fpc : W64} : Still idle s₀ (takeFault n seq code trap fpc s) := by
  unfold takeFault
  dsimp only
  split
  · exact h
  next hx =>
    have hbusy : ∀ {c : Core}, Still idle s₀ (setCore n c s) := h.after_setCore fun hi => (h.not_idle hx hi).elim
    split
    · exact .ite hbusy hbusy
    · exact .ite hbusy h

theorem Still.after_semSet (h : Still idle s₀ s) {n sem : Nat} {v : W64} : Still idle s₀ (semSet n sem v s) :=
  h.after_modCore fun _ c hc => by
    obtain ⟨x, hx⟩ := swaitSees_only sem v { c with sems := smapSet 0 c.sems sem v }
    rw [hx]
    exact hc

theorem Still.after_semAdd (h : Still idle s₀ s) {n sem v : Nat} : Still idle s₀ (semAdd n sem v s) := h.after_semSet

/-! ### Scratchpad -/

theorem Still.after_injDone (h : Still idle s₀ s) : Still idle s₀ (injDone s) := h.elsewhere

theorem Still.after_spadWrote (h : Still idle s₀ s) {n : Nat} {rs : List (Nat × Nat)} : Still idle s₀ (spadWrote n rs s) := by
  unfold spadWrote
  split
  · refine .after_injDone (h.after_modCore ?_)
    exact fun _ _ hc => hc
  · exact h

/-! ### Regulator buckets (13 R367) -/

theorem Still.after_debit (h : Still idle s₀ s) {p unit n : Nat} : Still idle s₀ (debit p unit n s) := h.after_setTokens

/-! ### Bonded memory: addresses (09 R233, R235) -/

theorem Still.after_listPoison (h : Still idle s₀ s) {pg : Nat} : Still idle s₀ (listPoison pg s) := h.elsewhere

theorem Still.after_clearPoison (h : Still idle s₀ s) {pg : Nat} : Still idle s₀ (clearPoison pg s) := .ite h h.elsewhere

/-! ### Parity errors (09 R240, R245, R247 to R251; 14 R404) -/

theorem Still.after_perrInc (h : Still idle s₀ s) {sl : Nat} : Still idle s₀ (perrInc sl s) := h.after_modSlice.after_ovfEvent

theorem Still.after_rowRepair (h : Still idle s₀ s) {sl die bank row : Nat} : Still idle s₀ (rowRepair sl die bank row s) :=
  .ite (.after_raise (.elsewhere h.after_setSlice)) (.elsewhere h.after_setSlice)

theorem Still.after_bondError (h : Still idle s₀ s) {sl a row : Nat} : Still idle s₀ (bondError sl a row s) := h.after_setSlice

theorem Still.after_modJob (h : Still idle s₀ s) {idx : Nat} {f : Job → Job} : Still idle s₀ (modJob idx f s) := by
  unfold modJob
  split
  · exact h.elsewhere
  · exact h

theorem Still.after_endJob (h : Still idle s₀ s) {n seq code : Nat} {st : RunSt} {pc : W64} : Still idle s₀ (endJob n seq code st pc s) := by
  unfold endJob
  dsimp only
  split
  · exact h
  next hx =>
    split
    · exact h.after_takeFault
    · split
      · exact h.after_takeFault.after_modCore fun _ c hc => by simp [hc]
      · exact h.elsewhere.after_setCore fun hi => (h.not_idle hx hi).elim

theorem Still.after_rollJob (h : Still idle s₀ s) {n seq : Nat} {pc : W64} : Still idle s₀ (rollJob n seq pc s) := h.after_endJob

theorem Still.after_rollSettled (h : Still idle s₀ s) {sl : Nat} : Still idle s₀ (rollSettled sl s) := h.elsewhere

theorem Still.after_rollP0 (h : Still idle s₀ s) {sl : Nat} {who : Option Nat} : Still idle s₀ (rollP0 sl who s) :=
  .after_rollSettled (.foldl h fun _ _ hs => .ite hs.after_rollJob hs)

theorem Still.after_parityFound (h : Still idle s₀ s) {a : Nat} {inj : Bool} {who : Option Nat} : Still idle s₀ (parityFound a inj who s) := by
  unfold parityFound
  extract_lets sl o s1 s2 s3 s4
  have h3 : Still idle s₀ s3 := h.after_setPoison.after_listPoison.after_perrInc.after_raiseI
  have h4 : Still idle s₀ s4 := .ite h3 h3.after_rowRepair.after_bondError
  exact .ite h4.after_rollP0 h4

theorem Still.after_errorsFound (h : Still idle s₀ s) {a n : Nat} {who : Option Nat} : Still idle s₀ (errorsFound a n who s) := by
  unfold errorsFound
  dsimp only
  split
  · refine .after_parityFound ?_
    split
    · exact h.after_parityFound
    · exact h
  · split
    · exact h.after_parityFound
    · exact h

theorem Still.after_ctlRead (h : Still idle s₀ s) {a : Nat} {who : Option Nat} : Still idle s₀ (ctlRead a who s).2 := by
  unfold ctlRead
  split
  · exact h.after_errorsFound
  · exact h

/-! ### Checked accesses -/

theorem Still.after_cntRead (h : Still idle s₀ s) {sl n : Nat} : Still idle s₀ (cntRead sl n s) := h.after_modSlice

theorem Still.after_cntWrite (h : Still idle s₀ s) {sl n : Nat} : Still idle s₀ (cntWrite sl n s) := h.after_modSlice

theorem Still.after_noteHeld (h : Still idle s₀ s) {a : Nat} : Still idle s₀ (noteHeld a s) := by
  unfold noteHeld
  exact h.after_modPart

theorem Still.after_streamNow (h : Still idle s₀ s) {a : Nat} : Still idle s₀ (streamNow a s) := by
  unfold streamNow
  dsimp only
  split
  · exact .after_errorsFound (.elsewhere h.after_debit.after_debit)
  · exact .after_modPart (.after_cntRead (.elsewhere h.after_debit.after_debit))

theorem Still.after_touchHeld (h : Still idle s₀ s) {a : Nat} : Still idle s₀ (touchHeld a s) := h.after_noteHeld.after_streamNow

theorem Still.after_attrInj (h : Still idle s₀ s) : Still idle s₀ (attrInj s) := .ite h.elsewhere.after_injDone h

theorem Still.after_attrRepair (h : Still idle s₀ s) {a : Nat} : Still idle s₀ (attrRepair a s) := by
  unfold attrRepair
  extract_lets pg inj s1 s2 b s3 s4
  have h2 : Still idle s₀ s2 := h.after_perrInc.after_raiseI.after_listPoison
  clear_value s2
  have h3 : Still idle s₀ s3 := h2.elsewhere
  have h4 : Still idle s₀ s4 := .ite h3.after_streamNow h3
  exact .ite h4.after_attrInj h4

theorem Still.after_memoTouch (h : Still idle s₀ s) {a n : Nat} : Still idle s₀ (memoTouch a n s) := h.elsewhere

theorem Still.after_bStore (h : Still idle s₀ s) {a : Nat} {bs : List Byte} : Still idle s₀ (bStore a bs s) :=
  .ite (.after_injDone (.elsewhere h.after_bPut.after_cntWrite.after_memoTouch)) h.after_bPut.after_cntWrite.after_memoTouch

theorem Still.after_firstTouch (h : Still idle s₀ s) {a : Nat} : Still idle s₀ (firstTouch a s).2 := by
  unfold firstTouch
  dsimp only
  split
  · exact .pair h
  split
  · exact .pair h
  split
  · exact .pair h.after_errorsFound.after_setPoison
  · exact .pair (.elsewhere h.after_cntRead.after_bStore.after_modPart)

/-! ### Memory-side adders (09 R253, 10 R276 to R279) -/

theorem Still.after_addNow (h : Still idle s₀ s) {op a : Nat} {src : List Byte} {who : Option Nat} : Still idle s₀ (addNow op a src who s).2 := by
  unfold addNow
  dsimp only
  split
  · exact .pair h.after_attrRepair
  · split
    · exact .pair h
    · split
      · exact .pair h.after_ctlRead
      · split
        · exact h.after_firstTouch
        · exact .pair h.after_firstTouch.after_bStore.after_cntRead.after_modSlice

theorem Still.after_addWaiting (h : Still idle s₀ s) {op a : Nat} {src : List Byte} {who : Option Nat} :
    Still idle s₀ (addWaiting op a src who s).2 := by
  unfold addWaiting
  dsimp only
  split
  · exact h.after_addNow.after_touchHeld.after_addNow
  · exact h.after_addNow

theorem Still.after_applyAdd (h : Still idle s₀ s) {e : AddEntry} : Still idle s₀ (applyAdd s e) := by
  unfold applyAdd
  split
  · exact .ite h.after_addWaiting (.ite h.after_addWaiting.after_rollJob (.ite h.after_addWaiting.after_endJob h.after_addWaiting))
  · exact h.after_addWaiting

theorem Still.after_applyAddLog (h : Still idle s₀ s) {sl : Nat} : Still idle s₀ (applyAddLog sl s) :=
  .foldl h.after_setSlice fun _ _ hs => hs.after_applyAdd

/-! ### Belfry accesses (no ownership check; parity and POISON still count, 09 R240) -/

theorem Still.after_pageStops (h : Still idle s₀ s) {pg : Nat} : Still idle s₀ (pageStops pg s).2 := .ite h.after_attrRepair h

theorem Still.after_cntRange (h : Still idle s₀ s) {a n : Nat} : Still idle s₀ (cntRange a n s) := .foldl h fun _ _ hs => hs.after_cntRead

theorem Still.after_waitHold (h : Still idle s₀ s) {a n : Nat} : Still idle s₀ (waitHold a n s) := .ite h h.after_passTo

theorem Still.after_belRead (h : Still idle s₀ s) {a n : Nat} : Still idle s₀ (belRead a n s).2.2 := by
  unfold belRead
  dsimp only
  split
  · refine .foldl_in Prod.snd h.after_waitHold fun _ _ hs => ?_
    split
    · exact hs
    · split
      · exact hs.after_pageStops
      · exact hs.after_pageStops.after_ctlRead
  · refine .after_cntRange (.foldl_in Prod.snd h.after_waitHold fun _ _ hs => ?_)
    split
    · exact hs
    · split
      · exact hs.after_pageStops
      · exact hs.after_pageStops.after_ctlRead

theorem Still.after_belWrite (h : Still idle s₀ s) {a : Nat} {bs : List Byte} : Still idle s₀ (belWrite a bs s).2 := by
  refine .foldl_in Prod.snd h.after_waitHold fun x pb hs => ?_
  extract_lets q t s1
  have ht : Still idle s₀ t.2 := hs.after_pageStops.after_firstTouch
  have h1 : Still idle s₀ s1 := .ite ht.after_touchHeld ht
  split
  · exact .pair hs.after_pageStops
  split
  · exact .pair ht
  split
  · exact .pair h1
  · exact .pair h1.after_bStore

theorem Still.after_rewritePage (h : Still idle s₀ s) {pg : Nat} {bs : List Byte} : Still idle s₀ (rewritePage pg bs s) :=
  h.after_bStore.after_clearPoison

/-! ### Sending (16 R428 to R432) -/

theorem Still.after_laneInj (h : Still idle s₀ s) {p : BPort} : Still idle s₀ (laneInj p s) := .ite h.after_modPort.after_injDone h

theorem Still.after_emitFlit (h : Still idle s₀ s) {p : BPort} {ty seq vc : Nat} {pl : List Byte} : Still idle s₀ (emitFlit p ty seq vc pl s) :=
  h.of_edge (edge_emitFlit ..)

theorem Still.after_freeBuf (h : Still idle s₀ s) {buf : Option (Nat × Nat)} : Still idle s₀ (freeBuf buf s) := h.of_edge (edge_freeBuf ..)

theorem Still.after_pump (h : Still idle s₀ s) : Still idle s₀ (pump s) := h.of_edge (edge_pump s)

theorem Still.after_queueBy (h : Still idle s₀ s) {free : Bool} {cls : Nat} {t : Txn} : Still idle s₀ (queueBy free cls t s).2 :=
  h.of_edge (edge_queueBy ..)

theorem Still.after_queueTxns (h : Still idle s₀ s) {cls : Nat} {ts : List Txn} : Still idle s₀ (queueTxns cls ts s).2 :=
  h.of_edge (edge_queueTxns ..)

theorem Still.after_withdraw (h : Still idle s₀ s) {chip : Nat} {tag : BitVec 24} : Still idle s₀ (withdraw chip tag s) := by
  unfold withdraw
  split
  · exact h.after_modPort
  · exact h

/-! ### Making transactions -/

theorem Still.after_sendRefuse (h : Still idle s₀ s) {t : Txn} {reason : Nat} : Still idle s₀ (sendRefuse t reason s) :=
  h.of_edge (edge_sendRefuse ..)

/-! ### The bandwidth regulators (13 R367, R368): shares, refills and debits. -/

theorem Still.after_setShares (h : Still idle s₀ s) {p : Nat} {v : Shares} : Still idle s₀ (setShares p v s) :=
  .foldl h.after_modPart fun _ _ hs => .ite hs.after_setTokens hs.after_setTokens

theorem Still.after_chargeRead (h : Still idle s₀ s) {p a n : Nat} : Still idle s₀ (chargeRead p a n s) :=
  .foldl h fun _ _ hs => hs.after_debit.after_debit

theorem Still.after_chargeWrite (h : Still idle s₀ s) {p a n : Nat} : Still idle s₀ (chargeWrite p a n s) := .foldl h fun _ _ hs => hs.after_debit

theorem Still.after_partRead (h : Still idle s₀ s) {p a n : Nat} : Still idle s₀ (partRead p a n s).2.2 := h.after_belRead.after_chargeRead

theorem Still.after_partWrite (h : Still idle s₀ s) {p a : Nat} {bs : List Byte} : Still idle s₀ (partWrite p a bs s).2 :=
  h.after_belWrite.after_chargeWrite

/-! ### Belfry transfers over the torus -/

theorem Still.after_localPut (h : Still idle s₀ s) {p : Nat} {w : Nat × Nat × List Byte} : Still idle s₀ (localPut p w s).2 := by
  unfold localPut
  split
  · exact h
  · split
    · exact h.after_partWrite
    · exact h.after_chargeWrite.after_addWaiting

theorem Still.after_gSend (h : Still idle s₀ s) {owner : XOwner} {part chip : Nat} {ws : List (Nat × Nat × List Byte)} :
    Still idle s₀ (gSend owner part chip ws s).2 := by
  unfold gSend
  split
  · exact .pair (.foldl_in Prod.snd h fun _ _ hs => .pair hs.after_localPut)
  · dsimp only
    split
    · exact .pair h.after_injDone
    split
    · exact .pair h.after_takeUid
    · refine .pair (.after_pump (.elsewhere ?_))
      exact h.after_takeUid.after_queueTxns

theorem Still.after_gRead (h : Still idle s₀ s) {owner : XOwner} {background : Bool} {part gaddr dst n : Nat} :
    Still idle s₀ (gRead owner background part gaddr dst n s).2 := by
  unfold gRead
  dsimp only
  split
  · exact .pair h
  split
  · exact .pair h.after_injDone
  split
  · exact .pair h.after_takeUid
  · refine .pair (.after_pump (.elsewhere ?_))
    exact .foldl_in Prod.snd (.pair h.after_takeUid) fun _ _ hs => .pair hs.after_queueBy

/-! ### Signals to a job, wherever it is (10 R267, R271) -/

theorem Still.after_imageSem (h : Still idle s₀ s) {i : Image} {sem : Nat} {f : Nat → Nat} : Still idle s₀ (imageSem i sem f s) :=
  .ite h.after_partRead h.after_partRead.after_partWrite

theorem Still.after_imageSemAdd (h : Still idle s₀ s) {i : Image} {sem v : Nat} : Still idle s₀ (imageSemAdd i sem v s) := h.after_imageSem

theorem Still.after_semSignal (h : Still idle s₀ s) {core part jobid sem : Nat} : Still idle s₀ (semSignal core part jobid sem s) := by
  unfold semSignal
  dsimp only
  split
  · split
    · split
      · split
        · exact h.after_imageSemAdd
        · exact h.after_raise
      · exact h.after_semAdd
    · split
      · exact h.after_imageSemAdd
      · exact h.after_raise
  · split
    · exact h.after_imageSemAdd
    · exact h.after_raise

/-! ### Layers -/

theorem Still.after_setLayer (h : Still idle s₀ s) {l : Layer} : Still idle s₀ (setLayer l s) := h.elsewhere

theorem Still.after_modLayer (h : Still idle s₀ s) {i : Nat} {f : Layer → Layer} : Still idle s₀ (modLayer i f s) := h.elsewhere

theorem Still.after_routeReqEv (h : Still idle s₀ s) {i : Nat} {part : Option Nat} {arg : Nat} : Still idle s₀ (routeReqEv i part arg s) :=
  h.after_raise

/-! ### Admission (12 R323, R324) -/

theorem Still.after_layerRead (h : Still idle s₀ s) {l : Layer} {a n : Nat} : Still idle s₀ (layerRead l a n s).2.2 := by
  unfold layerRead
  split
  · exact h.after_partRead
  · exact h

theorem Still.after_layerWrite (h : Still idle s₀ s) {l : Layer} {a : Nat} {bs : List Byte} : Still idle s₀ (layerWrite l a bs s).2 := by
  unfold layerWrite
  split
  · exact h.after_partWrite
  · exact h

theorem Still.after_layerWord (h : Still idle s₀ s) {l : Layer} {a k : Nat} : Still idle s₀ (layerWord l a k s).2 := h.after_layerRead

theorem Still.after_writeOutcomes (h : Still idle s₀ s) {l : Layer} {p : Nat → Bool} : Still idle s₀ (writeOutcomes l p s) :=
  .foldl h fun _ _ hs => .ite hs.after_layerWrite hs

theorem Still.after_abortSlots (h : Still idle s₀ s) {l : Layer} {p : Slot → Bool} : Still idle s₀ (abortSlots l p s) :=
  .ite h h.after_setLayer.after_writeOutcomes

/-! ### Dispatch (12 R329) -/

theorem Still.after_abortOne (h : Still idle s₀ s) {layer : Nat} {k : Option (Nat × Nat)} : Still idle s₀ (abortOne layer k s) := by
  unfold abortOne
  split
  · exact h.after_abortSlots
  · exact h

theorem Still.after_expertWrites (h : Still idle s₀ s) {l : Layer} {e : Nat} {x : Expert} : Still idle s₀ (expertWrites l e x s).2 :=
  .foldl_in Prod.snd h fun _ _ hs => hs.after_layerRead

theorem Still.after_sendDone (h : Still idle s₀ s) {layer chip : Nat} : Still idle s₀ (sendDone layer chip s) := by
  unfold sendDone
  dsimp only
  split
  · exact h
  · split
    · exact h
    · split
      · exact h.after_gSend
      · exact h.after_gSend.after_setLayer

theorem Still.after_homeSettled (h : Still idle s₀ s) {layer chip : Nat} : Still idle s₀ (homeSettled layer chip s) := by
  unfold homeSettled
  split
  · exact .ite h.after_sendDone h
  · exact h

theorem Still.after_copyHome (h : Still idle s₀ s) {layer part chip : Nat} {c : Copy} : Still idle s₀ (copyHome layer part chip s c) :=
  .ite h.after_abortOne (.ite h.after_gSend.after_abortOne h.after_gSend)

theorem Still.after_dispatchHome (h : Still idle s₀ s) {layer h' : Nat} : Still idle s₀ (dispatchHome layer s h') := by
  unfold dispatchHome
  split
  · exact h
  · refine .after_homeSettled ?_
    refine .foldl ?_ fun _ _ hs => hs.after_copyHome
    refine .foldl_in Prod.snd h fun _ _ hs => ?_
    split
    · exact hs.after_expertWrites
    · exact hs

theorem Still.after_beginHomes {layer f : Nat} (h : Still idle s₀ s) : Still idle s₀ (beginHomes layer f s) := by
  induction f generalizing s with
  | zero => exact h
  | succ f ih =>
    unfold beginHomes
    split
    · exact h
    split
    · exact h
    · exact .ite h (.ite h (ih h.after_setLayer.after_dispatchHome))

theorem Still.after_finishDispatch (h : Still idle s₀ s) {layer : Nat} : Still idle s₀ (finishDispatch layer s) := by
  unfold finishDispatch
  dsimp only
  split
  · exact h.after_beginHomes
  · split
    · exact h.after_beginHomes
    · exact .foldl (.elsewhere h.after_beginHomes.after_setLayer) fun _ _ hs => hs.after_semSignal

/-! ### Combine (12 R333, R334) -/

theorem Still.after_noteCombine (h : Still idle s₀ s) {a n : Nat} : Still idle s₀ (noteCombine a n s) := h.elsewhere

theorem Still.after_abortAt (h : Still idle s₀ s) {part g : Nat} : Still idle s₀ (abortAt part g s) := by
  unfold abortAt
  refine .foldl h fun _ _ hs => ?_
  split
  · split
    · exact hs.after_abortSlots
    · exact hs
  · exact hs

theorem Still.after_outServed (h : Still idle s₀ s) {layer exp src core sem : Nat} : Still idle s₀ (outServed layer exp src core sem s) := by
  unfold outServed
  split
  · exact h
  · exact .ite h.elsewhere.after_semSignal h.elsewhere

theorem Still.after_outGot (h : Still idle s₀ s) {layer exp src core sem : Nat} : Still idle s₀ (outGot layer exp src core sem s) := by
  unfold outGot
  split
  · exact h
  · exact h.elsewhere

theorem Still.after_combineDoneAdd (h : Still idle s₀ s) {layer exp src core sem : Nat} :
    Still idle s₀ (combineDoneAdd layer exp src core sem s) := by
  unfold combineDoneAdd
  split
  · exact h
  · split
    · exact h
    · split
      · exact h
      · exact .ite h.after_layerWord.after_gSend h.after_layerWord.after_gSend.after_outServed

theorem Still.after_combineSettled (h : Still idle s₀ s) {layer exp src core sem : Nat} :
    Still idle s₀ (combineSettled layer exp src core sem s) := by
  unfold combineSettled
  split
  · exact h
  · exact .ite h (.ite h.after_combineDoneAdd h.after_outServed)

theorem Still.after_copyOut (h : Still idle s₀ s) {layer exp src core sem part chip row slot : Nat} {bs : List Byte} :
    Still idle s₀ (copyOut layer exp src core sem part chip row slot bs s) := by
  unfold copyOut
  dsimp only
  split
  · refine .after_outGot ?_
    split
    · exact h.after_gSend.after_noteCombine
    · exact h.after_gSend
  · exact h.after_gSend
  · exact .ite h.after_gSend.after_abortAt h.after_gSend

theorem Still.after_serveSource (h : Still idle s₀ s) {layer exp core sem i : Nat} : Still idle s₀ (serveSource layer exp core sem s i) := by
  unfold serveSource
  dsimp only
  split
  · exact h
  · split
    · exact h
    · split
      · exact h
      · refine .after_combineSettled (.foldl h.after_layerWord.after_layerWord fun _ _ hs => ?_)
        split
        · exact .ite hs.after_layerWord.after_layerRead.after_abortAt hs.after_layerWord.after_layerRead
        · exact hs.after_layerWord.after_layerRead.after_copyOut

theorem Still.after_beginSources {layer exp core sem f : Nat} (h : Still idle s₀ s) : Still idle s₀ (beginSources layer exp core sem f s) := by
  induction f generalizing s with
  | zero => exact h
  | succ f ih =>
    unfold beginSources
    split
    · split
      · exact h
      · exact .ite h (ih (.after_serveSource h.elsewhere))
    · exact h

theorem Still.after_combineNext (h : Still idle s₀ s) {layer exp src core sem : Nat} : Still idle s₀ (combineNext layer exp src core sem s) :=
  h.after_combineSettled.after_beginSources

theorem Still.after_zeroSlots (h : Still idle s₀ s) {l : Layer} {p : Slot → Bool} : Still idle s₀ (zeroSlots l p s) :=
  .foldl h fun _ _ hs => .ite hs.after_layerWrite hs

/-! ### The queue of a core -/

theorem Still.after_releaseDesc (h : Still idle s₀ s) {n seq sub : Nat} : Still idle s₀ (releaseDesc n seq sub s) :=
  h.after_modCore fun _ _ hc => hc

theorem Still.after_leaveAll (h : Still idle s₀ s) {who : Nat × Nat × Nat} : Still idle s₀ (leaveAll who s) := .ite h.elsewhere h

theorem Still.after_dropDesc (h : Still idle s₀ s) {n seq sub : Nat} : Still idle s₀ (dropDesc n seq sub s) := by
  refine .elsewhere (.after_leaveAll (.after_modCore h.after_releaseDesc ?_))
  exact fun _ _ hc => hc

theorem Still.after_endWaits (h : Still idle s₀ s) {x : Xfer} : Still idle s₀ (endWaits x s) := by
  unfold endWaits
  split
  · exact h.after_withdraw
  · exact h

theorem Still.after_failDesc (h : Still idle s₀ s) {n : Nat} {d : Desc} {code : Nat} : Still idle s₀ (failDesc n d code s) :=
  .after_takeFault (.elsewhere (.foldl h.after_dropDesc fun _ _ hs => hs.after_endWaits))

/-! ### Edge descriptors -/

theorem Still.after_sealChunk (h : Still idle s₀ s) {p : Nat} {pt : List Byte} {r : List Byte × State} (hr : sealChunk p pt s = some r) :
    Still idle s₀ r.2 := by
  unfold sealChunk at hr
  split at hr
  · cases hr
  · obtain rfl := Option.some.inj hr
    exact .pair h.after_modPart

theorem Still.after_sealAll {p f : Nat} {bs : List Byte} (h : Still idle s₀ s) {r : List Byte × State} (hr : sealAll p f bs s = some r) :
    Still idle s₀ r.2 := by
  induction f generalizing bs s r with
  | zero =>
    cases hr
    exact .pair h
  | succ f ih =>
    unfold sealAll at hr
    split at hr
    · cases hr
      exact .pair h
    split at hr
    · cases hr
    next c t hc =>
      obtain ⟨r', hr', rfl⟩ := Option.map_eq_some_iff.mp hr
      have ht : Still idle s₀ t := h.after_sealChunk hc
      exact .pair (ih ht hr')

theorem Still.after_emitQp (h : Still idle s₀ s) {q frames : Nat} {m : HostMsg} : Still idle s₀ (emitQp q frames m s) := h.after_sendFrames

theorem Still.after_paceQp (h : Still idle s₀ s) {q n : Nat} : Still idle s₀ (paceQp q n s) := h.after_modQp

theorem Still.after_outOne (h : Still idle s₀ s) {q : Nat} : Still idle s₀ (outOne q s) := h.after_modQp

theorem Still.after_sendHostWrite (h : Still idle s₀ s) {q va : Nat} {rkey : W32} {bs : List Byte} :
    Still idle s₀ (sendHostWrite q va rkey bs s) :=
  h.after_emitQp.after_outOne.after_paceQp

/-! ### The image (03 Table 3-16) -/

theorem Still.after_debitImage (h : Still idle s₀ s) {p n save : Nat} {out : Bool} : Still idle s₀ (debitImage p n save out s) :=
  .foldl h fun _ _ hs => .ite hs.after_debit hs.after_debit.after_debit

/-! ### Preemption -/

theorem Still.after_imageDescFail (h : Still idle s₀ s) {part jobid ch : Nat} {fpc : W64} {code : Nat} :
    Still idle s₀ (imageDescFail part jobid ch fpc code s) := by
  have hwrite : ∀ a bs s, Still idle s₀ s → Still idle s₀ (belWrite a bs s).2 := fun _ _ _ hs => hs.after_belWrite
  unfold imageDescFail
  -- opaque, so that no check of a type runs it
  obtain ⟨wr, hwr⟩ : ∃ f, belWrite = f := ⟨_, rfl⟩
  rw [hwr] at hwrite ⊢
  split
  · exact h
  · exact hwrite _ _ _ (hwrite _ _ _ h)

/-! ### Results and power (13 R363, 19 R507, R509) -/

theorem Still.after_settleJob (h : Still idle s₀ s) {n : Nat} : Still idle s₀ (settleJob n s) := by
  unfold settleJob
  dsimp only
  split
  · exact h
  · split
    · exact h
    · exact h.elsewhere

theorem Still.after_quadOff (h : Still idle s₀ s) {q : Nat} : Still idle s₀ (quadOff q s) := by
  unfold quadOff
  exact .after_modQuad (.foldl h fun _ _ hs => hs.after_settleJob.after_setCore fun _ => rfl)

/-! ### Resumption (03 R94) -/

theorem Still.after_readImage (h : Still idle s₀ s) {save : Nat} : Still idle s₀ (readImage save s).2 := by
  unfold readImage
  refine .foldl_in Prod.snd h fun _ _ hs => ?_
  split
  · exact hs
  · exact hs.after_belRead

theorem Still.after_resumeJob (h : Still false s₀ s) {n : Nat} {j : CoreJob} {i : Image} {arb : BitVec 1} :
    Still false s₀ (resumeJob n j i arb s) := by
  unfold resumeJob
  extract_lets +onlyGivenNames r s1 m c0 c _ s2
  have h1 : Still false s₀ s1 := h.after_debitImage.after_readImage
  have h2 : Still false s₀ s2 := h1.after_setCore.after_spadWrote
  clear_value s2
  split
  · exact h1.after_setCore.after_takeFault
  split
  · extract_lets +onlyGivenNames _ f s3
    have h3 : Still false s₀ s3 := h2.after_setCore
    clear_value s3
    exact h3.elsewhere
  · exact h2

/-! ### Completion -/

theorem Still.after_modFold (h : Still idle s₀ s) {p : Nat} {f : Fold → Fold} : Still idle s₀ (modFold p f s) := h.after_modPart

theorem Still.after_setPull (h : Still idle s₀ s) {layer idx st : Nat} : Still idle s₀ (setPull layer idx st s) := h.after_modLayer

theorem Still.after_doneAcked (h : Still idle s₀ s) {layer chip : Nat} : Still idle s₀ (doneAcked layer chip s) :=
  h.after_modLayer.after_finishDispatch

/-! ### Failure -/

theorem Still.after_clearWp (h : Still idle s₀ s) {pages : List Nat} : Still idle s₀ (clearWp pages s) := h.elsewhere

theorem Still.after_disown (h : Still idle s₀ s) {p : XOwner → Bool} : Still idle s₀ (disown p s) := h.elsewhere

theorem Still.after_foldBroken (h : Still idle s₀ s) {p : Nat} : Still idle s₀ (foldBroken p s) := by
  unfold foldBroken
  refine .after_raise (.after_modFold (.after_disown ?_))
  split
  · exact h.after_clearWp
  · exact h

theorem Still.after_pullFailed (h : Still idle s₀ s) {layer idx : Nat} : Still idle s₀ (pullFailed layer idx s) := by
  unfold pullFailed
  dsimp only
  split
  · split
    · exact h.after_setPull.after_abortSlots
    · exact h.after_setPull
  · exact h.after_setPull

theorem Still.after_tier3Failed (h : Still idle s₀ s) {p : Nat} : Still idle s₀ (tier3Failed p s) := by
  unfold tier3Failed
  exact h.after_modFold

theorem Still.after_xferFail (h : Still idle s₀ s) {x : Xfer} {code : Nat} : Still idle s₀ (xferFail x code s) := by
  unfold xferFail
  split
  · split
    · exact h.after_failDesc
    · exact h
  · exact h.after_imageDescFail
  · exact h.after_abortOne.after_homeSettled.after_finishDispatch
  · exact h.after_doneAcked
  · exact h.after_combineNext
  · exact h.after_outServed.after_combineNext
  · exact .ite h.after_pullFailed h
  · exact h.after_foldBroken
  · exact h.after_foldBroken
  · exact h.after_tier3Failed
  · exact h.after_foldBroken
  · exact h.after_tier3Failed
  · exact h
  · exact h
  · exact h
  · exact h
  · exact h

theorem Still.after_dropXfer (h : Still idle s₀ s) {x : Xfer} : Still idle s₀ (dropXfer x s) := h.elsewhere

theorem Still.after_settleQuads (h : Still idle s₀ s) : Still idle s₀ (settleQuads s) := .foldl h fun _ _ hs => .ite hs.after_quadOff hs

theorem Still.after_endFail (h : Still idle s₀ s) {x : Xfer} {code : Nat} : Still idle s₀ (endFail x code s) :=
  h.after_dropXfer.after_endWaits.after_xferFail.after_settleQuads

/-! ### A port that goes down (16 R452) -/

theorem Still.after_refuseFlit (h : Still idle s₀ s) {reason : Nat} {f : TxFlit} : Still idle s₀ (refuseFlit reason f s) := by
  unfold refuseFlit
  dsimp only
  split
  · exact h.after_freeBuf.after_sendRefuse
  · split
    · exact h.after_freeBuf
    · split
      · exact h.after_freeBuf.after_endFail
      · exact h.after_freeBuf

theorem Still.after_dropPort (h : Still idle s₀ s) {reason : Nat} {p : BPort} {st : PortSt} : Still idle s₀ (dropPort reason p st s) := by
  unfold dropPort
  exact .after_pump (.foldl h.after_setPort fun _ _ hs => hs.after_refuseFlit)

/-! ### Domains off (19 R506, R508, R514) -/

theorem Still.after_linksOff (h : Still idle s₀ s) : Still idle s₀ (linksOff s) := by
  unfold linksOff
  extract_lets +onlyGivenNames s1
  have h1 : Still idle s₀ s1 := .foldl h fun _ _ hs => hs.after_dropPort.after_modPort
  clear_value s1
  exact h1.elsewhere

theorem Still.after_flashOff (h : Still idle s₀ s) : Still idle s₀ (flashOff s) := .elsewhere (.foldl h fun _ _ hs => hs.after_modFold)

theorem Still.after_tripOff (h : Still idle s₀ s) : Still idle s₀ (tripOff s) :=
  .ite (.ite (.after_flashOff (.ite h.after_linksOff h)) (.ite h.after_linksOff h)) h

/-! ### Ends of sessions and queue pairs (17 R463, R464, R474) -/

theorem Still.after_endSession (h : Still idle s₀ s) {q : Nat} : Still idle s₀ (endSession q s) := by
  unfold endSession
  split
  · split
    · refine ⟨h.clk, h.tick, ?_, h.jobless⟩
      by_cases hn : s.tick.next = .fetching
      · exact .inr (if_pos hn)
      · exact h.next.imp (if_neg hn).trans (if_neg hn).trans
    · exact h
  · exact h

theorem Still.after_closeQp (h : Still idle s₀ s) {q : Nat} : Still idle s₀ (closeQp q s) := .ite h.after_setQp.after_endSession h

/-! ### The owner session (17 R460, R464, 18 R492 to R494) -/

theorem Still.after_ownerWrite (h : Still idle s₀ s) {w : XOwner} {va : Nat} {rkey : W32} {bs : List Byte} :
    Still idle s₀ (ownerWrite w va rkey bs s) := by
  unfold ownerWrite
  split
  · exact h
  · exact .elsewhere h.after_takeUid.after_sendHostWrite

theorem Still.after_queueReport (h : Still idle s₀ s) {slot : Nat} {body : List Byte} : Still idle s₀ (queueReport slot body s) := h.elsewhere

/-! ### Lists (13 R369, R370, R374) -/

theorem Still.after_putConf (h : Still idle s₀ s) {c : Conf} : Still idle s₀ (putConf c s) := .ite h h.elsewhere

theorem Still.after_applyConfigs {rs : List (List Byte)} {i : Nat} (h : Still idle s₀ s) : Still idle s₀ (applyConfigs i rs s) := by
  induction rs generalizing s i with
  | nil => exact h
  | cons r t ih => exact ih (.ite h.after_raise h.after_putConf)

theorem Still.after_applyWrites {rs : List (List Byte)} {i : Nat} (h : Still idle s₀ s) : Still idle s₀ (applyWrites i rs s).2 := by
  induction rs generalizing s i with
  | nil => exact .pair h
  | cons r t ih =>
    unfold applyWrites
    dsimp only
    split
    · exact .pair (ih h.after_putConf)
    split
    · exact ih h.after_raise
    · exact .pair (ih h.after_putConf)

/-! ### Ports -/

theorem Still.after_portDisable (h : Still idle s₀ s) {p : BPort} : Still idle s₀ (portDisable p s) := .ite h.after_setPort h.after_setPort

theorem Still.after_setPortCtrl (h : Still idle s₀ s) {p : BPort} {w : Nat} : Still idle s₀ (setPortCtrl p w s) :=
  .ite h.after_setPort.after_portDisable (.ite h.after_setPort.after_setPort h.after_setPort)

theorem Still.after_portKick (h : Still idle s₀ s) {p : BPort} : Still idle s₀ (portKick p s) := .ite h.after_setPort (.ite h.after_setPort h)

theorem Still.after_setHostCtrl (h : Still idle s₀ s) {p : HPort} {w : Nat} : Still idle s₀ (setHostCtrl p w s) := by
  unfold setHostCtrl
  dsimp only
  split
  · exact h.after_setHport
  · exact .foldl h.after_setHport fun _ _ hs => .ite hs.after_closeQp hs

/-! ### Power (19 R507 to R509) -/

theorem Still.after_quadRamp (h : Still idle s₀ s) {q : Nat} : Still idle s₀ (quadRamp q s) := h.after_modQuad

theorem Still.after_quadStop (h : Still idle s₀ s) {q : Nat} : Still idle s₀ (quadStop q s) :=
  .ite h (.ite h.after_quadOff h.after_setQuad.after_raise)

theorem Still.after_setQuadEn (h : Still idle s₀ s) {w : Nat} : Still idle s₀ (setQuadEn w s) :=
  .foldl h.elsewhere fun _ _ hs => .ite (.ite (.after_quadRamp (.ite hs.after_modQuad hs)) (.ite hs.after_modQuad hs)) hs.after_quadStop

theorem Still.after_setDomEn (h : Still idle s₀ s) {w : Nat} {maint : Bool} : Still idle s₀ (setDomEn w maint s) := by
  unfold setDomEn
  dsimp only
  split
  · exact .elsewhere (.ite h.elsewhere (.ite h.after_raise h.elsewhere.after_linksOff))
  · split
    · exact .after_raise (.ite h.elsewhere (.ite h.after_raise h.elsewhere.after_linksOff))
    · exact .after_flashOff (.elsewhere (.ite h.elsewhere (.ite h.after_raise h.elsewhere.after_linksOff)))

theorem Still.after_quadCycle (h : Still idle s₀ s) {w : Nat} : Still idle s₀ (quadCycle w s) := .ite h h.after_setQuad.after_quadStop

/-! ### Injection and loop-backs (20 R540 to R543) -/

theorem Still.after_armInj (h : Still idle s₀ s) : Still idle s₀ (armInj s) := .foldl h.after_attrInj fun _ _ hs => hs.after_laneInj

theorem Still.after_setInj (h : Still idle s₀ s) {w : Nat} {maint : Bool} : Still idle s₀ (setInj w maint s) := h.elsewhere.after_armInj

theorem Still.after_setLoop (h : Still idle s₀ s) {w : Nat} {maint : Bool} : Still idle s₀ (setLoop w maint s) := by
  unfold setLoop
  dsimp only
  split
  · exact h.elsewhere
  · exact .ite (.ite (.elsewhere h.elsewhere) h.elsewhere) (.ite (.after_modSlice (.elsewhere h.elsewhere)) h.elsewhere)

/-! ### Registers -/

theorem Still.after_applyReg (h : Still idle s₀ s) {a v : Nat} {maint : Bool} : Still idle s₀ (applyReg a v maint s) := by
  unfold applyReg
  dsimp only
  split
  · exact h.after_modPart
  · split
    · split
      · exact h.elsewhere
      · exact .foldl h.elsewhere fun _ _ hs => hs.after_portDisable
    · split
      · exact h.after_setPortCtrl
      · exact h
  · split
    · exact h.elsewhere
    · split
      · exact h.elsewhere
      · split
        · split
          · exact h.after_setHostCtrl
          · exact h.after_modHport
          · exact h.after_modHport
          · exact h.after_modHport
        · exact h
  · exact .ite h.after_setQuadEn h.after_setDomEn
  · exact h.elsewhere
  · exact .ite h.after_setInj (.ite h.elsewhere h.after_setLoop)
  · exact h.after_modSlice

theorem Still.after_applyRegs (h : Still idle s₀ s) {mode : Nat} : Still idle s₀ (applyRegs mode s) :=
  .foldl h fun _ _ hs => .ite hs.after_applyReg hs

theorem Still.after_clearCtr (h : Still idle s₀ s) {a v : Nat} : Still idle s₀ (clearCtr a v s) := by
  unfold clearCtr
  dsimp only
  split
  · exact h.after_note rfl rfl
  · exact h.after_note rfl rfl
  · exact h.after_note rfl rfl
  · exact h.elsewhere
  · exact h.elsewhere
  · exact h.elsewhere
  · exact h.elsewhere
  · exact h.elsewhere
  · exact h.elsewhere
  · split
    · split
      · split
        · exact h.after_modPort
        · exact h.after_modPort
        · exact h.after_modPort
        · exact h.after_modPort
        · exact h
      · exact h
    · split
      · split
        · split
          · exact h.after_modHport
          · exact h.after_modHport
          · exact h.after_modHport
          · exact h
        · exact h
      · exact .ite h.after_modSlice h

theorem Still.after_fwWrite (h : Still idle s₀ s) {v : Nat} {maint : Bool} : Still idle s₀ (fwWrite v maint s) := .ite h.after_raise h.elsewhere

theorem Still.after_clearOnce (h : Still idle s₀ s) {e : Nat × Nat} : Still idle s₀ (clearOnce e s) := .ite (.ite h.elsewhere h) h.after_clearCtr

theorem Still.after_applyOnce (h : Still idle s₀ s) {maint : Bool} {e : Nat × Nat} : Still idle s₀ (applyOnce maint e s) := by
  unfold applyOnce
  dsimp only
  split
  · exact h.after_closeQp
  · split
    · exact h.after_fwWrite
    · split
      · exact h.after_quadCycle
      · split
        · split
          · exact .ite h.after_portKick h
          · exact h
        · exact h

theorem Still.after_openLists (h : Still idle s₀ s) {b : List Byte} : Still idle s₀ (openLists b s).2 := by
  unfold openLists
  split
  · exact h.after_applyConfigs.after_applyWrites
  · exact h.after_applyWrites.after_applyConfigs

theorem Still.after_openClears (h : Still idle s₀ s) {es : List (Nat × Nat)} : Still idle s₀ (openClears es s) :=
  .foldl h fun _ _ hs => hs.after_clearOnce

theorem Still.after_openConfig (h : Still idle s₀ s) {b : List Byte} : Still idle s₀ (openConfig b s).2 := by
  unfold openConfig
  extract_lets +onlyGivenNames w s1 want maintOk mode s2 _ s3 _ s4 s5 es
  have h1 : Still idle s₀ s1 := h.after_openLists
  have h2 : Still idle s₀ s2 := .ite h1.after_raise h1
  have h3 : Still idle s₀ s3 := h2.after_note rfl rfl
  have h4 : Still idle s₀ s4 := .ite h3 h3.elsewhere
  have h5 : Still idle s₀ s5 := h4.after_applyRegs
  exact .pair (.foldl h5 fun _ _ hs => hs.after_applyOnce)

/-! ### Partition records (13 Table 13-11, R365) -/

theorem Still.after_unassign (h : Still idle s₀ s) {gs : List Nat} : Still idle s₀ (unassign gs s) := h.elsewhere

theorem Still.after_dropFold (h : Still idle s₀ s) {p : Nat} : Still idle s₀ (dropFold p s) := by
  unfold dropFold
  exact .after_modFold h.elsewhere

theorem Still.after_assignPart (h : Still idle s₀ s) {r : List Byte} : Still idle s₀ (assignPart r s) := by
  unfold assignPart
  exact .after_modPart (.ite h.after_unassign.after_setShares.after_dropFold h.after_unassign.after_setShares)

theorem Still.after_tearPart (h : Still idle s₀ s) {p : Nat} : Still idle s₀ (tearPart p s) :=
  .elsewhere (.foldl (.foldl h.after_dropFold.after_modFold.after_modPart fun _ _ hs => .ite hs.after_setWin hs) fun _ _ hs => .ite
    hs.after_closeQp hs)

theorem Still.after_applyPart (h : Still idle s₀ s) {r : List Byte} : Still idle s₀ (applyPart s r) :=
  .ite h.after_raise (.ite h.after_tearPart h.after_assignPart)

theorem Still.after_freeParts (h : Still idle s₀ s) : Still idle s₀ (freeParts s) :=
  .foldl h fun _ _ hs => .ite hs.after_setShares.after_setPart hs

/-! ### Window records (16 Table 16-5, R443) -/

theorem Still.after_applyWin (h : Still idle s₀ s) {r : List Byte} : Still idle s₀ (applyWin s r) :=
  .ite h.after_raise (.ite h.after_setWin.after_modPart (.ite h h.after_setWin.after_modPart))

/-! ### Ring records (13 R357, 11 R302) -/

theorem Still.after_applyRing (h : Still idle s₀ s) {r : List Byte} : Still idle s₀ (applyRing s r) := .ite h.elsewhere h.elsewhere.after_raise

/-! ### Tenant keys -/

theorem Still.after_modKeys (h : Still idle s₀ s) {p : Nat} {f : Keys → Keys} : Still idle s₀ (modKeys p f s) := h.after_modPart

theorem Still.after_keyRefused (h : Still idle s₀ s) {p kind : Nat} : Still idle s₀ (keyRefused p kind s) := h.after_raise

/-! ### Bundles (18 R498, R499) -/

theorem Still.after_installBundle (h : Still idle s₀ s) {p : Nat} {b : List Byte} : Still idle s₀ (installBundle p b s) := by
  unfold installBundle
  exact h.after_modKeys.after_modPart

/-! ### KEYS records (18 R495 to R500) -/

theorem Still.after_attest (h : Still idle s₀ s) {p slot : Nat} {r : List Byte} : Still idle s₀ (attest p slot r s) :=
  h.after_takeFree.after_modKeys.after_queueReport

theorem Still.after_install (h : Still idle s₀ s) {p : Nat} {r : List Byte} : Still idle s₀ (install p r s) := by
  unfold install
  dsimp only
  split
  · exact h.after_keyRefused
  · split
    · exact h.after_modKeys.after_keyRefused
    · exact .ite h.after_modKeys.after_installBundle h.after_modKeys.after_keyRefused

theorem Still.after_retire (h : Still idle s₀ s) {p : Nat} {r : List Byte} : Still idle s₀ (retire p r s) := by
  unfold retire
  dsimp only
  split
  · exact .ite h.after_keyRefused h.after_modKeys.after_modPart
  · exact h.after_keyRefused

theorem Still.after_applyKeys {rs : List (List Byte)} {n : Nat} (h : Still idle s₀ s) : Still idle s₀ (applyKeys n rs s) := by
  induction rs generalizing s n with
  | nil => exact h
  | cons r t ih =>
    unfold applyKeys
    extract_lets +onlyGivenNames g kind p n'
    clear_value kind
    apply ih
    split
    · exact h.after_keyRefused
    split
    · exact .ite h.after_keyRefused h.after_attest
    · exact h.after_install
    · exact h.after_retire
    · exact h.after_keyRefused

/-! ### Program digests (15 R417, 18 R501) -/

theorem Still.after_progOf (h : Still idle s₀ s) {image len : Nat} {bs : List Byte} : Still idle s₀ (progOf image len bs s).2 := by
  unfold progOf
  split
  · exact h
  · exact h.elsewhere

/-! ### Pools (11 Table 11-3, R281, R283 to R285) -/

theorem Still.after_applyPool (h : Still idle s₀ s) {r : List Byte} : Still idle s₀ (applyPool s r) :=
  .ite (.after_raise (.ite h.elsewhere h.elsewhere.after_raise)) (.ite h.elsewhere h.elsewhere.after_raise)

/-! ### Sequences (11 R286 to R288, 13 R358, R361) -/

theorem Still.after_modSeq (h : Still idle s₀ s) {id : Nat} {f : Machine.Seq → Machine.Seq} : Still idle s₀ (modSeq id f s) := h.elsewhere

theorem Still.after_applyLeave (h : Still idle s₀ s) {r : List Byte} : Still idle s₀ (applyLeave s r) := by
  unfold applyLeave
  dsimp only
  split
  · exact .ite h.elsewhere h.elsewhere.after_raise
  · exact h.elsewhere.after_raise

theorem Still.after_joinSeq (h : Still idle s₀ s) {r : SeqRec} {part : Nat} : Still idle s₀ (joinSeq r part s) := by
  unfold joinSeq
  dsimp only
  split
  · exact h.after_modSeq
  · exact h.elsewhere

theorem Still.after_applySeq (h : Still idle s₀ s) {off : Nat} {b : List Byte} : Still idle s₀ (applySeq off b s) := by
  unfold applySeq
  dsimp only
  split
  · exact h.elsewhere.after_raise
  · split
    · exact .ite h.after_joinSeq h
    · exact .ite (.after_raise (.elsewhere (.ite h.after_joinSeq h))) (.elsewhere (.ite h.after_joinSeq h))

theorem Still.after_applySeqs {bs : List (List Byte)} {off : Nat} (h : Still idle s₀ s) : Still idle s₀ (applySeqs off bs s) := by
  induction bs generalizing s off with
  | nil => exact h
  | cons b t ih => exact ih h.after_applySeq

/-! ### Books (11 R311) -/

theorem Still.after_abortTick (h : Still idle s₀ s) {p : Nat} : Still idle s₀ (abortTick p s) := h.after_modPart

theorem Still.after_checkKvBooks (h : Still idle s₀ s) : Still idle s₀ (checkKvBooks s) := by
  unfold checkKvBooks
  dsimp only
  refine .foldl h fun _ _ hs => ?_
  split
  · exact hs
  · split
    · exact hs.after_abortTick.after_raise
    · exact .ite hs hs.after_abortTick.after_raise

/-! ### Commits (11 R292, R293, 13 R360) -/

theorem Still.after_commitSeq (h : Still idle s₀ s) {r : SeqRec} : Still idle s₀ (commitSeq s r) := by
  unfold commitSeq
  split
  · exact h
  · exact h.elsewhere.after_modSeq

theorem Still.after_commitRead (h : Still idle s₀ s) {p : Pool} {list : List Nat} {lo hi : Nat} :
    Still idle s₀ (commitRead p list lo hi s).2 := by
  unfold commitRead
  refine .foldl_in Prod.snd h fun _ _ hs => ?_
  split
  · exact hs
  · exact hs.after_partRead

/-! ### Open (13 R342, step 6) -/

theorem Still.after_startPull (h : Still idle s₀ s) {l : Layer} {idx : Nat} {p : Pull} : Still idle s₀ (startPull l idx p s) :=
  .ite h.after_pullFailed (.ite h.after_setPull (.ite h.after_setPull.after_gRead h.after_setPull.after_gRead.after_pullFailed))

theorem Still.after_applyLayer (h : Still idle s₀ s) {l : Layer} : Still idle s₀ (applyLayer s l) := by
  unfold applyLayer
  split
  · exact .foldl h.elsewhere fun _ _ hs => hs.after_startPull
  · exact h.elsewhere.after_routeReqEv

theorem Still.after_applyLayers (h : Still idle s₀ s) {recs : List (List Byte)} : Still idle s₀ (applyLayers recs s) :=
  .foldl h fun _ _ hs => hs.after_applyLayer

/-! ### Deadline (12 R330, R336) -/

theorem Still.after_clearDone (h : Still idle s₀ s) : Still idle s₀ (clearDone s) := by
  unfold clearDone
  dsimp only
  refine .foldl h fun _ _ hs => ?_
  split
  · split
    · exact hs.after_layerWrite.after_layerWrite
    · exact hs.after_layerWrite
  · exact hs.after_layerWrite

theorem Still.after_endLayer (h : Still idle s₀ s) {l : Layer} : Still idle s₀ (endLayer s l) := by
  unfold endLayer
  split
  · exact h
  · exact h.after_setLayer.after_writeOutcomes.after_zeroSlots
  · exact .ite h.after_setLayer h.after_setLayer.after_abortSlots.after_zeroSlots

theorem Still.after_endRouting (h : Still idle s₀ s) : Still idle s₀ (endRouting s) :=
  .foldl (.elsewhere (.foldl h fun _ _ hs => hs.after_endLayer)) fun _ _ hs => hs.after_semSignal

/-! ### Books and counters (12 R325 to R327) -/

theorem Still.after_checkRouteBooks (h : Still idle s₀ s) : Still idle s₀ (checkRouteBooks s) :=
  .foldl h fun _ _ hs => .ite hs.after_setLayer.after_raise.after_abortTick hs

/-! ### Module flash (18 R503) -/

theorem Still.after_flashWrite (h : Still idle s₀ s) {p off : Nat} {bs : List Byte} : Still idle s₀ (flashWrite p off bs s) := h.elsewhere

/-! ### FOLD records (14 R388, Tables 14-2 and 14-3) -/

theorem Still.after_recallTiers (h : Still idle s₀ s) {p : Nat} {t : Tiers} : Still idle s₀ (recallTiers p t s) := by
  unfold recallTiers
  split
  · exact h
  · exact h.elsewhere.after_modFold

theorem Still.after_applyFold {x : FoldScan × State} {r : List Byte} (h : Still idle s₀ x.2) : Still idle s₀ (applyFold x r).2 := by
  unfold applyFold
  extract_lets +onlyGivenNames c k p next
  split
  · exact .pair h
  extract_lets +onlyGivenNames first
  generalize foldRefused _ _ _ = refused
  split
  · exact .pair h.after_raise
  split
  · exact .pair h.after_modFold.after_recallTiers
  split
  · exact .pair h.after_modFold
  extract_lets +onlyGivenNames a n w src
  split
  · exact .pair h.after_modFold
  · exact .pair h.after_modFold

theorem Still.after_applyFolds (h : Still idle s₀ s) {recs : List (List Byte)} : Still idle s₀ (applyFolds recs s) :=
  .foldl_in Prod.snd (.pair h) fun _ _ hs => hs.after_applyFold

/-! ### Segments (14 R390, Table 14-4) -/

theorem Still.after_pageNow (h : Still idle s₀ s) {p pg : Nat} : Still idle s₀ (pageNow p pg s).2 := by
  unfold pageNow
  dsimp only
  exact h.after_partRead

theorem Still.after_readPages (h : Still idle s₀ s) {p : Nat} {ps : List (FoldPage × Option (List Byte))} :
    Still idle s₀ (readPages p ps s).2 := by
  unfold readPages
  refine .foldl_in Prod.snd h fun _ _ hs => ?_
  split
  · exact .pair hs
  · exact .pair hs.after_pageNow

/-! ### Tiers 2 and 3 (14 R394) -/

theorem Still.after_t3Send (h : Still idle s₀ s) {owner : XOwner} {p : Nat} {t : Tiers} {o : Nat} {bs : List Byte} :
    Still idle s₀ (t3Send owner p t o bs s).2 := by
  unfold t3Send
  extract_lets +onlyGivenNames q sealed
  split
  · exact .pair h
  have hs : ∀ r, sealed = some r → Still idle s₀ r.2 := by
    unfold sealed
    split
    · rintro r ⟨⟩
      exact .pair h
    · exact fun r hr => h.after_sealAll hr
  clear_value sealed
  split
  · exact .pair h
  · extract_lets +onlyGivenNames ms s1 u
    have h1 : Still idle s₀ s1 := .foldl (hs _ rfl).after_debit fun _ _ ht => ht.after_sendHostWrite
    exact .pair h1.after_takeUid.elsewhere

theorem Still.after_startTier (h : Still idle s₀ s) {tier : Tier} {p : Nat} : Still idle s₀ (startTier tier p s) := by
  unfold startTier
  extract_lets +onlyGivenNames f
  split
  · exact h
  extract_lets +onlyGivenNames due all since rest
  split
  · exact h
  extract_lets +onlyGivenNames own r pad area pos pages last g bs bs'
  have hr : Still idle s₀ r.2 := h.after_readPages
  split
  · exact hr
  extract_lets +onlyGivenNames pl g' vs
  split
  · extract_lets +onlyGivenNames s1
    have h1 : Still idle s₀ s1 := by
      unfold s1
      split
      · exact hr.after_flashWrite
      · exact hr
    exact h1.after_flashWrite.after_modFold
  · extract_lets +onlyGivenNames s1 q
    have h1 : Still idle s₀ s1 := by
      unfold s1
      split
      · exact hr.after_t3Send
      · exact hr
    have hq : Still idle s₀ q.2 := h1.after_t3Send
    exact .ite hq.after_modFold hq

/-! ### The fold of a close (14 R385, R391, R392) -/

theorem Still.after_setWp (h : Still idle s₀ s) {pages : List Nat} : Still idle s₀ (setWp pages s) := h.elsewhere

theorem Still.after_declareFold (h : Still idle s₀ s) {p : Nat} : Still idle s₀ (declareFold p s) := by
  unfold declareFold
  extract_lets +onlyGivenNames pages due s1 f now
  have h1 : Still idle s₀ s1 := h.after_modFold
  split
  extract_lets +onlyGivenNames s2 all s3
  have h2 : Still idle s₀ s3 := .ite h1.after_disown.after_modFold.after_raise h1
  split
  · exact h2
  split
  · exact h2.after_modFold.after_clearWp.after_raise
  · exact h2.after_modFold.after_setWp

/-! ### Commit digests and the log (14 R395 to R398, Table 14-5) -/

theorem Still.after_lateDigests (h : Still idle s₀ s) {p : Nat} : Still idle s₀ (lateDigests p s) := .ite h h.after_modFold.after_raise

theorem Still.after_loggedTokens (h : Still idle s₀ s) {p : Nat} {t : Option Tiers} {r : SeqRec} : Still idle s₀ (loggedTokens p t r s).2 := by
  unfold loggedTokens
  split
  · exact h
  · split
    · exact h
    · exact h.after_partRead

theorem Still.after_logSeqs (h : Still idle s₀ s) {p : Nat} {t : Option Tiers} : Still idle s₀ (logSeqs p t s).2 := by
  unfold logSeqs
  refine .foldl_in Prod.snd h fun _ _ hs => ?_
  split
  · exact hs.after_loggedTokens
  · exact hs

theorem Still.after_logWrap (h : Still idle s₀ s) {p : Nat} {recs : List LogRec} : Still idle s₀ (logWrap p recs s) :=
  .foldl h fun _ _ hs => hs.after_raise

theorem Still.after_wrapLog (h : Still idle s₀ s) {p off n : Nat} {skip : Option Nat} : Still idle s₀ (wrapLog p off n skip s) :=
  h.after_modFold.after_logWrap

theorem Still.after_pendDigests (h : Still idle s₀ s) {p : Nat} : Still idle s₀ (pendDigests p s).2 := by
  unfold pendDigests
  refine .foldl_in Prod.snd h fun _ _ hs => ?_
  split
  · split
    · exact hs.after_commitRead
    · exact hs
  · exact hs

theorem Still.after_sealLog (h : Still idle s₀ s) {p : Nat} : Still idle s₀ (sealLog p s) := by
  unfold sealLog
  exact .after_modFold (.after_pendDigests (.ite h.after_logSeqs.after_wrapLog h.after_logSeqs))

theorem Still.after_copyLog (h : Still idle s₀ s) {p : Nat} : Still idle s₀ (copyLog p s) := by
  unfold copyLog
  extract_lets +onlyGivenNames f
  split
  · exact h
  extract_lets +onlyGivenNames rs bs bs'
  split
  · exact h
  extract_lets +onlyGivenNames pl now g s1 hit q
  have h1 : Still idle s₀ s1 := by
    unfold s1
    split
    · exact h.after_t3Send
    · exact h
  have hq : Still idle s₀ q.2 := h1.after_t3Send
  exact .ite hq.after_modFold.after_logWrap h1

theorem Still.after_closeFold (h : Still idle s₀ s) {p : Nat} : Still idle s₀ (closeFold p s) := by
  unfold closeFold
  dsimp only
  split
  · exact h.after_lateDigests.after_declareFold.after_sealLog
  · refine .after_startTier (.after_startTier ?_)
    split
    · exact h.after_lateDigests.after_declareFold.after_sealLog.after_modFold.after_copyLog
    · exact h.after_lateDigests.after_declareFold.after_sealLog.after_modFold

/-! ### The log as a restore reads it (14 R400, R401) -/

theorem Still.after_rangeExact (h : Still idle s₀ s) {f : Fold} {p : Pool} {list : List Nat} {x : LogRec × LogSeq} :
    Still idle s₀ (rangeExact f p list x s).2 := by
  unfold rangeExact
  split
  · exact h.after_commitRead
  · exact h

theorem Still.after_inexact (h : Still idle s₀ s) {f : Fold} {p : Pool} {list : List Nat} {rs : List (LogRec × LogSeq)} :
    Still idle s₀ (inexact f p list rs s).2 :=
  .foldl_in Prod.snd h fun _ _ hs => hs.after_rangeExact

theorem Still.after_checkedLi (h : Still idle s₀ s) {f : Fold} {p : Pool} {list : List Nat} {id : Nat} {b : Rebuild} :
    Still idle s₀ (checkedLi f p list id b s).2 :=
  h.after_inexact

/-! ### Rebuilds (14 R399 to R402) -/

theorem Still.after_finishPages (h : Still idle s₀ s) {q : Machine.Seq} {b : Rebuild} {p : Pool} {list : List Nat} :
    Still idle s₀ (finishPages q b p list s) :=
  .ite h.after_checkedLi.after_modSeq (.ite h.after_checkedLi.after_modSeq h.after_checkedLi.after_partWrite.after_modSeq)

theorem Still.after_startRestore (h : Still idle s₀ s) {r : List Byte} : Still idle s₀ (startRestore r s) := by
  unfold startRestore
  dsimp only
  split
  · exact h
  · split
    · exact h
    · exact .ite (.after_finishPages (.after_modSeq (.ite h.elsewhere h))) (.after_modSeq (.ite h.elsewhere h))

theorem Still.after_applyRestores (h : Still idle s₀ s) {recs : List (List Byte)} : Still idle s₀ (applyRestores recs s) :=
  .foldl h fun _ _ hs => .ite hs (.ite hs.after_raise hs.after_startRestore)

theorem Still.after_checkListed (h : Still idle s₀ s) {r : SeqRec} : Still idle s₀ (checkListed s r) := by
  unfold checkListed
  split
  · split
    · exact .ite h.after_finishPages h
    · exact h
  · exact h

theorem Still.after_mendClose (h : Still idle s₀ s) {r : SeqRec} : Still idle s₀ (mendClose s r) := by
  unfold mendClose
  dsimp only
  split
  · split
    · exact h.after_checkListed
    · split
      · exact h.after_checkListed
      · refine .after_modSeq ?_
        refine .foldl ?_ fun _ _ hs => .ite hs.after_raise hs
        split
        · exact h.after_checkListed.after_inexact
        · exact h.after_checkListed
  · exact h.after_checkListed

/-! ### Way back of poisoned pages (09 R243, 14 R384) -/

theorem Still.after_restorePoison (h : Still idle s₀ s) {id i k : Nat} : Still idle s₀ (restorePoison id i k s) := h.after_modSeq

theorem Still.after_wayChosen (h : Still idle s₀ s) {pg : Nat} : Still idle s₀ (wayChosen pg s) := h.elsewhere

theorem Still.after_zeroPage (h : Still idle s₀ s) {p pg : Nat} : Still idle s₀ (zeroPage p pg s) :=
  .after_raise (.elsewhere h.after_rewritePage.after_memoTouch)

theorem Still.after_weightLost (h : Still idle s₀ s) {pg : Nat} : Still idle s₀ (weightLost pg s) := h.after_wayChosen.after_raise

theorem Still.after_wayBack (h : Still idle s₀ s) {pg : Nat} : Still idle s₀ (wayBack s pg) := by
  unfold wayBack
  dsimp only
  split
  · exact h
  · split
    · exact h.after_weightLost
    · split
      · exact h
      · split
        · exact .ite h.after_weightLost h.after_wayChosen
        · split
          · exact h.after_zeroPage
          · split
            · exact .ite h h.after_zeroPage
            · exact .ite h.after_restorePoison.after_wayChosen h.after_modSeq.after_zeroPage

theorem Still.after_closeRepairs (h : Still idle s₀ s) : Still idle s₀ (closeRepairs s) := by
  unfold closeRepairs
  dsimp only
  split
  · exact .elsewhere (.foldl h fun _ _ hs => hs.after_wayBack)
  · exact .foldl h fun _ _ hs => hs.after_wayBack

/-! ### The FOLD status section (14 R405, Table 14-6) -/

theorem Still.after_clearFoldCounts (h : Still idle s₀ s) : Still idle s₀ (clearFoldCounts s) := .foldl h fun _ _ hs => hs.after_modFold

/-! ### Result digests (15 R409, R415 to R420). -/

theorem Still.after_digFlags (h : Still idle s₀ s) {p addr flags : Nat} {r : List Byte} : Still idle s₀ (digFlags p addr flags r s) :=
  h.after_partWrite

theorem Still.after_digEnd (h : Still idle s₀ s) {p addr tick flags : Nat} {r : List Byte} : Still idle s₀ (digEnd p addr tick flags r s) :=
  h.after_partWrite.after_digFlags

theorem Still.after_digAsked (h : Still idle s₀ s) {p i : Nat} : Still idle s₀ (digAsked s p i).2 := by
  unfold digAsked
  dsimp only
  split
  · exact .pair h
  · exact .pair h.after_partRead

theorem Still.after_takeDigest (h : Still idle s₀ s) {p i : Nat} : Still idle s₀ (takeDigest p i s) := by
  unfold takeDigest
  dsimp only
  split
  · exact h.after_digAsked
  · split
    · exact h.after_digAsked.after_digEnd
    · exact .ite h.after_digAsked.after_digEnd (.elsewhere h.after_digAsked)

theorem Still.after_closeDigests (h : Still idle s₀ s) : Still idle s₀ (closeDigests s) := by
  unfold closeDigests
  dsimp only
  refine .foldl (.foldl h.elsewhere fun _ _ hs => hs.after_digEnd) fun _ _ hs => ?_
  split
  · exact .foldl hs fun _ _ hs1 => hs1.after_takeDigest
  · exact hs

/-! ### Jobs at an open -/

theorem Still.after_placeJob (h : Still false s₀ s) {lists : List (Nat × Bool)} {e : JobEnt} : Still false s₀ (placeJob lists s e) := by
  unfold placeJob
  dsimp only
  split
  · exact .elsewhere h.after_raise
  · split
    · exact h.elsewhere
    · split
      · exact h.elsewhere
      · exact .elsewhere h.after_setCore

theorem Still.after_placeJobs (h : Still false s₀ s) {ents lists : List (List Byte)} : Still false s₀ (placeJobs ents lists s) :=
  .foldl h fun _ _ hs => hs.after_placeJob

theorem Still.after_startFirst (h : Still false s₀ s) {n idx : Nat} {j : Job} {r : CoreJob} {arb : BitVec 1} :
    Still false s₀ (startFirst n idx j r arb s) := by
  unfold startFirst
  extract_lets +onlyGivenNames e img args prog _ s1 drop s2 dig s3 _ c
  have hargs : Still false s₀ args.2.2 := h.after_partRead.after_partRead
  have hprog : Still false s₀ prog.2 := by
    unfold prog
    split
    · exact .pair hargs
    · exact hargs.after_progOf
  split
  · exact hprog.after_setCore.after_modJob.after_raise
  · have h2 : Still false s₀ s2 := hprog.elsewhere
    have h3 : Still false s₀ s3 := h2.after_modJob
    exact .ite h3.after_setCore.after_takeFault h3.after_setCore.after_spadWrote

theorem Still.after_startJob (h : Still false s₀ s) {idx : Nat} : Still false s₀ (startJob s idx) := by
  unfold startJob
  split
  · exact h
  · split
    · split
      · exact h
      · split
        · split
          · exact h.after_resumeJob.after_modJob
          · exact h
        · exact h.after_startFirst
    · exact h

theorem Still.after_idleArbs (h : Still idle s₀ s) : Still idle s₀ (idleArbs s) :=
  .foldl h fun _ _ hs => .ite hs (.ite hs (hs.after_modCore fun _ _ hc => hc))

theorem Still.after_startJobs (h : Still false s₀ s) : Still false s₀ (startJobs s) := .after_idleArbs (.foldl h fun _ _ hs => hs.after_startJob)

/-! ### Markers (13 R350, 16 R446) -/

theorem Still.after_sendMarkers (h : Still idle s₀ s) {skip : Option BPort} {pl : List Byte} : Still idle s₀ (sendMarkers skip pl s) :=
  .foldl h fun _ _ hs => .ite hs.after_emitFlit hs

theorem Still.after_ringBell (h : Still idle s₀ s) : Still idle s₀ (ringBell s) := .ite h.after_takeFree.after_sendMarkers h

/-! ### Open (13 R342, R348) -/

theorem Still.after_clearCounts (h : Still idle s₀ s) : Still idle s₀ (clearCounts s) := h.elsewhere

theorem Still.after_openBell (h : Still idle s₀ s) {b : List Byte} : Still idle s₀ (openBell b s) := h.after_note rfl rfl

theorem Still.after_openPlan {b : List Byte} (h : Still false s₀ (openHeader b s)) : Still false s₀ (openPlan b s).2 := by
  unfold openPlan
  dsimp only
  exact .after_ringBell
    (.after_startJobs (.after_applyLayers
    (.after_placeJobs (.after_applyRestores
    (.after_applySeqs (.foldl
    (.elsewhere (.foldl (.after_applyFolds
    (.foldl (.foldl (.after_applyKeys
    (.foldl h.after_openConfig.after_openBell.after_freeParts fun _ _ hs => hs.after_applyPart)) fun _ _ hs =>
    hs.after_applyWin) fun _ _ hs => hs.after_applyRing)) fun _ _ hs => hs.after_applyPool)) fun _ _ hs => hs.after_applyLeave))))))

/-! ### Close (13 R343) -/

theorem Still.after_writeStatus (h : Still idle s₀ s) : Still idle s₀ (writeStatus s) := by
  unfold writeStatus
  split
  · exact h
  · exact .after_note h.after_ownerWrite.after_ownerWrite rfl rfl

theorem Still.after_suppressedEvents (h : Still idle s₀ s) : Still idle s₀ (suppressedEvents s) :=
  .foldl h fun _ _ hs => .ite hs.after_pushEvent hs

theorem Still.after_dropImages (h : Still idle s₀ s) : Still idle s₀ (dropImages s) := h.elsewhere

theorem Still.after_sendAudits (h : Still idle s₀ s) : Still idle s₀ (sendAudits s) := .foldl h fun _ _ hs => .ite hs.after_emitFlit hs

theorem Still.after_closeLate (h : Still idle s₀ s) : Still idle s₀ (closeLate s) := by
  unfold closeLate
  split
  · exact h
  · refine .after_raise ?_
    exact ⟨h.clk, h.tick, h.next, h.jobless⟩

theorem Still.after_finishClose (h : Still idle s₀ { s with tick := { s.tick with phase := .closed } }) : Still idle s₀ (finishClose s) := by
  unfold finishClose
  extract_lets +onlyGivenNames _ s1 s2 s3 s4 recs s5 s6 s7 s8 s9 s10 _
  have h1 : Still idle s₀ s1 := h.after_sendAudits
  have h2 : Still idle s₀ s2 := .foldl h1 fun _ _ hs => .ite hs hs.after_applyAddLog
  have h4 : Still idle s₀ s4 := .foldl h2.after_checkKvBooks.after_checkRouteBooks fun _ _ hs => hs.after_settleJob
  have h5 : Still idle s₀ s5 := .foldl (.foldl h4 fun _ _ hs => hs.after_commitSeq) fun _ _ hs => hs.after_mendClose
  have h7 : Still idle s₀ s7 := .foldl h5.after_closeRepairs fun _ _ hs => .ite hs.after_closeFold hs
  have h9 : Still idle s₀ s9 := h7.after_closeDigests.after_dropImages.after_closeLate.after_suppressedEvents.after_writeStatus.after_clearCounts
  have h10 : Still idle s₀ s10 := h9.after_clearFoldCounts.after_settleQuads.after_tripOff
  clear_value s10
  exact h10.elsewhere

end Course

end Sys2Proof.Proofs

namespace Sys2Proof.Proofs

open Sys2Proof Sys2Proof.Machine Sys2Proof.Claims Sys2Proof.Laws

/-! ### What an open leaves alone before its plan -/

/-- `s` differs from `s₀` in no time, tick, job or trip, and no core of it holds a job. -/
structure Quiet (s₀ s : State) : Prop where
  clk     : s.clk = s₀.clk
  tick    : s.tick = s₀.tick
  jobs    : s.jobs = s₀.jobs
  tripped : s.power.tripped = s₀.power.tripped
  jobless : Jobless s

section Quiet

variable {s₀ s : State}

theorem Quiet.refl (h : Jobless s) : Quiet s s := ⟨rfl, rfl, rfl, rfl, h⟩

theorem Quiet.ite (h : Quiet s₀ s) {p : Prop} {d : Decidable p} {t : State} (h' : Quiet s₀ t) : Quiet s₀ (if p then s else t) := by
  split <;> assumption

theorem Quiet.foldl {α : Type} (h : Quiet s₀ s) {g : State → α → State} {l : List α} (hg : ∀ s a, Quiet s₀ s → Quiet s₀ (g s a)) :
    Quiet s₀ (l.foldl g s) :=
  List.foldlRecOn l g h fun s hs a _ => hg s a hs

theorem Quiet.after_setQuad (h : Quiet s₀ s) {q : Nat} {v : Quad} : Quiet s₀ (setQuad q v s) :=
  ⟨h.clk, h.tick, h.jobs, h.tripped, h.jobless⟩

theorem Quiet.after_setPart (h : Quiet s₀ s) {p : Nat} {v : Machine.Part} : Quiet s₀ (setPart p v s) :=
  ⟨h.clk, h.tick, h.jobs, h.tripped, h.jobless⟩

theorem Quiet.after_setTokens (h : Quiet s₀ s) {p u : Nat} {v : Int} : Quiet s₀ (setTokens p u v s) :=
  ⟨h.clk, h.tick, h.jobs, h.tripped, h.jobless⟩

theorem Quiet.after_takeFree (h : Quiet s₀ s) : Quiet s₀ (takeFree s).2 :=
  ⟨h.clk, h.tick, h.jobs, h.tripped, h.jobless⟩

theorem Quiet.after_setCore (h : Quiet s₀ s) {n : Nat} {c : Core} (hc : c.job = none) : Quiet s₀ (setCore n c s) :=
  ⟨h.clk, h.tick, h.jobs, h.tripped, h.jobless.after_setCore hc⟩

theorem Quiet.after_raiseI (h : Quiet s₀ s) {inj : Bool} {kind idx : Nat} {part : Option Nat} {code arg : Nat} :
    Quiet s₀ (raiseI inj kind idx part code arg s) := by
  obtain ⟨e, he⟩ := raiseI_only s inj kind idx part code arg
  rw [he]
  exact ⟨h.clk, h.tick, h.jobs, h.tripped, h.jobless⟩

theorem Quiet.after_raise (h : Quiet s₀ s) {kind idx : Nat} {part : Option Nat} {code arg : Nat} :
    Quiet s₀ (raise kind idx part code arg s) := h.after_raiseI

theorem Quiet.after_ovfEvent (h : Quiet s₀ s) {b : Bool} {a : Nat} : Quiet s₀ (ovfEvent b a s) := .ite h.after_raise h

theorem Quiet.of_edge (h : Quiet s₀ s) {t : State} (ht : EdgeOnly s t) : Quiet s₀ t := by
  rw [ht]
  exact ⟨h.clk, h.tick, h.jobs, h.tripped, h.jobless⟩

/-- With no job on its cores a quad that goes off has nothing to report. -/
theorem Quiet.after_quadOff (h : Quiet s₀ s) {q : Nat} : Quiet s₀ (quadOff q s) := by
  refine .after_setQuad (.foldl h fun u n hu => ?_)
  have hsettle : settleJob n u = u := by simp only [settleJob, hu.jobless.job_none n]
  rw [hsettle]
  exact hu.after_setCore rfl

theorem Quiet.after_settleQuads (h : Quiet s₀ s) : Quiet s₀ (settleQuads s) := .foldl h fun _ _ hu => .ite hu.after_quadOff hu

theorem Quiet.after_openQuad (h : Quiet s₀ s) {q : Nat} : Quiet s₀ (openQuad s q) := by
  unfold openQuad
  dsimp only
  split
  · exact .ite h.after_setQuad h.after_setQuad
  · exact .ite (.ite h.after_setQuad.after_setQuad h.after_setQuad) h
  · exact h

theorem Quiet.after_setShares (h : Quiet s₀ s) {p : Nat} {v : Shares} : Quiet s₀ (setShares p v s) :=
  .foldl h.after_setPart fun _ _ hu => .ite hu.after_setTokens hu.after_setTokens

theorem Quiet.after_freeParts (h : Quiet s₀ s) : Quiet s₀ (freeParts s) := .foldl h fun _ _ hu => .ite hu.after_setShares.after_setPart hu

theorem Quiet.after_idleArbs (h : Quiet s₀ s) : Quiet s₀ (idleArbs s) :=
  .foldl h fun _ n hu => .ite hu (.ite hu (hu.after_setCore (hu.jobless.job_none n)))

theorem edge_sendMarkers (skip : Option BPort) (pl : List Byte) (s : State) : EdgeOnly s (sendMarkers skip pl s) := by
  refine edge_foldl _ (fun u p => ?_) allPorts s
  split
  · exact edge_emitFlit ..
  · exact EdgeOnly.refl u

theorem Quiet.after_ringBell (h : Quiet s₀ s) : Quiet s₀ (ringBell s) := .ite (h.after_takeFree.of_edge (edge_sendMarkers ..)) h

end Quiet

/-! ### The first steps of an open -/

section Opening

variable {s : State} {due : Nat}

theorem endTrip_of_not_tripped (h : s.power.tripped = false) : endTrip s = s := by simp [endTrip, h]

/-- The tick as an open at `clk`, due at `due`, leaves it before it looks at its plan (13 R344). -/
def openedTick (clk due : Nat) (t : Tick) : Tick :=
  { t with
    retrained := false, preempted := false, now := if t.first then 0 else t.now + 1, first := false, openAt := clk, runAt := clk, refillAt := clk
    dueAt := due, isLate := decide (t.lateNext ≠ 0), lateUs := (t.lateNext + 1199) / 1200, lateNext := 0
    late := (if decide (t.lateNext ≠ 0) then ctrInc t.late else (t.late, false)).1, phase := .run, marked := none }

/-- The state of an open before it looks at its plan. -/
def opening (due : Nat) (s : State) : State :=
  endTrip (tripOff (settleQuads ((List.range 25).foldl openQuad (openRebuilds (endLoad (openTimes due (clearTick s)))))))

/-- The state that `opening` is quiet from. -/
def opened (due : Nat) (s : State) : State := { clearTick s with tick := openedTick s.clk due s.tick }

theorem jobless_clearTick (s : State) : Jobless (clearTick s) := fun _ he => nomatch he

theorem quiet_openTimes (due : Nat) (s : State) : Quiet (opened due s) (openTimes due (clearTick s)) :=
  have h : Quiet (opened due s) (opened due s) := .refl (jobless_clearTick s)
  h.after_ovfEvent

theorem quiet_quads (due : Nat) (s : State) :
    Quiet (opened due s) (settleQuads ((List.range 25).foldl openQuad (openRebuilds (endLoad (openTimes due (clearTick s)))))) := by
  have hbegin : Quiet (opened due s) (openRebuilds (endLoad (openTimes due (clearTick s)))) :=
    have hu := quiet_openTimes due s
    ⟨hu.clk, hu.tick, hu.jobs, hu.tripped, hu.jobless⟩
  exact (hbegin.foldl fun _ _ hu => hu.after_openQuad).after_settleQuads

theorem quiet_opening (h : s.power.tripped = false) : Quiet (opened due s) (opening due s) := by
  have hquads := quiet_quads due s
  have htrip := hquads.tripped.trans h
  unfold opening
  rwa [tripOff_of_not_tripped htrip, endTrip_of_not_tripped htrip]

/-- The tick of an idle open that counts in MISSED (13 R348, R349). -/
def idleTick (t : Tick) (orphaned : Bool) : Tick :=
  { t with
    idle := (ctrInc t.idle).1, isIdle := true, plan := none, idleRun := t.idleRun + 1, missed := min (t.idleRun + 1) 255, next := .none
    fetchSeq := 0, orphaned := orphaned }

theorem quiet_openIdle (h : Jobless s) : ∃ o, Quiet { s with tick := idleTick s.tick o } (openIdle true s) := by
  unfold openIdle
  extract_lets +onlyGivenNames r missed _ s1 _ s2 s3 _ s4
  have hbase : Quiet { s with tick := idleTick s.tick s.tick.orphaned } { s with tick := idleTick s.tick s.tick.orphaned } := .refl h
  have h1 : Quiet { s with tick := idleTick s.tick s.tick.orphaned } s1 := hbase.after_ovfEvent
  have h2 : Quiet { s with tick := idleTick s.tick s.tick.orphaned } s2 := .ite h1 ⟨h1.clk, h1.tick, h1.jobs, h1.tripped, h1.jobless⟩
  have h3 : Quiet { s with tick := idleTick s.tick s.tick.orphaned } s3 := h2.after_freeParts
  clear_value s3
  obtain ⟨o, h4⟩ : ∃ o, Quiet { s with tick := idleTick s.tick o } s4 := by
    unfold s4
    split
    · have hmark : Quiet { s with tick := idleTick s.tick true } { s3 with tick := { s3.tick with orphaned := true } } :=
        ⟨h3.clk, by rw [h3.tick]; rfl, h3.jobs, h3.tripped, h3.jobless⟩
      exact ⟨true, hmark.after_raise⟩
    · exact ⟨_, h3⟩
  exact ⟨o, h4.after_idleArbs.after_ringBell⟩

/-- What an idle open due at `due` leaves behind (13 R340, R344, R348, R349). -/
structure IdleOpen (due : Nat) (s t : State) : Prop where
  clk     : t.clk = s.clk
  jobs    : t.jobs = []
  jobless : Jobless t
  tick    : ∃ o, t.tick = { idleTick (openedTick s.clk due s.tick) o with nextAt := due + us s.tick.periodUs }

/-- The last step of an open: when the next is due, and that the belfry lives. -/
def openEnd (due : Nat) (s : State) : State :=
  { s with tick := { s.tick with nextAt := due + us s.tick.periodUs }, test := { s.test with liveAt := max s.clk s.test.liveAt } }

/-- An open with no plan is idle, whatever the quads and the watchdog's reload allow. -/
theorem openWork_none (hnext : s.tick.next = .none) (htrip : s.power.tripped = false) (due : Nat) :
    openWork due s = ([], openEnd due (openIdle true (raise 0 0 none 0x1001 (opening due s).tick.now.toNat (opening due s)))) := by
  have htripped : ¬ (raise 0 0 none 0x1001 (opening due s).tick.now.toNat (opening due s)).power.tripped = true := by
    rw [(quiet_opening htrip).after_raise.tripped]
    simpa [opened, clearTick] using htrip
  unfold openWork
  extract_lets +onlyGivenNames next dog s1 s2 now s3 r
  have hnone : next = .none := hnext
  have hopening : opening due s = s2 := rfl
  rw [hopening] at htripped ⊢
  clear_value next s2
  have hs3 : s3 = raise 0 0 none 0x1001 s2.tick.now.toNat s2 := by
    unfold s3
    rw [hnone]
  have hr : r = ([], openIdle true s3) := by
    unfold r
    rw [hs3, if_neg htripped, hnone]
    exact ite_self _
  rw [hr, hs3]
  generalize openIdle true (raise 0 0 none 0x1001 s2.tick.now.toNat s2) = v
  rfl

theorem openWork_idle (hnext : s.tick.next = .none) (htrip : s.power.tripped = false) (due : Nat) :
    ∃ t, openWork due s = ([], t) ∧ IdleOpen due s t := by
  have hraised : Quiet (opened due s) (raise 0 0 none 0x1001 (opening due s).tick.now.toNat (opening due s)) :=
    (quiet_opening htrip).after_raise
  have hwork := openWork_none hnext htrip due
  generalize raise 0 0 none 0x1001 (opening due s).tick.now.toNat (opening due s) = u at hraised hwork
  obtain ⟨o, hidle⟩ := quiet_openIdle hraised.jobless
  have htick : (openIdle true u).tick = idleTick (openedTick s.clk due s.tick) o := by rw [hidle.tick, hraised.tick]; rfl
  generalize openIdle true u = v at hwork hidle htick
  refine ⟨_, hwork, hidle.clk.trans hraised.clk, hidle.jobs.trans hraised.jobs, hidle.jobless, o, ?_⟩
  rw [openEnd, htick]
  rfl

end Opening

/-! ### A quad that stays on -/

section Quads

variable {s : State} {q : Nat}

/-- Quad `q` is on, in step NORMAL, and nobody wants it off. -/
structure Runs (q : Nat) (s : State) : Prop where
  wf      : smapWf Quad.reset s.power.quads = true
  on      : (getQuad s q).st = .on
  normal  : (getQuad s q).step = .normal
  stays   : (getQuad s q).wantOff = false

theorem Runs.of_power (h : Runs q s) {t : State} (ht : t.power = s.power) : Runs q t := by
  have hq : getQuad t q = getQuad s q := by rw [getQuad, ht, getQuad]
  exact ⟨ht ▸ h.wf, hq ▸ h.on, hq ▸ h.normal, hq ▸ h.stays⟩

theorem Runs.after_setQuad (h : Runs q s) {r : Nat} (hr : r ≠ q) {v : Quad} : Runs q (setQuad r v s) := by
  have hq : getQuad (setQuad r v s) q = getQuad s q := (getQuad_setQuad h.wf r q v).trans (if_neg hr.symm)
  exact ⟨wf_set _ _ h.wf, hq ▸ h.on, hq ▸ h.normal, hq ▸ h.stays⟩

theorem settleJob_power (n : Nat) (s : State) : (settleJob n s).power = s.power := by
  unfold settleJob
  dsimp only
  split
  · rfl
  · split <;> rfl

theorem Runs.ite (h : Runs q s) {p : Prop} {d : Decidable p} {t : State} (h' : Runs q t) : Runs q (if p then s else t) := by
  split <;> assumption

theorem Runs.after_quadOff (h : Runs q s) {r : Nat} (hr : r ≠ q) : Runs q (quadOff r s) := by
  have hcores : Runs q ((quadCores r).foldl (fun s n => setCore n (clearedCore (getCore s n)) (settleJob n s)) s) :=
    List.foldlRecOn (motive := Runs q) _ _ h fun u hu n _ => hu.of_power (settleJob_power n u)
  exact hcores.after_setQuad hr

theorem Runs.after_settleQuads (h : Runs q s) : Runs q (settleQuads s) :=
  List.foldlRecOn (motive := Runs q) _ _ h fun u hu r _ => by
    split
    next hoff =>
      refine hu.after_quadOff fun hr => ?_
      simp [hr, hu.stays] at hoff
    next => exact hu

theorem Runs.after_quadRamp (h : Runs q s) {r : Nat} (hr : r ≠ q) : Runs q (quadRamp r s) := h.after_setQuad hr

theorem Runs.after_openQuad (h : Runs q s) (r : Nat) : Runs q (openQuad s r) := by
  by_cases hr : r = q
  · simp only [openQuad, hr, h.normal]
    exact h
  · unfold openQuad
    extract_lets +onlyGivenNames _ cool
    clear_value cool
    split
    · exact .ite (h.after_setQuad hr) (h.after_setQuad hr)
    · exact .ite (.ite ((h.after_setQuad hr).after_quadRamp hr) (h.after_setQuad hr)) h
    · exact h

theorem someQuad_of_runs (h : Runs q s) (hq : q < 25) : someQuad s = true :=
  List.any_eq_true.mpr ⟨q, List.mem_range.mpr hq, by simp [h.on]⟩

/-- A quad that is on stays on through the first steps of an open. -/
theorem Runs.after_opening (h : Runs q s) (htrip : s.power.tripped = false) (due : Nat) : Runs q (opening due s) := by
  have hbegin : Runs q (openRebuilds (endLoad (openTimes due (clearTick s)))) := by
    refine h.of_power ?_
    obtain ⟨e, he⟩ : ∃ e, openTimes due (clearTick s) = { opened due s with events := e } := ovfEvent_only ..
    rw [he]
    rfl
  have hquads : Runs q (settleQuads ((List.range 25).foldl openQuad (openRebuilds (endLoad (openTimes due (clearTick s)))))) :=
    .after_settleQuads (List.foldlRecOn (motive := Runs q) _ _ hbegin fun u hu r _ => hu.after_openQuad r)
  have huntripped : (settleQuads ((List.range 25).foldl openQuad (openRebuilds (endLoad (openTimes due (clearTick s)))))).power.tripped = false :=
    (quiet_quads due s).tripped.trans htrip
  unfold opening
  rwa [tripOff_of_not_tripped huntripped, endTrip_of_not_tripped huntripped]

end Quads

/-! ### Opens on the module's own timer -/

section OwnTimer

variable {s : State}

theorem mayOpen_of {b : Nat} (hboot : s.boot = .up b false) (hdog : s.test.wdDead = false)
    (hphase : s.tick.phase = .before ∨ s.tick.phase = .closed) : mayOpen s = true := by
  rcases hphase with h | h <;> simp [mayOpen, hboot, hdog, h]

theorem follows_of_bellen (h : s.tick.bellen = false) : follows s = false := by simp [follows, h]

theorem tickOpen_goes (hmay : mayOpen s = true) (hfollows : follows s = false) :
    Goes .tickOpen s (openTick s.tick.nextAt (passTo s.tick.nextAt s)) := by
  simp only [Goes, exec, execTickOpen, hmay, hfollows]
  rfl

/-- An open with a valid plan, of a module with a quad on, carries it out. -/
theorem openWork_valid {p : List Byte} {due q : Nat} (hnext : s.tick.next = .valid p) (htrip : s.power.tripped = false)
    (hdog : s.test.wdUntil ≤ due) (hruns : Runs q s) (hq : q < 25) :
    openWork due s = ((openPlan p (opening due s)).1, openEnd due (openPlan p (opening due s)).2) := by
  have htripped : ¬ (opening due s).power.tripped = true := by
    rw [(quiet_opening htrip).tripped]
    simpa [opened, clearTick] using htrip
  have hquad : someQuad (opening due s) = true := someQuad_of_runs (hruns.after_opening htrip due) hq
  have hreload : decide (due < s.test.wdUntil) = false := by simpa using hdog
  unfold openWork
  extract_lets +onlyGivenNames next dog s1 s2 now s3 r
  have hvalid : next = .valid p := hnext
  have hdogs : dog = false := hreload
  have hopening : opening due s = s2 := rfl
  rw [hopening] at htripped hquad ⊢
  clear_value next dog s2
  have hs3 : s3 = s2 := by
    unfold s3
    rw [hvalid]
  have hr : r = openPlan p s2 := by
    unfold r
    rw [hs3, if_neg htripped, hvalid, hdogs, hquad]
    rfl
  rw [hr]
  generalize openPlan p s2 = v
  rfl

/-- What the open with a valid plan leaves in the tick (13 R340, R342). -/
theorem openTick_valid {p : List Byte} {due q : Nat} (hnext : s.tick.next = .valid p) (htrip : s.power.tripped = false)
    (hdog : s.test.wdUntil ≤ due) (hruns : Runs q s) (hq : q < 25) :
    let t := (openTick due s).tick
    t.now = (if s.tick.first then 0 else s.tick.now + 1) ∧ t.phase = .run ∧ t.isIdle = false ∧ t.missed = 0 ∧ t.next = .none ∧
      t.plan = some { seq := BitVec.ofNat 64 (plSeq p), digest := plDigest p, wrst := plWrst p } := by
  have hplan : Still false (openHeader p (opening due s)) (openPlan p (opening due s)).2 := .after_openPlan (.refl _)
  have hwork := openWork_valid hnext htrip hdog hruns hq
  have hopen : (opening due s).tick = openedTick s.clk due s.tick := (quiet_opening htrip).tick
  generalize opening due s = u at hplan hwork hopen
  generalize openPlan p u = r at hplan hwork
  have hclears : Still false (openEnd due r.2) (openClears r.1 (openEnd due r.2)) := .after_openClears (.refl _)
  have hnone : r.2.tick.next = .none := hplan.next.elim id id
  have hfield {α : Type} (f : Tick → α) (hf : ∀ t, f (course t) = f t) (hn : ∀ t n, f { t with nextAt := n } = f t) :
      f (openClears r.1 (openEnd due r.2)).tick = f (openHeader p u).tick := by
    have hend := congrArg f hclears.tick
    have hhead := congrArg f hplan.tick
    rw [hf, hf] at hend hhead
    exact hend.trans ((hn _ _).trans hhead)
  rw [openTick, hwork]
  refine ⟨?_, ?_, ?_, ?_, ?_, ?_⟩
  · exact (hfield Tick.now (fun _ => rfl) fun _ _ => rfl).trans (by rw [openHeader, hopen]; rfl)
  · exact (hfield Tick.phase (fun _ => rfl) fun _ _ => rfl).trans (by rw [openHeader, hopen]; rfl)
  · exact hfield Tick.isIdle (fun _ => rfl) fun _ _ => rfl
  · exact hfield Tick.missed (fun _ => rfl) fun _ _ => rfl
  · exact hclears.next.elim (fun h => h.trans hnone) id
  · exact hfield Tick.plan (fun _ => rfl) fun _ _ => rfl

end OwnTimer

/-- Settles O31: an open without a plan is `openWork_idle`; with one, the plan's work keeps the tick's course (`Still`). -/
theorem tickOpens : Obligations.TickOpens := by
  unfold Obligations.TickOpens
  refine ⟨fun s b hboot hdog hphase hbell hnext htrip => ?_,
    fun s b p hboot hdog hphase hbell hnext htrip hreload hwf ⟨q, hq, hon, hnormal, hstays⟩ => ?_⟩
  · have hgo := tickOpen_goes (mayOpen_of hboot hdog hphase) (follows_of_bellen hbell)
    obtain ⟨t, hwork, hclk, hjobs, hjobless, o, htick⟩ := openWork_idle (s := passTo s.tick.nextAt s) hnext htrip s.tick.nextAt
    have hopen : openTick s.tick.nextAt (passTo s.tick.nextAt s) = t := by rw [openTick, hwork]; rfl
    rw [hopen] at hgo
    have hopenAt : t.tick.openAt = t.clk := by
      rw [htick]
      exact hclk.symm
    refine ⟨t, hgo, ?_, ?_, ?_, ?_, ?_, ?_, ?_, hclk, hopenAt, ?_, hjobs, hjobless.job_none⟩ <;> rw [htick] <;> rfl
  · have hruns : Runs q (passTo s.tick.nextAt s) := ⟨hwf, hon, hnormal, hstays⟩
    have htick := openTick_valid (s := passTo s.tick.nextAt s) hnext htrip hreload hruns hq
    exact ⟨_, tickOpen_goes (mayOpen_of hboot hdog hphase) (follows_of_bellen hbell), htick⟩

end Sys2Proof.Proofs

namespace Sys2Proof.Proofs

open Sys2Proof Sys2Proof.Machine Sys2Proof.Claims Sys2Proof.Laws

/-! ### A close with no job on a core (13 R343) -/

section Close

variable {s : State}

theorem overrunCores_jobless (h : Jobless s) : (List.range 100).foldl overrunCore s = s := by
  refine List.foldl_fixed' (fun n => ?_) _
  simp only [overrunCore, h.job_none n]

theorem closeWaits_jobless (h : Jobless s) : closeWaits s = false :=
  List.any_eq_false.mpr fun e he => by simp [h e he]

theorem still_coreless (hcores : s.cores = []) : Still true s s := ⟨Nat.le_refl _, rfl, .inl rfl, fun _ e he => by simp [hcores] at he⟩

theorem still_begun (hcores : s.cores = []) : Still true s (endRouting (clearDone s)) :=
  .after_endRouting (.after_clearDone (still_coreless hcores))

theorem closeTick_idle (hrun : s.tick.phase = .run) (hcores : s.cores = []) : closeTick s = finishClose (endRouting (clearDone s)) := by
  have hhands : readAllHands s = s := readAllHands_idle fun e he => by simp [hcores] at he
  have hover : (List.range 100).foldl overrunCore (clearDone s) = clearDone s :=
    overrunCores_jobless ((still_coreless hcores).after_clearDone.jobless rfl)
  have hwaits : closeWaits (endRouting (clearDone s)) = false := closeWaits_jobless ((still_begun hcores).jobless rfl)
  unfold closeTick
  simp only [hrun]
  rw [hhands, hover, hwaits]
  rfl

/-- A close with nothing on the cores ends the tick, keeps its number and does not turn time back. -/
theorem closeTick_closes (hrun : s.tick.phase = .run) (hcores : s.cores = []) :
    (closeTick s).tick.phase = .closed ∧ (closeTick s).tick.now = s.tick.now ∧ s.clk ≤ (closeTick s).clk := by
  have hbegun := still_begun hcores
  rw [closeTick_idle hrun hcores]
  generalize endRouting (clearDone s) = u at hbegun
  have hclose : Still false { u with tick := { u.tick with phase := .closed } } (finishClose u) := .after_finishClose (.refl _)
  exact ⟨hclose.phase, hclose.now.trans hbegun.now, hbegun.clk.trans hclose.clk⟩

end Close

/-! ### The seal of a status record (13 R362) -/

section Seal

variable {s : State} {r : List Byte}

/-- The state without the status records of `r`'s tick. -/
def withoutRecord (r : List Byte) (s : State) : State :=
  { s with tick := { s.tick with status := s.tick.status.filter (fun x => decide (rdN x.1 0 8 ≠ rdN r 0 8)) } }

theorem statusSeal_goes (hfind : s.tick.status.find? (fun x => x.2) = some (r, true)) (hruns : belfryRuns s = true) :
    Goes .statusSeal s (match ownerQp (withoutRecord r s) with
      | some o => ownerWrite .note (statusVa o r) o.statRkey (r.take 8) (withoutRecord r s)
      | none => withoutRecord r s) := by
  simp only [Goes, exec, execStatusSeal, hruns, if_true, hfind]
  rfl

theorem ownerWrite_of_sends {o : Owner} (ho : ownerQp s = some o) (hsends : sends s (getQp s o.qp).port = true) (w : XOwner) (va : Nat)
    (rkey : W32) (bs : List Byte) : (ownerWrite w va rkey bs s).tick = s.tick ∧
      (ownerWrite w va rkey bs s).outbox = s.outbox ++ [said s o.qp (.hostWrite o.qp (BitVec.ofNat 64 va) rkey bs)] := by
  have hwrite := speaks_sendHostWrite_of_sends (s := (takeUid s).2) (q := o.qp) hsends va rkey bs
  simp only [ownerWrite, ho]
  exact ⟨hwrite.tick, hwrite.outbox⟩

end Seal

/-- Settles O34: with no job on a core the close waits for nothing (`closeTick_closes`), and a seal is one write of the owner's. -/
theorem closeAndSeal : Obligations.CloseAndSeal := by
  unfold Obligations.CloseAndSeal
  refine fun s => ⟨fun hrun hcores hdog => ?_, fun r hfind hruns => ⟨fun hnone => ?_, fun o howner hrts hsends => ?_⟩⟩
  · obtain ⟨hphase, hnow, hclk⟩ := closeTick_closes (s := passTo (deadline s.tick) (passTo s.test.wdUntil s)) hrun hcores
    refine ⟨closeTick (passTo (deadline s.tick) (passTo s.test.wdUntil s)), ?_, hphase, (Nat.le_max_right _ _).trans hclk, hnow⟩
    simp only [Goes, exec, execClose, hdog, Bool.false_eq_true, if_false]
    exact congrArg Host.Outcome.next (if_pos hrun)
  · have hgo := statusSeal_goes hfind hruns
    have ho : ownerQp (withoutRecord r s) = none := by simp [ownerQp, withoutRecord, hnone]
    rwa [ho] at hgo
  · have hgo := statusSeal_goes hfind hruns
    have ho : ownerQp (withoutRecord r s) = some o := ownerQp_of_rts (s := withoutRecord r s) howner hrts
    obtain ⟨htick, hout⟩ := ownerWrite_of_sends ho hsends .note (statusVa o r) o.statRkey (r.take 8)
    rw [ho] at hgo
    exact ⟨_, hgo, congrArg Tick.status htick, hout⟩

end Sys2Proof.Proofs

namespace Sys2Proof.Proofs

open Sys2Proof Sys2Proof.Machine Sys2Proof.Claims Sys2Proof.Laws

/-! ### Followers and markers (13 R350 to R352) -/

section Markers

variable {s : State} {o : Bool}

theorem boot_of_edge {s t : State} (h : EdgeOnly s t) : t.boot = s.boot := by rw [h]

theorem injFlit_wdDead (p : BPort) (ty : Nat) (bs : List Byte) (s : State) : (injFlit p ty bs s).2.test.wdDead = s.test.wdDead := by
  unfold injFlit
  split
  · rfl
  · split <;> rfl

theorem emitFlit_wdDead (p : BPort) (ty seq vc : Nat) (pl : List Byte) (s : State) : (emitFlit p ty seq vc pl s).test.wdDead = s.test.wdDead :=
  (congrArg Test.wdDead (setPort_test ..)).trans (injFlit_wdDead ..)

theorem sendMarkers_wdDead (skip : Option BPort) (pl : List Byte) (s : State) : (sendMarkers skip pl s).test.wdDead = s.test.wdDead :=
  List.foldlRecOn (motive := fun u : State => u.test.wdDead = s.test.wdDead) allPorts _ rfl fun u hu p _ => by
    split
    · exact (emitFlit_wdDead ..).trans hu
    · exact hu

/-- The tick of a follower that opened idly, its times set by its marker's bell or by itself. -/
def followedTick (clk due opens period : Nat) (t : Tick) (orphaned : Bool) : Tick :=
  { idleTick (openedTick clk due t) orphaned with openAt := opens, refillAt := opens, periodUs := period, nextAt := due + us period }

theorem follows_iff : follows s = true ↔ s.tick.bellen = true ∧ s.tick.isBell = false := by simp [follows]

/-- An idle open leaves the module a follower. -/
theorem follows_of_idle {t : State} {due : Nat} (hfollows : follows s = true) (ht : IdleOpen due s t) :
    t.tick.bellen = true ∧ t.tick.isBell = false := by
  obtain ⟨o, ht⟩ := ht.tick
  rw [follows_iff] at hfollows
  rw [ht]
  exact hfollows

/-- The idle open of a follower at its bell's marker. -/
theorem openMarked_idle (hfollows : follows s = true) (hnext : s.tick.next = .none) (htrip : s.power.tripped = false) (opens due period : Nat) :
    ∃ o, (openMarked opens due period s).tick = followedTick s.clk due opens period s.tick o := by
  obtain ⟨t, hwork, ht⟩ := openWork_idle hnext htrip due
  obtain ⟨o, htick⟩ := ht.tick
  have hstill := follows_iff.mpr (follows_of_idle hfollows ht)
  refine ⟨o, ?_⟩
  unfold openMarked
  rw [hwork]
  extract_lets +onlyGivenNames r _ _ s1 s2 _
  have hs1 : s1.tick = { idleTick (openedTick s.clk due s.tick) o with openAt := opens, refillAt := opens, nextAt := due + us s.tick.periodUs } :=
    congrArg (fun t : Tick => { t with openAt := opens, refillAt := opens }) htick
  have hs2 : s2.tick = s1.tick := by
    unfold s2
    split
    · rfl
    · exact raise_tick ..
  rw [show follows s1 = true from hstill]
  change { s2.tick with periodUs := period, nextAt := due + us period } = _
  rw [hs2, hs1]
  rfl

/-- The time that a marker has been on its way to this port. -/
def markDelay (p : BPort) (pl : List Byte) (s : State) : Nat := rdN pl 24 4 + (getPort s p).pdelay.toNat

/-- The markers that a follower passes on when it takes one. -/
def passedOn (p : BPort) (pl : List Byte) (s : State) : State :=
  sendMarkers (some p) (markerPayload (rdN pl 0 8 % 1024) (rdN pl 8 8) (rdN pl 16 8 % 2 ^ 18) (markDelay p pl s + Config.freeNat (takeFree s).1))
    (takeFree s).2

/-- The state of a follower that has taken a marker from its bell, before it opens. -/
def marked (p : BPort) (pl : List Byte) (s : State) : State :=
  { passedOn p pl s with tick := { (passedOn p pl s).tick with
    markTick := some (BitVec.ofNat 64 (rdN pl 8 8)), aligned := true, bellLost := false
    nextAt := (passedOn p pl s).clk - markDelay p pl s * 12 / 10 } }

theorem edge_passedOn (p : BPort) (pl : List Byte) (s : State) : EdgeOnly (takeFree s).2 (passedOn p pl s) := edge_sendMarkers ..

theorem takeMarker_new {p : BPort} {pl : List Byte} (hfollows : follows s = true) (hbell : rdN pl 0 8 % 1024 = s.tick.bell.toNat)
    (hnew : s.tick.markTick ≠ some (BitVec.ofNat 64 (rdN pl 8 8))) (haligned : s.tick.aligned = true)
    (hphase : s.tick.phase ≠ .run) (hmay : mayOpen (marked p pl s) = true) :
    takeMarker p pl s = openMarked (marked p pl s).tick.nextAt (marked p pl s).tick.nextAt (rdN pl 16 8 % 2 ^ 18) (marked p pl s) := by
  have htick : (passedOn p pl s).tick = s.tick := (edge_passedOn p pl s).tick
  unfold takeMarker
  extract_lets +onlyGivenNames bell tick period pd delay
  rw [if_neg (by simp [hfollows, bell, tick, hbell, hnew])]
  extract_lets +onlyGivenNames f s1 _ s2 mine due
  have haligned2 : s2.tick.aligned = true := (congrArg Tick.aligned htick).trans haligned
  rw [if_neg (by rw [haligned2]; simp)]
  extract_lets +onlyGivenNames _ s3 s4
  have hs3 : s3 = marked p pl s := rfl
  have hphase3 : s3.tick.phase ≠ .run := fun h => hphase ((congrArg Tick.phase htick).symm.trans h)
  have hs4 : s4 = marked p pl s := (if_neg hphase3).trans hs3
  have hdue : due = (marked p pl s).tick.nextAt := rfl
  rw [hs4, if_pos hmay, hdue]

/-- What a follower does that has heard no marker 2 us after the open that it expects (13 R352). -/
def unheard (s : State) : State :=
  let u := passTo (s.tick.nextAt + us 2) s
  { u with tick := { u.tick with bellLost := true, aligned := false } }

theorem markLost_open (hmay : mayOpen s = true) (hfollows : follows s = true) (hmarked : s.tick.marked = none) (hnext : s.tick.next = .none)
    (htrip : s.power.tripped = false) : ∃ t o, Goes .markLost s t ∧ t.clk = (unheard s).clk ∧
      t.tick = { idleTick (openedTick (unheard s).clk s.tick.nextAt (unheard s).tick) o with nextAt := s.tick.nextAt + us s.tick.periodUs } := by
  obtain ⟨t, hwork, ht⟩ := openWork_idle (s := unheard s) hnext htrip s.tick.nextAt
  obtain ⟨o, htick⟩ := ht.tick
  have hidle : t.tick.isIdle = true := by rw [htick]; rfl
  obtain ⟨hbellen, hown⟩ := follows_of_idle (s := unheard s) hfollows ht
  refine ⟨{ raise 0 0 none 0x1006 s.tick.bell.toNat t with
    tick := { t.tick with periodUs := s.tick.periodUs, nextAt := s.tick.nextAt + us s.tick.periodUs } }, o, ?_, ?_, ?_⟩
  · unfold Goes exec execMarkLost
    rw [if_neg (by simp [hmay, hfollows, hmarked])]
    extract_lets +onlyGivenNames due period s1 _ s2 bell r s3
    have hr : r = ([], t) := hwork
    have hs3 : s3 = raise 0 0 none 0x1006 s.tick.bell.toNat t := by
      unfold s3
      rw [hr]
      rfl
    rw [hr, hs3, if_pos ?_]
    · rw [raise_tick]
      rfl
    · simp [follows, raise_tick, hidle, hbellen, hown]
  · obtain ⟨e, he⟩ := raise_only (s := t) 0 0 none 0x1006 s.tick.bell.toNat
    rw [he]
    exact ht.clk
  · rw [htick]
    rfl

end Markers

/-- Settles O35: at a new marker, and 2 us after the open that it expects, a follower opens as `openWork_idle` says. -/
theorem followersAndMarkers : Obligations.FollowersAndMarkers := by
  unfold Obligations.FollowersAndMarkers
  intro s b p f hboot hdog hphase hbellen hisBell hnext htrip
  have hfollows : follows s = true := follows_iff.mpr ⟨hbellen, hisBell⟩
  refine ⟨fun hhears hgood htype hbell hnew haligned => ?_, fun hmarked => ?_⟩
  · set pl := rdB f 8 240
    set u := flitTake p f s
    have hu : EdgeOnly s u := edge_flitTake ..
    have hv := edge_passedOn p pl u
    have hvtick : (passedOn p pl u).tick = s.tick := hv.tick.trans hu.tick
    have hmay : mayOpen (marked p pl u) = true := by
      refine mayOpen_of (b := b) ?_ ?_ ?_
      · exact (boot_of_edge hv).trans ((boot_of_edge hu).trans hboot)
      · exact (sendMarkers_wdDead ..).trans ((congrArg Test.wdDead (setPort_test ..)).trans hdog)
      · rw [marked, hvtick]
        exact hphase
    have hrun : u.tick.phase ≠ .run := by
      rw [hu.tick]
      rcases hphase with h | h <;> simp [h]
    have htake := takeMarker_new (p := p) (pl := pl) (s := u) (by rwa [follows, hu.tick]) (by rwa [hu.tick]) (by rwa [hu.tick])
      (by rwa [hu.tick]) hrun hmay
    have hgo : Goes (.tickMarker p f) s (takeMarker p pl u) := by
      simp only [Goes, exec, execTickMarker, hhears, hgood, htype]
      rfl
    have hfollower : follows (marked p pl u) = true := by
      rw [marked, follows, hvtick]
      exact hfollows
    have hplanless : (marked p pl u).tick.next = .none := by
      rw [marked, hvtick]
      exact hnext
    have huntripped : (marked p pl u).power.tripped = false := (congrArg Power.tripped (hv.power.trans hu.power)).trans htrip
    obtain ⟨o, htick⟩ := openMarked_idle hfollower hplanless huntripped (marked p pl u).tick.nextAt (marked p pl u).tick.nextAt
      (rdN pl 16 8 % 2 ^ 18)
    rw [← htake, marked, hvtick] at htick
    refine ⟨_, hgo, ?_, ?_, ?_, ?_, ?_⟩ <;> rw [htick] <;> rfl
  · obtain ⟨t, o, hgo, hclk, htick⟩ := markLost_open (mayOpen_of hboot hdog hphase) hfollows hmarked hnext htrip
    refine ⟨t, hgo, ?_, ?_, ?_, ?_, hclk, ?_, ?_⟩ <;> rw [htick] <;> rfl

end Sys2Proof.Proofs

namespace Sys2Proof.Proofs

open Sys2Proof Sys2Proof.Machine Sys2Proof.Claims Sys2Proof.Laws

/-! ### The fold state of a partition -/

section FoldState

variable {s : State} {p : Nat}

theorem foldSt_modFold (h : smapWf Part.reset s.parts = true) (p : Nat) (g : Fold → Fold) :
    (getPart (modFold p g s) p).foldSt = g (getPart s p).foldSt := by
  rw [modFold, modPart, getPart_setPart h, if_pos rfl]

theorem foldSt_of_parts {t : State} (h : t.parts = s.parts) (p : Nat) : (getPart t p).foldSt = (getPart s p).foldSt := by
  rw [getPart, h, getPart]

theorem foldMoving_of_xfers {t : State} (h : t.xfers = s.xfers) (p : Nat) : foldMoving t p = foldMoving s p := by
  rw [foldMoving, h, foldMoving]

/-- A value put at many keys, read back. -/
theorem smapGet_setAll {α : Type} [DecidableEq α] {d v : α} (ks : List Nat) (n : Nat) {m : SMap α} (h : smapWf d m = true) :
    smapGet d (ks.foldl (fun m k => smapSet d m k v) m) n = if n ∈ ks then v else smapGet d m n := by
  induction ks generalizing m with
  | nil => rfl
  | cons k ks ih =>
    rw [List.foldl_cons, ih (wf_set k v h), get_set k n v (canon_of_wf d m h)]
    by_cases hk : n = k <;> simp [hk]

theorem wp_clearWp (h : smapWf false s.bonded.wp = true) (pages : List Nat) (pg : Nat) :
    smapGet false (clearWp pages s).bonded.wp pg = if pg ∈ pages then false else smapGet false s.bonded.wp pg :=
  smapGet_setAll pages pg h

end FoldState

/-! ### Reads by the belfry where every parity bit is right (09 R237, R240, R245) -/

section Reads

variable {s t u : State}

/-- No byte of bonded memory and no entry for a page has a wrong parity bit. -/
structure GoodParity (s : State) : Prop where
  data : s.bonded.bad = []
  attr : s.bonded.attrBad = []

theorem HasBeenRead.refl (s : State) : HasBeenRead s s := ⟨_, _, _, rfl⟩

theorem HasBeenRead.trans (h : HasBeenRead s t) (h' : HasBeenRead t u) : HasBeenRead s u := by
  obtain ⟨_, _, _, rfl⟩ := h
  obtain ⟨k, sl, b, rfl⟩ := h'
  exact ⟨k, sl, b, rfl⟩

theorem GoodParity.after_read (h : GoodParity s) (ht : HasBeenRead s t) : GoodParity t := by
  obtain ⟨_, _, _, rfl⟩ := ht
  exact ⟨h.data, h.attr⟩

theorem GoodParity.pageStops_state (h : GoodParity s) (pg : Nat) : (pageStops pg s).2 = s :=
  if_neg (by simp [h.attr, smapGet])

theorem GoodParity.ctlRead_eq (h : GoodParity s) (a : Nat) (who : Option Nat) : ctlRead a who s = (false, s) := by
  simp [ctlRead, badByte, h.data]

/-- A POISON page may stop a read, but changes nothing. -/
theorem hasBeenRead_belRead (h : GoodParity s) (a n : Nat) : HasBeenRead s (belRead a n s).2.2 := by
  unfold belRead
  extract_lets t r
  have ht : HasBeenRead s t := hasBeenRead_waitHold a n s
  have hr : r.2 = t := by
    refine List.foldlRecOn (motive := fun x : Bool × State => x.2 = t) (granules a n) _ rfl fun x hx g _ => ?_
    have hgood : GoodParity x.2 := hx ▸ h.after_read ht
    extract_lets q
    have hq : q.2 = x.2 := hgood.pageStops_state _
    split
    · exact hx
    split
    · exact hq.trans hx
    · rw [hq, hgood.ctlRead_eq]
      exact hx
  rw [hr]
  split
  · exact ht
  · exact ht.after_cntRange a n

theorem hasBeenRead_partRead (h : GoodParity s) (p a n : Nat) : HasBeenRead s (partRead p a n s).2.2 :=
  (hasBeenRead_belRead h a n).after_chargeRead p a n

/-- A read of pages keeps their places; only what stands in them is taken (14 R386). -/
theorem readPages_pages (h : GoodParity s) (p : Nat) (ps : List (FoldPage × Option (List Byte))) :
    (readPages p ps s).1.map Prod.fst = ps.map Prod.fst ∧ HasBeenRead s (readPages p ps s).2 := by
  induction ps using List.reverseRecOn with
  | nil => exact ⟨rfl, .refl s⟩
  | append_singleton ps e ih =>
    unfold readPages at ih ⊢
    rw [List.foldl_append, List.foldl_cons, List.foldl_nil]
    generalize List.foldl _ ([], s) ps = x at ih ⊢
    obtain ⟨hpages, hread⟩ := ih
    split
    · exact ⟨by simp [hpages], hread⟩
    · exact ⟨by simp [hpages], hread.trans (hasBeenRead_partRead (h.after_read hread) p _ _)⟩

end Reads

/-! ### Writes to another chip (16 R427, R435) -/

section Sends

variable {s : State} {chip : Nat}

theorem edge_with_xfers {t : State} (h : EdgeOnly s t) (xs : List Xfer) : EdgeOnly { s with xfers := xs } { t with xfers := xs } := by
  rw [h]
  rfl

/-- Writes to another chip are on their way as a transfer, or have failed; here they change nothing but the peer edge. -/
theorem gSend_elsewhere (hchip : chip ≠ chipNo s) (owner : XOwner) (part : Nat) (ws : List (Nat × Nat × List Byte)) :
    (∃ t k x, gSend owner part chip ws s = (1, t) ∧ x.owner = owner ∧ EdgeOnly { s with nuid := k, xfers := s.xfers ++ [x] } t)
    ∨ (∃ t k, gSend owner part chip ws s = (2, t) ∧ EdgeOnly { s with nuid := k } t) := by
  unfold gSend
  rw [if_neg hchip]
  extract_lets +onlyGivenNames u ts r tag _ x
  have hr : EdgeOnly u.2 r.2 := edge_queueTxns 3 ts u.2
  split
  · exact .inr ⟨_, s.nuid, rfl, edge_injDone s⟩
  split
  · exact .inr ⟨_, _, rfl, .refl u.2⟩
  · have hsent : EdgeOnly { u.2 with xfers := u.2.xfers ++ [x] } { r.2 with xfers := r.2.xfers ++ [x] } := by
      rw [hr.xfers]
      exact edge_with_xfers hr _
    exact .inl ⟨_, _, x, rfl, rfl, hsent.trans (edge_pump _)⟩

end Sends

/-! ### The fold stream (14 R386, R391, R393) -/

section Stream

variable {s : State} {p : Nat}

/-- What holds of a state `t` in which the stream of `s` has read the pages of `l`, and taken WP off them. -/
structure Streams (p : Nat) (l : List FoldPage) (s t : State) : Prop where
  parts   : smapWf Part.reset t.parts = true
  touched : (getPart t p).foldSt.touchUsed = (getPart s p).foldSt.touchUsed
  opened  : ∀ e ∈ l, smapGet false t.bonded.wp e.pg = false
  wp      : smapWf false t.bonded.wp = true
  cores   : t.cores = s.cores
  mem     : t.bonded.mem = s.bonded.mem
  chip    : chipNo t = chipNo s

theorem streams_clearWp {r : State} {l : List FoldPage} {pages : List Nat} {h : Fold → Fold} (hread : HasBeenRead s r)
    (hparts : smapWf Part.reset s.parts = true) (hwp : smapWf false s.bonded.wp = true) (htouch : ∀ f, (h f).touchUsed = f.touchUsed)
    (hpages : ∀ e ∈ l, e.pg ∈ pages) : Streams p l s (clearWp pages (modFold p h r)) := by
  obtain ⟨k, sl, b, rfl⟩ := hread
  refine ⟨wf_set p _ hparts, ?_, fun e he => ?_, wf_setAll pages hwp, rfl, rfl, rfl⟩
  · exact (congrArg Fold.touchUsed (foldSt_modFold hparts p h)).trans (htouch _)
  · exact (wp_clearWp hwp pages e.pg).trans (if_pos (hpages e he))

/-- The stream of an unsent segment: it reads the pages that no rebuild holds back, takes WP off them, and writes them to the partner. -/
theorem foldSegmentStream_goes {n : BitVec 4} {t : Tiers} {g : Segment} (hparts : smapWf Part.reset s.parts = true)
    (htiers : (getPart s n.toNat).foldSt.tiers = some t) (hseg : (getPart s n.toNat).foldSt.seg1 = some g) (hsent : g.sent = false)
    (hrun : s.tick.phase = .run) (hstill : foldMoving s n.toNat = false) (hparity : GoodParity s) (hwp : smapWf false s.bonded.wp = true) :
    ∃ ws u, Streams n.toNat ((g.pages.filter (fun e => !pageRebuilt s e.1)).map Prod.fst) s u ∧
      let q := gSend (.fold n.toNat) n.toNat t.partner ws u
      Goes (.foldSegmentStream n) s (if q.1 = 0 then modFold n.toNat (fun f => { f with seg1 := segSent f.seg1, touchUsed := [] }) q.2
        else if q.1 = 2 then foldBroken n.toNat q.2 else q.2) := by
  obtain ⟨hpages, hread⟩ := readPages_pages hparity n.toNat (g.pages.filter (fun e => !pageRebuilt s e.1))
  simp -zeta only [Goes, exec, execFoldSegmentStream]
  extract_lets +onlyGivenNames p f
  have hseg : f.seg1 = some g := hseg
  have htiers : f.tiers = some t := htiers
  simp -zeta only [hseg, htiers]
  rw [if_neg (by simp [hrun, hsent, p, hstill])]
  extract_lets +onlyGivenNames r _ _ _ g2 _ ws u _
  refine ⟨ws, u, streams_clearWp hread hparts hwp (fun _ => rfl) fun e he => ?_, rfl⟩
  rw [← hpages] at he
  obtain ⟨x, hx, rfl⟩ := List.mem_map.mp he
  exact List.mem_map_of_mem hx

/-- What a stream leaves once its writes are on their way, or have failed: WP is off its pages, and their touch copies are kept just while
they move (14 R386). -/
structure Streamed (p : Nat) (l : List FoldPage) (s t : State) : Prop where
  touched : (getPart t p).foldSt.touchUsed = if foldMoving t p then (getPart s p).foldSt.touchUsed else []
  opened  : ∀ e ∈ l, smapGet false t.bonded.wp e.pg = false
  cores   : t.cores = s.cores
  mem     : t.bonded.mem = s.bonded.mem

/-- Writes of the stream that are on their way. -/
theorem Streams.moving {l : List FoldPage} {u t : State} {k : Nat} {x : Xfer} (h : Streams p l s u) (hx : x.owner = .fold p)
    (ht : EdgeOnly { u with nuid := k, xfers := u.xfers ++ [x] } t) : Streamed p l s t := by
  have hbonded : t.bonded = u.bonded := ht.bonded
  have hmoving : foldMoving t p = true := (foldMoving_of_xfers ht.xfers p).trans (by simp [foldMoving, hx])
  refine ⟨?_, fun e he => ?_, ht.cores.trans h.cores, ?_⟩
  · rw [hmoving, if_pos rfl, ← h.touched]
    exact congrArg Fold.touchUsed (foldSt_of_parts ht.parts p)
  · rw [hbonded]
    exact h.opened e he
  · rw [hbonded, h.mem]

/-! ### A fold whose partner is out of reach (14 R393) -/

/-- The transfers of a partition's fold and log. -/
def isFoldXfer (p : Nat) (o : XOwner) : Bool := decide (o = .fold p) || decide (o = .foldDone p) || decide (o = .log p)

/-- A fold that is given up. -/
def givenUp (f : Fold) : Fold := { f with seg1 := none, done1 := none, touchUsed := [], logTick := none, t1State := 2 }

/-- Pages lose WP at most, the transfers concern nobody any more, and an event tells of it. -/
theorem foldBroken_only (p : Nat) (s : State) : ∃ pages e,
    foldBroken p s = { modFold p givenUp (disown (isFoldXfer p) (clearWp pages s)) with events := e } := by
  unfold foldBroken
  extract_lets +onlyGivenNames f s1 _ _
  obtain ⟨pages, hpages⟩ : ∃ pages, s1 = clearWp pages s := by
    unfold s1
    split
    next g _ => exact ⟨g.pages.map (fun e => e.1.pg), rfl⟩
    next => exact ⟨[], rfl⟩
  exact ⟨pages, hpages ▸ raise_only ..⟩

theorem foldMoving_disown (p : Nat) (s : State) : foldMoving (disown (isFoldXfer p) s) p = false := by
  simp only [foldMoving, disown, List.any_map, List.any_eq_false]
  intro x _
  by_cases hx : isFoldXfer p x.owner = true
  · simp [hx]
  · have howner : x.owner ≠ .fold p := fun h => hx (by simp [isFoldXfer, h])
    simp [hx, howner]

/-- Writes of the stream that have failed. -/
theorem Streams.broken {l : List FoldPage} {u t : State} {k : Nat} (h : Streams p l s u) (ht : EdgeOnly { u with nuid := k } t) :
    Streamed p l s (foldBroken p t) := by
  obtain ⟨pages, e, hbroken⟩ := foldBroken_only p t
  have hparts : t.parts = u.parts := ht.parts
  have hbonded : t.bonded = u.bonded := ht.bonded
  have hform : smapWf Part.reset t.parts = true := hparts ▸ h.parts
  have hmoving : foldMoving (foldBroken p t) p = false := by
    rw [hbroken]
    exact foldMoving_disown p (clearWp pages t)
  refine ⟨?_, fun e he => ?_, ?_, ?_⟩
  · rw [hmoving, hbroken]
    exact congrArg Fold.touchUsed (foldSt_modFold (s := disown (isFoldXfer p) (clearWp pages t)) hform p givenUp)
  · rw [hbroken]
    refine (wp_clearWp (s := t) (hbonded ▸ h.wp) pages e.pg).trans ?_
    rw [hbonded, h.opened e he, ite_self]
  · rw [hbroken]
    exact ht.cores.trans h.cores
  · rw [hbroken]
    exact (congrArg Bonded.mem hbonded).trans h.mem

theorem foldSegmentStream_streamed {n : BitVec 4} {t : Tiers} {g : Segment} (hparts : smapWf Part.reset s.parts = true)
    (htiers : (getPart s n.toNat).foldSt.tiers = some t) (hseg : (getPart s n.toNat).foldSt.seg1 = some g) (hsent : g.sent = false)
    (hrun : s.tick.phase = .run) (hstill : foldMoving s n.toNat = false) (hpartner : t.partner ≠ chipNo s) (hparity : GoodParity s)
    (hwp : smapWf false s.bonded.wp = true) :
    ∃ s', Goes (.foldSegmentStream n) s s' ∧ Streamed n.toNat ((g.pages.filter (fun e => !pageRebuilt s e.1)).map Prod.fst) s s' := by
  obtain ⟨ws, u, hstreams, hgo⟩ := foldSegmentStream_goes hparts htiers hseg hsent hrun hstill hparity hwp
  have hchip : t.partner ≠ chipNo u := hstreams.chip ▸ hpartner
  rcases gSend_elsewhere hchip (.fold n.toNat) n.toNat ws with ⟨v, k, x, hq, hx, hv⟩ | ⟨v, k, hq, hv⟩
  · rw [hq] at hgo
    exact ⟨v, hgo, hstreams.moving hx hv⟩
  · rw [hq] at hgo
    exact ⟨foldBroken n.toNat v, hgo, hstreams.broken hv⟩

end Stream

/-! ### Log records (14 R396) -/

section Logs

variable {s : State} {n : BitVec 4} {t : Tiers} {r : LogRec}

/-- The newest tick of durable records, a record more seen. -/
def newestDurable (k : Nat) (r : LogRec) : Nat := if r.flashOk && r.linkOk then max k r.tick else k

theorem logDurable_eq (f : Fold) : logDurable f = { f with logLast := f.logs.foldl newestDurable f.logLast } := rfl

theorem le_foldl_newestDurable (l : List LogRec) (k : Nat) : k ≤ l.foldl newestDurable k :=
  List.foldlRecOn (motive := fun m => k ≤ m) l _ (Nat.le_refl k) fun m hm r _ => by
    unfold newestDurable
    split
    · exact hm.trans (Nat.le_max_left ..)
    · exact hm

theorem tick_le_foldl_newestDurable {l : List LogRec} (hr : r ∈ l) (hflash : r.flashOk = true) (hlink : r.linkOk = true) (k : Nat) :
    r.tick ≤ l.foldl newestDurable k := by
  induction l generalizing k with
  | nil => nomatch hr
  | cons x l ih =>
    rcases List.mem_cons.mp hr with rfl | hr
    · have hnew : newestDurable k r = max k r.tick := by simp [newestDurable, hflash, hlink]
      exact (hnew ▸ Nat.le_max_right k r.tick).trans (le_foldl_newestDurable l _)
    · exact ih hr _

/-- The record of a tick is in flash. -/
def inFlash (tick : Nat) (f : Fold) : Fold :=
  { f with logs := f.logs.map (fun x => if x.tick = tick then { x with flashOk := true } else x) }

theorem flashOk_of_inFlash {f : Fold} {tick : Nat} {x : LogRec} (hx : x ∈ (inFlash tick f).logs) (htick : x.tick = tick) :
    x.flashOk = true := by
  obtain ⟨y, -, rfl⟩ := List.mem_map.mp hx
  by_cases hy : y.tick = tick
  · rw [if_pos hy]
  · rw [if_neg hy] at htick
    exact absurd htick hy

/-- A record that the partner has acknowledged is durable once it is in flash. -/
theorem tick_le_logDurable_inFlash {f : Fold} (hr : r ∈ f.logs) (hlink : r.linkOk = true) : r.tick ≤ (logDurable (inFlash r.tick f)).logLast := by
  have hmem : { r with flashOk := true } ∈ (inFlash r.tick f).logs := List.mem_map.mpr ⟨r, hr, if_pos rfl⟩
  rw [logDurable_eq]
  exact tick_le_foldl_newestDurable hmem rfl hlink _

/-- A record that flash alone lacks is written there, at the offset it has in the partner's ring (log 94). -/
theorem logRecordWrite_goes (htiers : (getPart s n.toNat).foldSt.tiers = some t)
    (hfind : (getPart s n.toNat).foldSt.logs.find? (logWaiting s (getPart s n.toNat).foldSt) = some r) (hflash : r.flashOk = false)
    (hserves : flashServes s = true) (hlink : r.linkOk = true) (hskip : r.skip = none) :
    Goes (.logRecordWrite n) s
      (modFold n.toNat (fun f => logDurable (inFlash r.tick f)) (flashWrite n.toNat (t.flOff + r.off) r.bytes s)) := by
  have hwrites : logWrites .t2 n.toNat t.flOff r = [(t.flOff + r.off, r.bytes)] := by simp [logWrites, hskip]
  simp only [Goes, exec, execLogRecordWrite, htiers, hfind, hflash, hserves, hlink, hwrites]
  rfl

end Logs

/-! ### Tier 2, digests and stores (14 R389, R390, R394, R397) -/

section Completions

variable {s : State} {n : BitVec 4}

theorem foldSegmentComplete_t2_goes {t : Tiers} {g : Segment} (htiers : (getPart s n.toNat).foldSt.tiers = some t)
    (hseg : (getPart s n.toNat).foldSt.seg2 = some g) (hsent : g.sent = true) (hserves : flashServes s = true) :
    Goes (.foldSegmentComplete n .t2) s (modFold n.toNat
      (fun f => { f with seg2 := none, t2Last := g.last, versions := f.versions ++ segVersions .t2 (t.flOff + t.logLen) g })
      (flashWrite n.toNat (t.flOff + t.logLen + g.off + 0x28) (natLe 8 (g.last + 1)) s)) := by
  simp only [Goes, exec, execFoldSegmentComplete, hseg, htiers, hsent, hserves]
  rfl

theorem commitDigestCompute_goes (hsome : (getPart s n.toNat).foldSt.pendDig ≠ [])
    (hall : ∀ d ∈ (getPart s n.toNat).foldSt.pendDig, d.2.isSome = true) :
    Goes (.commitDigestCompute n) s (modFold n.toNat (fun f => { f with
      haveDig := (getPart s n.toNat).foldSt.pendDig.map (fun d => shake256 16 (d.2.getD []))
      haveTick := (getPart s n.toNat).foldSt.pendTick, pendDig := [] }) s) := by
  have hknown : ((getPart s n.toNat).foldSt.pendDig.isEmpty || (getPart s n.toNat).foldSt.pendDig.any (fun d => d.2.isNone)) = false := by
    simpa [hsome, Option.isSome_iff_ne_none] using hall
  simp only [Goes, exec, execCommitDigestCompute, hknown]
  rfl

theorem storeComplete_goes {x : Store} {rest : List Store} {bs : List Byte} {s0 : State}
    (hstores : (getPart s n.toNat).foldSt.stores = x :: rest) (hserves : flashServes s = true)
    (hpages : storePages n.toNat (x.len / 4096) x.bbase s = (bs, none, s0)) :
    Goes (.storeComplete n) s (modFold n.toNat (fun f => { f with stores := rest, storeDone := f.storeDone + 1 })
      (flashWrite n.toNat x.dst bs s0)) := by
  simp only [Goes, exec, execStoreComplete, hstores, hserves, show storePages n.toNat (x.len / pageSize) x.bbase s = _ from hpages]
  rfl

end Completions

/-- Settles O44: the stream ends as `foldSegmentStream_streamed` says, whether its writes are on their way or have failed; each other
command writes to flash or to the fold state, once. The place of a log record in flash is the one of the partner's ring (log 94). -/
theorem foldOutputs : Obligations.FoldOutputs := by
  unfold Obligations.FoldOutputs
  intro s n t p f hparts htiers
  refine ⟨fun g hseg hsent hrun hstill hpartner hbad hattr hwp => ?_, fun g hseg hsent hserves => ?_,
    fun r hfind hflash hserves hlink hskip => ?_, commitDigestCompute_goes, fun x rest bs s0 hstores hserves hpages =>
      ⟨_, storeComplete_goes hstores hserves hpages, rfl⟩⟩
  · obtain ⟨s', hgo, h⟩ := foldSegmentStream_streamed hparts htiers hseg hsent hrun hstill hpartner ⟨hbad, hattr⟩ hwp
    refine ⟨s', hgo, h.touched, fun e he hready => h.opened e.1 ?_, h.cores, h.mem⟩
    exact List.mem_map_of_mem (List.mem_filter.mpr ⟨he, by simp [hready]⟩)
  · have hfold := foldSt_modFold (s := flashWrite p (t.flOff + t.logLen + g.off + 0x28) (natLe 8 (g.last + 1)) s) hparts p
      (fun f => { f with seg2 := none, t2Last := g.last, versions := f.versions ++ segVersions .t2 (t.flOff + t.logLen) g })
    exact ⟨_, foldSegmentComplete_t2_goes htiers hseg hsent hserves, congrArg Fold.seg2 hfold, congrArg Fold.t2Last hfold, rfl, rfl, rfl⟩
  · have hfold : _ = logDurable (inFlash r.tick f) :=
      foldSt_modFold (s := flashWrite p (t.flOff + r.off) r.bytes s) hparts p (fun f => logDurable (inFlash r.tick f))
    refine ⟨_, logRecordWrite_goes htiers hfind hflash hserves hlink hskip, rfl, ?_⟩
    rw [hfold]
    exact ⟨fun x => flashOk_of_inFlash, le_foldl_newestDurable .., tick_le_logDurable_inFlash (List.mem_of_find?_eq_some hfind) hlink, rfl⟩

end Sys2Proof.Proofs

namespace Sys2Proof.Proofs

open Sys2Proof Sys2Proof.Machine Sys2Proof.Claims Sys2Proof.Laws

/-! ### What sending changes of a port (16 R428 to R432) -/

/-- A port but for what sending, and waiting to be sent, change of it. -/
def unsent (v : BkPort) : BkPort :=
  { v with txSeq := 0, rot := 0, turn := [], credits := [], sent := [], txFlits := 0, lastAck := 0, replay := [], txq := [], regq := []
           ret := [], crret := [], ackDue := false, parts := [] }

/-- A port but for what the flits without a SEQ change of it. -/
def unreturned (v : BkPort) : BkPort := { v with ret := [], crret := [], ackDue := false }

/-- The peer edge but for what sending changes of its ports. -/
def unsentEdge (l : Links) : Links :=
  { l with portN := unsent l.portN, portE := unsent l.portE, portS := unsent l.portS, portW := unsent l.portW }

/-- A port of the peer edge. -/
def portOf (l : Links) : BPort → BkPort
  | .n => l.portN
  | .e => l.portE
  | .s => l.portS
  | .w => l.portW

theorem portOf_links (s : State) (p : BPort) : portOf s.links p = getPort s p := by cases p <;> rfl

theorem getPort_of_links {s t : State} (h : t.links = s.links) (p : BPort) : getPort t p = getPort s p := by
  rw [← portOf_links, h, portOf_links]

theorem getPort_modPort (p q : BPort) (g : BkPort → BkPort) (s : State) :
    getPort (modPort p g s) q = if q = p then g (getPort s p) else getPort s q := getPort_setPort ..

/-- From `l₀` to `l` the ports have sent flits, and queued them, at most; one that is not UP has sent no new one. -/
structure Sent (l₀ l : Links) : Prop where
  edge   : unsentEdge l = unsentEdge l₀
  replay : ∀ p, (portOf l₀ p).st ≠ .up → (portOf l p).replay = (portOf l₀ p).replay

section Sending

variable {s t : State} {l : Links}

theorem Sent.refl (l : Links) : Sent l l := ⟨rfl, fun _ _ => rfl⟩

theorem Sent.port (h : Sent s.links t.links) : ∀ p, unsent (getPort t p) = unsent (getPort s p)
  | .n => congrArg Links.portN h.edge
  | .e => congrArg Links.portE h.edge
  | .s => congrArg Links.portS h.edge
  | .w => congrArg Links.portW h.edge

theorem Sent.rx (h : Sent s.links t.links) : t.links.rx = s.links.rx := (congrArg Links.rx h.edge :)

theorem Sent.portOf_st (h : Sent l s.links) (p : BPort) : (portOf l p).st = (getPort s p).st := by
  cases p
  · exact (congrArg (fun x : Links => x.portN.st) h.edge).symm
  · exact (congrArg (fun x : Links => x.portE.st) h.edge).symm
  · exact (congrArg (fun x : Links => x.portS.st) h.edge).symm
  · exact (congrArg (fun x : Links => x.portW.st) h.edge).symm

theorem Sent.replay_down (h : Sent s.links t.links) {p : BPort} (hp : (getPort s p).st ≠ .up) :
    (getPort t p).replay = (getPort s p).replay := by
  rw [← portOf_links, ← portOf_links]
  exact h.replay p (by rwa [portOf_links])

/-! ### The ports, one after another -/

/-- An update of a port that changes only what sending changes of it. -/
theorem Sent.after_setPort (h : Sent l s.links) {p : BPort} {v : BkPort} (hv : unsent v = unsent (getPort s p))
    (hreplay : (getPort s p).st ≠ .up → v.replay = (getPort s p).replay) : Sent l (setPort p v s).links := by
  refine ⟨Eq.trans ?_ h.edge, fun q hq => ?_⟩
  · cases p <;> simpa [unsentEdge, setPort, getPort] using hv
  · rw [portOf_links, getPort_setPort]
    split
    next hqp =>
      subst hqp
      rw [hreplay (h.portOf_st q ▸ hq), ← h.replay q hq, portOf_links]
    next => rw [← h.replay q hq, portOf_links]

theorem Sent.after_modPort (h : Sent l s.links) {p : BPort} {g : BkPort → BkPort} (hg : ∀ v, unsent (g v) = unsent v)
    (hreplay : ∀ v, (g v).replay = v.replay) : Sent l (modPort p g s).links := h.after_setPort (hg _) fun _ => hreplay _

theorem Sent.of_links (h : Sent l s.links) (ht : t.links = s.links) : Sent l t.links := ht ▸ h

theorem Sent.foldl {α : Type} (h : Sent l s.links) {g : State → α → State} {as : List α}
    (hg : ∀ s a, Sent l s.links → Sent l (g s a).links) : Sent l (as.foldl g s).links :=
  List.foldlRecOn (motive := fun s : State => Sent l s.links) as g h fun s hs a _ => hg s a hs

theorem Sent.foldl_in {α β : Type} {x : β} (st : β → State) (h : Sent l (st x).links) {g : β → α → β} {as : List α}
    (hg : ∀ x a, Sent l (st x).links → Sent l (st (g x a)).links) : Sent l (st (as.foldl g x)).links :=
  List.foldlRecOn (motive := fun x => Sent l (st x).links) as g h fun x hx a _ => hg x a hx

theorem Sent.ite {p : Prop} {d : Decidable p} (h : Sent l s.links) (h' : Sent l t.links) : Sent l (if p then s else t).links := by
  split <;> assumption

theorem injFlit_links (p : BPort) (ty : Nat) (bs : List Byte) (s : State) : (injFlit p ty bs s).2.links = s.links := by
  unfold injFlit
  split
  · rfl
  · split <;> rfl

/-- A flit that leaves a port takes the credits that are due and the ACK with it. -/
theorem emitFlit_port (p : BPort) (ty seq vc : Nat) (pl : List Byte) (s : State) : ∃ u : State, u.links = s.links ∧
    emitFlit p ty seq vc pl s = setPort p { creditTaken (getPort s p) with ackDue := false } u :=
  ⟨_, (emit_links ..).trans (injFlit_links ..), rfl⟩

theorem Sent.after_emitFlit (h : Sent l s.links) {p : BPort} {ty seq vc : Nat} {pl : List Byte} : Sent l (emitFlit p ty seq vc pl s).links := by
  obtain ⟨u, hu, he⟩ := emitFlit_port p ty seq vc pl s
  rw [he]
  refine (h.of_links hu).after_setPort ?_ fun _ => ?_ <;> rw [getPort_of_links hu] <;> rfl

theorem Sent.after_freeBuf (h : Sent l s.links) {buf : Option (Nat × Nat)} : Sent l (freeBuf buf s).links := by
  unfold freeBuf
  split
  · split
    · exact h.after_modPort (fun _ => rfl) fun _ => rfl
    · exact h
  · exact h

theorem Sent.after_pumpData {p : BPort} {n : Nat} (h : Sent l s.links) : Sent l (pumpData p n s).links := by
  induction n generalizing s with
  | zero => exact h
  | succ n ih =>
    unfold pumpData
    extract_lets v
    split
    · exact h
    next hup =>
      have hst : (getPort s p).st = .up := by simp_all [v]
      split
      · exact h
      · exact ih (Sent.after_setPort h (by rfl) (absurd hst)).after_freeBuf.after_emitFlit

theorem Sent.after_pumpIdle {p : BPort} {n : Nat} (h : Sent l s.links) : Sent l (pumpIdle p n s).links := by
  induction n generalizing s with
  | zero => exact h
  | succ n ih =>
    unfold pumpIdle
    exact .ite h (.ite h (ih h.after_emitFlit))

theorem Sent.after_admitFlits (h : Sent l s.links) {p : BPort} : Sent l (admitFlits p s).links := by
  unfold admitFlits
  extract_lets q
  refine .ite h (.after_modPort (.foldl_in Prod.snd h fun x f hs => ?_) (fun _ => rfl) fun _ => rfl)
  extract_lets part
  split
  · exact hs
  · exact Sent.after_modPort (s := debit part (200 + portNo p) 240 x.2) hs (fun _ => rfl) fun _ => rfl

theorem Sent.after_pump (h : Sent l s.links) : Sent l (pump s).links :=
  .foldl (.foldl (.foldl h fun _ _ hs => hs.after_admitFlits) fun _ _ hs => hs.after_pumpData) fun _ _ hs => hs.after_pumpIdle

theorem Sent.after_queueTxn (h : Sent l s.links) {cls : Nat} {t : Txn} : Sent l (queueTxn cls t s).2.links := by
  unfold queueTxn queueBy
  split
  · exact h
  · extract_lets v f
    split
    · exact h
    · refine h.after_setPort ?_ fun _ => ?_ <;> split <;> rfl

theorem Sent.after_queueTxns (h : Sent l s.links) {cls : Nat} {ts : List Txn} : Sent l (queueTxns cls ts s).2.links :=
  .foldl_in Prod.snd h fun _ _ hs => hs.after_queueTxn

theorem Sent.after_sendRefuse (h : Sent l s.links) {t : Txn} {reason : Nat} : Sent l (sendRefuse t reason s).links := h.after_queueTxn

theorem Sent.after_withdraw (h : Sent l s.links) {chip : Nat} {tag : BitVec 24} : Sent l (withdraw chip tag s).links := by
  unfold withdraw
  split
  · exact h.after_modPort (fun _ => rfl) fun _ => rfl
  · exact h

/-! ### A port with nothing to send returns credits and its ACK alone -/

theorem unreturned_emitFlit (p q : BPort) (ty seq vc : Nat) (pl : List Byte) (s : State) :
    unreturned (getPort (emitFlit p ty seq vc pl s) q) = unreturned (getPort s q) := by
  obtain ⟨u, hu, he⟩ := emitFlit_port p ty seq vc pl s
  rw [he, getPort_setPort, getPort_of_links hu]
  split
  next hqp => rw [hqp]; rfl
  next => rfl

theorem unreturned_freeBuf (buf : Option (Nat × Nat)) (q : BPort) (s : State) :
    unreturned (getPort (freeBuf buf s) q) = unreturned (getPort s q) := by
  unfold freeBuf
  split
  · split
    · rw [getPort_modPort]
      split
      next hqp => rw [hqp]; rfl
      next => rfl
    · rfl
  · rfl

theorem unreturned_pumpIdle (p q : BPort) : ∀ (n : Nat) (s : State), unreturned (getPort (pumpIdle p n s) q) = unreturned (getPort s q)
  | 0, _ => rfl
  | n + 1, s => by
    unfold pumpIdle
    extract_lets v
    split
    · rfl
    split
    · rfl
    · exact (unreturned_pumpIdle p q n _).trans (unreturned_emitFlit ..)

theorem unreturned_pumpData_other {p q : BPort} (hqp : q ≠ p) :
    ∀ (n : Nat) (s : State), unreturned (getPort (pumpData p n s) q) = unreturned (getPort s q)
  | 0, _ => rfl
  | n + 1, s => by
    unfold pumpData
    extract_lets v
    split
    · rfl
    split
    · rfl
    · refine (unreturned_pumpData_other hqp n _).trans ((unreturned_emitFlit ..).trans ((unreturned_freeBuf ..).trans ?_))
      rw [getPort_setPort, if_neg hqp]

theorem getPort_admitFlits_other {p q : BPort} (hqp : q ≠ p) (s : State) : getPort (admitFlits p s) q = getPort s q := by
  unfold admitFlits
  extract_lets w
  split
  · rfl
  · rw [getPort_modPort, if_neg hqp]
    refine List.foldlRecOn (motive := fun x : List TxFlit × State => getPort x.2 q = getPort s q) w _ rfl fun x hx f _ => ?_
    extract_lets part
    split
    · exact hx
    · rw [getPort_modPort, if_neg hqp]
      exact (getPort_of_links (s := x.2) rfl q).trans hx

theorem unreturned_foldl {p : BPort} {g : State → BPort → State} (hg : ∀ s q, (getPort s p).txq = [] → (getPort s p).regq = [] →
    unreturned (getPort (g s q) p) = unreturned (getPort s p)) (ps : List BPort) (s : State) (htxq : (getPort s p).txq = [])
    (hregq : (getPort s p).regq = []) : unreturned (getPort (ps.foldl g s) p) = unreturned (getPort s p) :=
  List.foldlRecOn (motive := fun u : State => unreturned (getPort u p) = unreturned (getPort s p)) ps g rfl fun u hu q _ =>
    (hg u q ((congrArg BkPort.txq hu).trans htxq) ((congrArg BkPort.regq hu).trans hregq)).trans hu

/-- Letting every port send what it can changes of a port with nothing queued only the credits it returns and its due ACK. -/
theorem unreturned_pump {p : BPort} (htxq : (getPort s p).txq = []) (hregq : (getPort s p).regq = []) :
    unreturned (getPort (pump s) p) = unreturned (getPort s p) := by
  have hadmit := unreturned_foldl (p := p) (g := fun s q => admitFlits q s) (fun s q _ hr => by
    by_cases hqp : p = q
    · rw [admitFlits_none (hqp ▸ hr)]
    · rw [getPort_admitFlits_other hqp]) allPorts s htxq hregq
  set s1 := allPorts.foldl (fun s q => admitFlits q s) s
  have htxq1 : (getPort s1 p).txq = [] := (congrArg BkPort.txq hadmit).trans htxq
  have hregq1 : (getPort s1 p).regq = [] := (congrArg BkPort.regq hadmit).trans hregq
  have hdata := unreturned_foldl (p := p) (g := fun s q => pumpData q ((getPort s q).txq.length) s) (fun s q ht _ => by
    by_cases hqp : p = q
    · rw [← hqp, ht]
      rfl
    · exact unreturned_pumpData_other hqp ..) allPorts s1 htxq1 hregq1
  set s2 := allPorts.foldl (fun s q => pumpData q ((getPort s q).txq.length) s) s1
  have hidle := unreturned_foldl (p := p) (g := fun s q => pumpIdle q 64 s) (fun s q _ _ => unreturned_pumpIdle ..) allPorts s2
    ((congrArg BkPort.txq hdata).trans htxq1) ((congrArg BkPort.regq hdata).trans hregq1)
  exact hidle.trans (hdata.trans hadmit)

end Sending

end Sys2Proof.Proofs

namespace Sys2Proof.Proofs

open Sys2Proof Sys2Proof.Machine Sys2Proof.Claims Sys2Proof.Laws

/-! ### What leaves the peer edge as it is: jobs, memory and layers -/

section Unlinked

variable {s : State}

theorem foldl_links {α : Type} {g : State → α → State} {as : List α} (hg : ∀ s a, (g s a).links = s.links) : (as.foldl g s).links = s.links :=
  List.foldlRecOn (motive := fun u : State => u.links = s.links) as g rfl fun u hu a _ => (hg u a).trans hu

/-- A loop that carries a state in what it carries. -/
theorem foldl_in_links {α β : Type} (st : β → State) {g : β → α → β} {as : List α} {x : β} (hg : ∀ x a, (st (g x a)).links = (st x).links) :
    (st (as.foldl g x)).links = (st x).links :=
  List.foldlRecOn (motive := fun y => (st y).links = (st x).links) as g rfl fun y hy a _ => (hg y a).trans hy

theorem ite_links {p : Prop} {d : Decidable p} {t u : State} (ht : t.links = s.links) (hu : u.links = s.links) :
    (if p then t else u).links = s.links := by
  split <;> assumption

section Leaves

variable (s : State)

@[simp] theorem bPut_links (a : Nat) (bs : List Byte) : (bPut a bs s).links = s.links := rfl
@[simp] theorem setPoison_links (pg : Nat) : (setPoison pg s).links = s.links := rfl
@[simp] theorem bondError_links (sl a row : Nat) : (bondError sl a row s).links = s.links := rfl
@[simp] theorem rollSettled_links (sl : Nat) : (rollSettled sl s).links = s.links := rfl
@[simp] theorem cntRead_links (sl n : Nat) : (cntRead sl n s).links = s.links := rfl
@[simp] theorem cntWrite_links (sl n : Nat) : (cntWrite sl n s).links = s.links := rfl
@[simp] theorem noteHeld_links (a : Nat) : (noteHeld a s).links = s.links := rfl
@[simp] theorem memoTouch_links (a n : Nat) : (memoTouch a n s).links = s.links := rfl
@[simp] theorem debit_links (p unit n : Nat) : (debit p unit n s).links = s.links := rfl
@[simp] theorem setLayer_links (l : Layer) : (setLayer l s).links = s.links := rfl
@[simp] theorem setPull_links (layer idx st : Nat) : (setPull layer idx st s).links = s.links := rfl
@[simp] theorem modFold_links (p : Nat) (f : Fold → Fold) : (modFold p f s).links = s.links := rfl
@[simp] theorem disown_links (p : XOwner → Bool) : (disown p s).links = s.links := rfl

end Leaves

@[simp] theorem takeFault_links (n seq code trap : Nat) (fpc : W64) (s : State) : (takeFault n seq code trap fpc s).links = s.links := by
  unfold takeFault
  dsimp only
  repeat' split
  all_goals rfl

@[simp] theorem endJob_links (n seq code : Nat) (st : RunSt) (pc : W64) (s : State) : (endJob n seq code st pc s).links = s.links := by
  unfold endJob
  dsimp only
  repeat' split
  all_goals simp

@[simp] theorem rollP0_links (sl : Nat) (who : Option Nat) (s : State) : (rollP0 sl who s).links = s.links := by
  refine (rollSettled_links ..).trans (foldl_links fun s n => ?_)
  exact ite_links (endJob_links ..) rfl

@[simp] theorem perrInc_links (sl : Nat) (s : State) : (perrInc sl s).links = s.links := ovfEvent_links ..

@[simp] theorem rowRepair_links (sl die bank row : Nat) (s : State) : (rowRepair sl die bank row s).links = s.links := by
  unfold rowRepair
  extract_lets v bk used reserve out ent v1 from' start v2 s1 b s2
  exact ite_links (raise_links s2 ..) rfl

@[simp] theorem parityFound_links (a : Nat) (inj : Bool) (who : Option Nat) (s : State) : (parityFound a inj who s).links = s.links := by
  unfold parityFound
  extract_lets sl o s1 s2 s3 s4
  have h3 : s3.links = s.links := (raiseI_links s2 ..).trans (perrInc_links sl s1)
  have h4 : s4.links = s.links := ite_links h3 ((bondError_links ..).trans ((rowRepair_links ..).trans h3))
  exact ite_links ((rollP0_links ..).trans h4) h4

@[simp] theorem errorsFound_links (a n : Nat) (who : Option Nat) (s : State) : (errorsFound a n who s).links = s.links := by
  unfold errorsFound
  dsimp only
  repeat' split
  all_goals simp

@[simp] theorem ctlRead_links (a : Nat) (who : Option Nat) (s : State) : (ctlRead a who s).2.links = s.links := by
  unfold ctlRead
  split <;> simp

@[simp] theorem streamNow_links (a : Nat) (s : State) : (streamNow a s).links = s.links := by
  unfold streamNow
  dsimp only
  split <;> simp

@[simp] theorem touchHeld_links (a : Nat) (s : State) : (touchHeld a s).links = s.links := by simp [touchHeld]

@[simp] theorem attrInj_links (s : State) : (attrInj s).links = s.links := by
  unfold attrInj
  exact ite_links rfl rfl

@[simp] theorem attrRepair_links (a : Nat) (s : State) : (attrRepair a s).links = s.links := by
  unfold attrRepair
  extract_lets pg inj s1 s2 b s3 s4
  have h1 : s1.links = s.links := (raiseI_links ..).trans (perrInc_links (sliceOf a) s)
  clear_value s1
  have h3 : s3.links = s.links := h1
  have h4 : s4.links = s.links := ite_links ((streamNow_links ..).trans h3) h3
  exact ite_links ((attrInj_links ..).trans h4) h4

@[simp] theorem bStore_links (a : Nat) (bs : List Byte) (s : State) : (bStore a bs s).links = s.links := by
  unfold bStore
  dsimp only
  split <;> simp

@[simp] theorem firstTouch_links (a : Nat) (s : State) : (firstTouch a s).2.links = s.links := by
  unfold firstTouch
  dsimp only
  repeat' split
  all_goals simp

@[simp] theorem addNow_links (op a : Nat) (src : List Byte) (who : Option Nat) (s : State) : (addNow op a src who s).2.links = s.links := by
  unfold addNow
  dsimp only
  repeat' split
  all_goals simp

@[simp] theorem addWaiting_links (op a : Nat) (src : List Byte) (who : Option Nat) (s : State) : (addWaiting op a src who s).2.links = s.links := by
  unfold addWaiting
  dsimp only
  split <;> simp

@[simp] theorem pageStops_links (pg : Nat) (s : State) : (pageStops pg s).2.links = s.links := by
  unfold pageStops
  dsimp only
  split <;> simp

@[simp] theorem waitHold_links (a n : Nat) (s : State) : (waitHold a n s).links = s.links := by
  unfold waitHold
  split <;> rfl

@[simp] theorem cntRange_links (a n : Nat) (s : State) : (cntRange a n s).links = s.links := foldl_links fun _ _ => rfl

@[simp] theorem belRead_links (a n : Nat) (s : State) : (belRead a n s).2.2.links = s.links := by
  unfold belRead
  extract_lets s1 r
  have hr : r.2.links = s.links := (foldl_in_links Prod.snd fun x g => by
    dsimp only
    repeat' split
    all_goals simp).trans (waitHold_links ..)
  split
  · exact hr
  · exact (cntRange_links ..).trans hr

@[simp] theorem belWrite_links (a : Nat) (bs : List Byte) (s : State) : (belWrite a bs s).2.links = s.links := by
  refine (foldl_in_links Prod.snd fun x pb => ?_).trans (waitHold_links ..)
  dsimp only
  repeat' split
  all_goals simp

@[simp] theorem chargeRead_links (p a n : Nat) (s : State) : (chargeRead p a n s).links = s.links := foldl_links fun _ _ => rfl

@[simp] theorem chargeWrite_links (p a n : Nat) (s : State) : (chargeWrite p a n s).links = s.links := foldl_links fun _ _ => rfl

@[simp] theorem partRead_links (p a n : Nat) (s : State) : (partRead p a n s).2.2.links = s.links := (chargeRead_links ..).trans (belRead_links ..)

@[simp] theorem partWrite_links (p a : Nat) (bs : List Byte) (s : State) : (partWrite p a bs s).2.links = s.links :=
  (chargeWrite_links ..).trans (belWrite_links ..)

@[simp] theorem localPut_links (p : Nat) (w : Nat × Nat × List Byte) (s : State) : (localPut p w s).2.links = s.links := by
  unfold localPut
  split
  · rfl
  · split <;> simp

@[simp] theorem imageSemAdd_links (i : Image) (sem v : Nat) (s : State) : (imageSemAdd i sem v s).links = s.links :=
  ite_links (partRead_links ..) ((partWrite_links ..).trans (partRead_links ..))

@[simp] theorem semSignal_links (core part jobid sem : Nat) (s : State) : (semSignal core part jobid sem s).links = s.links := by
  unfold semSignal
  dsimp only
  repeat' split
  all_goals simp [semAdd, semSet]

@[simp] theorem layerRead_links (l : Layer) (a n : Nat) (s : State) : (layerRead l a n s).2.2.links = s.links := by
  unfold layerRead
  split <;> simp

@[simp] theorem layerWord_links (l : Layer) (a k : Nat) (s : State) : (layerWord l a k s).2.links = s.links := layerRead_links ..

@[simp] theorem writeOutcomes_links (l : Layer) (p : Nat → Bool) (s : State) : (writeOutcomes l p s).links = s.links :=
  foldl_links fun s t => by
    unfold layerWrite
    repeat' split
    all_goals simp

@[simp] theorem abortSlots_links (l : Layer) (p : Slot → Bool) (s : State) : (abortSlots l p s).links = s.links := by
  unfold abortSlots
  exact ite_links rfl (by simp)

@[simp] theorem abortOne_links (layer : Nat) (k : Option (Nat × Nat)) (s : State) : (abortOne layer k s).links = s.links := by
  unfold abortOne
  split <;> simp

@[simp] theorem abortAt_links (part g : Nat) (s : State) : (abortAt part g s).links = s.links :=
  foldl_links fun s l => by
    dsimp only
    repeat' split
    all_goals simp

@[simp] theorem expertWrites_links (l : Layer) (e : Nat) (x : Expert) (s : State) : (expertWrites l e x s).2.links = s.links :=
  foldl_in_links Prod.snd fun _ _ => layerRead_links ..

@[simp] theorem outServed_links (layer exp src core sem : Nat) (s : State) : (outServed layer exp src core sem s).links = s.links := by
  unfold outServed
  dsimp only
  repeat' split
  all_goals simp

@[simp] theorem outGot_links (layer exp src core sem : Nat) (s : State) : (outGot layer exp src core sem s).links = s.links := by
  unfold outGot
  split <;> rfl

@[simp] theorem pullFailed_links (layer idx : Nat) (s : State) : (pullFailed layer idx s).links = s.links := by
  unfold pullFailed
  dsimp only
  repeat' split
  all_goals simp

@[simp] theorem imageDescFail_links (part jobid ch : Nat) (fpc : W64) (code : Nat) (s : State) :
    (imageDescFail part jobid ch fpc code s).links = s.links := by
  have hwrite := belWrite_links
  unfold imageDescFail
  -- opaque, so that no check of a type runs it
  obtain ⟨wr, hwr⟩ : ∃ f, belWrite = f := ⟨_, rfl⟩
  rw [hwr] at hwrite ⊢
  split
  · rfl
  · exact (hwrite ..).trans (hwrite ..)

@[simp] theorem foldBroken_links (p : Nat) (s : State) : (foldBroken p s).links = s.links := by
  unfold foldBroken
  extract_lets f s1 s2 s3
  have h1 : s1.links = s.links := by
    unfold s1
    split <;> rfl
  simp [s3, s2, h1]

@[simp] theorem dropDesc_links (n seq sub : Nat) (s : State) : (dropDesc n seq sub s).links = s.links :=
  ite_links (s := modCore n _ (releaseDesc n seq sub s)) rfl rfl

@[simp] theorem settleJob_links (n : Nat) (s : State) : (settleJob n s).links = s.links := by
  unfold settleJob
  dsimp only
  repeat' split
  all_goals rfl

@[simp] theorem settleQuads_links (s : State) : (settleQuads s).links = s.links :=
  foldl_links fun s q => ite_links ((modQuad_links ..).trans (foldl_links fun s n => by simp)) rfl

end Unlinked

end Sys2Proof.Proofs

namespace Sys2Proof.Proofs

open Sys2Proof Sys2Proof.Machine Sys2Proof.Claims Sys2Proof.Laws

/-! ### What a transfer that fails sends -/

section Failing

variable {s : State} {k : Links}

theorem Sent.after_gSend (h : Sent k s.links) {owner : XOwner} {part chip : Nat} {ws : List (Nat × Nat × List Byte)} :
    Sent k (gSend owner part chip ws s).2.links := by
  unfold gSend
  split
  · exact h.of_links (foldl_in_links Prod.snd fun _ _ => localPut_links ..)
  · extract_lets u ts r
    have hr : Sent k r.2.links := Sent.after_queueTxns (s := u.2) h
    split
    · exact h
    split
    · exact h
    · dsimp only
      refine .after_pump ?_
      exact hr

theorem Sent.after_sendDone (h : Sent k s.links) {layer chip : Nat} : Sent k (sendDone layer chip s).links := by
  unfold sendDone
  split
  · exact h
  split
  · exact h
  · extract_lets a r
    have hr : Sent k r.2.links := h.after_gSend
    split <;> exact hr

theorem Sent.after_homeSettled (h : Sent k s.links) {layer chip : Nat} : Sent k (homeSettled layer chip s).links := by
  unfold homeSettled
  split
  · exact .ite h.after_sendDone h
  · exact h

theorem Sent.after_copyHome (h : Sent k s.links) {layer part chip : Nat} {c : Copy} : Sent k (copyHome layer part chip s c).links := by
  unfold copyHome
  dsimp only
  repeat' split
  · exact h.of_links (abortOne_links ..)
  · exact h.after_gSend.of_links (abortOne_links ..)
  · exact h.after_gSend

theorem Sent.after_dispatchHome (h : Sent k s.links) {layer i : Nat} : Sent k (dispatchHome layer s i).links := by
  unfold dispatchHome
  split
  · exact h
  · refine .after_homeSettled (.foldl (h.of_links ?_) fun _ _ hs => hs.after_copyHome)
    refine foldl_in_links Prod.snd fun _ _ => ?_
    dsimp only
    split <;> simp

theorem Sent.after_beginHomes {layer f : Nat} (h : Sent k s.links) : Sent k (beginHomes layer f s).links := by
  induction f generalizing s with
  | zero => exact h
  | succ f ih =>
    unfold beginHomes
    repeat' split
    · exact h
    · exact h
    · exact h
    · exact h
    · exact ih (Sent.after_dispatchHome (s := setLayer _ s) h)

theorem Sent.after_finishDispatch (h : Sent k s.links) {layer : Nat} : Sent k (finishDispatch layer s).links := by
  have hbegun : Sent k (beginHomes layer 1024 s).links := h.after_beginHomes
  unfold finishDispatch
  dsimp only
  repeat' split
  · exact hbegun
  · exact hbegun
  · exact hbegun.of_links (foldl_links fun _ _ => semSignal_links ..)

theorem Sent.after_combineDoneAdd (h : Sent k s.links) {layer exp src core sem : Nat} : Sent k (combineDoneAdd layer exp src core sem s).links := by
  unfold combineDoneAdd
  dsimp only
  repeat' split
  · exact h
  · exact h
  · exact h
  · exact (h.of_links (layerWord_links ..)).after_gSend
  · exact (h.of_links (layerWord_links ..)).after_gSend.of_links (outServed_links ..)

theorem Sent.after_combineSettled (h : Sent k s.links) {layer exp src core sem : Nat} : Sent k (combineSettled layer exp src core sem s).links := by
  unfold combineSettled
  split
  · exact h
  · exact .ite h (.ite h.after_combineDoneAdd (h.of_links (outServed_links ..)))

theorem Sent.after_copyOut (h : Sent k s.links) {layer exp src core sem part chip row slot : Nat} {bs : List Byte} :
    Sent k (copyOut layer exp src core sem part chip row slot bs s).links := by
  unfold copyOut
  extract_lets q
  have hq : Sent k q.2.links := h.after_gSend
  split
  next u _ _ =>
    have hu : u.links = q.2.links := by
      unfold u
      split <;> rfl
    exact hq.of_links ((outGot_links ..).trans hu)
  · exact hq
  · exact .ite (hq.of_links (abortAt_links ..)) hq

theorem Sent.after_serveSource (h : Sent k s.links) {layer exp core sem i : Nat} : Sent k (serveSource layer exp core sem s i).links := by
  unfold serveSource
  dsimp only
  repeat' split
  · exact h
  · exact h
  · exact h
  · refine .after_combineSettled (.foldl (h.of_links (by simp)) fun s row hs => ?_)
    split
    · refine hs.of_links ?_
      split <;> simp
    · exact (hs.of_links (by simp)).after_copyOut

theorem Sent.after_beginSources {layer exp core sem f : Nat} (h : Sent k s.links) : Sent k (beginSources layer exp core sem f s).links := by
  induction f generalizing s with
  | zero => exact h
  | succ f ih =>
    unfold beginSources
    repeat' split
    · exact h
    · exact h
    · refine ih (.after_serveSource ?_)
      exact h
    · exact h

theorem Sent.after_combineNext (h : Sent k s.links) {layer exp src core sem : Nat} : Sent k (combineNext layer exp src core sem s).links :=
  h.after_combineSettled.after_beginSources

theorem Sent.after_endWaits (h : Sent k s.links) {x : Xfer} : Sent k (endWaits x s).links := by
  unfold endWaits
  split
  · exact h.after_withdraw
  · exact h

theorem Sent.after_failDesc (h : Sent k s.links) {n : Nat} {d : Desc} {code : Nat} : Sent k (failDesc n d code s).links := by
  have hdropped : Sent k (dropDesc n d.seq d.sub s).links := h.of_links (dropDesc_links ..)
  exact Sent.of_links (.foldl hdropped fun _ _ hs => hs.after_endWaits) (takeFault_links ..)

theorem Sent.after_xferFail (h : Sent k s.links) {x : Xfer} {code : Nat} : Sent k (xferFail x code s).links := by
  unfold xferFail
  split
  case h_1 =>
    split
    · exact h.after_failDesc
    · exact h
  case h_2 => exact h.of_links (imageDescFail_links ..)
  case h_3 => exact (h.of_links (abortOne_links ..)).after_homeSettled.after_finishDispatch
  case h_4 =>
    refine .after_finishDispatch ?_
    exact h
  case h_5 => exact h.after_combineNext
  case h_6 => exact (h.of_links (outServed_links ..)).after_combineNext
  case h_7 => exact .ite (h.of_links (pullFailed_links ..)) h
  case h_8 | h_9 | h_11 => exact h.of_links (foldBroken_links ..)
  all_goals exact h

theorem Sent.after_endFail (h : Sent k s.links) {x : Xfer} {code : Nat} : Sent k (endFail x code s).links := by
  have hdropped : Sent k (dropXfer x s).links := h
  exact hdropped.after_endWaits.after_xferFail.of_links (settleQuads_links ..)

theorem Sent.after_refuseFlit (h : Sent k s.links) {reason : Nat} {f : TxFlit} : Sent k (refuseFlit reason f s).links := by
  unfold refuseFlit
  dsimp only
  repeat' split
  · exact h.after_freeBuf.after_sendRefuse
  · exact h.after_freeBuf
  · exact h.after_freeBuf.after_endFail
  · exact h.after_freeBuf

end Failing

end Sys2Proof.Proofs

namespace Sys2Proof.Proofs

open Sys2Proof Sys2Proof.Machine Sys2Proof.Claims Sys2Proof.Laws

/-! ### Flits at a port (16 R426 to R433) -/

/-- The port after a flit that is discarded (16 R426). -/
def discarded (f : List Byte) (v : BkPort) : BkPort :=
  { v with crcerr := { v.crcerr with count := v.crcerr.count + 1 }
           fecunc := if f.isEmpty then { v.fecunc with count := v.fecunc.count + 1 } else v.fecunc }

/-- The ACK of a flit names a flit of the replay buffer. -/
def acksOne (f : List Byte) (v : BkPort) : Bool := v.replay.any (fun e => decide (e.1.toNat = flitAck f))

/-- What the ACK of a flit leaves in the replay buffer (16 R431). -/
def keptReplay (f : List Byte) (v : BkPort) : List (BitVec 12 × TxFlit) :=
  if acksOne f v then (v.replay.dropWhile (fun e => decide (e.1.toNat ≠ flitAck f))).drop 1 else v.replay

/-- The port after what every good flit delivers (16 R426, R431). -/
def taken (clk : Nat) (f : List Byte) (v : BkPort) : BkPort :=
  let w := rdN f 0 8
  let cvc := bits w 39 37
  { v with credits := smapSet 0 v.credits cvc (smapGet 0 v.credits cvc + bits w 36 29)
           crrec := smapSet 0 v.crrec cvc (smapGet 0 v.crrec cvc + bits w 36 29)
           replay := keptReplay f v
           replays := if acksOne f v then 0 else v.replays
           lastAck := if acksOne f v then clk else v.lastAck }

/-- The port after a DATA flit in SEQ order (16 R432). -/
def accepted (f : List Byte) (v : BkPort) : BkPort :=
  { v with rxSeq := v.rxSeq + 1, nakSent := false, rxFlits := v.rxFlits + 1, ackDue := true
           rcvd := smapSet 0 v.rcvd (flitVc f) (smapGet 0 v.rcvd (flitVc f) + 1) }

/-- The port as it leaves service (16 R452). -/
def outOfService (st : PortSt) (clk : Nat) (v : BkPort) : BkPort :=
  { v with st := st, since := clk, replay := [], txq := [], regq := [], replays := 0, retrainReq := false }

section Flits

variable {s : State} {p : BPort} {f : List Byte}

theorem ctrInc_room {c : EvCtr} (h : c.count ≠ BitVec.allOnes 32) : ctrInc c = ({ c with count := c.count + 1 }, false) := if_neg h

theorem discardFlit_eq (hcrc : (getPort s p).crcerr.count ≠ BitVec.allOnes 32) (hfec : (getPort s p).fecunc.count ≠ BitVec.allOnes 32) :
    discardFlit p f s = setPort p (discarded f (getPort s p)) s := by
  unfold discardFlit discarded
  simp only [ctrInc_room hcrc, ovfEvent_false, getPort_setPort, if_true, ctrInc_room hfec, setPort_setPort]
  split <;> rfl

theorem flitTake_eq : flitTake p f s = setPort p (taken s.clk f (getPort s p)) s := by
  unfold flitTake taken keptReplay acksOne
  dsimp only
  split <;> rfl

theorem getPort_flitTake : getPort (flitTake p f s) p = taken s.clk f (getPort s p) := by
  rw [flitTake_eq, getPort_setPort, if_pos rfl]

theorem flitTake_rx : (flitTake p f s).links.rx = s.links.rx := setPort_links_rx ..

/-! ### A NAK, and a replay -/

theorem setPort_rx_of_links {t : State} (h : t.links = s.links) (v : BkPort) : (setPort p v t).links.rx = s.links.rx := by
  rw [setPort_links_rx, h]

theorem emitFlit_rx (ty seq vc : Nat) (pl : List Byte) : (emitFlit p ty seq vc pl s).links.rx = s.links.rx := by
  obtain ⟨u, hu, he⟩ := emitFlit_port p ty seq vc pl s
  rw [he, setPort_rx_of_links hu]

theorem sendNak_rx : (sendNak p s).links.rx = s.links.rx := by
  unfold sendNak
  dsimp only
  split
  · rfl
  · exact (setPort_links_rx ..).trans (emitFlit_rx ..)

/-- A NAK goes out unless one is on its way already (16 R432). -/
theorem unreturned_sendNak : unreturned (getPort (sendNak p s) p) = { unreturned (getPort s p) with nakSent := true } := by
  unfold sendNak
  dsimp only
  split
  next hsent =>
    generalize getPort s p = v at hsent
    cases v
    subst hsent
    rfl
  next =>
    rw [getPort_modPort, if_pos rfl]
    exact congrArg (fun v : BkPort => { v with nakSent := true }) (unreturned_emitFlit ..)

theorem edge_replay (l : List (BitVec 12 × TxFlit)) :
    EdgeOnly s (l.foldl (fun s e => emitFlit p 1 e.1.toNat e.2.vc (txnPayload e.2.txn) s) s) :=
  edge_foldl _ (fun _ _ => edge_emitFlit ..) l s

theorem replayAll_clk : (replayAll p s).clk = s.clk :=
  (edge_replay _).clk.trans ((ovfEvent_clk ..).trans (setPort_clk ..))

/-- A replay sends the replay buffer again and counts (16 R432). -/
theorem unreturned_replayAll : unreturned (getPort (replayAll p s) p) = unreturned { getPort s p with
    retry := (ctrInc (getPort s p).retry).1, replays := (getPort s p).replays + 1, lastAck := s.clk } := by
  unfold replayAll
  extract_lets v r s1
  have hresent : ∀ l : List (BitVec 12 × TxFlit), unreturned (getPort (l.foldl (fun s e =>
      emitFlit p 1 e.1.toNat e.2.vc (txnPayload e.2.txn) s) s1) p) = unreturned (getPort s1 p) := fun l =>
    List.foldlRecOn (motive := fun u : State => unreturned (getPort u p) = unreturned (getPort s1 p)) l _ rfl fun _ hu _ _ =>
      (unreturned_emitFlit ..).trans hu
  rw [hresent, getPort_of_links (ovfEvent_links ..), getPort_setPort, if_pos rfl]

theorem replays_replayAll : (getPort (replayAll p s) p).replays = (getPort s p).replays + 1 :=
  congrArg BkPort.replays unreturned_replayAll

theorem replayPort_again (h : (getPort s p).replays < 15) : replayPort p s = replayAll p s :=
  if_neg (by rw [replays_replayAll]; omega)

theorem replayPort_last (h : 15 ≤ (getPort s p).replays) : replayPort p s = portDown p (replayAll p s) :=
  if_pos (by rw [replays_replayAll]; omega)

/-- The loop of `dropPort` and what is then sent. -/
theorem dropPort_sent (reason : Nat) (st : PortSt) (s : State) :
    Sent (setPort p (outOfService st s.clk (getPort s p)) s).links (dropPort reason p st s).links := by
  unfold dropPort
  extract_lets v flits s1 waiting
  have hrefused : Sent s1.links (waiting.foldl (fun s f => refuseFlit reason f s) s1).links :=
    .foldl (.refl _) fun _ _ hs => hs.after_refuseFlit
  exact hrefused.after_pump

theorem unsent_dropPort (reason : Nat) (st : PortSt) :
    unsent (getPort (dropPort reason p st s) p) = unsent (outOfService st s.clk (getPort s p)) := by
  rw [(dropPort_sent reason st s).port p, getPort_setPort, if_pos rfl]

/-- A port that leaves service keeps nothing to replay (16 R452). -/
theorem dropPort_replay {st : PortSt} (hst : st ≠ .up) (reason : Nat) : (getPort (dropPort reason p st s) p).replay = [] := by
  have hport : getPort (setPort p (outOfService st s.clk (getPort s p)) s) p = outOfService st s.clk (getPort s p) :=
    (getPort_setPort ..).trans (if_pos rfl)
  rw [(dropPort_sent reason st s).replay_down (by rwa [hport]), hport]
  rfl

/-- The sixteenth replay from one SEQ takes the port DOWN (16 R433). -/
theorem portDown_down : (getPort (portDown p s) p).st = .down ∧ (getPort (portDown p s) p).replay = [] := by
  have hport : getPort (portDown p s) p = getPort (dropPort 8 p .down s) p := getPort_of_links (raise_links ..) p
  rw [hport]
  exact ⟨(congrArg BkPort.st (unsent_dropPort 8 .down) :), dropPort_replay (by decide) 8⟩

/-! ### DATA -/

/-- A transaction for this module waits in its receive buffer (16 R428, R439). -/
def received (r : RxTxn) (s : State) : State := { s with links := { s.links with rx := s.links.rx ++ [r] } }

theorem getPort_received (r : RxTxn) (q : BPort) : getPort (received r s) q = getPort s q := by cases q <;> rfl

theorem dataFlit_accepted (hseq : BitVec.ofNat 12 (flitSeq f) = (getPort s p).rxSeq + 1)
    (hchip : txnChip (txnRead ((f.drop 8).take 240)) = chipNo s) (hopc : (txnRead ((f.drop 8).take 240)).opc.toNat < 6) :
    dataFlit p f s = received { txn := txnRead ((f.drop 8).take 240), inbuf := some (portNo p, flitVc f) }
      (setPort p (accepted f (getPort s p)) s) := by
  have hhere : chipNo (setPort p (accepted f (getPort s p)) s) = chipNo s := congrArg BitVec.toNat (setPort_links_chip ..)
  unfold dataFlit
  rw [if_pos hseq]
  unfold routeFlit
  exact (if_pos (hchip.trans hhere.symm)).trans (if_neg (by omega))

theorem dataFlit_refused (hseq : BitVec.ofNat 12 (flitSeq f) ≠ (getPort s p).rxSeq + 1) : dataFlit p f s = sendNak p s := if_neg hseq

/-! ### AUDIT -/

/-- The ticks of partitions are aborted (16 R430). -/
def abortTicks (ps : SMap Bool) (s : State) : State := ps.foldl (fun s e => modPart e.1 (fun x => { x with tabort := true }) s) s

theorem abortTicks_links (ps : SMap Bool) (s : State) : (abortTicks ps s).links = s.links := foldl_links fun _ _ => rfl

theorem abortTicks_bonded (ps : SMap Bool) (s : State) : (abortTicks ps s).bonded = s.bonded :=
  List.foldlRecOn (motive := fun u : State => u.bonded = s.bonded) ps _ rfl fun _ hu _ _ => hu

theorem tabort_abortTicks (n : Nat) : ∀ {ps : SMap Bool} {s : State}, smapWf Part.reset s.parts = true →
    (getPart s n).tabort = true ∨ n ∈ ps.map Prod.fst → (getPart (abortTicks ps s) n).tabort = true
  | [], _, _, h => h.resolve_right List.not_mem_nil
  | e :: ps, s, hwf, h => by
    refine tabort_abortTicks n (ps := ps) (s := modPart e.1 (fun x => { x with tabort := true }) s) (wf_set _ _ hwf) ?_
    rw [modPart, getPart_setPart hwf]
    split
    · exact .inl rfl
    next hne => exact h.imp_right fun hm => (List.mem_cons.mp hm).resolve_left hne

/-! ### What each command does at a port that exchanges flits -/

theorem flit_bad_goes (hhears : hears s p = true) (hbad : flitGood f = false) :
    Goes (.flitData p f) s (sendNak p (discardFlit p f s)) ∧ Goes (.flitNak p f) s (discardFlit p f s) ∧
    Goes (.flitCtrl p f) s (discardFlit p f s) ∧ Goes (.flitIdle p f) s (discardFlit p f s) := by
  simp [Goes, exec, execFlitData, execFlitNak, execFlitCtrl, execFlitIdle, hhears, hbad]

section Good

variable (hhears : hears s p = true) (hgood : flitGood f = true)

include hhears hgood

theorem flitData_goes (htype : flitType f = 1) : Goes (.flitData p f) s (pump (dataFlit p f (flitTake p f s))) := by
  simp [Goes, exec, execFlitData, hhears, hgood, htype]

theorem flitIdle_goes (htype : flitType f = 0) : Goes (.flitIdle p f) s (pump (flitTake p f s)) := by
  simp [Goes, exec, execFlitIdle, hhears, hgood, htype]

theorem flitNak_goes (htype : flitType f = 3) (hkept : keptReplay f (getPort s p) ≠ []) :
    Goes (.flitNak p f) s (pump (replayPort p (flitTake p f s))) := by
  have hleft : (getPort (flitTake p f s) p).replay.isEmpty = false := by
    rw [getPort_flitTake]
    exact List.isEmpty_eq_false_iff.mpr hkept
  simp [Goes, exec, execFlitNak, hhears, hgood, htype, hleft]

theorem flitCtrl_goes_agreed (htype : flitType f = 4) (haudit : rdN (rdB f 8 240) 0 8 = 1)
    (hagrees : auditBad (getPort s p) (rdB f 8 240) = none) : Goes (.flitCtrl p f) s (pump (flitTake p f s)) := by
  have hbad : auditBad (getPort (flitTake p f s) p) (rdB f 8 240) = none := by
    rw [getPort_flitTake]
    exact hagrees
  unfold rdB at haudit hbad
  simp [Goes, exec, execFlitCtrl, hhears, hgood, htype, haudit, hbad]

theorem flitCtrl_goes_disagreed (htype : flitType f = 4) (haudit : rdN (rdB f 8 240) 0 8 = 1) {vc : Nat}
    (hdiffers : auditBad (getPort s p) (rdB f 8 240) = some vc) :
    Goes (.flitCtrl p f) s (pump (raise 4 (portNo p) none 0x8002 vc (abortTicks (getPort s p).parts
      (setPort p { taken s.clk f (getPort s p) with retrainReq := true, resetCred := true } s)))) := by
  have hbad : auditBad (taken s.clk f (getPort s p)) (rdB f 8 240) = some vc := hdiffers
  have hparts : (taken s.clk f (getPort s p)).parts = (getPort s p).parts := rfl
  unfold rdB at haudit hbad
  simp [Goes, exec, execFlitCtrl, hhears, hgood, htype, haudit, hbad, hparts, flitTake_eq, abortTicks]

end Good

theorem replayTimeout_goes (hup : (getPort s p).st = .up) (hreplay : (getPort s p).replay ≠ []) :
    Goes (.replayTimeout p) s (pump (replayPort p (passTo ((getPort s p).lastAck + 900) s))) := by
  have hleft : (getPort s p).replay.isEmpty = false := by simpa using hreplay
  simp [Goes, exec, execReplayTimeout, hup, hleft]

end Flits

end Sys2Proof.Proofs

namespace Sys2Proof.Proofs

open Sys2Proof Sys2Proof.Machine Sys2Proof.Claims Sys2Proof.Laws

section Outcomes

variable {s : State} {p : BPort} {f : List Byte}

theorem pump_sent (s : State) : Sent s.links (pump s).links := (Sent.refl _).after_pump

theorem flit_bad_outcome (hhears : hears s p = true) (hbad : flitGood f = false) (hcrc : (getPort s p).crcerr.count ≠ BitVec.allOnes 32)
    (hfec : (getPort s p).fecunc.count ≠ BitVec.allOnes 32) : ∀ c ∈ [Instr.flitData p f, Instr.flitNak p f, Instr.flitCtrl p f, Instr.flitIdle p f],
    ∃ t, Goes c s t ∧ (∃ n, unreturned (getPort t p) = unreturned { discarded f (getPort s p) with nakSent := n }) ∧
      t.links.rx = s.links.rx ∧ EdgeOnly s t := by
  obtain ⟨hdata, hnak, hctrl, hidle⟩ := flit_bad_goes hhears hbad
  rw [discardFlit_eq hcrc hfec] at hdata hnak hctrl hidle
  set u := setPort p (discarded f (getPort s p)) s
  have hport : getPort u p = discarded f (getPort s p) := (getPort_setPort ..).trans (if_pos rfl)
  have hrx : u.links.rx = s.links.rx := setPort_links_rx ..
  have hedge : EdgeOnly s u := edge_setPort ..
  have hcounted : ∃ n, unreturned (getPort u p) = unreturned { discarded f (getPort s p) with nakSent := n } :=
    ⟨(getPort s p).nakSent, congrArg unreturned hport⟩
  intro c hc
  simp only [List.mem_cons, List.not_mem_nil, or_false] at hc
  rcases hc with rfl | rfl | rfl | rfl
  · refine ⟨_, hdata, ⟨true, ?_⟩, sendNak_rx.trans hrx, hedge.trans (edge_sendNak ..)⟩
    rw [unreturned_sendNak, hport]
    rfl
  · exact ⟨u, hnak, hcounted, hrx, hedge⟩
  · exact ⟨u, hctrl, hcounted, hrx, hedge⟩
  · exact ⟨u, hidle, hcounted, hrx, hedge⟩

theorem flitData_accepted_outcome (hhears : hears s p = true) (hgood : flitGood f = true) (htype : flitType f = 1)
    (hseq : BitVec.ofNat 12 (flitSeq f) = (getPort s p).rxSeq + 1) (hchip : txnChip (txnRead ((f.drop 8).take 240)) = chipNo s)
    (hopc : (txnRead ((f.drop 8).take 240)).opc.toNat < 6) :
    ∃ t, Goes (.flitData p f) s t ∧ unsent (getPort t p) = unsent (accepted f (taken s.clk f (getPort s p))) ∧
      t.links.rx = s.links.rx ++ [{ txn := txnRead ((f.drop 8).take 240), inbuf := some (portNo p, flitVc f) }] ∧ EdgeOnly s t := by
  have hgo := flitData_goes hhears hgood htype
  rw [dataFlit_accepted (s := flitTake p f s) (by rwa [getPort_flitTake]) (hchip.trans (congrArg BitVec.toNat (setPort_links_chip ..)).symm) hopc,
    getPort_flitTake] at hgo
  set u := setPort p (accepted f (taken s.clk f (getPort s p))) (flitTake p f s)
  set r : RxTxn := { txn := txnRead ((f.drop 8).take 240), inbuf := some (portNo p, flitVc f) }
  have hport : getPort u p = accepted f (taken s.clk f (getPort s p)) := (getPort_setPort ..).trans (if_pos rfl)
  have hrx : u.links.rx = s.links.rx := (setPort_links_rx ..).trans flitTake_rx
  refine ⟨_, hgo, ?_, ?_, ((edge_flitTake ..).trans (edge_setPort ..)).trans (EdgeOnly.trans (t := received r u) rfl (edge_pump _))⟩
  · rw [(pump_sent _).port, getPort_received, hport]
  · rw [(pump_sent _).rx, ← hrx]
    rfl

theorem flitData_refused_outcome (hhears : hears s p = true) (hgood : flitGood f = true) (htype : flitType f = 1)
    (hseq : BitVec.ofNat 12 (flitSeq f) ≠ (getPort s p).rxSeq + 1) :
    ∃ t, Goes (.flitData p f) s t ∧ (getPort t p).rxSeq = (getPort s p).rxSeq ∧ (getPort t p).nakSent = true ∧ t.links.rx = s.links.rx := by
  have hgo := flitData_goes hhears hgood htype
  rw [dataFlit_refused (by rwa [getPort_flitTake])] at hgo
  have hsent := pump_sent (sendNak p (flitTake p f s))
  have hnak := unreturned_sendNak (s := flitTake p f s) (p := p)
  rw [getPort_flitTake] at hnak
  refine ⟨_, hgo, ?_, ?_, hsent.rx.trans (sendNak_rx.trans flitTake_rx)⟩
  · exact (congrArg BkPort.rxSeq (hsent.port p) :).trans (congrArg BkPort.rxSeq hnak :)
  · exact (congrArg BkPort.nakSent (hsent.port p) :).trans (congrArg BkPort.nakSent hnak :)

/-- A replay at a port with nothing else to send (16 R432). -/
theorem replayed_outcome (htxq : (getPort s p).txq = []) (hregq : (getPort s p).regq = []) (hruns : (getPort s p).replays < 15) :
    unreturned (getPort (pump (replayPort p s)) p) = unreturned { getPort s p with
      retry := (ctrInc (getPort s p).retry).1, replays := (getPort s p).replays + 1, lastAck := s.clk } := by
  rw [replayPort_again hruns]
  have hreplayed := unreturned_replayAll (s := s) (p := p)
  exact (unreturned_pump ((congrArg BkPort.txq hreplayed :).trans htxq) ((congrArg BkPort.regq hreplayed :).trans hregq)).trans hreplayed

theorem replayTimeout_again_outcome (hup : (getPort s p).st = .up) (hreplay : (getPort s p).replay ≠ []) (htxq : (getPort s p).txq = [])
    (hregq : (getPort s p).regq = []) (hruns : (getPort s p).replays < 15) : ∃ t, Goes (.replayTimeout p) s t ∧
      (∃ c k, unreturned (getPort t p) = unreturned { getPort s p with retry := c, replays := (getPort s p).replays + 1, lastAck := k }) ∧
      t.clk = max s.clk ((getPort s p).lastAck + 900) := by
  have hgo := replayTimeout_goes hup hreplay
  set u := passTo ((getPort s p).lastAck + 900) s
  have hpassed : getPort u p = getPort s p := getPort_of_links (passTo_links ..) p
  have hport := replayed_outcome (s := u) (p := p) (by rwa [hpassed]) (by rwa [hpassed]) (by rwa [hpassed])
  rw [hpassed] at hport
  refine ⟨_, hgo, ⟨_, _, hport⟩, ?_⟩
  rw [(edge_pump _).clk, replayPort_again (by rwa [hpassed]), replayAll_clk]
  rfl

/-- The sixteenth replay takes the port DOWN, and nothing of it is sent any more (16 R433). -/
theorem replayed_down_outcome (hruns : 15 ≤ (getPort s p).replays) :
    (getPort (pump (replayPort p s)) p).st = .down ∧ (getPort (pump (replayPort p s)) p).replay = [] := by
  rw [replayPort_last hruns]
  obtain ⟨hst, hreplay⟩ := portDown_down (s := replayAll p s) (p := p)
  have hsent := pump_sent (portDown p (replayAll p s))
  exact ⟨(congrArg BkPort.st (hsent.port p) :).trans hst, (hsent.replay_down (by simp [hst])).trans hreplay⟩

theorem replayTimeout_last_outcome (hup : (getPort s p).st = .up) (hreplay : (getPort s p).replay ≠ []) (hruns : 15 ≤ (getPort s p).replays) :
    ∃ t, Goes (.replayTimeout p) s t ∧ (getPort t p).st = .down ∧ (getPort t p).replay = [] := by
  have hgo := replayTimeout_goes hup hreplay
  set u := passTo ((getPort s p).lastAck + 900) s
  have hpassed : getPort u p = getPort s p := getPort_of_links (passTo_links ..) p
  exact ⟨_, hgo, replayed_down_outcome (by rwa [hpassed])⟩

/-- An AUDIT that disagrees (16 R430). -/
theorem flitCtrl_disagreed_outcome (hhears : hears s p = true) (hgood : flitGood f = true) (htype : flitType f = 4)
    (haudit : rdN (rdB f 8 240) 0 8 = 1) (hparts : smapWf Part.reset s.parts = true) (hdiffers : auditBad (getPort s p) (rdB f 8 240) ≠ none) :
    ∃ t, Goes (.flitCtrl p f) s t ∧ (getPort t p).retrainReq = true ∧ (getPort t p).resetCred = true ∧
      (∀ e ∈ (getPort s p).parts, (getPart t e.1).tabort = true) ∧ t.bonded = s.bonded := by
  obtain ⟨vc, hvc⟩ := Option.ne_none_iff_exists'.mp hdiffers
  set a : BkPort := { taken s.clk f (getPort s p) with retrainReq := true, resetCred := true }
  set u := abortTicks (getPort s p).parts (setPort p a s)
  set r := raise 4 (portNo p) none 0x8002 vc u
  have hport : getPort r p = a := by
    rw [getPort_of_links (raise_links u ..), getPort_of_links (abortTicks_links ..), getPort_setPort, if_pos rfl]
  have hsent := (pump_sent r).port p
  rw [hport] at hsent
  refine ⟨pump r, flitCtrl_goes_disagreed hhears hgood htype haudit hvc, (congrArg BkPort.retrainReq hsent :),
    (congrArg BkPort.resetCred hsent :), fun e he => ?_, ?_⟩
  · rw [getPart, (edge_pump r).parts, raise_parts]
    exact tabort_abortTicks e.1 ((congrArg (smapWf Part.reset) (setPort_parts ..)).trans hparts) (.inr (List.mem_map_of_mem he))
  · rw [(edge_pump r).bonded, raise_bonded, abortTicks_bonded, setPort_bonded]

end Outcomes

/-- Settles O47: each flit is taken, refused or replayed as the lemmas above say, and what the ports then send leaves it so; a port that has
gone DOWN sends nothing more, whatever its refused flits end. The layout of an AUDIT is log 33. -/
theorem peerFlits : Obligations.PeerFlits := by
  unfold Obligations.PeerFlits
  intro s p f hhears v w cvc acked kept runs
  refine ⟨fun hbad hcrc hfec c hc => ?_, fun hgood htype hseq hchip hopc => ?_, fun hgood htype hseq =>
    flitData_refused_outcome hhears hgood htype hseq, fun htxq hregq => ⟨fun hgood htype => ?_, fun hgood htype hkept hruns => ?_,
    fun hup hreplay hruns => ?_⟩, fun hup hreplay hruns => ?_, fun hgood htype haudit hparts => ⟨fun hagrees => ?_, fun hdiffers =>
    flitCtrl_disagreed_outcome hhears hgood htype haudit hparts hdiffers⟩⟩
  · obtain ⟨t, hgo, ⟨n, hport⟩, hrx, hedge⟩ := flit_bad_outcome hhears hbad hcrc hfec c hc
    exact ⟨t, hgo, (congrArg BkPort.crcerr hport :), (congrArg BkPort.rxSeq hport :), (congrArg BkPort.credits hport :),
      (congrArg BkPort.replay hport :), hrx, hedge.bonded, hedge.cores⟩
  · obtain ⟨t, hgo, hport, hrx, hedge⟩ := flitData_accepted_outcome hhears hgood htype hseq hchip hopc
    exact ⟨t, hgo, (congrArg BkPort.rxSeq hport :), (congrArg BkPort.rxFlits hport :), hrx, hedge.bonded, hedge.cores⟩
  · have hport := unreturned_pump (s := flitTake p f s) (p := p) (by rw [getPort_flitTake]; exact htxq) (by rw [getPort_flitTake]; exact hregq)
    rw [getPort_flitTake] at hport
    exact ⟨_, flitIdle_goes hhears hgood htype, (congrArg BkPort.replay hport :), (congrArg BkPort.credits hport :),
      (pump_sent _).rx.trans flitTake_rx⟩
  · have hport := replayed_outcome (s := flitTake p f s) (p := p) (by rw [getPort_flitTake]; exact htxq)
      (by rw [getPort_flitTake]; exact hregq) (by rw [getPort_flitTake]; exact hruns)
    rw [getPort_flitTake] at hport
    exact ⟨_, flitNak_goes hhears hgood htype hkept, (congrArg BkPort.replay hport :), (congrArg BkPort.replays hport :),
      (congrArg BkPort.st hport :)⟩
  · obtain ⟨t, hgo, ⟨c, k, hport⟩, hclk⟩ := replayTimeout_again_outcome hup hreplay htxq hregq hruns
    exact ⟨t, hgo, (congrArg BkPort.replay hport :), (congrArg BkPort.replays hport :), (congrArg BkPort.st hport :).trans hup, hclk⟩
  · exact replayTimeout_last_outcome hup hreplay hruns
  · have hport := (pump_sent (flitTake p f s)).port p
    rw [getPort_flitTake] at hport
    exact ⟨_, flitCtrl_goes_agreed hhears hgood htype haudit hagrees, (congrArg BkPort.retrainReq hport :),
      (edge_pump _).parts.trans (edge_flitTake ..).parts⟩

end Sys2Proof.Proofs

namespace Sys2Proof.Proofs

open Sys2Proof Sys2Proof.Machine Sys2Proof.Claims Sys2Proof.Laws

/-! ### Training and retraining of a port (16 R447 to R450) -/

/-- A port but for what a lost lane changes of it. -/
def unflawed (v : BkPort) : BkPort := { v with retrainReq := false, injLane := false, badLanes := [] }

/-- A port but for what waits at it and what the flits without a SEQ change of it. -/
def unqueued (v : BkPort) : BkPort := { v with ret := [], crret := [], ackDue := false, txq := [] }

/-- A port but for what waits at it and its books of credits. -/
def uncredited (v : BkPort) : BkPort := { v with
  ret := [], crret := [], ackDue := false, txq := [], credits := [], crrec := [], sent := [], rcvd := [], resetCred := false }

/-- The lane that the spare carries, `d` where none fails (16 R448). -/
def heldLane (bad : List Nat) (d : BitVec 5) : BitVec 5 :=
  match bad.head? with
  | some l => BitVec.ofNat 5 l
  | none => d

/-- A training has too many failing lanes for the spare (16 R448). -/
def lanesFail (r : TrainResult) : Bool :=
  !r.ok || decide (1 < (badLanes r).length) || (decide ((badLanes r).length = 1) && r.failing.any (fun l => decide (16 ≤ l)))

/-- The link layer of a port has started, and its identity has been sent (16 Table 16-9, steps 4 and 5). -/
def linkStarted (p : BPort) (s : State) : State :=
  emitFlit p 4 0 0 (identityPayload s) (forgetBufs p (setPort p (startLink (getPort s p)) s))

/-- A port that has learned its lanes, its peer and its delay. -/
def trainedPort (r : TrainResult) (clk : Nat) (v : BkPort) : BkPort :=
  { v with subst := heldLane (badLanes r) 31, peer := r.peer, pdelay := r.pdelay, since := clk }

section Training

variable {s : State} {p : BPort} {r : TrainResult}

/-! ### What the steps of a training leave as it is -/

theorem unflawed_laneInj : unflawed (getPort (laneInj p s) p) = unflawed (getPort s p) := by
  unfold laneInj
  dsimp only
  split
  · rw [getPort_of_links (injDone_links ..), getPort_modPort, if_pos rfl]
    rfl
  · rfl

theorem edge_laneInj : EdgeOnly s (laneInj p s) := by
  unfold laneInj
  dsimp only
  split
  · exact (edge_modPort ..).trans (edge_injDone _)
  · exact .refl s

theorem laneInj_unarmed (h : s.test.arm = false) : laneInj p s = s := by simp [laneInj, portInj, h]

theorem edge_forgetBufs : EdgeOnly s (forgetBufs p s) := by
  unfold forgetBufs
  extract_lets lose links s1
  have h1 : EdgeOnly s s1 := rfl
  exact h1.trans (edge_foldl _ (fun _ _ => edge_modPort ..) allPorts s1)

/-- The receive buffers of a port that start empty show only in the flits that wait. -/
theorem unqueued_forgetBufs (q : BPort) : unqueued (getPort (forgetBufs p s) q) = unqueued (getPort s q) := by
  unfold forgetBufs
  extract_lets lose links s1
  have h1 : getPort s1 q = getPort s q := by cases q <;> rfl
  refine List.foldlRecOn (motive := fun u : State => unqueued (getPort u q) = unqueued (getPort s q)) allPorts _
    (congrArg unqueued h1) fun u hu x _ => ?_
  rw [getPort_modPort]
  split
  next hqx => rw [← hu, hqx]; rfl
  next => exact hu

theorem neighbour_congr {t : State} (hchip : t.links.chip = s.links.chip) (hx : t.links.xdim = s.links.xdim) (hy : t.links.ydim = s.links.ydim) :
    neighbour t p = neighbour s p := by
  unfold neighbour chipNo
  rw [hchip, hx, hy]

theorem neighbour_emitFlit (q : BPort) (ty seq vc : Nat) (pl : List Byte) : neighbour (emitFlit q ty seq vc pl s) p = neighbour s p := by
  obtain ⟨u, hu, he⟩ := emitFlit_port q ty seq vc pl s
  rw [he]
  apply neighbour_congr <;> simp [hu]

theorem neighbour_forgetBufs (q : BPort) : neighbour (forgetBufs q s) p = neighbour s p := by
  unfold forgetBufs
  extract_lets lose links s1
  exact List.foldlRecOn (motive := fun u : State => neighbour u p = neighbour s p) allPorts _ rfl fun u hu x _ =>
    (neighbour_congr (modPort_links_chip ..) (modPort_links_xdim ..) (modPort_links_ydim ..)).trans hu

/-! ### The start of the link layer -/

theorem unqueued_linkStarted : unqueued (getPort (linkStarted p s) p) = unqueued (startLink (getPort s p)) := by
  have hemitted := congrArg (fun v : BkPort => { v with txq := [] })
    (unreturned_emitFlit p p 4 0 0 (identityPayload s) (forgetBufs p (setPort p (startLink (getPort s p)) s)))
  refine hemitted.trans ((unqueued_forgetBufs p).trans ?_)
  rw [getPort_setPort, if_pos rfl]

theorem edge_linkStarted : EdgeOnly s (linkStarted p s) :=
  ((edge_setPort ..).trans edge_forgetBufs).trans (edge_emitFlit ..)

theorem neighbour_linkStarted : neighbour (linkStarted p s) p = neighbour s p :=
  (neighbour_emitFlit ..).trans ((neighbour_forgetBufs p).trans
    (neighbour_congr (setPort_links_chip ..) (setPort_links_xdim ..) (setPort_links_ydim ..)))

theorem smapGet_fullCredits {c : Nat} (hc : c < 8) : smapGet 0 fullCredits c = 1024 := by
  revert c
  decide

/-! ### The commands -/

theorem portTraining_goes (hst : (getPort s p).st = .disabled) (hen : (getPort s p).en = true) (hdrain : (getPort s p).drainAt = none)
    (hallowed : portsAllowed s = true) : Goes (.portTraining p) s (setPort p { getPort s p with st := .training, since := s.clk } s) := by
  simp [Goes, exec, execPortTraining, hst, hen, hdrain, hallowed]

theorem portTrainingComplete_goes_up (hst : (getPort s p).st = .training) (hlanes : lanesFail r = false) (hpeer : r.peer.toNat = neighbour s p) :
    Goes (.portTrainingComplete p r) s (laneInj p (setPort p
      { trainedPort r (linkStarted p s).clk (getPort (linkStarted p s) p) with st := .up, tries := 0 } (linkStarted p s))) := by
  have hthere : r.peer.toNat = neighbour (linkStarted p s) p := hpeer.trans neighbour_linkStarted.symm
  exact congrArg Host.Outcome.next ((if_neg (not_not_intro hst)).trans ((if_neg (Bool.eq_false_iff.mp hlanes)).trans
    (if_neg (not_not_intro hthere))))

theorem portTrainingComplete_goes_miswired (hst : (getPort s p).st = .training) (hlanes : lanesFail r = false)
    (hpeer : r.peer.toNat ≠ neighbour s p) :
    Goes (.portTrainingComplete p r) s (raise 4 (portNo p) none 0x8003 r.peer.toNat (setPort p
      { trainedPort r (linkStarted p s).clk (getPort (linkStarted p s) p) with st := .miswired } (linkStarted p s))) := by
  have helsewhere : r.peer.toNat ≠ neighbour (linkStarted p s) p := fun h => hpeer (h.trans neighbour_linkStarted)
  exact congrArg Host.Outcome.next ((if_neg (not_not_intro hst)).trans ((if_neg (Bool.eq_false_iff.mp hlanes)).trans (if_pos helsewhere)))

theorem portTrainingComplete_goes_down (hst : (getPort s p).st = .training) (hlanes : lanesFail r = true) :
    Goes (.portTrainingComplete p r) s (trainFailed p s) :=
  congrArg Host.Outcome.next ((if_neg (not_not_intro hst)).trans (if_pos hlanes))

theorem portDownRetry_goes (hst : (getPort s p).st = .down) : Goes (.portDownRetry p) s
    (setPort p { getPort s p with st := if (getPort s p).tries = 3 then .failed else .training
                                  since := max s.clk ((getPort s p).since + 1200000) }
      { s with clk := max s.clk ((getPort s p).since + 1200000) }) := by
  simp [Goes, exec, execPortDownRetry, hst, passTo, us]

theorem portRetrain_goes (hst : (getPort s p).st = .up) (hreq : (getPort s p).retrainReq = true) (hbelfry : belfryRuns s = true)
    (halone : ∀ q, (getPort s q).st ≠ .retrain) : Goes (.portRetrain p) s (setPort p { getPort s p with st := .retrain, since := s.clk } s) := by
  simp [Goes, exec, execPortRetrain, hst, hreq, hbelfry, halone]

theorem fecErrorWindow_goes (hst : (getPort s p).st = .up) (lane k : Nat) : Goes (.fecErrorWindow p lane k) s (setPort p
    { getPort s p with
      fecCorr := (getPort s p).fecCorr + BitVec.ofNat 64 k
      retrainReq := (getPort s p).retrainReq || decide ((getPort s p).serth.toNat < k)
      badLanes := if decide ((getPort s p).serth.toNat < k) && !(getPort s p).badLanes.contains lane then (getPort s p).badLanes ++ [lane]
        else (getPort s p).badLanes } s) := by
  simp [Goes, exec, execFecErrorWindow, hst]

theorem laneLockLoss_goes (hst : (getPort s p).st = .up) (lane : Nat) : Goes (.laneLockLoss p lane) s (setPort p
    { getPort s p with retrainReq := true, badLanes := if (getPort s p).badLanes.contains lane then (getPort s p).badLanes
        else (getPort s p).badLanes ++ [lane] } s) := by
  simp [Goes, exec, execLaneLockLoss, hst]

end Training

end Sys2Proof.Proofs

namespace Sys2Proof.Proofs

open Sys2Proof Sys2Proof.Machine Sys2Proof.Claims Sys2Proof.Laws

section Outcomes

variable {s : State} {p : BPort} {r : TrainResult}

/-! ### The end of a training -/

theorem lanesFail_eq_false (hok : r.ok = true)
    (h : badLanes r = [] ∨ (∃ l, badLanes r = [l]) ∧ (r.failing.any fun l => decide (16 ≤ l)) = false) : lanesFail r = false := by
  unfold lanesFail
  rcases h with hbad | ⟨⟨l, hbad⟩, hspare⟩
  · simp [hok, hbad]
  · rw [hspare]
    simp [hok, hbad]

theorem lanesFail_eq_true
    (h : r.ok = false ∨ 1 < (badLanes r).length ∨ (badLanes r).length = 1 ∧ (r.failing.any fun l => decide (16 ≤ l)) = true) :
    lanesFail r = true := by
  unfold lanesFail
  rcases h with hok | hmany | ⟨hone, hspare⟩
  · simp [hok]
  · simp [hmany]
  · rw [hspare]
    simp [hone]

/-- The link starts anew: the port has its peer, its delay and its lanes, no SEQ, and all its credits (16 Table 16-9). -/
theorem portTrainingComplete_trained (hst : (getPort s p).st = .training) (hlanes : lanesFail r = false) :
    ∃ t, Goes (.portTrainingComplete p r) s t ∧ t.bonded = s.bonded ∧ t.cores = s.cores ∧
      ∃ k, unflawed (unqueued (getPort t p)) = unflawed (unqueued { trainedPort r k (startLink (getPort s p)) with
        st := if r.peer.toNat = neighbour s p then .up else .miswired
        tries := if r.peer.toNat = neighbour s p then 0 else (getPort s p).tries }) := by
  have hlinked := unqueued_linkStarted (s := s) (p := p)
  have hedge := edge_linkStarted (s := s) (p := p)
  by_cases hpeer : r.peer.toNat = neighbour s p
  · have hgo := portTrainingComplete_goes_up hst hlanes hpeer
    set w : BkPort := { trainedPort r (linkStarted p s).clk (getPort (linkStarted p s) p) with st := .up, tries := 0 }
    set u := setPort p w (linkStarted p s)
    have hdone : EdgeOnly s (laneInj p u) := (hedge.trans (edge_setPort ..)).trans edge_laneInj
    refine ⟨_, hgo, hdone.bonded, hdone.cores, (linkStarted p s).clk, ?_⟩
    rw [if_pos hpeer, if_pos hpeer]
    refine (congrArg unqueued (unflawed_laneInj (s := u) (p := p))).trans ?_
    rw [getPort_setPort, if_pos rfl]
    exact congrArg (fun v : BkPort => unflawed { trainedPort r (linkStarted p s).clk v with st := .up, tries := 0 }) hlinked
  · have hgo := portTrainingComplete_goes_miswired hst hlanes hpeer
    set w : BkPort := { trainedPort r (linkStarted p s).clk (getPort (linkStarted p s) p) with st := .miswired }
    set u := setPort p w (linkStarted p s)
    have hdone : EdgeOnly s u := hedge.trans (edge_setPort ..)
    refine ⟨_, hgo, (raise_bonded ..).trans hdone.bonded, (raise_cores ..).trans hdone.cores, (linkStarted p s).clk, ?_⟩
    rw [if_neg hpeer, if_neg hpeer, getPort_of_links (raise_links u ..), getPort_setPort, if_pos rfl]
    exact congrArg (fun v : BkPort => unflawed { trainedPort r (linkStarted p s).clk v with st := .miswired }) hlinked

theorem fields_of_trained {v w : BkPort} {k : Nat} {st : PortSt} {tries : BitVec 2}
    (h : unflawed (unqueued w) = unflawed (unqueued { trainedPort r k (startLink v) with st := st, tries := tries })) :
    w.peer = r.peer ∧ w.pdelay = r.pdelay ∧ w.subst = heldLane (badLanes r) 31 ∧ w.txSeq = 0 ∧ w.rxSeq = 0 ∧ w.credits = fullCredits ∧
      w.st = st ∧ w.tries = tries :=
  ⟨(congrArg BkPort.peer h :), (congrArg BkPort.pdelay h :), (congrArg BkPort.subst h :), (congrArg BkPort.txSeq h :),
    (congrArg BkPort.rxSeq h :), (congrArg BkPort.credits h :), (congrArg BkPort.st h :), (congrArg BkPort.tries h :)⟩

theorem unsent_trainFailed : unsent (getPort (trainFailed p s) p) = unsent { outOfService .down s.clk (getPort s p) with
    tries := if (getPort s p).tries = 3 then 3 else (getPort s p).tries + 1 } := by
  rw [trainFailed, getPort_modPort, if_pos rfl]
  exact congrArg (fun v : BkPort => { v with tries := if v.tries = 3 then 3 else v.tries + 1 }) (unsent_dropPort (s := s) (p := p) 8 .down)

theorem tries_capped (b : BitVec 2) : (if b = 3 then 3 else b + 1).toNat = min 3 (b.toNat + 1) := by
  revert b
  decide

/-! ### The end of a retrain -/

theorem replay_of_uncredited {v w : BkPort} (h : uncredited w = uncredited v) : w.replay = v.replay := (congrArg BkPort.replay h :)

theorem uncredited_resetCredits : uncredited (getPort (resetCredits p s) p) = uncredited (getPort s p) := by
  have hless : ∀ v : BkPort, uncredited (unqueued v) = uncredited v := fun _ => rfl
  rw [resetCredits, ← hless, unqueued_forgetBufs, hless, getPort_modPort, if_pos rfl]
  rfl

theorem edge_resetCredits : EdgeOnly s (resetCredits p s) := (edge_modPort ..).trans edge_forgetBufs

theorem resetCredits_test : (resetCredits p s).test = s.test := by
  unfold resetCredits forgetBufs
  extract_lets lose links u
  exact List.foldlRecOn (motive := fun x : State => x.test = s.test) allPorts _ (modPort_test ..) fun _ hx _ _ => (modPort_test ..).trans hx

/-- The port that a retrain has brought UP again (16 R450). -/
def retrained (r : TrainResult) (sub : BitVec 5) (clk : Nat) (v : BkPort) : BkPort :=
  { v with st := .up, subst := sub, pdelay := r.pdelay, retrainReq := false, badLanes := [], injLane := false, since := clk }

/-- The lane that the event of a retrain names (16 R450). -/
def eventLane (bad : List Nat) : Nat :=
  match bad.head? with
  | some l => l
  | none => 0x1F

/-- The lanes of a retrain that no spare carries yet. -/
def newLanes (r : TrainResult) (v : BkPort) : List Nat := r.failing.filter (fun l => decide (l < 16) && decide (v.subst.toNat ≠ l))

/-- After the retrain the spare lane carries `sub`: no new lane fails, or one does and the spare is
free and good (16 R450). -/
def carries (r : TrainResult) (v : BkPort) (sub : BitVec 5) : Prop :=
  newLanes r v = [] ∧ sub = v.subst ∧ (v.subst = 31 ∨ r.failing.contains 16 = false)
    ∨ ∃ l, newLanes r v = [l] ∧ sub = BitVec.ofNat 5 l ∧ v.subst = 31 ∧ r.failing.contains 16 = false

theorem newLanes_eq (r : TrainResult) (v : BkPort) : newLanes r v = (badLanes r).filter (fun l => decide (v.subst.toNat ≠ l)) := by
  rw [newLanes, badLanes, List.filter_filter]
  exact List.filter_congr fun l _ => Bool.and_comm ..

theorem lt_of_mem_badLanes {l : Nat} (h : l ∈ badLanes r) : l < 16 := by simpa using (List.mem_filter.mp h).2

theorem carries_of_lanes {v : BkPort} {sub : BitVec 5} (h : badLanes r = [] ∧ sub = v.subst ∧ (v.subst = 31 ∨ r.failing.contains 16 = false)
    ∨ (∃ l, badLanes r = [l] ∧ sub = BitVec.ofNat 5 l) ∧ v.subst = 31 ∧ r.failing.contains 16 = false) : carries r v sub := by
  rcases h with ⟨hbad, hsub, hspare⟩ | ⟨⟨l, hbad, hsub⟩, hfree, hspare⟩
  · exact .inl ⟨by rw [newLanes_eq, hbad]; rfl, hsub, hspare⟩
  · have hl : l < 16 := lt_of_mem_badLanes (hbad ▸ List.mem_singleton_self l)
    have hne : 31 ≠ l := by omega
    exact .inr ⟨l, by rw [newLanes_eq, hbad, hfree]; simp [hne], hsub, hfree, hspare⟩

/-- The state of a retrain that succeeded, before its event. -/
def cameUp (p : BPort) (r : TrainResult) (sub : BitVec 5) (s : State) : State :=
  let u := creditPort p (getPort s p).since s
  let w := modPort p (retrained r sub u.clk) u
  if (getPort s p).resetCred then resetCredits p w else w

theorem uncredited_cameUp (sub : BitVec 5) :
    uncredited (getPort (cameUp p r sub s) p) = uncredited (retrained r sub s.clk (getPort s p)) := by
  have hmod : getPort (modPort p (retrained r sub s.clk) (creditPort p (getPort s p).since s)) p = retrained r sub s.clk (getPort s p) := by
    rw [getPort_modPort, if_pos rfl, getPort_of_links (s := s) (t := creditPort p _ s) rfl]
  rw [← hmod]
  unfold cameUp
  dsimp only
  split
  · exact uncredited_resetCredits
  · rfl

theorem replay_cameUp (sub : BitVec 5) : (getPort (cameUp p r sub s) p).replay = (getPort s p).replay :=
  (replay_of_uncredited (uncredited_cameUp sub) :)

theorem cameUp_keeps (sub : BitVec 5) : (cameUp p r sub s).bonded = s.bonded ∧ (cameUp p r sub s).cores = s.cores ∧
    (cameUp p r sub s).test = s.test := by
  unfold cameUp
  extract_lets u w
  have hw : w.bonded = s.bonded ∧ w.cores = s.cores ∧ w.test = s.test := ⟨modPort_bonded .., modPort_cores .., modPort_test ..⟩
  split
  · exact ⟨edge_resetCredits.bonded.trans hw.1, edge_resetCredits.cores.trans hw.2.1, resetCredits_test.trans hw.2.2⟩
  · exact hw

theorem portRetrainComplete_goes_up (hst : (getPort s p).st = .retrain) (hok : r.ok = true) (hnone : (getPort s p).badLanes = [])
    (hreplay : (getPort s p).replay = []) (harm : s.test.arm = false) {sub : BitVec 5} (hcarries : carries r (getPort s p) sub) :
    ∃ arg, Goes (.portRetrainComplete p r) s (pump (raiseI (getPort s p).injLane 4 (portNo p) none 0x8004 arg (cameUp p r sub s))) := by
  refine ⟨eventLane (newLanes r (getPort s p)), ?_⟩
  change execPortRetrainComplete p r s = _
  unfold execPortRetrainComplete
  extract_lets v u all bad noSpare sub' s2 s3 s4
  have hall : all = r.failing := by simp [all, v, hnone]
  have hbad : bad = newLanes r v := congrArg (List.filter _) hall
  have hlanes : (!r.ok || decide (1 < bad.length) || (!bad.isEmpty && noSpare) || (decide (v.subst ≠ 31) && all.contains 16)) = false := by
    simp only [noSpare, hbad, hall]
    rcases hcarries with ⟨hnew, -, hspare⟩ | ⟨l, hnew, -, hfree, hspare⟩
    · rcases hspare with hfree | hspare
      · simp [v, hnew, hok, hfree]
      · rw [hspare]
        simp [v, hnew, hok]
    · rw [hspare]
      simp [v, hnew, hok, hfree]
  have hsub : sub' = sub := by
    refine (congrArg (heldLane · v.subst) hbad).trans ?_
    rcases hcarries with ⟨hnew, hsub, -⟩ | ⟨l, hnew, hsub, -⟩
    · rw [hnew, hsub]
      rfl
    · rw [hnew, hsub]
      rfl
  have hs3 : s3 = cameUp p r sub s := by
    rw [← hsub]
    rfl
  have hs4 : s4 = cameUp p r sub s := by
    refine (if_pos ?_).trans hs3
    rw [hs3, replay_cameUp, hreplay]
    rfl
  refine congrArg Host.Outcome.next ((if_neg (not_not_intro hst)).trans ((if_neg (Bool.eq_false_iff.mp hlanes)).trans ?_))
  rw [hs4, laneInj_unarmed ((congrArg Test.arm (cameUp_keeps sub).2.2).trans harm)]
  exact congrArg (fun b => pump (raiseI v.injLane 4 (portNo p) none 0x8004 (eventLane b) (cameUp p r sub s))) hbad

theorem portRetrainComplete_up_outcome (hst : (getPort s p).st = .retrain) (hok : r.ok = true) (hnone : (getPort s p).badLanes = [])
    (hreplay : (getPort s p).replay = []) (harm : s.test.arm = false) {sub : BitVec 5} (hcarries : carries r (getPort s p) sub) :
    ∃ t, Goes (.portRetrainComplete p r) s t ∧
      uncredited (unsent (getPort t p)) = uncredited (unsent (retrained r sub s.clk (getPort s p))) ∧ t.bonded = s.bonded ∧ t.cores = s.cores := by
  obtain ⟨arg, hgo⟩ := portRetrainComplete_goes_up hst hok hnone hreplay harm hcarries
  obtain ⟨hbonded, hcores, -⟩ := cameUp_keeps (s := s) (p := p) (r := r) sub
  set u := raiseI (getPort s p).injLane 4 (portNo p) none 0x8004 arg (cameUp p r sub s)
  have hport : getPort u p = getPort (cameUp p r sub s) p := getPort_of_links (raiseI_links ..) p
  refine ⟨_, hgo, ?_, (edge_pump u).bonded.trans ((raiseI_bonded ..).trans hbonded), (edge_pump u).cores.trans ((raiseI_cores ..).trans hcores)⟩
  have hsent := congrArg uncredited ((pump_sent u).port p)
  rw [hport] at hsent
  exact hsent.trans (congrArg unsent (uncredited_cameUp (r := r) (s := s) (p := p) sub))

theorem fields_of_retrained {v w : BkPort} {sub : BitVec 5} {k : Nat} (h : uncredited (unsent w) = uncredited (unsent (retrained r sub k v))) :
    w.st = .up ∧ w.retrainReq = false ∧ w.subst = sub ∧ w.pdelay = r.pdelay :=
  ⟨(congrArg BkPort.st h :), (congrArg BkPort.retrainReq h :), (congrArg BkPort.subst h :), (congrArg BkPort.pdelay h :)⟩

/-- A port with nothing on its way leaves service without a refusal. -/
theorem edge_dropPort {reason : Nat} {st : PortSt} (hreplay : (getPort s p).replay = []) (htxq : (getPort s p).txq = [])
    (hregq : (getPort s p).regq = []) : EdgeOnly s (dropPort reason p st s) := by
  have hdrop : dropPort reason p st s = pump (setPort p (outOfService st s.clk (getPort s p)) s) := by
    simp [dropPort, hreplay, htxq, hregq, outOfService]
  rw [hdrop]
  exact (edge_setPort ..).trans (edge_pump _)

/-- A failed retrain takes the port DOWN and does not count (16 R450; log 72). -/
theorem portRetrainComplete_down_outcome (hst : (getPort s p).st = .retrain) (hok : r.ok = false) (hreplay : (getPort s p).replay = [])
    (htxq : (getPort s p).txq = []) (hregq : (getPort s p).regq = []) : ∃ t, Goes (.portRetrainComplete p r) s t ∧
      unsent (getPort t p) = unsent (outOfService .down s.clk (getPort s p)) ∧ t.bonded = s.bonded ∧ t.cores = s.cores := by
  set u := creditPort p (getPort s p).since s
  have hport : getPort u p = getPort s p := getPort_of_links rfl p
  have hedge : EdgeOnly u (dropPort 8 p .down u) := edge_dropPort (by rwa [hport]) (by rwa [hport]) (by rwa [hport])
  refine ⟨dropPort 8 p .down u, ?_, ?_, hedge.bonded, hedge.cores⟩
  · exact congrArg Host.Outcome.next ((if_neg (not_not_intro hst)).trans (if_pos (by simp [hok])))
  · rw [unsent_dropPort, hport]
    rfl

end Outcomes

/-- Settles O49: a training and a retrain end as `portTrainingComplete_trained` and the outcomes of a retrain say. Every failed training counts
in TRIES (log 72). -/
theorem portTrainingRules : Obligations.PortTrainingRules := by
  unfold Obligations.PortTrainingRules
  intro s p r lane k v bad spareBad
  refine ⟨portTraining_goes, fun hst hok hlanes => ?_, fun hst hlanes _ _ _ => ?_, portDownRetry_goes, portRetrain_goes,
    fun sub hst hok hnone hreplay harm hlanes => ?_, fun hst hok hreplay htxq hregq => ?_, fun hst =>
    ⟨⟨_, fecErrorWindow_goes hst lane k, ?_, ?_, ?_, ?_⟩, laneLockLoss_goes hst lane⟩⟩
  · obtain ⟨t, hgo, hbonded, hcores, k, hport⟩ := portTrainingComplete_trained hst (lanesFail_eq_false hok hlanes)
    obtain ⟨hpeer, hpdelay, hsubst, htx, hrx, hcredits, hst, htries⟩ := fields_of_trained hport
    refine ⟨t, hgo, hpeer, hpdelay, hsubst.trans ?_, htx, hrx, fun c hc => ?_, hst, htries, hbonded, hcores⟩
    · change heldLane bad 31 = _
      cases bad <;> rfl
    · rw [hcredits]
      exact smapGet_fullCredits hc
  · have hport := unsent_trainFailed (s := s) (p := p)
    exact ⟨_, portTrainingComplete_goes_down hst (lanesFail_eq_true hlanes), (congrArg BkPort.st hport :), (congrArg BkPort.since hport :),
      (congrArg (fun v : BkPort => v.tries.toNat) hport :).trans (tries_capped v.tries)⟩
  · obtain ⟨t, hgo, hport, hbonded, hcores⟩ := portRetrainComplete_up_outcome hst hok hnone hreplay harm (carries_of_lanes hlanes)
    obtain ⟨hst, hreq, hsubst, hpdelay⟩ := fields_of_retrained hport
    exact ⟨t, hgo, hst, hreq, hsubst, hpdelay, hbonded, hcores⟩
  · obtain ⟨t, hgo, hport, hbonded, hcores⟩ := portRetrainComplete_down_outcome hst hok hreplay htxq hregq
    exact ⟨t, hgo, (congrArg BkPort.st hport :), (congrArg BkPort.since hport :), hbonded, hcores⟩
  · rw [getPort_setPort, if_pos rfl]
  · rw [getPort_setPort, if_pos rfl]
  · rw [getPort_setPort, if_pos rfl]
  · rw [getPort_setPort, if_pos rfl]
    exact hst

end Sys2Proof.Proofs

/-! Proofs for the family 17_host_attachment: frames of the host edge, ports and connections, sealing, requests of hosts, the J9 as
requester, the owner session, the sideband and the TAP. -/

namespace Sys2Proof.Proofs

open Sys2Proof Sys2Proof.Machine Sys2Proof.Claims Sys2Proof.Laws

/-! ### Host ports and what leaves them (17 R465, R466) -/

section HostPorts

variable {s t u : State} {p : HPort} {q : Nat} {m : HostMsg}

@[simp] theorem getHport_setHport_same (p : HPort) (v : HoPort) (s : State) : getHport (setHport p v s) p = v := by cases p <;> rfl

theorem getHport_setHport (p p' : HPort) (v : HoPort) (s : State) :
    getHport (setHport p v s) p' = if p' = p then v else getHport s p' := by
  cases p <;> cases p' <;> rfl

@[simp] theorem setHport_setHport (p : HPort) (v w : HoPort) (s : State) : setHport p w (setHport p v s) = setHport p w s := by
  cases p <;> rfl

@[simp] theorem getHport_setQp (p : HPort) (n : Nat) (x : Qp) (s : State) : getHport (setQp n x s) p = getHport s p := by cases p <;> rfl

@[simp] theorem getHport_modQp (p : HPort) (n : Nat) (g : Qp → Qp) (s : State) : getHport (modQp n g s) p = getHport s p := by
  cases p <;> rfl

/-- What of a host port says whether a frame leaves it, and with what tag. -/
def wire (v : HoPort) : BitVec 12 × BitVec 3 × SMap Nat × List (Nat × HostMsg) := (v.vid, v.pcp, v.pauses, v.txq)

/-- A frame that leaves the host edge in `s` leaves it in `t`, and is the same frame. -/
structure Voice (s t : State) : Prop where
  wires : ∀ p, wire (getHport t p) = wire (getHport s p)
  marks : ∀ m, markOf t.host m = markOf s.host m
  later : s.clk ≤ t.clk

theorem Voice.refl (s : State) : Voice s s := ⟨fun _ => rfl, fun _ => rfl, Nat.le_refl _⟩

theorem Voice.trans (h : Voice s t) (h' : Voice t u) : Voice s u :=
  ⟨fun p => (h'.wires p).trans (h.wires p), fun m => (h'.marks m).trans (h.marks m), h.later.trans h'.later⟩

/-- Whatever leaves the host edge alone and lets no time go back. -/
theorem voice_of_host (hhost : t.host = s.host) (hclk : s.clk ≤ t.clk) : Voice s t :=
  ⟨fun p => by cases p <;> simp only [getHport, hhost], fun m => by rw [hhost], hclk⟩

theorem voice_setHport {v : HoPort} (h : wire v = wire (getHport s p)) : Voice s (setHport p v s) := by
  refine ⟨fun p' => ?_, fun m => ?_, by cases p <;> exact Nat.le_refl _⟩
  · rw [getHport_setHport]
    split
    · next heq => rw [heq, h]
    · rfl
  · cases p <;> cases m <;> rfl

theorem voice_modQp (q : Nat) (g : Qp → Qp) (s : State) : Voice s (modQp q g s) :=
  ⟨fun p => by rw [getHport_modQp], fun m => by cases m <;> rfl, Nat.le_refl _⟩

theorem voice_setQp (q : Nat) (x : Qp) (s : State) : Voice s (setQp q x s) := voice_modQp q (fun _ => x) s

theorem voice_passTo (k : Nat) (s : State) : Voice s (passTo k s) := voice_of_host rfl (Nat.le_max_left ..)

theorem Voice.framed (h : Voice s t) (p : HPort) (m : HostMsg) : framed t p m = framed s p m := by
  have hwire := h.wires p
  simp only [wire, Prod.mk.injEq] at hwire
  simp only [Claims.framed, vlanOf, hwire, h.marks m]

theorem Voice.sends (h : Voice s t) (hs : sends s p = true) : sends t p = true := by
  have hwire := h.wires p
  simp only [wire, Prod.mk.injEq] at hwire
  obtain ⟨-, hpcp, hpauses, htxq⟩ := hwire
  simp only [Claims.sends, portPaused, Bool.and_eq_true, Bool.not_eq_true', decide_eq_false_iff_not, Nat.not_lt] at hs ⊢
  rw [hpcp, hpauses, htxq]
  exact ⟨hs.1.trans h.later, hs.2⟩

theorem Voice.said (h : Voice s t) (hport : (getQp t q).port = (getQp s q).port) (m : HostMsg) : said t q m = said s q m := by
  rw [Claims.said, hport, h.framed, ← Claims.said]

theorem sendFrames_of_sends (h : sends s p = true) (frames : Nat) (m : HostMsg) : sendFrames p frames m s = putFrames p frames m s := by
  simp only [sends, Bool.and_eq_true, Bool.not_eq_true'] at h
  simp [sendFrames, flushFrames, h]

theorem flushFrames_idle (h : (getHport s p).txq = []) : flushFrames p s = s := by simp [flushFrames, h]

/-- `t` is `s` but for the outputs `os` that it has sent and for what the ports of the host edge count. -/
structure Says (s t : State) (os : List Output) : Prop where
  speaks : Speaks s t os
  voice : Voice s t
  qps : t.host.qps = s.host.qps
  owner : t.host.owner = s.host.owner
  tagFail : t.host.tagFail = s.host.tagFail

theorem Says.refl (s : State) : Says s s [] := ⟨.refl s, .refl s, rfl, rfl, rfl⟩

theorem Says.getQp {os : List Output} (h : Says s t os) (n : Nat) : getQp t n = getQp s n := congrArg (smapGet Qp.reset · n) h.qps

theorem Says.said {os : List Output} (h : Says s t os) (q : Nat) (m : HostMsg) : said t q m = said s q m :=
  h.voice.said (congrArg Qp.port (h.getQp q)) m

theorem getHport_putFrames (p : HPort) (frames : Nat) (m : HostMsg) (s : State) : getHport (putFrames p frames m s) p =
    { getHport s p with tx := (getHport s p).tx + BitVec.ofNat 64 frames } := by
  cases p <;> rfl

theorem says_putFrames (p : HPort) (frames : Nat) (m : HostMsg) (s : State) : Says s (putFrames p frames m s) [Claims.framed s p m] where
  speaks := speaks_putFrames p frames m s
  voice := by
    refine (voice_of_host (s := s) (t := emit (Claims.framed s p m) s) rfl (Nat.le_refl _)).trans (voice_setHport ?_)
    rfl
  qps := by cases p <;> rfl
  owner := by cases p <;> rfl
  tagFail := by cases p <;> rfl

/-- A frame that nothing keeps back is sent. -/
theorem says_sendFrames (h : sends s p = true) (frames : Nat) (m : HostMsg) : Says s (sendFrames p frames m s) [Claims.framed s p m] := by
  rw [sendFrames_of_sends h]
  exact says_putFrames ..

theorem says_emitQp (h : sends s (getQp s q).port = true) (frames : Nat) (m : HostMsg) : Says s (emitQp q frames m s) [Claims.said s q m] :=
  says_sendFrames h frames m

end HostPorts

/-! ### Frames at a host port (17 R456, R457, R466) -/

section Frames

variable {s : State} {p : HPort}

theorem ctrInc_of_not_full {c : EvCtr} (h : c.count ≠ BitVec.allOnes 32) : ctrInc c = ({ c with count := c.count + 1 }, false) := if_neg h

/-- A port that has dropped a frame. -/
def dropped (v : HoPort) : HoPort := { v with drop := { v.drop with count := v.drop.count + 1 } }

/-- A port that has counted an invariant CRC. -/
def miscoded (v : HoPort) : HoPort := { v with icrc := { v.icrc with count := v.icrc.count + 1 } }

/-- A port that has counted a codeword that could not be corrected. -/
def uncorrected (v : HoPort) : HoPort := { v with fecunc := { v.fecunc with count := v.fecunc.count + 1 } }

theorem dropFrame_eq (h : (getHport s p).drop.count ≠ BitVec.allOnes 32) : dropFrame p s = setHport p (dropped (getHport s p)) s := by
  simp only [dropFrame, ctrInc_of_not_full h]
  rfl

theorem icrcFrame_eq (h : (getHport s p).icrc.count ≠ BitVec.allOnes 32) : icrcFrame p s = setHport p (miscoded (getHport s p)) s := by
  simp only [icrcFrame, ctrInc_of_not_full h]
  rfl

theorem fecFrame_eq (h : (getHport s p).fecunc.count ≠ BitVec.allOnes 32) (hdrop : (getHport s p).drop.count ≠ BitVec.allOnes 32) :
    fecFrame p s = setHport p (dropped (uncorrected (getHport s p))) s := by
  simp only [fecFrame, ctrInc_of_not_full h]
  refine (dropFrame_eq ?_).trans ?_
  all_goals simp only [ovfEvent, Bool.false_eq_true, if_false, modHport, getHport_setHport_same, setHport_setHport]
  · exact hdrop
  · rfl

/-! What a port does with a frame that it does not receive. -/

theorem hearFrame_deaf (h : (getHport s p).st ≠ .up) : hearFrame p s = (false, s) := if_pos h

theorem rocePacket_deaf (h : (getHport s p).st ≠ .up) (k : RocePacket) :
    Goes (.rocePacket p k) s (if k.fcsOk && k.ipOk && k.icrcOk then s else loopFrame p s) := by
  refine congrArg Host.Outcome.next ?_
  rw [hearFrame_deaf h]
  rfl

theorem unsupportedFrame_deaf (h : (getHport s p).st ≠ .up) (why : DropReason) : Goes (.unsupportedFrame p why) s (loopFrame p s) := by
  refine congrArg Host.Outcome.next ?_
  rw [hearFrame_deaf h]
  rfl

theorem answerable_deaf (h : (getHport s p).st ≠ .up) (a : ArpFrame) (nd : NdFrame) (v6 : Bool) (dst : BitVec 128) (bs : List Byte)
    (prio : BitVec 3) (quanta : BitVec 16) :
    ∀ c ∈ [Instr.arpFrame p a, Instr.ndFrame p nd, Instr.icmpEchoRequest p v6 dst bs, Instr.pfcFrame p prio quanta], Goes c s s := by
  simp only [List.forall_mem_cons, List.not_mem_nil, false_implies, implies_true, and_true]
  refine ⟨?_, ?_, ?_, ?_⟩
  all_goals
    refine congrArg Host.Outcome.next ?_
    rw [hearFrame_deaf h]
    rfl

/-! What it does with one that it receives. -/

/-- A port that has received a frame. -/
def heard (v : HoPort) : HoPort := { v with rx := v.rx + 1 }

/-- The state in which a port has received a frame. -/
def hears (p : HPort) (s : State) : State := setHport p (heard (getHport s p)) s

theorem hearFrame_up (h : (getHport s p).st = .up) (harm : s.test.arm = false) :
    hearFrame p s = (true, hears p s) := by
  have harm' : (hears p s).test.arm = false := by cases p <;> exact harm
  unfold hearFrame
  rw [if_neg (not_not_intro h)]
  extract_lets u
  rw [show u = hears p s from rfl, harm']
  rfl

/-- `t` is `s` after its port has received a frame and answered it with the message `m`. -/
structure Answered (p : HPort) (m : HostMsg) (s t : State) : Prop where
  outbox : t.outbox = s.outbox ++ [Claims.framed s p m]
  rx : (getHport t p).rx = (getHport s p).rx + 1
  tx : (getHport t p).tx = (getHport s p).tx + 1
  bonded : t.bonded = s.bonded
  cores : t.cores = s.cores
  qps : t.host.qps = s.host.qps

theorem setHport_keeps (p : HPort) (v : HoPort) (s : State) : (setHport p v s).outbox = s.outbox ∧ (setHport p v s).bonded = s.bonded ∧
    (setHport p v s).cores = s.cores ∧ (setHport p v s).host.qps = s.host.qps := by
  cases p <;> exact ⟨rfl, rfl, rfl, rfl⟩

/-- A port that differs by what it has received and learnt answers. -/
theorem answered_emitFrame {w : HoPort} (hsends : sends s p = true) (m : HostMsg) (hwire : wire w = wire (getHport s p))
    (hrx : w.rx = (getHport s p).rx + 1) (htx : w.tx = (getHport s p).tx) :
    Answered p m s (emitFrame p m (setHport p w s)) ∧ (getHport (emitFrame p m (setHport p w s)) p).peers = w.peers := by
  have hvoice : Voice s (setHport p w s) := voice_setHport hwire
  have hsent := says_sendFrames (hvoice.sends hsends) 1 m
  obtain ⟨houtbox, hbonded, hcores, hqps⟩ := setHport_keeps p w s
  have hport : getHport (emitFrame p m (setHport p w s)) p = { w with tx := w.tx + 1 } := by
    rw [emitFrame, sendFrames_of_sends (hvoice.sends hsends), getHport_putFrames, getHport_setHport_same]
    rfl
  refine ⟨⟨?_, ?_, ?_, hsent.speaks.bonded.trans hbonded, hsent.speaks.cores.trans hcores, hsent.qps.trans hqps⟩, ?_⟩
  · exact hsent.speaks.outbox.trans (by rw [houtbox, hvoice.framed])
  · exact (congrArg HoPort.rx hport).trans hrx
  · exact (congrArg HoPort.tx hport).trans (congrArg (· + 1) htx)
  · exact (congrArg HoPort.peers hport :)

/-- A port that knows where a peer is. -/
def knowing (ip : BitVec 128) (mac : BitVec 48) (v : HoPort) : HoPort := { v with peers := v.peers.filter (fun e => e.1 ≠ ip) ++ [(ip, mac)] }

/-- A packet marked CE is answered by one notification, where none went to its queue pair in the last 50 us. -/
theorem notifyCe_sends {u : State} {q : Nat} (hst : (getQp u q).st ≠ .free) (hecn : u.host.ecn = true)
    (hold : ∀ t, (getQp u q).cnpSent = some t → t + 60000 ≤ u.clk) (hsends : sends u (getQp u q).port = true) :
    (notifyCe q u).outbox = u.outbox ++ [said u q (.cnp q)] ∧ (notifyCe q u).bonded = u.bonded ∧ (notifyCe q u).cores = u.cores := by
  set w := modQp q (fun v => { v with cnpSent := some u.clk }) u with hw
  have hsent : notifyCe q u = emitQp q 1 (.cnp q) w := by
    unfold notifyCe
    extract_lets v recent
    have hrecent : recent = false := by
      cases hc : v.cnpSent with
      | none => simp [recent, hc]
      | some t =>
        rw [show recent = decide (u.clk < t + us 50) by simp only [recent, hc]]
        exact decide_eq_false (Nat.not_lt.mpr (hold t hc))
    rw [hrecent, hecn]
    exact if_neg (by simpa [v] using hst)
  have hport : (getQp w q).port = (getQp u q).port := by
    rw [hw]
    unfold modQp getQp setQp
    rw [smapGet_smapSet_of_ne, if_pos rfl]
    exact fun he => absurd (congrArg Qp.cnpSent he) (by simp [Qp.reset])
  have hvoice : Voice u w := voice_modQp ..
  have hsays := says_emitQp (s := w) (q := q) (hport ▸ hvoice.sends hsends) 1 (.cnp q)
  rw [hsent]
  refine ⟨hsays.speaks.outbox.trans ?_, hsays.speaks.bonded, hsays.speaks.cores⟩
  rw [hvoice.said hport]
  rfl

/-- The state in which a port has received a frame and learnt from it where a peer is. -/
def learns (p : HPort) (ip : BitVec 128) (mac : BitVec 48) (s : State) : State := setHport p (knowing ip mac (heard (getHport s p))) s

theorem learnPeer_hears (ip : BitVec 128) (mac : BitVec 48) : learnPeer p ip mac (hears p s) = learns p ip mac s := by
  simp only [learnPeer, modHport, hears, getHport_setHport_same, setHport_setHport]
  rfl

theorem getHport_hears : getHport (hears p s) p = heard (getHport s p) := getHport_setHport_same ..

theorem getHport_learns (ip : BitVec 128) (mac : BitVec 48) : getHport (learns p ip mac s) p = knowing ip mac (heard (getHport s p)) :=
  getHport_setHport_same ..

theorem answered_hears (hsends : sends s p = true) (m : HostMsg) : Answered p m s (emitFrame p m (hears p s)) :=
  (answered_emitFrame hsends m (w := heard (getHport s p)) rfl rfl rfl).1

theorem answered_learns (hsends : sends s p = true) (m : HostMsg) (ip : BitVec 128) (mac : BitVec 48) :
    Answered p m s (emitFrame p m (learns p ip mac s)) ∧ (ip, mac) ∈ (getHport (emitFrame p m (learns p ip mac s)) p).peers := by
  obtain ⟨hanswer, hpeers⟩ := answered_emitFrame (w := knowing ip mac (heard (getHport s p))) hsends m rfl rfl rfl
  exact ⟨hanswer, (congrArg _ hpeers).mpr (List.mem_append_right _ (List.mem_singleton_self _))⟩

theorem dropFrame_hears (h : (getHport s p).drop.count ≠ BitVec.allOnes 32) :
    dropFrame p (hears p s) = setHport p (dropped (heard (getHport s p))) s := by
  rw [dropFrame_eq (by rwa [getHport_hears]), getHport_hears]
  exact setHport_setHport ..

theorem icrcFrame_hears (h : (getHport s p).icrc.count ≠ BitVec.allOnes 32) :
    icrcFrame p (hears p s) = setHport p (miscoded (heard (getHport s p))) s := by
  rw [icrcFrame_eq (by rwa [getHport_hears]), getHport_hears]
  exact setHport_setHport ..

theorem fecFrame_hears (h : (getHport s p).fecunc.count ≠ BitVec.allOnes 32) (hdrop : (getHport s p).drop.count ≠ BitVec.allOnes 32) :
    fecFrame p (hears p s) = setHport p (dropped (uncorrected (heard (getHport s p)))) s := by
  rw [fecFrame_eq (by rwa [getHport_hears]) (by rwa [getHport_hears]), getHport_hears]
  exact setHport_setHport ..

/-- A packet marked CE that its port has received. -/
theorem notifyCe_hears {q : Nat} (hst : (getQp s q).st ≠ .free) (hecn : s.host.ecn = true)
    (hold : ∀ t, (getQp s q).cnpSent = some t → t + 60000 ≤ s.clk) (hsends : sends s (getQp s q).port = true) :
    (notifyCe q (hears p s)).outbox = s.outbox ++ [said s q (.cnp q)] ∧ (notifyCe q (hears p s)).bonded = s.bonded ∧
      (notifyCe q (hears p s)).cores = s.cores := by
  have hvoice : Voice s (hears p s) := voice_setHport rfl
  have hqp : getQp (hears p s) q = getQp s q := by cases p <;> rfl
  have hclk : (hears p s).clk = s.clk := by cases p <;> rfl
  have hsent := notifyCe_sends (u := hears p s) (q := q) (by rwa [hqp]) (by cases p <;> exact hecn) (by rwa [hqp, hclk])
    (by rw [hqp]; exact hvoice.sends hsends)
  obtain ⟨houtbox, hbonded, hcores, -⟩ := setHport_keeps p (heard (getHport s p)) s
  rw [said, hqp, hvoice.framed, ← said] at hsent
  exact ⟨hsent.1.trans (congrArg (· ++ _) houtbox), hsent.2.1.trans hbonded, hsent.2.2.trans hcores⟩

section Received

variable (hup : (getHport s p).st = .up) (harm : s.test.arm = false)

include hup harm

/-! RoCEv2 packets. -/

theorem rocePacket_goes (k : RocePacket) :
    Goes (.rocePacket p k) s (if !k.fcsOk || !k.ipOk || decide (4352 < k.len) then dropFrame p (hears p s)
      else if !k.icrcOk then icrcFrame p (hears p s) else if k.ce then notifyCe k.qp.toNat (hears p s) else hears p s) := by
  refine congrArg Host.Outcome.next ?_
  rw [hearFrame_up hup harm]
  rfl

theorem rocePacket_dropped {k : RocePacket} (h : k.fcsOk = false ∨ k.ipOk = false ∨ 4352 < k.len)
    (hdrop : (getHport s p).drop.count ≠ BitVec.allOnes 32) : Goes (.rocePacket p k) s (setHport p (dropped (heard (getHport s p))) s) := by
  have hbad : (!k.fcsOk || !k.ipOk || decide (4352 < k.len)) = true := by simpa [or_assoc] using h
  exact (rocePacket_goes hup harm k).trans (congrArg _ ((if_pos hbad).trans (dropFrame_hears hdrop)))

section Whole

variable {k : RocePacket} (hfcs : k.fcsOk = true) (hip : k.ipOk = true) (hlen : k.len ≤ 4352)

include hfcs hip hlen

theorem rocePacket_whole : Goes (.rocePacket p k) s
    (if !k.icrcOk then icrcFrame p (hears p s) else if k.ce then notifyCe k.qp.toNat (hears p s) else hears p s) :=
  (rocePacket_goes hup harm k).trans (congrArg _ (if_neg (by simp [hfcs, hip, hlen])))

theorem rocePacket_miscoded (hcrc : k.icrcOk = false) (hicrc : (getHport s p).icrc.count ≠ BitVec.allOnes 32) :
    Goes (.rocePacket p k) s (setHport p (miscoded (heard (getHport s p))) s) :=
  (rocePacket_whole hup harm hfcs hip hlen).trans (congrArg _ ((if_pos (by simp [hcrc])).trans (icrcFrame_hears hicrc)))

theorem rocePacket_good (hcrc : k.icrcOk = true) (hce : k.ce = false) : Goes (.rocePacket p k) s (hears p s) :=
  (rocePacket_whole hup harm hfcs hip hlen).trans (congrArg _ ((if_neg (by simp [hcrc])).trans (if_neg (by simp [hce]))))

theorem rocePacket_marked (hcrc : k.icrcOk = true) (hce : k.ce = true) : Goes (.rocePacket p k) s (notifyCe k.qp.toNat (hears p s)) :=
  (rocePacket_whole hup harm hfcs hip hlen).trans (congrArg _ ((if_neg (by simp [hcrc])).trans (if_pos hce)))

end Whole

/-! Resolution of addresses, and echo. -/

theorem arpFrame_goes (a : ArpFrame) : Goes (.arpFrame p a) s
    (if a.request && decide ((getHport s p).ip4 ≠ 0) && decide (a.targetIp = (getHport s p).ip4) then
      emitFrame p (.arpReply (getHport s p).ip4 (getHport s p).mac) (learns p (a.senderIp.setWidth 128) a.senderMac s)
      else learns p (a.senderIp.setWidth 128) a.senderMac s) := by
  refine congrArg Host.Outcome.next ?_
  rw [hearFrame_up hup harm]
  dsimp only
  rw [if_neg (by decide), learnPeer_hears, getHport_learns]
  rfl

theorem ndFrame_goes (nd : NdFrame) : Goes (.ndFrame p nd) s (if nd.solicit && ownIp6 (getHport s p) nd.targetIp then
    emitFrame p (.ndAdvert nd.targetIp (getHport s p).mac) (learns p nd.senderIp nd.senderMac s) else learns p nd.senderIp nd.senderMac s) := by
  refine congrArg Host.Outcome.next ?_
  rw [hearFrame_up hup harm]
  dsimp only
  rw [if_neg (by decide), learnPeer_hears, getHport_learns]
  rfl

/-- The address of an echo request is one of the port's. -/
def echoOwn (v : HoPort) (v6 : Bool) (dst : BitVec 128) : Bool :=
  if v6 then ownIp6 v dst else decide (v.ip4 ≠ 0) && decide (dst = v.ip4.setWidth 128)

theorem icmpEchoRequest_goes (v6 : Bool) (dst : BitVec 128) (bs : List Byte) : Goes (.icmpEchoRequest p v6 dst bs) s
    (if 4352 < echoLen s p v6 bs.length then dropFrame p (hears p s)
      else if echoOwn (getHport s p) v6 dst then emitFrame p (.echoReply bs) (hears p s) else hears p s) := by
  refine congrArg Host.Outcome.next ?_
  rw [hearFrame_up hup harm]
  dsimp only
  rw [if_neg (by decide), getHport_hears]
  rfl

/-! Pauses, and frames that the port does not take. -/

theorem pfcFrame_goes (prio : BitVec 3) (quanta : BitVec 16) (htxq : (getHport s p).txq = []) :
    Goes (.pfcFrame p prio quanta) s (setHport p (if (getHport s p).pfcen.getLsbD prio.toNat then
      { heard (getHport s p) with
        pauses := smapSet 0 (getHport s p).pauses prio.toNat (if quanta = 0 then 0 else s.clk + quanta.toNat * 1536 / 1000) }
      else heard (getHport s p)) s) := by
  refine congrArg Host.Outcome.next ?_
  rw [hearFrame_up hup harm]
  dsimp only
  rw [if_neg (by decide), hears]
  simp only [getHport_setHport_same, modHport, setHport_setHport]
  change (if (getHport s p).pfcen.getLsbD prio.toNat then _ else _) = _
  by_cases hen : (getHport s p).pfcen.getLsbD prio.toNat
  · rw [if_pos hen, if_pos hen]
    exact flushFrames_idle (by rw [getHport_setHport_same]; exact htxq)
  · rw [if_neg hen, if_neg hen]

theorem unsupportedFrame_goes (hdrop : (getHport s p).drop.count ≠ BitVec.allOnes 32) (hicrc : (getHport s p).icrc.count ≠ BitVec.allOnes 32)
    (hfec : (getHport s p).fecunc.count ≠ BitVec.allOnes 32) (why : DropReason) : Goes (.unsupportedFrame p why) s
      (setHport p (if why = .icrc then miscoded (heard (getHport s p)) else if why = .codeword then dropped (uncorrected (heard (getHport s p)))
        else dropped (heard (getHport s p))) s) := by
  refine congrArg Host.Outcome.next ?_
  rw [hearFrame_up hup harm]
  cases why with
  | icrc => exact icrcFrame_hears hicrc
  | codeword => exact fecFrame_hears hfec hdrop
  | kind => exact dropFrame_hears hdrop
  | fcs => exact dropFrame_hears hdrop
  | ipChecksum => exact dropFrame_hears hdrop

end Received

/-- The pause of a priority ends, with nothing kept back. -/
theorem pfcPauseExpiry_goes {prio : BitVec 3} (htxq : (getHport s p).txq = []) (h : smapGet 0 (getHport s p).pauses prio.toNat ≠ 0) :
    Goes (.pfcPauseExpiry p prio) s (setHport p { getHport s p with pauses := smapSet 0 (getHport s p).pauses prio.toNat 0 }
      (passTo (smapGet 0 (getHport s p).pauses prio.toNat) s)) := by
  refine congrArg Host.Outcome.next ((if_neg h).trans ?_)
  have hport : getHport (passTo (smapGet 0 (getHport s p).pauses prio.toNat) s) p = getHport s p := by cases p <;> rfl
  rw [modHport, hport]
  exact flushFrames_idle (by rw [getHport_setHport_same]; exact htxq)

end Frames

/-- Settles O50: the lemmas on frames received and not received give its clauses. The quantum is the standard's (log 14); what a loop-back
counts is log 126. -/
theorem hostFrames : Obligations.HostFrames := by
  unfold Obligations.HostFrames
  intro s p k a nd v6 dst bs prio quanta why v frames got answered
  have hanswers : ∀ {m : HostMsg} {t : State}, Answered p m s t → answered m t := fun h => ⟨h.outbox, h.rx, h.tx, h.bonded, h.cores, h.qps⟩
  refine ⟨fun hst hloop => ?_, fun hst hdrop => ?_, fun hup harm hdrop hicrc hfec => ?_, pfcPauseExpiry_goes⟩
  · have hquiet : loopFrame p s = s := if_neg hloop
    obtain ⟨harp, hnd, hicmp, hpfc, -⟩ := by
      simpa only [List.forall_mem_cons] using answerable_deaf hst a nd v6 dst bs prio quanta
    have hroce := rocePacket_deaf hst k
    have hother := unsupportedFrame_deaf hst why
    rw [hquiet, ite_self] at hroce
    rw [hquiet] at hother
    simp only [frames, List.forall_mem_cons]
    exact ⟨hroce, harp, hnd, hicmp, hpfc, hother, List.forall_mem_nil _⟩
  · have hst' : v.st ≠ .up := fun h => by rw [hst] at h; contradiction
    have hcount : loopFrame p s = setHport p (dropped v) s := (if_pos hst).trans (dropFrame_eq hdrop)
    exact ⟨answerable_deaf hst' a nd v6 dst bs prio quanta, hcount ▸ unsupportedFrame_deaf hst' why, hcount ▸ rocePacket_deaf hst' k⟩
  · refine ⟨fun hfcs hip hlen => rocePacket_good hup harm hfcs hip hlen, fun hbad => rocePacket_dropped hup harm hbad hdrop,
      fun hfcs hip hlen hcrc => rocePacket_miscoded hup harm hfcs hip hlen hcrc hicrc,
      fun hfcs hip hlen hcrc hce hfree hecn hold hsends => ?_, fun hsends hreq hown htarget => ?_, fun hnot => ?_, fun hsends hsol hown => ?_,
      fun hsends hlen hmine => ?_, fun hlen => ?_, fun hlen hv6 hdst => ?_, fun htxq => pfcFrame_goes hup harm prio quanta htxq,
      unsupportedFrame_goes hup harm hdrop hicrc hfec why⟩
    · exact ⟨_, rocePacket_marked hup harm hfcs hip hlen hcrc hce, notifyCe_hears hfree hecn hold hsends⟩
    · obtain ⟨hanswer, hpeer⟩ := answered_learns hsends (.arpReply v.ip4 v.mac) (a.senderIp.setWidth 128) a.senderMac
      refine ⟨_, (arpFrame_goes hup harm a).trans (congrArg _ (if_pos ?_)), hanswers hanswer, hpeer⟩
      simpa [hreq] using And.intro hown htarget
    · refine (arpFrame_goes hup harm a).trans (congrArg _ (if_neg ?_))
      simpa [or_iff_not_imp_left] using hnot
    · refine ⟨_, (ndFrame_goes hup harm nd).trans (congrArg _ (if_pos ?_)), hanswers (answered_learns hsends ..).1⟩
      simpa [hsol, ownIp6] using hown
    · refine ⟨_, (icmpEchoRequest_goes hup harm v6 dst bs).trans (congrArg _ ((if_neg (Nat.not_lt.mpr hlen)).trans (if_pos ?_))),
        hanswers (answered_hears hsends _)⟩
      cases v6 <;> simpa [echoOwn, ownIp6] using hmine
    · exact (icmpEchoRequest_goes hup harm v6 dst bs).trans (congrArg _ ((if_pos hlen).trans (dropFrame_hears hdrop)))
    · refine (icmpEchoRequest_goes hup harm v6 dst bs).trans (congrArg _ ((if_neg (Nat.not_lt.mpr hlen)).trans (if_neg ?_)))
      simp [echoOwn, hv6, hdst, v]

end Sys2Proof.Proofs

namespace Sys2Proof.Proofs

open Sys2Proof Sys2Proof.Machine Sys2Proof.Claims Sys2Proof.Laws

/-! ### Host ports train (17 R563) -/

section Training

variable {s : State} {p : HPort}

theorem hostPortTrained_goes (hst : (getHport s p).st = .training) (hen : (getHport s p).en = true) (hon : s.power.hostSt = .on) :
    Goes (.hostPortTrained p) s (setHport p { getHport s p with st := .up } s) :=
  congrArg Host.Outcome.next (if_pos (by simp [hst, hen, hon]))

theorem hostPortTrainingFailed_goes (hst : (getHport s p).st = .training) : Goes (.hostPortTrainingFailed p) s
    (setHport p { getHport s p with
      st := if (getHport s p).en && decide ((getHport s p).loop.toNat = 0 ∨ 4 ≤ (getHport s p).loop.toNat) then .training else .down
      since := s.clk } s) :=
  congrArg Host.Outcome.next (if_pos hst)

theorem hostLinkLoss_goes (hst : (getHport s p).st = .up) :
    Goes (.hostLinkLoss p) s (setHport p { getHport s p with st := .training, since := s.clk } s) :=
  congrArg Host.Outcome.next (if_pos hst)

end Training

/-! ### Connections (17 R459, R460, R463, R474) -/

section Connections

variable {s t : State} {p : HPort} {r : CmReq} {q m : Nat}

theorem Voice.owner (h : Voice s t) (o : Option Owner) : Voice s { t with host := { t.host with owner := o } } :=
  h.trans ⟨fun p => by cases p <;> rfl, fun m => by cases m <;> rfl, Nat.le_refl _⟩

theorem findQp_lowest (h2 : 2 ≤ m) (hm : m < 4096) (hfree : (getQp s m).st = .free)
    (hlow : ∀ i, 2 ≤ i → i < m → (getQp s i).st ≠ .free) : findQp s = some m := by
  obtain ⟨k, rfl⟩ := Nat.exists_eq_add_of_le' h2
  rw [findQp, List.find?_map, Option.map_eq_some_iff]
  refine ⟨k, List.find?_range_eq_some.mpr ⟨decide_eq_true hfree, by simp; omega, fun j hj => ?_⟩, rfl⟩
  simpa using hlow (j + 2) (by omega) (by omega)

/-- A peer whose address the port does not know is asked for it. -/
theorem says_resolvePeer (h : sends s p = true) (ip : BitVec 128) : Says s (resolvePeer p ip s)
    (if (getHport s p).peers.any (fun e => decide (e.1 = ip)) then [] else
      [framed s p (if ip.toNat < 2 ^ 32 then .arpRequest (ip.setWidth 32) (getHport s p).mac else .ndSolicit ip (getHport s p).mac)]) := by
  unfold resolvePeer
  dsimp only
  split
  · exact .refl s
  · exact says_sendFrames h ..

/-- The context of a queue pair that a REQ has been given. -/
def newQp (p : HPort) (r : CmReq) (k : Nat) : Qp :=
  let owner := decide (rdN r.priv 0 1 = 1)
  let part := rdN r.priv 1 1
  { Qp.reset with st := .connecting, part := BitVec.ofNat 4 part, owner := owner, plain := owner || decide (part = 0), port := p,
                  mtu := if 5 < r.mtu.toNat then 5 else r.mtu, rqpn := r.rqpn, peer := r.peer, raiseAt := k }

/-- An owner's REQ names the areas of its session. -/
def seatOwner (r : CmReq) (m : Nat) (s : State) : State :=
  if decide (rdN r.priv 0 1 = 1) then { s with host := { s.host with owner := some (ownerOf m r.priv) } } else s

theorem seatOwner_eq (r : CmReq) (m : Nat) (s : State) : seatOwner r m s =
    { s with host := { s.host with owner := if rdN r.priv 0 1 = 1 then some (ownerOf m r.priv) else s.host.owner } } := by
  unfold seatOwner
  by_cases hkind : rdN r.priv 0 1 = 1 <;> simp [hkind]

theorem seatOwner_keeps (r : CmReq) (m : Nat) (s : State) : (seatOwner r m s).host.qps = s.host.qps ∧
    (seatOwner r m s).outbox = s.outbox ∧
    (seatOwner r m s).host.owner = (if rdN r.priv 0 1 = 1 then some (ownerOf m r.priv) else s.host.owner) ∧
    (seatOwner r m s).bonded = s.bonded := by
  rw [seatOwner_eq]
  exact ⟨rfl, rfl, rfl, rfl⟩

theorem cmReq_accepted (hup : (getHport s p).st = .up) (hcode : reqCode s r.priv = 0) (hfind : findQp s = some m) :
    Goes (.cmReq p r) s (emitFrame p (.rep m (min 5 r.mtu.toNat)) (seatOwner r m (resolvePeer p r.peer (setQp m (newQp p r s.clk) s)))) := by
  have hmtu : (if 5 < r.mtu.toNat then 5 else r.mtu).toNat = min 5 r.mtu.toNat := by
    have hfive : (5 : BitVec 3).toNat = 5 := rfl
    split <;> omega
  refine congrArg Host.Outcome.next ((if_neg (not_not_intro hup)).trans ?_)
  rw [hcode, hfind, ← hmtu]
  rfl

theorem cmReq_refused {c : Nat} (hup : (getHport s p).st = .up) (hcode : reqCode s r.priv = c) (hc : 0 < c) :
    Goes (.cmReq p r) s (emitFrame p (.rej c) s) := by
  refine congrArg Host.Outcome.next ((if_neg (not_not_intro hup)).trans ?_)
  rw [hcode]
  cases c with
  | zero => exact absurd hc (Nat.lt_irrefl 0)
  | succ k => rfl

/-- An accepted REQ changes the queue pair that it takes, and of the rest the session, the ports' counts and what is sent. -/
theorem cmReq_accepted_outcome (hup : (getHport s p).st = .up) (hsends : sends s p = true) (hcode : reqCode s r.priv = 0)
    (hfind : findQp s = some m) : ∃ t, Goes (.cmReq p r) s t ∧ t.host.qps = smapSet Qp.reset s.host.qps m (newQp p r s.clk) ∧
      t.outbox = s.outbox ++ (if (getHport s p).peers.any (fun e => decide (e.1 = r.peer)) then [] else
        [framed s p (if r.peer.toNat < 2 ^ 32 then .arpRequest (r.peer.setWidth 32) (getHport s p).mac else .ndSolicit r.peer (getHport s p).mac)])
        ++ [framed s p (.rep m (min 5 r.mtu.toNat))] ∧
      t.host.owner = (if rdN r.priv 0 1 = 1 then some (ownerOf m r.priv) else s.host.owner) ∧ t.bonded = s.bonded := by
  set u := setQp m (newQp p r s.clk) s
  have hvoice : Voice s u := voice_setQp ..
  have hasked := says_resolvePeer (hvoice.sends hsends) r.peer
  rw [getHport_setQp, hvoice.framed] at hasked
  set w := resolvePeer p r.peer u
  have hseated : Voice s (seatOwner r m w) := by
    rw [seatOwner_eq]
    exact (hvoice.trans hasked.voice).owner _
  have hreplied := says_sendFrames (hseated.sends hsends) 1 (.rep m (min 5 r.mtu.toNat))
  obtain ⟨hqps, houtbox, howner, hbonded⟩ := seatOwner_keeps r m w
  refine ⟨_, cmReq_accepted hup hcode hfind, (hreplied.qps.trans hqps).trans hasked.qps, ?_, ?_,
    (hreplied.speaks.bonded.trans hbonded).trans hasked.speaks.bonded⟩
  · refine hreplied.speaks.outbox.trans ?_
    rw [hseated.framed, houtbox]
    exact congrArg (· ++ _) hasked.speaks.outbox
  · exact (hreplied.owner.trans howner).trans (by rw [hasked.owner]; rfl)

/-! Ends. -/

theorem endSession_only (q : Nat) (s : State) : ∃ o k r, endSession q s =
    { s with host := { s.host with owner := o }, tick := k, secure := { s.secure with reports := r } } := by
  unfold endSession
  split
  · split
    · exact ⟨_, _, _, rfl⟩
    · exact ⟨_, _, _, rfl⟩
  · exact ⟨_, _, _, rfl⟩

theorem getQp_endSession (q n : Nat) (s : State) : getQp (endSession q s) n = getQp s n := by
  obtain ⟨o, k, r, h⟩ := endSession_only q s
  rw [h]
  rfl

theorem getQp_setQp_same (h : smapWf Qp.reset s.host.qps = true) (n : Nat) (x : Qp) : getQp (setQp n x s) n = x :=
  (getQp_setQp h n n x).trans (if_pos rfl)

/-- The peer's DREQ is answered, and the queue pair closes. -/
theorem cmDreq_outcome {n : BitVec 12} (hst : (getQp s n.toNat).st = .rts ∨ (getQp s n.toNat).st = .connecting)
    (hsends : sends s (getQp s n.toNat).port = true) (hwf : smapWf Qp.reset s.host.qps = true) : ∃ t, Goes (.cmDreq n) s t ∧
      t.outbox = s.outbox ++ [said s n.toNat (.drep n.toNat)] ∧ (getQp t n.toNat).st = .closing ∧ (getQp t n.toNat).closeAt = some s.clk := by
  have hsaid := says_emitQp hsends 1 (.drep n.toNat)
  set u := emitQp n.toNat 1 (.drep n.toNat) s
  have hfree : (getQp s n.toNat).st ≠ .free := by rcases hst with h | h <;> simp [h]
  have hlive : ((getQp u n.toNat).st = .connecting || (getQp u n.toNat).st = .rts) = true := by
    rw [hsaid.getQp]
    rcases hst with h | h <;> simp [h]
  set x := { getQp u n.toNat with st := QpSt.closing, closeAt := some u.clk }
  have hx : getQp (endSession n.toNat (setQp n.toNat x u)) n.toNat = x := by
    rw [getQp_endSession, getQp_setQp_same (by rwa [hsaid.qps])]
  refine ⟨endSession n.toNat (setQp n.toNat x u), congrArg Host.Outcome.next ((if_neg hfree).trans (if_pos hlive)), ?_, by rw [hx], ?_⟩
  · obtain ⟨o, k, rs, h⟩ := endSession_only n.toNat (setQp n.toNat x u)
    rw [h]
    exact hsaid.speaks.outbox
  · rw [hx]
    exact congrArg some hsaid.speaks.clk

end Connections

/-- Settles O51: each command's outcome is a lemma above. That the session is held from the REQ on is log 67. -/
theorem portsAndConnections : Obligations.PortsAndConnections := by
  unfold Obligations.PortsAndConnections
  intro s p r n v q x
  refine ⟨hostPortTrained_goes, hostPortTrainingFailed_goes, hostLinkLoss_goes, fun hdown => congrArg Host.Outcome.next (if_pos hdown),
    fun m hup hsends hcode h2 hm hfree hlow hwf => ?_, fun c hup hsends hcode hc => ?_, fun hbad => ?_, fun hok hkind howner => ?_,
    fun hok hkind hpart => ?_, fun hst howner => ?_, fun o hst hown howner hwf => ?_, cmDreq_outcome, fun a ha => ?_⟩
  · obtain ⟨t, hgo, hqps, houtbox, howner, hbonded⟩ := cmReq_accepted_outcome hup hsends hcode (findQp_lowest h2 hm hfree hlow)
    have hget : ∀ i, getQp t i = if i = m then newQp p r s.clk else getQp s i := fun i =>
      (congrArg (smapGet Qp.reset · i) hqps).trans (getQp_setQp hwf m i _)
    have hm : getQp t m = newQp p r s.clk := (hget m).trans (if_pos rfl)
    refine ⟨t, hgo, by rw [hm]; rfl, by rw [hm]; rfl, by rw [hm]; rfl, by rw [hm]; rfl, ?_, houtbox, fun i hi => (hget i).trans (if_neg hi),
      howner, hbonded⟩
    rw [hm]
    exact BitVec.toNat_ofNat ..
  · have hsaid := says_sendFrames hsends 1 (.rej c)
    exact ⟨_, cmReq_refused hup hcode hc, hsaid.speaks.outbox, hsaid.qps, hsaid.owner⟩
  · simp [reqCode, hbad]
  · simp [reqCode, hok, hkind, Option.isSome_iff_ne_none, howner]
  · simp [reqCode, hok, hkind, hpart]
  · refine congrArg Host.Outcome.next ((if_neg (not_not_intro hst)).trans (if_neg ?_))
    exact Bool.eq_false_iff.mp howner
  · refine ⟨_, congrArg Host.Outcome.next ((if_neg (not_not_intro hst)).trans (if_pos hown)), ?_, ?_⟩
    · exact congrArg Qp.st (getQp_setQp_same hwf q { x with st := .rts })
    · exact congrArg (Option.map _) howner
  · intro freed
    refine ⟨congrArg Host.Outcome.next (if_pos (Option.isSome_iff_exists.mpr ⟨a, ha⟩)), ?_⟩
    refine congrArg Host.Outcome.next ?_
    rw [show (getQp s n.toNat).dreqAt = some a from ha]
    rfl

end Sys2Proof.Proofs

namespace Sys2Proof.Proofs

open Sys2Proof Sys2Proof.Machine Sys2Proof.Claims Sys2Proof.Laws

/-! ### Writes of hosts where the slices are not in canonical form (17 R472) -/

section HostWrites

/-- A host writes to a window of P0. Slice 0 is listed twice, which no state in canonical form does: first with a byte counter that one
byte brings back to 0 and nothing else unlike its reset value, then as FAILED. -/
def doubledSlice : State := { State.reset with
  host := { HostEdge.reset with qps := [(2, { Qp.reset with st := .rts, plain := true, mtu := 4 })] }
  windows := [(3, { Window.reset with openW := true, host := true, r := true, w := true, base := 0x1000, len := 0x2000 })]
  parts := [(0, { Part.reset0 with exts := [(0, 4)] })]
  bonded := { Bonded.reset with
    gran := [(0, { a := true, ro := false, tag := 0 })]
    slices := [(0, { Slice.reset with wrBytes := -1 }), (0, { Slice.reset with st := .failed })] } }

/-- The byte at `a` of bonded memory in the state that a command answers. -/
def byteAfter (a : Nat) (c : Instr) (s : State) : Option Byte :=
  match exec c s with
  | .next t => some (smapGet 0 t.bonded.mem a)
  | _ => none

theorem byteAfter_of_goes {c : Instr} {s t : State} (h : Goes c s t) (a : Nat) : byteAfter a c s = some (smapGet 0 t.bonded.mem a) := by
  rw [byteAfter, h]

/-- The last byte of one page and the first of the next are written. The first takes slice 0's counter to 0; that entry, now the reset
value, is no longer listed, and the FAILED one comes to light. Its pages are POISON, so the second byte is refused. -/
theorem byteAfter_doubledSlice : byteAfter 0x2000 (.hostRdmaWrite 2 3 0xFFF [7, 8]) doubledSlice = some 0 := by decide +kernel

end HostWrites

/-- Refutes O52: its premises ask for canonical memory and queue pairs, not for canonical slices, and `doubledSlice` meets those of a
plaintext write, of which only the first byte is written. -/
theorem not_hostAccesses : ¬ Obligations.HostAccesses := by
  intro h
  obtain ⟨-, -, hwrite, -⟩ := h doubledSlice 2 3 0xFFF [7, 8] 0 (by decide +kernel) (by decide +kernel) (by decide +kernel)
  obtain ⟨hplain, -⟩ := hwrite (by decide) (by decide +kernel) (by decide) ⟨rfl, rfl, rfl, by decide +kernel⟩
  obtain ⟨t, hgo, hwrote, -⟩ := hplain (by decide +kernel)
  have height : smapGet 0 t.bonded.mem 0x2000 = 8 := hwrote 0x2000
  have hzero := (byteAfter_of_goes hgo 0x2000).symm.trans byteAfter_doubledSlice
  rw [height] at hzero
  exact absurd hzero (by decide)

end Sys2Proof.Proofs

namespace Sys2Proof.Proofs

open Sys2Proof Sys2Proof.Machine Sys2Proof.Claims Sys2Proof.Laws

/-! ### AES-256-GCM opens what it seals (17 R469; log 14) -/

section Sealing

/-- Every number of the list is a byte. -/
def AllBytes (l : List Nat) : Prop := ∀ x ∈ l, x < 256

theorem toNats_ofNats {l : List Nat} (h : AllBytes l) : toNats (ofNats l) = l := by
  rw [toNats, ofNats, List.map_map]
  refine (List.map_congr_left fun x hx => ?_).trans (List.map_id l)
  exact Nat.mod_eq_of_lt (h x hx)

theorem ofNats_toNats (bs : List Byte) : ofNats (toNats bs) = bs := by
  rw [toNats, ofNats, List.map_map]
  exact (List.map_congr_left fun b _ => (BitVec.ofNat_toNat ..).trans (BitVec.setWidth_eq b)).trans (List.map_id bs)

theorem allBytes_toNats (bs : List Byte) : AllBytes (toNats bs) := by
  intro x hx
  obtain ⟨b, -, rfl⟩ := List.mem_map.mp hx
  exact b.isLt

theorem AllBytes.append {a b : List Nat} (ha : AllBytes a) (hb : AllBytes b) : AllBytes (a ++ b) :=
  fun x hx => (List.mem_append.mp hx).elim (ha x) (hb x)

theorem AllBytes.xorL : ∀ {a b : List Nat}, AllBytes a → AllBytes b → AllBytes (xorL a b)
  | [], _, _, _ => List.forall_mem_nil _
  | _ :: _, [], _, _ => List.forall_mem_nil _
  | x :: a, y :: b, ha, hb => by
    rw [AllBytes, List.forall_mem_cons] at ha hb
    exact List.forall_mem_cons.mpr ⟨Nat.xor_lt_two_pow (n := 8) ha.1 hb.1, AllBytes.xorL ha.2 hb.2⟩

theorem xorL_xorL_cancel : ∀ {a k : List Nat}, a.length ≤ k.length → xorL (xorL a k) k = a
  | [], _, _ => rfl
  | _ :: _, [], h => absurd h (by simp)
  | x :: a, y :: k, h =>
    congrArg₂ List.cons (show x ^^^ y ^^^ y = x by rw [Nat.xor_assoc, Nat.xor_self, Nat.xor_zero]) (xorL_xorL_cancel (Nat.le_of_succ_le_succ h))

theorem length_xorL (a b : List Nat) : (xorL a b).length = min a.length b.length := List.length_zipWith

/-! The key schedule: sixty words of four bytes. -/

theorem allBytes_getD {l : List Nat} (h : AllBytes l) (n : Nat) : l.getD n 0 < 256 := by
  rcases Nat.lt_or_ge n l.length with hn | hn
  · rw [List.getD_eq_getElem _ _ hn]
    exact h _ (List.getElem_mem hn)
  · rw [List.getD_eq_default _ _ hn]
    decide

theorem subByte_lt (b : Nat) : subByte b < 256 := by
  have hbox : ∀ x ∈ aesSbox, x < 256 := by decide +kernel
  exact allBytes_getD hbox b

theorem allBytes_subBytes (l : List Nat) : AllBytes (l.map subByte) := by
  intro x hx
  obtain ⟨b, -, rfl⟩ := List.mem_map.mp hx
  exact subByte_lt b

theorem xtime_lt {b : Nat} (h : b < 256) : xtime b < 256 := by
  unfold xtime
  split
  · omega
  · exact Nat.xor_lt_two_pow (n := 8) (by omega) (by decide)

/-- `n` bytes. -/
def Block (n : Nat) (w : List Nat) : Prop := w.length = n ∧ AllBytes w

theorem Block.xorL {n : Nat} {a b : List Nat} (ha : Block n a) (hb : Block n b) : Block n (xorL a b) :=
  ⟨by rw [length_xorL, ha.1, hb.1, Nat.min_self], ha.2.xorL hb.2⟩

theorem Block.subBytes {n : Nat} {w : List Nat} (h : w.length = n) : Block n (w.map subByte) :=
  ⟨(List.length_map _).trans h, allBytes_subBytes w⟩

/-- A step of the schedule takes the newest word through RotWord, SubWord and the round constant, or SubWord, or as it is. -/
theorem Block.keyStep {t : List Nat} (h : Block 4 t) {rc : Nat} (hrc : rc < 256) (i : Nat) :
    Block 4 (if i % 8 = 0 then Machine.xorL ((t.drop 1 ++ t.take 1).map subByte) [rc, 0, 0, 0] else if i % 8 = 4 then t.map subByte else t) := by
  obtain ⟨hlen, -⟩ := id h
  split
  · exact (Block.subBytes (by simp [hlen])).xorL ⟨rfl, by simpa [AllBytes] using hrc⟩
  split
  · exact .subBytes hlen
  · exact h

theorem keyWords_words : ∀ {f i rc : Nat} {ws : List (List Nat)}, rc < 256 → 8 ≤ ws.length → (∀ w ∈ ws, Block 4 w) →
    (keyWords f i rc ws).length = f + ws.length ∧ ∀ w ∈ keyWords f i rc ws, Block 4 w
  | 0, _, _, ws, _, _, hws => ⟨(Nat.zero_add ws.length).symm, hws⟩
  | f + 1, i, rc, ws, hrc, h8, hws => by
    have hmem : ∀ {n}, n < ws.length → ws.getD n [] ∈ ws := fun hn => by
      rw [List.getD_eq_getElem _ _ hn]
      exact List.getElem_mem hn
    have hhead : ws.headD [] ∈ ws := by
      rw [List.headD_eq_head?_getD, List.head?_eq_getElem?, ← List.getD_eq_getElem?_getD]
      exact hmem (by omega)
    have hrc' : (if i % 8 = 0 then xtime rc else rc) < 256 := by
      split
      · exact xtime_lt hrc
      · exact hrc
    have hword := (hws _ (hmem (show 7 < ws.length by omega))).xorL ((hws _ hhead).keyStep hrc i)
    obtain ⟨hlen, hall⟩ := keyWords_words (f := f) (i := i + 1) (ws := _ :: ws) hrc' (Nat.le_succ_of_le h8) (List.forall_mem_cons.mpr ⟨hword, hws⟩)
    exact ⟨hlen.trans (by rw [List.length_cons]; omega), hall⟩

/-- Runs of `k` that fill a list. -/
theorem chunksOf_exact {α : Type} {k : Nat} (hk : 0 < k) : ∀ {f : Nat} {l : List α}, l.length = k * f →
    (chunksOf k f l).length = f ∧ ∀ c ∈ chunksOf k f l, c.length = k ∧ c ⊆ l
  | 0, _, _ => ⟨rfl, List.forall_mem_nil _⟩
  | f + 1, l, h => by
    rw [Nat.mul_succ] at h
    have hne : l.isEmpty = false := by
      rw [List.isEmpty_eq_false_iff_exists_mem]
      exact List.exists_mem_of_length_pos (by omega)
    obtain ⟨hlen, hall⟩ := chunksOf_exact hk (f := f) (l := l.drop k) (by rw [List.length_drop]; omega)
    rw [chunksOf, hne, if_neg Bool.false_ne_true]
    refine ⟨congrArg Nat.succ hlen, List.forall_mem_cons.mpr ⟨⟨?_, List.take_subset ..⟩, fun c hc => ⟨(hall c hc).1, fun x hx => ?_⟩⟩⟩
    · rw [List.length_take]
      omega
    · exact List.drop_subset k l ((hall c hc).2 hx)

theorem Block.flatten {n : Nat} : ∀ {ws : List (List Nat)}, (∀ w ∈ ws, Block n w) → Block (n * ws.length) ws.flatten
  | [], _ => ⟨rfl, List.forall_mem_nil _⟩
  | w :: ws, h => by
    obtain ⟨⟨hlen, hw⟩, hws⟩ := List.forall_mem_cons.mp h
    obtain ⟨ihlen, ih⟩ := Block.flatten hws
    exact ⟨by rw [List.flatten_cons, List.length_append, hlen, ihlen, List.length_cons, Nat.mul_succ, Nat.add_comm], hw.append ih⟩

/-- The round key that the last round adds. -/
theorem roundKeys_last {key : List Byte} (h : key.length = 32) : Block 16 ((roundKeys key).getD 14 []) := by
  obtain ⟨h8, hk⟩ := chunksOf_exact (k := 4) (by decide) (f := 8) (l := key.map BitVec.toNat) (by simp [h])
  have hwords : ∀ w ∈ (chunksOf 4 8 (key.map BitVec.toNat)).reverse, Block 4 w := fun w hw => by
    obtain ⟨hlen, hsub⟩ := hk w (List.mem_reverse.mp hw)
    exact ⟨hlen, fun x hx => allBytes_toNats key x (hsub hx)⟩
  obtain ⟨h60, hall⟩ := keyWords_words (f := 52) (i := 8) (rc := 1) (by decide) (by rw [List.length_reverse, h8]) hwords
  rw [List.length_reverse, h8] at h60
  obtain ⟨h15, hks⟩ := chunksOf_exact (k := 4) (by decide) (f := 15) (l := (keyWords 52 8 1 (chunksOf 4 8 (key.map BitVec.toNat)).reverse).reverse)
    (by rw [List.length_reverse, h60])
  have hblocks : ∀ k ∈ roundKeys key, Block 16 k := fun k hmem => by
    obtain ⟨c, hc, rfl⟩ := List.mem_map.mp hmem
    obtain ⟨hlen, hsub⟩ := hks c hc
    have hflat := Block.flatten fun w hw => hall w (List.mem_reverse.mp (hsub hw))
    rwa [hlen] at hflat
  have hlen : (roundKeys key).length = 15 := (List.length_map _).trans h15
  rw [List.getD_eq_getElem _ _ (show 14 < (roundKeys key).length by omega)]
  exact hblocks _ (List.getElem_mem _)

/-- Whatever is enciphered, a block comes out: its last round ends in ShiftRows and the last round key. -/
theorem aesEnc_block {ks : List (List Nat)} (h : Block 16 (ks.getD 14 [])) (blk : List Nat) : Block 16 (aesEnc ks blk) := by
  refine Block.xorL ⟨by rw [shiftRows, List.length_map, List.length_range], fun x hx => ?_⟩ h
  obtain ⟨i, -, rfl⟩ := List.mem_map.mp hx
  exact allBytes_getD (allBytes_subBytes _) _

/-! Counter mode. -/

section CounterMode

variable {ks : List (List Nat)} (h : Block 16 (ks.getD 14 [])) (iv : List Nat)

include h

theorem allBytes_ctrMode : ∀ (f i : Nat) {bs : List Nat}, AllBytes bs → AllBytes (ctrMode ks iv f i bs)
  | 0, _, _, _ => List.forall_mem_nil _
  | f + 1, i, bs, hbs => by
    unfold ctrMode
    split
    · exact List.forall_mem_nil _
    · exact .append (.xorL (fun x hx => hbs x (List.mem_of_mem_take hx)) (aesEnc_block h _).2)
        (allBytes_ctrMode f (i + 1) fun x hx => hbs x (List.mem_of_mem_drop hx))

theorem length_ctrMode : ∀ (f i : Nat) {bs : List Nat}, bs.length ≤ 16 * f → (ctrMode ks iv f i bs).length = bs.length
  | 0, _, bs, hlen => by
    have hnil : bs = [] := List.eq_nil_of_length_eq_zero (by omega)
    rw [hnil]
    rfl
  | f + 1, i, bs, hlen => by
    unfold ctrMode
    split
    · next hnil => rw [List.isEmpty_iff.mp hnil]
    · rw [List.length_append, length_xorL, (aesEnc_block h _).1, length_ctrMode f (i + 1) (by rw [List.length_drop]; omega), List.length_take,
        List.length_drop]
      omega

/-- Counter mode undoes itself. -/
theorem ctrMode_ctrMode : ∀ (f i : Nat) {bs : List Nat}, bs.length ≤ 16 * f → ctrMode ks iv f i (ctrMode ks iv f i bs) = bs
  | 0, _, bs, hlen => by
    have hnil : bs = [] := List.eq_nil_of_length_eq_zero (by omega)
    rw [hnil]
    rfl
  | f + 1, i, bs, hlen => by
    rcases Bool.eq_false_or_eq_true bs.isEmpty with hnil | hne
    · rw [List.isEmpty_iff.mp hnil]
      rfl
    set e := aesEnc ks (iv ++ natBe 4 i)
    have he : e.length = 16 := (aesEnc_block h _).1
    set rest := ctrMode ks iv f (i + 1) (bs.drop 16)
    have hrest : rest.length = bs.length - 16 := (length_ctrMode h iv f (i + 1) (by rw [List.length_drop]; omega)).trans (List.length_drop ..)
    have hfirst : (xorL (bs.take 16) e).length = min 16 bs.length := by
      rw [length_xorL, he, List.length_take]
      omega
    have hct : ctrMode ks iv (f + 1) i bs = xorL (bs.take 16) e ++ rest := by rw [ctrMode, hne, if_neg Bool.false_ne_true]
    have hctne : (xorL (bs.take 16) e ++ rest).isEmpty = false := by
      have hpos := List.length_pos_iff.mpr (List.isEmpty_eq_false_iff.mp hne)
      refine List.isEmpty_eq_false_iff.mpr (List.length_pos_iff.mp ?_)
      rw [List.length_append, hfirst]
      omega
    have hsplit : (xorL (bs.take 16) e ++ rest).take 16 = xorL (bs.take 16) e ∧ (xorL (bs.take 16) e ++ rest).drop 16 = rest := by
      rcases Nat.le_total 16 bs.length with hlong | hshort
      · have h16 : (xorL (bs.take 16) e).length = 16 := by omega
        exact ⟨List.take_left' h16, List.drop_left' h16⟩
      · have hnil : rest = [] := List.eq_nil_of_length_eq_zero (by omega)
        rw [hnil, List.append_nil]
        exact ⟨List.take_of_length_le (by omega), List.drop_of_length_le (by omega)⟩
    rw [hct, ctrMode, hctne, if_neg Bool.false_ne_true, hsplit.1, hsplit.2, xorL_xorL_cancel (by rw [he, List.length_take]; omega),
      ctrMode_ctrMode f (i + 1) (by rw [List.length_drop]; omega), List.take_append_drop]

end CounterMode

theorem gcmOpen_gcmSeal {key : List Byte} (hkey : key.length = 32) (iv aad pt : List Byte) :
    gcmOpen key iv aad (gcmSeal key iv aad pt).1 (gcmSeal key iv aad pt).2 = some pt := by
  have hlast := roundKeys_last hkey
  have hlen : (toNats pt).length ≤ 16 * (pt.length / 16 + 1) := by
    rw [toNats, List.length_map]
    omega
  set ct := ctrMode (roundKeys key) (toNats iv) (pt.length / 16 + 1) 2 (toNats pt) with hct
  have hbytes : toNats (ofNats ct) = ct := toNats_ofNats (allBytes_ctrMode hlast _ _ _ (allBytes_toNats pt))
  have hctlen : (ofNats ct).length = pt.length := by
    rw [ofNats, List.length_map, hct, length_ctrMode hlast _ _ _ hlen, toNats, List.length_map]
  have hopen : ctrMode (roundKeys key) (toNats iv) ((ofNats ct).length / 16 + 1) 2 ct = toNats pt := by
    rw [hctlen, hct, ctrMode_ctrMode hlast _ _ _ hlen]
  have hseal : gcmSeal key iv aad pt = (ofNats ct, ofNats (gcmTag (roundKeys key) (toNats iv) (toNats aad) ct)) := rfl
  simp only [hseal, gcmOpen, hbytes, if_true, hopen, ofNats_toNats]

end Sealing

/-- Settles O53: the tag is that of the same ciphertext, and counter mode undoes itself (`ctrMode_ctrMode`). The standard is log 14. -/
theorem sealedBytesOpen : Obligations.SealedBytesOpen := fun _ iv aad pt hkey _ => gcmOpen_gcmSeal hkey iv aad pt

end Sys2Proof.Proofs

namespace Sys2Proof.Proofs

open Sys2Proof Sys2Proof.Machine Sys2Proof.Claims Sys2Proof.Laws

/-! ### A queue pair that changes and speaks (17 R463) -/

section QueuePairs

variable {s t : State} {q : Nat}

theorem getQp_modQp_same (h : smapWf Qp.reset s.host.qps = true) (n : Nat) (g : Qp → Qp) : getQp (modQp n g s) n = g (getQp s n) :=
  getQp_setQp_same h n _

theorem modQp_keeps_form (h : smapWf Qp.reset s.host.qps = true) (n : Nat) (g : Qp → Qp) : smapWf Qp.reset (modQp n g s).host.qps = true :=
  wf_set _ _ h

theorem Speaks.xfers {os : List Output} (h : Speaks s t os) : t.xfers = s.xfers := by rw [h]
theorem Speaks.secure {os : List Output} (h : Speaks s t os) : t.secure = s.secure := by rw [h]

/-- A queue pair changes, but for its port, and then speaks. -/
theorem says_emitQp_modQp (hwf : smapWf Qp.reset s.host.qps = true) (hsends : sends s (getQp s q).port = true) {g : Qp → Qp}
    (hport : (g (getQp s q)).port = (getQp s q).port) (frames : Nat) (m : HostMsg) :
    Says (modQp q g s) (emitQp q frames m (modQp q g s)) [said s q m] := by
  have hvoice : Voice s (modQp q g s) := voice_modQp ..
  have hport' : (getQp (modQp q g s) q).port = (getQp s q).port := (congrArg Qp.port (getQp_modQp_same hwf q g)).trans hport
  have hsaid := says_emitQp (s := modQp q g s) (q := q) (hport' ▸ hvoice.sends hsends) frames m
  rwa [hvoice.said hport'] at hsaid

/-- The owner session ends with its queue pair, and with it a plan fetch. -/
theorem endSession_owner {o : Owner} (ho : s.host.owner = some o) (hq : o.qp = q) : (endSession q s).host.owner = none ∧
    (endSession q s).tick.next = (if s.tick.next = .fetching then .none else s.tick.next) := by
  unfold endSession
  rw [ho]
  simp only [hq, if_true]
  exact ⟨trivial, trivial⟩

/-- `t` is `s` after queue pair `q`, with no transfer under way, has entered ERROR. -/
structure Failed (q : Nat) (s t : State) : Prop where
  outbox : t.outbox = s.outbox ++ [said s q (.dreq q)]
  st : (getQp t q).st = .error
  bonded : t.bonded = s.bonded
  cores : t.cores = s.cores
  clk : t.clk = s.clk
  ended : ∀ o, s.host.owner = some o → o.qp = q → t.host.owner = none ∧ (s.tick.next = .fetching → t.tick.next = .none)

theorem failed_qpError (hst : (getQp s q).st = .rts) (hx : s.xfers = []) (hwf : smapWf Qp.reset s.host.qps = true)
    (hsends : sends s (getQp s q).port = true) : Failed q s (qpError q s) := by
  set g : Qp → Qp := fun v => { v with st := .error, dreqAt := some s.clk, closeAt := none } with hg
  set u := modQp q g s
  have hsaid : Says u (emitQp q 1 (.dreq q) u) [said s q (.dreq q)] := says_emitQp_modQp hwf hsends rfl ..
  set w := emitQp q 1 (.dreq q) u
  have herror : qpError q s = noteOut q (endSession q w) := by
    have hlive : ¬ ((getQp s q).st = .free || (getQp s q).st = .error) = true := by simp [hst]
    refine (if_neg hlive).trans ?_
    change noteOut q (endSession q ((w.xfers.filter _).foldl _ w)) = _
    rw [show w.xfers = [] from hsaid.speaks.xfers.trans hx]
    rfl
  have hsession := getQp_endSession q q w
  have hw : getQp w q = g (getQp s q) := (hsaid.getQp q).trans (getQp_modQp_same hwf q g)
  have hwfw : smapWf Qp.reset w.host.qps = true := by
    rw [hsaid.qps]
    exact modQp_keeps_form hwf q g
  obtain ⟨o, k, r, honly⟩ := endSession_only q w
  have hwfe : smapWf Qp.reset (endSession q w).host.qps = true := by
    rw [honly]
    exact hwfw
  have hst' : (getQp (noteOut q (endSession q w)) q).st = .error := by
    rw [noteOut, getQp_modQp_same hwfe, hsession, hw]
  rw [herror]
  refine ⟨?_, hst', ?_, ?_, ?_, fun o' ho hq => ?_⟩
  · refine Eq.trans ?_ hsaid.speaks.outbox
    rw [honly]
    rfl
  · refine Eq.trans ?_ hsaid.speaks.bonded
    rw [honly]
    rfl
  · refine Eq.trans ?_ hsaid.speaks.cores
    rw [honly]
    rfl
  · refine Eq.trans ?_ hsaid.speaks.clk
    rw [honly]
    rfl
  · obtain ⟨howner, hnext⟩ := endSession_owner (s := w) (hsaid.owner.trans ho) hq
    refine ⟨howner, fun hfetch => ?_⟩
    rw [show w.tick = s.tick from hsaid.speaks.tick, if_pos hfetch] at hnext
    exact hnext

end QueuePairs

end Sys2Proof.Proofs

namespace Sys2Proof.Proofs

open Sys2Proof Sys2Proof.Machine Sys2Proof.Claims Sys2Proof.Laws

/-! ### Data of a read lands (17 R463, R471) -/

section ReadResponse

variable {s : State} {q : Nat} {x : Xfer}

theorem placeRuns_one {a k pos : Nat} {bs : List Byte} (hpos : pos < k) (hlen : pos + bs.length ≤ k) :
    placeRuns [(a, k)] pos bs = [(a + pos, bs)] := by
  have hfit : bs.length ≤ k - pos := by omega
  simp [placeRuns, Nat.not_le.mpr hpos, hfit]

theorem addPieces_one {a : Nat} {bs : List Byte} (hpos : 0 < bs.length) (h : a % 32 + bs.length ≤ 32) :
    addPieces a (bs.length + 1) bs = [(a, bs)] := by
  have hne : bs.isEmpty = false := List.isEmpty_eq_false_iff.mpr (List.length_pos_iff.mp hpos)
  have hfit : bs.length ≤ 32 - a % 32 := by omega
  obtain ⟨k, hk⟩ : ∃ k, bs.length = k + 1 := ⟨bs.length - 1, by omega⟩
  rw [addPieces, hne, if_neg Bool.false_ne_true]
  dsimp only
  rw [List.take_of_length_le hfit, List.drop_of_length_le hfit, hk]
  rfl

theorem waitHold_only (a n : Nat) (s : State) : ∃ k, s.clk ≤ k ∧ waitHold a n s = { s with clk := k } := by
  unfold waitHold
  split
  · exact ⟨s.clk, Nat.le_refl _, rfl⟩
  · exact ⟨_, Nat.le_max_left .., rfl⟩

theorem bStore_keeps (a : Nat) (bs : List Byte) (s : State) :
    (bStore a bs s).xfers = s.xfers ∧ (bStore a bs s).host = s.host ∧ (bStore a bs s).clk = s.clk := by
  unfold bStore
  dsimp only
  split_ifs <;> exact ⟨rfl, rfl, rfl⟩

/-- An allowed write of response data is stored, whether or not its granule is being released. -/
theorem respWrite_sound {p a : Nat} {bs : List Byte} (hc : bCheck s p a true = 0) (hp : isPoison s (pageOf a) = false)
    (hw : smapGet false s.bonded.wp (pageOf a) = false) : respWrite p a bs s = (0, bStore a bs (waitHold a bs.length s)) := by
  obtain ⟨k, -, hwait⟩ := waitHold_only a bs.length s
  have hwrite : bWrite p a bs false { s with clk := k } = ⟨0, [], bStore a bs { s with clk := k }⟩ := bWrite_sound hc hp hw
  have hpoison : isPoison { s with clk := k } (pageOf a) = false := hp
  unfold respWrite
  simp only [hwait, hwrite, hpoison, Bool.false_eq_true, if_false]
  exact ite_self _

theorem askQp_idle (h : ∀ y ∈ s.xfers, y.todo = []) (f : Nat) : askQp q f s = s := by
  have hnone : s.xfers.find? (fun x => x.read && decide (x.via = .qp q) && !x.todo.isEmpty) = none :=
    List.find?_eq_none.mpr fun y hy => by simp [h y hy]
  cases f with
  | zero => rfl
  | succ f =>
    rw [askQp, hnone]
    exact ite_self _

/-- Data within one granule, of one run of P0, lands where the run says. -/
theorem landRead_granule {c seq sub a k : Nat} {data : List Byte} (howner : x.owner = .desc c seq sub) (hpart : x.part = 0)
    (hruns : xferRuns s x = [(a, k)]) (hpos : 0 < data.length) (hlen : x.acked + data.length ≤ k) (hgran : (a + x.acked) % 32 + data.length ≤ 32)
    (hc : bCheck s 0 (a + x.acked) true = 0) (hp : isPoison s (pageOf (a + x.acked)) = false)
    (hw : smapGet false s.bonded.wp (pageOf (a + x.acked)) = false) :
    landRead x q data s = (0, [], bStore (a + x.acked) data (waitHold (a + x.acked) data.length s)) := by
  have hnote : x.owner ≠ .note := by simp [howner]
  have hbytes : landBytes x (a + x.acked) data s = (0, bStore (a + x.acked) data (waitHold (a + x.acked) data.length s)) := by
    simp only [landBytes, howner, addPieces_one hpos hgran, List.foldl_cons, List.foldl_nil, hpart, respWrite_sound hc hp hw, ne_eq,
      not_true_eq_false, if_false]
  simp only [landRead, hnote, hpart, hruns, placeRuns_one (show x.acked < k by omega) hlen, if_false, if_true, List.foldl_cons, List.foldl_nil,
    ne_eq, not_true_eq_false, hbytes]

/-- The oldest read of a queue pair takes data that is not its last. -/
theorem rdmaReadResponse_goes {n : BitVec 12} {data : List Byte} {w : State} (hst : (getQp s n.toNat).st = .rts)
    (hfind : s.xfers.find? (fun x => x.read && decide (x.via = .qp n.toNat) && decide (xferOut x ≠ 0)) = some x)
    (htodo : ∀ y ∈ s.xfers, y.todo = []) (hmore : x.acked + data.length < x.total)
    (hland : landRead x n.toNat data (modQp n.toNat (fun v => { v with waitAt := s.clk, retries := 0 }) s) = (0, [], w))
    (hw : w.xfers = s.xfers) : Goes (.rdmaReadResponse n data) s
      (noteOut n.toNat (putXfer { x with acked := x.acked + data.length, bytes := [] } w)) := by
  have hserves : (!qpServes (getQp s n.toNat)) = false := by simp [qpServes, hst]
  have hxtodo : x.todo = [] := htodo x (List.mem_of_find?_eq_some hfind)
  have htake : data.take (x.total - (x.todo.map Prod.snd).sum - x.acked) = data := List.take_of_length_le (by simp [hxtodo]; omega)
  have hput : progress { x with bytes := [] } data.length w = putXfer { x with acked := x.acked + data.length, bytes := [] } w :=
    if_neg (Nat.not_le.mpr hmore)
  have hidle : ∀ y ∈ (putXfer { x with acked := x.acked + data.length, bytes := [] } w).xfers, y.todo = [] := by
    intro y hy
    obtain ⟨z, hz, rfl⟩ := List.mem_map.mp hy
    rw [hw] at hz
    dsimp only
    split
    · exact hxtodo
    · exact htodo z hz
  refine congrArg Host.Outcome.next ?_
  dsimp only
  rw [hserves, if_neg Bool.false_ne_true, hfind]
  dsimp only
  rw [htake, hland]
  dsimp only
  rw [if_pos rfl, hput, askQp_idle hidle]

end ReadResponse

/-! ### Acknowledgements, retransmissions and rates (17 R463, R466) -/

section Requester

variable {s : State} {n : BitVec 12}

section Serving

variable (hst : (getQp s n.toNat).st = .rts)

include hst

theorem roceAck_goes {x : Xfer} (hx : oldestWrite s n.toNat = some x) (hmore : x.acked + 1 < x.total) : Goes (.roceAck n) s
    (noteOut n.toNat (putXfer { x with acked := x.acked + 1 } (modQp n.toNat (fun v => { v with waitAt := s.clk, retries := 0 }) s))) := by
  have hserves : (!qpServes (getQp s n.toNat)) = false := by simp [qpServes, hst]
  refine congrArg Host.Outcome.next ?_
  rw [hserves, if_neg Bool.false_ne_true, hx]
  exact congrArg (noteOut n.toNat) (if_neg (Nat.not_le.mpr hmore))

/-- A retransmission is counted and its wait begins anew. -/
def retried (k : Nat) (v : Qp) : Qp := { v with retries := v.retries + 1, waitAt := k }

theorem roceNak_resends (hleft : (getQp s n.toNat).retries < s.host.retry.toNat) : Goes (.roceNak n true) s
    (emitQp n.toNat 1 (.resend n.toNat) (modQp n.toNat (retried s.clk) s)) :=
  congrArg Host.Outcome.next ((if_neg (by simp [qpServes, hst])).trans (if_pos (by simp [hleft])))

theorem roceNak_fails {seqErr : Bool} (h : seqErr = false ∨ s.host.retry.toNat ≤ (getQp s n.toNat).retries) :
    Goes (.roceNak n seqErr) s (qpError n.toNat s) := by
  refine congrArg Host.Outcome.next ((if_neg (by simp [qpServes, hst])).trans (if_neg ?_))
  rcases h with h | h <;> simp [h]

theorem roceAckTimeout_goes (hout : 0 < qpOut s n.toNat) : Goes (.roceAckTimeout n) s
    (let u := passTo ((getQp s n.toNat).waitAt + ackWait s) s
    if (getQp s n.toNat).retries < s.host.retry.toNat then emitQp n.toNat 1 (.resend n.toNat) (modQp n.toNat (retried u.clk) u)
    else qpError n.toNat u) :=
  congrArg Host.Outcome.next (if_neg (by simp [qpServes, hst]; omega))

theorem cnpReceive_goes : Goes (.cnpReceive n) s
    (let u := modHport (getQp s n.toNat).port (fun p => { p with cnp := p.cnp + 1 }) s
    let recent := match (getQp s n.toNat).cnpAt with
      | some t => decide (u.clk < t + us 50)
      | none => false
    if recent then modQp n.toNat (fun v => { v with raiseAt := u.clk }) u
    else modQp n.toNat (fun v => { v with rate := max 1000000 (v.rate / 2), cnpAt := some u.clk, raiseAt := u.clk }) u) :=
  congrArg Host.Outcome.next (if_neg (by simp [hst]))

theorem cnpRateRaise_goes : Goes (.cnpRateRaise n) s
    (let u := passTo ((getQp s n.toNat).raiseAt + us 50) s
    modQp n.toNat (fun v => { v with rate := min 50000000 (v.rate + 2500000), raiseAt := u.clk }) u) :=
  congrArg Host.Outcome.next (if_neg (by simp [hst]))

end Serving

/-- A notification that comes 50 us after the last halves the rate; one that comes before leaves it. -/
theorem cnpReceive_outcome (hst : (getQp s n.toNat).st = .rts) (hwf : smapWf Qp.reset s.host.qps = true) :
    ((∀ a, (getQp s n.toNat).cnpAt = some a → a + 60000 ≤ s.clk) → ∃ t, Goes (.cnpReceive n) s t ∧
      (getQp t n.toNat).rate = max 1000000 ((getQp s n.toNat).rate / 2) ∧ (getQp t n.toNat).cnpAt = some s.clk ∧
      (getHport t (getQp s n.toNat).port).cnp = (getHport s (getQp s n.toNat).port).cnp + 1)
    ∧ ∀ a, (getQp s n.toNat).cnpAt = some a → s.clk < a + 60000 → ∃ t, Goes (.cnpReceive n) s t ∧
      (getQp t n.toNat).rate = (getQp s n.toNat).rate := by
  have hgo := cnpReceive_goes hst
  obtain ⟨p, hp⟩ : ∃ p, (getQp s n.toNat).port = p := ⟨_, rfl⟩
  rw [hp] at hgo ⊢
  set u := modHport p (fun p => { p with cnp := p.cnp + 1 }) s with hu
  obtain ⟨-, -, -, hqps⟩ := setHport_keeps p { getHport s p with cnp := (getHport s p).cnp + 1 } s
  have hqp : getQp u n.toNat = getQp s n.toNat := congrArg (smapGet Qp.reset · n.toNat) hqps
  have hclk : u.clk = s.clk := by rw [hu]; cases p <;> rfl
  have hwfu : smapWf Qp.reset u.host.qps = true := (congrArg (smapWf Qp.reset) hqps).trans hwf
  have hmod : ∀ g, getQp (modQp n.toNat g u) n.toNat = g (getQp s n.toNat) := fun g => by
    rw [getQp_modQp_same hwfu, hqp]
  refine ⟨fun hold => ?_, fun a ha hnew => ?_⟩
  · have hrecent : (match (getQp s n.toNat).cnpAt with | some t => decide (u.clk < t + us 50) | none => false) = false := by
      cases ha : (getQp s n.toNat).cnpAt with
      | none => rfl
      | some a => exact decide_eq_false (Nat.not_lt.mpr (hclk ▸ hold a ha))
    refine ⟨_, hgo.trans (congrArg Host.Outcome.next (if_neg (Bool.eq_false_iff.mp hrecent))), ?_, ?_, ?_⟩
    · rw [hmod]
    · rw [hmod, hclk]
    · rw [getHport_modQp]
      exact congrArg HoPort.cnp (getHport_setHport_same ..)
  · have hrecent : (match (getQp s n.toNat).cnpAt with | some t => decide (u.clk < t + us 50) | none => false) = true := by
      rw [ha]
      exact decide_eq_true (hclk ▸ hnew)
    refine ⟨_, hgo.trans (congrArg Host.Outcome.next (if_pos hrecent)), ?_⟩
    rw [hmod]

end Requester

/-- Settles O54: data lands by `landRead_granule`, a queue pair fails as `failed_qpError` says, and the rest is one change of the queue pair. -/
theorem hostRequester : Obligations.HostRequester := by
  unfold Obligations.HostRequester
  intro s n data q v failed hst hwf hsends
  obtain ⟨hhalve, hkeep⟩ := cnpReceive_outcome hst hwf
  have hretry : ∀ {u : State}, smapWf Qp.reset u.host.qps = true → (getQp u q).retries = v.retries →
      (getQp (modQp q (retried u.clk) u) q).retries = v.retries + 1 := fun hu hr => by
    rw [getQp_modQp_same hu]
    exact congrArg (· + 1) hr
  refine ⟨fun x c seq sub a k hfind htodo howner hpart hruns hpos hlen hmore hgran hc hp hw harm => ?_, fun x hx hmore => ?_, fun hleft => ?_,
    fun seqErr hx hnot => ?_, fun hout hleft => ?_, fun o hx ho hoq hfetch hused => ?_, hhalve, hkeep, ?_⟩
  · obtain ⟨b, hb⟩ : ∃ b, a + x.acked = b := ⟨_, rfl⟩
    rw [hb] at hgran hc hp hw ⊢
    set u := modQp q (fun v => { v with waitAt := s.clk, retries := 0 }) s
    have hland : landRead x q data u = (0, [], bStore b data (waitHold b data.length u)) := by
      have := landRead_granule (s := u) (q := q) howner hpart hruns hpos hlen (hb.symm ▸ hgran) (hb.symm ▸ hc) (hb.symm ▸ hp) (hb.symm ▸ hw)
      rwa [hb] at this
    obtain ⟨clk, -, hwait⟩ := waitHold_only b data.length u
    rw [hwait] at hland
    obtain ⟨hxfers, -, -⟩ := bStore_keeps b data { u with clk := clk }
    refine ⟨_, rdmaReadResponse_goes hst hfind htodo hmore hland hxfers, bStore_mem .., bStore_cores .., ?_⟩
    change (List.map _ (bStore b data { u with clk := clk }).xfers) = _
    rw [hxfers]
    rfl
  · have hmod := getQp_modQp_same hwf q (fun v => { v with waitAt := s.clk, retries := 0 })
    have hform := modQp_keeps_form hwf q (fun v => { v with waitAt := s.clk, retries := 0 })
    set u := modQp q (fun v => { v with waitAt := s.clk, retries := 0 }) s
    have hnote : ∀ g, getQp (modQp q g (putXfer { x with acked := x.acked + 1 } u)) q = g (getQp u q) := fun g =>
      getQp_modQp_same (s := putXfer { x with acked := x.acked + 1 } u) hform q g
    refine ⟨_, roceAck_goes hst hx hmore, rfl, ?_, ?_, rfl, rfl⟩
    · rw [noteOut, hnote, hmod]
    · rw [noteOut, hnote, hmod]
      exact hst
  · have hsaid := says_emitQp_modQp hwf hsends (g := retried s.clk) rfl 1 (.resend q)
    have hmod := getQp_modQp_same hwf q (retried s.clk)
    refine ⟨_, roceNak_resends hst hleft, hsaid.speaks.outbox, ?_, ?_, hsaid.speaks.bonded⟩
    · rw [hsaid.getQp, hmod]
      exact hst
    · rw [hsaid.getQp, hmod]
      rfl
  · have hfail := failed_qpError hst hx hwf hsends
    exact ⟨_, roceNak_fails hst hnot, ⟨hfail.st, hfail.bonded, hfail.cores⟩, hfail.outbox⟩
  · set u := passTo (v.waitAt + ackWait s) s
    have hvoice : Voice s u := voice_passTo ..
    have hsaid := says_emitQp_modQp (s := u) (q := q) hwf (hvoice.sends hsends) (g := retried u.clk) rfl 1 (.resend q)
    refine ⟨_, (roceAckTimeout_goes hst hout).trans (congrArg Host.Outcome.next (if_pos hleft)), ?_, ?_, hsaid.speaks.clk, hsaid.speaks.bonded⟩
    · exact hsaid.speaks.outbox.trans (congrArg (s.outbox ++ [·]) (hvoice.said rfl _))
    · rw [hsaid.getQp, getQp_modQp_same (s := u) hwf]
      rfl
  · set u := passTo (v.waitAt + ackWait s) s
    have hout : 0 < qpOut s q := by simp [qpOut, hx, ho, hoq, hfetch, b2n]
    have hfail := failed_qpError (s := u) (q := q) hst hx hwf ((voice_passTo ..).sends hsends)
    obtain ⟨hnone, hnext⟩ := hfail.ended o ho hoq
    exact ⟨_, (roceAckTimeout_goes hst hout).trans (congrArg Host.Outcome.next (if_neg (Nat.not_lt.mpr hused))),
      ⟨hfail.st, hfail.bonded, hfail.cores⟩, hnone, hnext hfetch⟩
  · refine ⟨_, cnpRateRaise_goes hst, ?_, rfl, rfl⟩
    rw [getQp_modQp_same (s := passTo _ s) hwf]
    rfl

end Sys2Proof.Proofs

namespace Sys2Proof.Proofs

open Sys2Proof Sys2Proof.Machine Sys2Proof.Claims Sys2Proof.Laws

/-! ### What the owner's queue pair sends (17 R464) -/

section OwnerSession

variable {s t u : State} {o : Owner} {os os' : List Output}

/-- `t` is `s` after the queue pair of the session `o` has sent `os`: the session, its queue pair and what else it may send are as before. -/
structure Spoken (o : Owner) (s t : State) (os : List Output) : Prop where
  voice : Voice s t
  owner : t.host.owner = s.host.owner
  st : (getQp t o.qp).st = (getQp s o.qp).st
  port : (getQp t o.qp).port = (getQp s o.qp).port
  form : smapWf Qp.reset s.host.qps = true → smapWf Qp.reset t.host.qps = true
  outbox : t.outbox = s.outbox ++ os
  bonded : t.bonded = s.bonded
  events : t.events = s.events
  secure : t.secure = s.secure

theorem Spoken.refl (o : Owner) (s : State) : Spoken o s s [] := ⟨.refl s, rfl, rfl, rfl, id, by simp, rfl, rfl, rfl⟩

theorem Spoken.trans (h : Spoken o s t os) (h' : Spoken o t u os') : Spoken o s u (os ++ os') where
  voice := h.voice.trans h'.voice
  owner := h'.owner.trans h.owner
  st := h'.st.trans h.st
  port := h'.port.trans h.port
  form := h'.form ∘ h.form
  outbox := by rw [h'.outbox, h.outbox, List.append_assoc]
  bonded := h'.bonded.trans h.bonded
  events := h'.events.trans h.events
  secure := h'.secure.trans h.secure

theorem Says.spoken (h : Says s t os) (o : Owner) : Spoken o s t os where
  voice := h.voice
  owner := h.owner
  st := congrArg Qp.st (h.getQp o.qp)
  port := congrArg Qp.port (h.getQp o.qp)
  form hwf := (congrArg (smapWf Qp.reset) h.qps).trans hwf
  outbox := h.speaks.outbox
  bonded := h.speaks.bonded
  events := by rw [h.speaks]
  secure := h.speaks.secure

/-- A change of the owner's queue pair that leaves its state and its port. -/
theorem spoken_modQp (hwf : smapWf Qp.reset s.host.qps = true) {g : Qp → Qp} (hst : (g (getQp s o.qp)).st = (getQp s o.qp).st)
    (hport : (g (getQp s o.qp)).port = (getQp s o.qp).port) : Spoken o s (modQp o.qp g s) [] where
  voice := voice_modQp ..
  owner := rfl
  st := (congrArg Qp.st (getQp_modQp_same hwf _ g)).trans hst
  port := (congrArg Qp.port (getQp_modQp_same hwf _ g)).trans hport
  form _ := modQp_keeps_form hwf _ g
  outbox := (List.append_nil _).symm
  bonded := rfl
  events := rfl
  secure := rfl

theorem spoken_outOne (hwf : smapWf Qp.reset s.host.qps = true) : Spoken o s (outOne o.qp s) [] := spoken_modQp hwf rfl rfl

theorem spoken_paceQp (hwf : smapWf Qp.reset s.host.qps = true) (n : Nat) : Spoken o s (paceQp o.qp n s) [] := spoken_modQp hwf rfl rfl

theorem spoken_sendHostWrite (hwf : smapWf Qp.reset s.host.qps = true) (hsends : sends s (getQp s o.qp).port = true) (va : Nat) (rkey : W32)
    (bs : List Byte) : Spoken o s (sendHostWrite o.qp va rkey bs s) [said s o.qp (.hostWrite o.qp (BitVec.ofNat 64 va) rkey bs)] := by
  have hcount := ((says_emitQp hsends (framesOf s o.qp bs.length) (.hostWrite o.qp (BitVec.ofNat 64 va) rkey bs)).spoken o).trans
    (spoken_outOne (((says_emitQp hsends ..).spoken o).form hwf))
  exact hcount.trans (spoken_paceQp (hcount.form hwf) bs.length)

/-- Transfers and their numbers are none of what the owner's queue pair sends. -/
theorem spoken_xfers (o : Owner) (n : Nat) (xs : List Xfer) (s : State) : Spoken o s { s with nuid := n, xfers := xs } [] where
  voice := voice_of_host rfl (Nat.le_refl _)
  owner := rfl
  st := rfl
  port := rfl
  form := id
  outbox := (List.append_nil _).symm
  bonded := rfl
  events := rfl
  secure := rfl

/-- A write of the owner's, while its queue pair is RTS and its port sends. -/
theorem spoken_ownerWrite (ho : s.host.owner = some o) (hst : (getQp s o.qp).st = .rts) (hwf : smapWf Qp.reset s.host.qps = true)
    (hsends : sends s (getQp s o.qp).port = true) (w : XOwner) (va : Nat) (rkey : W32) (bs : List Byte) :
    Spoken o s (ownerWrite w va rkey bs s) [said s o.qp (.hostWrite o.qp (BitVec.ofNat 64 va) rkey bs)] := by
  have htake := spoken_xfers o (s.nuid + 1) s.xfers s
  have hsaid : ∀ m, said (takeUid s).2 o.qp m = said s o.qp m := htake.voice.said rfl
  have hsend := spoken_sendHostWrite (s := (takeUid s).2) (o := o) hwf (htake.voice.sends hsends) va rkey bs
  rw [hsaid] at hsend
  rw [ownerWrite, ownerQp_of_rts ho hst]
  exact (htake.trans hsend).trans (spoken_xfers o _ _ _)

/-- The write of an event record to the owner's ring (20 R535). -/
def eventMsg (o : Owner) (r : EvRec) : HostMsg :=
  .hostWrite o.qp (BitVec.ofNat 64 (o.evVa.toNat + r.seq.toNat % (o.evLen / 32) * 32)) o.evRkey (eventBytes r)

/-- The state after the records `rs` have gone to the owner's ring. -/
def writeEvents (o : Owner) (rs : List EvRec) (s : State) : State :=
  rs.foldl (fun s r => ownerWrite .note (o.evVa.toNat + r.seq.toNat % (o.evLen / 32) * 32) o.evRkey (eventBytes r) s) s

theorem spoken_writeEvents (rs : List EvRec) : ∀ {s : State}, s.host.owner = some o → (getQp s o.qp).st = .rts →
    smapWf Qp.reset s.host.qps = true → sends s (getQp s o.qp).port = true →
    Spoken o s (writeEvents o rs s) (rs.map fun r => said s o.qp (eventMsg o r)) := by
  induction rs with
  | nil => exact fun _ _ _ _ => .refl o _
  | cons r rs ih =>
    intro s ho hst hwf hsends
    have hone := spoken_ownerWrite ho hst hwf hsends .note (o.evVa.toNat + r.seq.toNat % (o.evLen / 32) * 32) o.evRkey (eventBytes r)
    have hrest := ih (hone.owner.trans ho) (hone.st.trans hst) (hone.form hwf) (by rw [hone.port]; exact hone.voice.sends hsends)
    have hsame : ∀ m, said _ o.qp m = said s o.qp m := hone.voice.said hone.port
    simp only [hsame] at hrest
    exact hone.trans hrest

theorem eventRecordWrite_goes (ho : ownerQp s = some o) (hdone : o.done = true) (hruns : belfryRuns s = true) (hlost : s.events.lost = 0)
    (hevents : (writeEvents o s.events.queue { s with events := { s.events with queue := [] } }).events = { s.events with queue := [] }) :
    Goes .eventRecordWrite s (writeEvents o s.events.queue { s with events := { s.events with queue := [] } }) := by
  refine congrArg Host.Outcome.next ?_
  rw [ho]
  dsimp only
  rw [if_neg (by simp [hdone, hruns])]
  exact if_pos ((congrArg Events.lost hevents).trans hlost)

/-! ### The hello and the report (18 R492 to R496) -/

/-- The state in which the belfry has read the owner's hello. -/
def helloRead (o : Owner) (h : List Byte) (s : State) : State :=
  let u := emitQp o.qp 1 (.hostRead o.qp o.hsVa o.hsRkey 64) (passTo o.pollAt s)
  { u with host := { u.host with owner := some { o with pollAt := u.clk + us 1000, hello := helloOk h } } }

theorem ownerHelloPoll_goes {a : Nat} (ho : ownerQp s = some o) (hhello : o.hello = false) (hat : o.rtuAt = some a) (h : List Byte) :
    Goes (.ownerHelloPoll h) s (if helloOk h then queueReport 0 (reportBody (helloRead o h s) 1 0 (rdB h 32 32) []) (helloRead o h s)
      else helloRead o h s) := by
  refine congrArg Host.Outcome.next ?_
  rw [ho]
  exact if_neg (by simp [hhello, hat])

theorem ownerHelloTimeout_goes {a : Nat} (ho : ownerQp s = some o) (hhello : o.hello = false) (hat : o.rtuAt = some a) :
    Goes .ownerHelloTimeout s (qpError o.qp (passTo (a + us 1000000) s)) := by
  refine congrArg Host.Outcome.next ?_
  rw [ho]
  dsimp only
  rw [hat]
  exact if_neg (by simp [hhello])

theorem length_of_helloOk {h : List Byte} (hok : helloOk h = true) : h.length = 64 := by
  simp only [helloOk, Bool.and_eq_true, decide_eq_true_eq] at hok
  exact hok.1.1.1

theorem padTo_full {n : Nat} {bs : List Byte} (h : bs.length = n) : padTo n bs = bs := by simp [padTo, zeros, h]

theorem rdB_natLe_append {k off : Nat} (h : k ≤ off) (x n : Nat) (bs : List Byte) : rdB (natLe k x ++ bs) off n = rdB bs (off - k) n := by
  rw [rdB, List.drop_append, List.drop_of_length_le (by rwa [length_natLe]), length_natLe, List.nil_append, ← rdB]

/-- The nonce stands in a report behind its nine first fields (18 Table 18-7). -/
theorem rdB_reportBody_nonce (s : State) (kind part : Nat) {nonce : List Byte} (h : nonce.length = 32) (ek : List Byte) :
    rdB (reportBody s kind part nonce ek) 0x20 32 = nonce := by
  unfold reportBody
  dsimp only
  rw [List.take_of_length_le h.le, padTo_full h]
  simp only [List.append_assoc, rdB_natLe_append, Nat.reduceLeDiff, Nat.reduceSub, Nat.le_refl]
  exact List.take_left' h

/-- A field that ends before the bytes written reads as before. -/
theorem rdN_wrB_before {bs v : List Byte} {off a k : Nat} (ha : a + k ≤ off) (hbs : a + k ≤ bs.length) : rdN (wrB bs off v) a k = rdN bs a k := by
  have htake : (wrB bs off v).take (a + k) = bs.take (a + k) := by
    rw [wrB, List.append_assoc, List.take_append_of_le_length (by simp; omega), List.take_take, Nat.min_eq_left ha]
  rw [rdN, List.take_drop, htake, ← List.take_drop, ← rdN]

theorem length_of_rdN {bs : List Byte} {a k : Nat} (h : rdN bs a k ≠ 0) : a < bs.length := by
  by_contra hle
  exact h (by rw [rdN, List.drop_of_length_le (Nat.not_lt.mp hle), List.take_nil]; rfl)

/-- A report of the owner is signed and written; the partitions are left. -/
theorem attestationReportSigned_goes {slot : Nat} {body : List Byte} {rest : List (Nat × List Byte)} (ho : ownerQp s = some o)
    (hreports : s.secure.reports = (slot, body) :: rest) (hkind : rdN body 6 1 = 1) :
    let b := wrB body 0x10 (natLe 8 s.tick.now.toNat)
    Goes .attestationReportSigned s (ownerWrite (.report slot) (o.hsVa.toNat + reportOff slot) o.hsRkey
      (b ++ padTo 49856 ((Config.slhSign Config.dik b).take 49856)) { s with secure := { s.secure with reports := rest } }) := by
  intro b
  have hlong : 6 < body.length := length_of_rdN (k := 1) (by simp [hkind])
  have hsame : rdN (signedBody body s) 6 1 = 1 := (rdN_wrB_before (by decide) hlong).trans hkind
  refine congrArg Host.Outcome.next ?_
  rw [hreports]
  dsimp only
  rw [if_neg (by simp [hsame]), show ownerQp { s with secure := { s.secure with reports := rest } } = some o from ho]
  rfl

end OwnerSession

/-- Settles O55: each case is a write or a read of the owner's queue pair (`Spoken`), or its failure (`failed_qpError`). -/
theorem ownerSession : Obligations.OwnerSession := by
  unfold Obligations.OwnerSession
  intro s o h howner hst hwf hsends
  have ho : ownerQp s = some o := ownerQp_of_rts howner hst
  refine ⟨fun a hhello hat => ?_, fun a hhello hat hx => ?_, fun slot body rest hreports hkind => ?_, fun hdone hruns hlost => ?_⟩
  · have hvoice : Voice s (passTo o.pollAt s) := voice_passTo ..
    have hsaid := says_emitQp (s := passTo o.pollAt s) (q := o.qp) (hvoice.sends hsends) 1 (.hostRead o.qp o.hsVa o.hsRkey 64)
    rw [hvoice.said rfl] at hsaid
    have hread : (helloRead o h s).outbox = s.outbox ++ [said s o.qp (.hostRead o.qp o.hsVa o.hsRkey 64)] ∧
        (helloRead o h s).clk = max s.clk o.pollAt ∧ (helloRead o h s).bonded = s.bonded ∧ (helloRead o h s).secure = s.secure :=
      ⟨hsaid.speaks.outbox, hsaid.speaks.clk, hsaid.speaks.bonded, hsaid.speaks.secure⟩
    have hpoll : (helloRead o h s).host.owner = some { o with pollAt := (helloRead o h s).clk + 1200000, hello := helloOk h } := rfl
    have hgo := ownerHelloPoll_goes ho hhello hat h
    generalize helloRead o h s = u at hgo hread hpoll
    obtain ⟨hout, hclk, hbonded, hsecure⟩ := hread
    cases hok : helloOk h with
    | false =>
      rw [hok] at hgo hpoll
      exact ⟨u, [], hgo, hout, hclk, hbonded, by simp [hsecure], by simp, hpoll⟩
    | true =>
      rw [hok] at hgo hpoll
      have hnonce : (rdB h 32 32).length = 32 := by simp [rdB, length_of_helloOk hok]
      exact ⟨_, reportBody u 1 0 (rdB h 32 32) [], hgo, hout, hclk, hbonded, congrArg (·.reports ++ _) hsecure,
        fun _ => rdB_reportBody_nonce u 1 0 hnonce [], hpoll⟩
  · have hvoice : Voice s (passTo (a + us 1000000) s) := voice_passTo ..
    have hfail := failed_qpError (s := passTo (a + us 1000000) s) (q := o.qp) hst hx hwf (hvoice.sends hsends)
    refine ⟨_, ownerHelloTimeout_goes ho hhello hat, (hfail.ended o howner rfl).1, hfail.st, hfail.clk, ?_⟩
    rw [hfail.outbox, hvoice.said rfl]
    rfl
  · have hvoice : Voice s { s with secure := { s.secure with reports := rest } } := voice_of_host rfl (Nat.le_refl _)
    have hwrote := spoken_ownerWrite (s := { s with secure := { s.secure with reports := rest } }) howner hst hwf (hvoice.sends hsends)
      (.report slot) (o.hsVa.toNat + reportOff slot) o.hsRkey
    refine ⟨_, attestationReportSigned_goes ho hreports hkind, congrArg Secure.reports (hwrote _).secure, ?_⟩
    rw [(hwrote _).outbox, hvoice.said rfl]
  · have hvoice : Voice s { s with events := { s.events with queue := [] } } := voice_of_host rfl (Nat.le_refl _)
    have hwrote := spoken_writeEvents (s := { s with events := { s.events with queue := [] } }) s.events.queue howner hst hwf
      (hvoice.sends hsends)
    refine ⟨_, eventRecordWrite_goes ho hdone hruns hlost hwrote.events, congrArg Events.queue hwrote.events, ?_, hwrote.bonded⟩
    simp only [hwrote.outbox, hvoice.said (q := o.qp) rfl, eventMsg]

end Sys2Proof.Proofs

namespace Sys2Proof.Proofs

open Sys2Proof Sys2Proof.Machine Sys2Proof.Claims Sys2Proof.Laws

/-! ### The sideband and the TAP (17 R476; 21 R559, R560) -/

section Sideband

variable {s : State}

theorem smbAddr_eq (s : State) :
    smbAddr s = BitVec.ofNat 7 (0x50 + (if s.power.strap1 then 2 else 0) + (if s.power.strap0 then 1 else 0)) := by
  unfold smbAddr b2n
  cases s.power.strap1 <;> rfl

theorem smbAnswer_of_isUp (h : isUp s = true) (cmd : Nat) (bs : List Byte) : smbAnswer cmd bs s = { s with outbox := s.outbox ++
    [.smb (smbAddr s) bs (smbPec ([BitVec.ofNat 8 (2 * (smbAddr s).toNat), BitVec.ofNat 8 cmd, BitVec.ofNat 8 (2 * (smbAddr s).toNat + 1)] ++ bs))] } := by
  unfold smbAnswer
  exact if_pos h

/-- Bit 9 of the pins' levels is MRST_N, D10 (21 Table 21-2). -/
theorem pinLevels_mrstn (s : State) : (pinLevels s).1.getLsbD 9 = s.power.mrstn := by
  unfold pinLevels
  extract_lets f m
  rw [BitVec.getLsbD_ofNat, Nat.testBit_eq_decide_div_mod_eq]
  generalize hlow : m % 4 + 4 * b2n s.power.strap0 + 8 * b2n s.power.strap1 + 16 * (m / 4 % 16) = low
  have hlt : low < 256 := by
    have h1 : ∀ b, b2n b ≤ 1 := by decide
    have := h1 s.power.strap0
    have := h1 s.power.strap1
    omega
  generalize b2n (isUp s && !inStep1 s) = x
  generalize b2n (!s.power.tripped) = y
  cases s.power.mrstn
  · simp [b2n]
    omega
  · simp [b2n]
    omega

/-- The pins are sampled while data enters the boundary register. -/
theorem samplePins_goes (data : BitVec 13) (s : State) : samplePins data s = { s with
    outbox := s.outbox ++ [.boundary (pinLevels s).1], power := { s.power with boundary := data }, free := s.free + 1 } := rfl

end Sideband

/-- Settles O30: one answer of the SMBus (`smbAnswer_of_isUp`) and one sample of the pins (`samplePins_goes`) give every clause. -/
theorem sidebandAndTap : Obligations.SidebandAndTap := by
  unfold Obligations.SidebandAndTap
  refine ⟨fun s hup => ?_, fun s d hup => ?_⟩
  · intro said addr pec read port
    have haddr : smbAddr s = addr := smbAddr_eq s
    have hread : ∀ cmd bs, smbAnswer cmd bs s = said (read cmd bs) := fun cmd bs => by
      rw [smbAnswer_of_isUp hup, haddr]
    have hport : ∀ x : HoPort, hportStNo x.st = port x := fun x => by
      cases h : x.st <;> simp [port, h, hportStNo]
    refine ⟨?_, ?_, ?_, ?_, ?_, ?_⟩
    · exact congrArg Host.Outcome.next (hread 0 _)
    · exact congrArg Host.Outcome.next (hread 0x10 _)
    · exact congrArg Host.Outcome.next (hread 0x11 _)
    · have hword : hotStep s + 256 * b2n s.power.trip = hotStep s + (if s.power.trip then 256 else 0) := by
        cases s.power.trip <;> rfl
      exact congrArg Host.Outcome.next ((hread 0x12 _).trans (by rw [hword]))
    · refine congrArg Host.Outcome.next ((hread 0x13 _).trans ?_)
      simp only [hport]
    · exact congrArg Host.Outcome.next ((if_pos hup).trans (by rw [haddr]; rfl))
  · intro loaded
    have hon : tapOn s = true := hup
    refine ⟨congrArg Host.Outcome.next (if_pos hon), congrArg Host.Outcome.next (if_pos hon), ?_, fun hm => ?_, fun hm => ?_⟩
    · exact ⟨_, _, congrArg Host.Outcome.next (if_pos hon), pinLevels_mrstn (loadTap .sample (takeFree s).2)⟩
    · refine ⟨_, ?_, (pinLevels_mrstn (loadTap .extest s)).trans hm⟩
      refine congrArg Host.Outcome.next ((if_neg (by simp [hon])).trans ?_)
      exact (if_pos hm).trans (samplePins_goes ..)
    · refine congrArg Host.Outcome.next ((if_neg (by simp [hon])).trans ((if_neg (by simp [loadTap, hm])).trans ?_))
      simp [emit, preload, loadTap, loaded]

end Sys2Proof.Proofs

/-! Proofs for the families 19_power_reset and 20_background_test: quads that come on, the belfry watchdog, and the time limits of what is
under way. -/

namespace Sys2Proof.Proofs

open Sys2Proof Sys2Proof.Machine Sys2Proof.Claims Sys2Proof.Laws

/-! ### Quads that ramp (19 R507, R509) -/

section QuadRamps

variable {s : State} {q : Nat}

/-- The second of two puts of a quad stands. -/
theorem setQuad_setQuad (hwf : smapWf Quad.reset s.power.quads = true) (v w : Quad) : setQuad q w (setQuad q v s) = setQuad q w s := by
  simp only [setQuad, set_set q v w (canon_of_wf _ _ hwf)]

theorem quadRampComplete_next (hq : q < 25) (hramp : (getQuad s q).st = .ramp) (hstays : (getQuad s q).wantOff = false) :
    Goes (.quadRampComplete q) s
      (setQuad q { getQuad s q with st := quadReady (getQuad s q) } (passTo ((getQuad s q).rampAt + us 100) s)) := by
  refine (unitRes_next (decide_eq_true hq)).trans (congrArg _ ?_)
  dsimp only
  rw [if_neg (not_not.mpr hramp), hstays]
  rfl

/-- With its cycle over, what is left to ask of a quad that is off: its temperature, the trip and its bit. -/
theorem quadMay_cycled {t : State} {v : Quad} (ht : getQuad t q = { v with cycleAt := none }) (hoff : v.st = .off) :
    quadMay t q = (v.step ≠ .emerg && !t.power.tripped && t.power.quadEn.getLsbD q) := by
  simp only [quadMay, ht, hoff, decide_true, Option.isNone_none, Bool.true_and]

/-- A cycled quad after its 1 ms: its cycle is over, and it ramps where it may. -/
theorem quadCycleOffEnd_next (hq : q < 25) (hwf : smapWf Quad.reset s.power.quads = true) {c : Nat}
    (hcycle : (getQuad s q).cycleAt = some c) (hoff : (getQuad s q).st = .off) :
    Goes (.quadCycleOffEnd q) s
      (if (getQuad s q).step ≠ .emerg && !s.power.tripped && s.power.quadEn.getLsbD q then
        setQuad q { getQuad s q with st := .ramp, cycleAt := none, rampAt := max s.clk (c + us 1000) } (passTo (c + us 1000) s)
      else setQuad q { getQuad s q with cycleAt := none } (passTo (c + us 1000) s)) := by
  have hwf' : smapWf Quad.reset (passTo (c + us 1000) s).power.quads = true := hwf
  have hread := (getQuad_setQuad hwf' q q { getQuad s q with cycleAt := none }).trans (if_pos rfl)
  refine (unitRes_next (decide_eq_true hq)).trans (congrArg _ ?_)
  dsimp only
  rw [hcycle]
  dsimp only
  rw [if_neg (not_not.mpr hoff), quadMay_cycled hread hoff, quadRamp, modQuad, hread, setQuad_setQuad hwf']
  rfl

end QuadRamps

/-- Settles O26: one lemma for each of the two commands; whether a cycled quad may ramp is `quadMay_cycled`. -/
theorem quadPower : Obligations.QuadPower := by
  intro s q hq hwf v
  refine ⟨quadRampComplete_next hq, fun c hcycle hoff hcool htrip hen => ?_, fun c hcycle hoff hen => ?_⟩
  · have hgo := quadCycleOffEnd_next hq hwf hcycle hoff
    rwa [if_pos (by simpa [htrip, hen] using hcool)] at hgo
  · have hgo := quadCycleOffEnd_next hq hwf hcycle hoff
    rwa [if_neg (by simp [hen])] at hgo

/-! ### The belfry watchdog (20 R532) -/

section Watchdog

variable {s : State}

/-- A job at a watchdog reset: rolled back, one that was running ends there; a saved one stays as it is. -/
def rolledJob (now : Nat) (j : CoreJob) : CoreJob :=
  if j.st = .saved then j else { j with st := .rolledBack, endAt := if j.st = .running then now else j.endAt }

/-- A core at a watchdog reset: it freezes where it holds a job. -/
def frozenCore (now : Nat) (c : Core) : Core :=
  match c.job with
  | none => c
  | some j => { c with frozen := true, job := some (rolledJob now j) }

theorem frozenCore_job {c : Core} {j : CoreJob} (hj : c.job = some j) (now : Nat) :
    frozenCore now c = { c with frozen := true, job := some (rolledJob now j) } := by
  simp only [frozenCore, hj]

theorem freezeCore_only (s : State) (n : Nat) : ∃ cs, freezeCore s n = { s with cores := cs } := by
  unfold freezeCore
  split <;> exact ⟨_, rfl⟩

theorem freezeCore_keeps_form (hwf : smapWf Core.reset s.cores = true) (n : Nat) : smapWf Core.reset (freezeCore s n).cores = true := by
  unfold freezeCore
  split
  · exact hwf
  · exact wf_set n _ hwf

theorem getCore_freezeCore (hwf : smapWf Core.reset s.cores = true) (n m : Nat) :
    getCore (freezeCore s n) m = if m = n then frozenCore s.clk (getCore s m) else getCore s m := by
  cases hj : (getCore s n).job with
  | none =>
    have hsame : freezeCore s n = s := by simp only [freezeCore, hj]
    rw [hsame]
    split
    next hm => simp only [hm, frozenCore, hj]
    next => rfl
  | some j =>
    have hput : freezeCore s n = setCore n (frozenCore s.clk (getCore s n)) s := by
      rw [frozenCore_job hj]
      simp only [freezeCore, hj, modCore, rolledJob]
    rw [hput, getCore_setCore hwf]
    split
    next hm => rw [hm]
    next => rfl

theorem freezeCores_only (l : List Nat) (s : State) : ∃ cs, l.foldl freezeCore s = { s with cores := cs } := by
  refine List.foldlRecOn (motive := fun t : State => ∃ cs, t = { s with cores := cs }) l _ ⟨s.cores, rfl⟩ fun t ht n _ => ?_
  obtain ⟨cs, rfl⟩ := ht
  exact freezeCore_only _ n

theorem getCore_freezeCores (n : Nat) : ∀ {l : List Nat} {s : State}, l.Nodup → smapWf Core.reset s.cores = true →
    getCore (l.foldl freezeCore s) n = if n ∈ l then frozenCore s.clk (getCore s n) else getCore s n
  | [], _, _, _ => rfl
  | m :: l, s, hl, hwf => by
    obtain ⟨hm, hl'⟩ := List.nodup_cons.mp hl
    have hclk : (freezeCore s m).clk = s.clk := by
      obtain ⟨cs, hcs⟩ := freezeCore_only s m
      rw [hcs]
    rw [List.foldl_cons, getCore_freezeCores n hl' (freezeCore_keeps_form hwf m), getCore_freezeCore hwf, hclk]
    by_cases hn : n = m
    · simp [hn, hm]
    · simp [hn]

theorem abortTicks_only (ps : SMap Bool) (s : State) : ∃ v, abortTicks ps s = { s with parts := v } := by
  refine List.foldlRecOn (motive := fun t : State => ∃ v, t = { s with parts := v }) ps _ ⟨s.parts, rfl⟩ fun t ht e _ => ?_
  obtain ⟨v, rfl⟩ := ht
  exact ⟨_, rfl⟩

theorem foldl_abortTick (l : List Nat) (s : State) : l.foldl (fun s p => abortTick p s) s = abortTicks (l.map fun p => (p, true)) s := by
  rw [abortTicks, List.foldl_map]
  rfl

/-- An update under way has no part in the choice of the image. -/
theorem chooseImage_update (c : Secure) (u : Option Nat) :
    chooseImage { c with update := u } = (chooseImage c).map fun x => { x with update := u } := by
  have hboots : ∀ sl, slotBoots { c with update := u } sl = slotBoots c sl := fun _ => rfl
  simp only [chooseImage, hboots, apply_ite (Option.map fun x : Secure => { x with update := u }), Option.map_some, Option.map_none]

/-! The command by its stages: the cores freeze, the reset is counted, in a tick the partitions' ticks are aborted, the SRAM is checked, and
the image is booted. -/

/-- Every core that holds a job is frozen, 10 ms after the belfry's last sign of life. -/
def allFrozen (s : State) : State := (List.range 100).foldl freezeCore (passTo (s.test.liveAt + us 10000) s)

/-- The ticks of the watchdog's resets within the last 1,000, this one's among them. -/
def resetTicks (s : State) : List Nat := (s.test.wdTicks.filter fun t => decide (s.tick.now.toNat < t + 1000)) ++ [s.tick.now.toNat]

/-- The reset is counted and reported. -/
def resetCounted (s : State) : State :=
  let r := ctrInc s.test.wdcnt
  raiseI false 0 0 none 0x0004 (resetTicks s).length
    (ovfEvent r.2 0x00080008 { s with test := { s.test with wdcnt := r.1, wdTicks := resetTicks s } })

/-- In a tick the partitions' ticks are aborted. -/
def abortedInTick (s : State) : State :=
  if s.tick.phase = .run || s.tick.phase = .closing then (List.range 16).foldl (fun s p => abortTick p s) s else s

/-- An update under way is given up, and the SRAM is checked. -/
def sramChecked (s : State) : State := sramCheck { s with secure := { s.secure with update := none } }

/-- The belfry boots an image, where one is valid, and then stays down after the third of its resets (`dead`). -/
def imageBooted (dead : Bool) (s : State) : State :=
  match chooseImage { s.secure with pending := false } with
  | none => { s with test := { s.test with wdDead := true } }
  | some c => { s with
      secure := { c with pending := s.secure.pending }
      test := { s.test with wdUntil := s.clk + us (imageUs c), liveAt := s.clk + us (imageUs c), wdDead := dead } }

/-- What the command does after the freeze. -/
def resetAfterFreeze (s : State) : State :=
  imageBooted (decide (3 ≤ (resetTicks s).length)) (sramChecked (abortedInTick (resetCounted s)))

theorem belfryWatchdog_next (hup : isUp s = true) (hdead : s.test.wdDead = false) (harm : s.test.arm = false) :
    Goes .belfryWatchdog s (resetAfterFreeze (allFrozen s)) := by
  have hinj : tmoInj s 5 0 0 = false := by simp [tmoInj, harm]
  refine congrArg Host.Outcome.next ?_
  rw [if_neg (by simp [hup, hdead]), hinj]
  extract_lets inj live frozen now ticks r test counted raised aborted secure checked
  have hfrozen : frozen = allFrozen s := rfl
  have hticks : ticks = resetTicks frozen := rfl
  have hraised : raised = resetCounted frozen := rfl
  have haborted : aborted = abortedInTick raised := rfl
  have hchecked : checked = sramChecked aborted := rfl
  clear_value checked ticks aborted raised frozen
  rw [resetAfterFreeze, ← hfrozen, ← hraised, ← haborted, ← hchecked, ← hticks]
  rfl

theorem resetTicks_first (h : s.test.wdTicks = []) : resetTicks s = [s.tick.now.toNat] := by
  simp only [resetTicks, h, List.filter_nil, List.nil_append]

theorem resetCounted_first (hticks : s.test.wdTicks = []) (hcount : s.test.wdcnt.count ≠ BitVec.allOnes 32) :
    ∃ e, resetCounted s = { s with events := e, test := { s.test with
      wdcnt := { s.test.wdcnt with count := s.test.wdcnt.count + 1 }, wdTicks := [s.tick.now.toNat] } } := by
  have hctr : ctrInc s.test.wdcnt = ({ s.test.wdcnt with count := s.test.wdcnt.count + 1 }, false) := if_neg hcount
  simp only [resetCounted, hctr, resetTicks_first hticks, ovfEvent_false]
  obtain ⟨e, he⟩ := raiseI_only { s with test := { s.test with
    wdcnt := { s.test.wdcnt with count := s.test.wdcnt.count + 1 }, wdTicks := [s.tick.now.toNat] } } false 0 0 none 0x0004 1
  exact ⟨e, he⟩

theorem abortedInTick_only (s : State) : ∃ v, abortedInTick s = { s with parts := v } := by
  unfold abortedInTick
  split
  · rw [foldl_abortTick]
    exact abortTicks_only _ s
  · exact ⟨s.parts, rfl⟩

theorem tabort_abortedInTick (hwf : smapWf Part.reset s.parts = true) (hphase : s.tick.phase = .run ∨ s.tick.phase = .closing) {p : Nat}
    (hp : p < 16) : (getPart (abortedInTick s) p).tabort = true := by
  have hin : (s.tick.phase = .run || s.tick.phase = .closing) = true := by simpa using hphase
  rw [abortedInTick, if_pos hin, foldl_abortTick]
  exact tabort_abortTicks p hwf (.inr (by simpa using hp))

theorem imageBooted_some {c : Secure} (hc : chooseImage { s.secure with pending := false } = some c) (dead : Bool) :
    imageBooted dead s = { s with
      secure := { c with pending := s.secure.pending }
      test := { s.test with wdUntil := s.clk + us (imageUs c), liveAt := s.clk + us (imageUs c), wdDead := dead } } := by
  simp only [imageBooted, hc]

/-- With no sequence held the check of the SRAM restores nothing (14 R403). -/
theorem sramChecked_no_sequence (h : s.seqs = []) :
    sramChecked s = { s with free := s.free + 1, secure := { s.secure with update := none } } := by
  simp only [sramChecked, sramCheck, takeFree, h, List.foldl_nil]

/-- The first reset within 1,000 ticks, with an image to boot and no sequence held: after the freeze it changes the events, the partitions,
the free values, and the security and self-test registers alone. -/
theorem resetAfterFreeze_first (hticks : s.test.wdTicks = []) (hcount : s.test.wdcnt.count ≠ BitVec.allOnes 32) (hseqs : s.seqs = [])
    (hwf : smapWf Part.reset s.parts = true) {c : Secure} (hc : chooseImage { s.secure with pending := false } = some c) :
    ∃ e v, resetAfterFreeze s = { s with
      events := e
      parts := v
      free := s.free + 1
      secure := { c with update := none, pending := s.secure.pending }
      test := { s.test with
        wdcnt := { s.test.wdcnt with count := s.test.wdcnt.count + 1 }, wdTicks := [s.tick.now.toNat], wdDead := false
        wdUntil := s.clk + us (imageUs c), liveAt := s.clk + us (imageUs c) } } ∧
      (s.tick.phase = .run ∨ s.tick.phase = .closing → ∀ p, p < 16 → (smapGet Part.reset v p).tabort = true) := by
  obtain ⟨e, he⟩ := resetCounted_first hticks hcount
  have habort := fun hphase p (hp : p < 16) => tabort_abortedInTick (s := resetCounted s) (by rw [he]; exact hwf) hphase hp
  obtain ⟨v, hv⟩ := abortedInTick_only (resetCounted s)
  rw [hv] at habort
  refine ⟨e, v, ?_, fun hphase => habort (by rw [he]; exact hphase)⟩
  have hboot := (chooseImage_update { s.secure with pending := false } none).trans (congrArg _ hc)
  have hcheck := sramChecked_no_sequence (s := { resetCounted s with parts := v }) (by rw [he]; exact hseqs)
  rw [resetAfterFreeze, resetTicks_first hticks, hv, hcheck, imageBooted_some (by rw [he]; exact hboot), he]
  rfl

end Watchdog

/-- Settles O29: the cores freeze (`getCore_freezeCores`), and `resetAfterFreeze_first` says what else the reset changes. -/
theorem belfryWatchdog : Obligations.BelfryWatchdog := by
  intro s c hup hdead harm hticks hcount hc hcores hparts hseqs
  obtain ⟨cs, hfrozen⟩ := freezeCores_only (List.range 100) (passTo (s.test.liveAt + us 10000) s)
  have hread := fun n => getCore_freezeCores n (l := List.range 100) (s := passTo (s.test.liveAt + us 10000) s) List.nodup_range hcores
  have hgo := belfryWatchdog_next hup hdead harm
  rw [allFrozen, hfrozen] at hgo
  rw [hfrozen] at hread
  obtain ⟨e, v, hafter, habort⟩ := resetAfterFreeze_first
    (s := { passTo (s.test.liveAt + us 10000) s with cores := cs }) hticks hcount hseqs hparts hc
  rw [hafter] at hgo
  refine ⟨_, hgo, habort, fun n j hn hj hst => ?_, rfl, rfl, rfl, rfl, rfl⟩
  have hcore := hread n
  rw [if_pos (List.mem_range.mpr hn)] at hcore
  have hj' := hcore.trans (frozenCore_job (c := getCore s n) hj _)
  exact ⟨congrArg Core.frozen hj', (congrArg Core.job hj').trans (congrArg some (if_neg hst))⟩

/-! ### Time limits (20 R528, R531) -/

section TimeLimits

variable {s : State} {n : Nat} {j : CoreJob}

/-- The job of core n has ended at this clk with TIMEOUT against the instruction `seq` at `pc`, `spc` the first that had not issued
(20 R528). -/
def TimedOut (t : State) (n seq : Nat) (pc spc : W64) (j : CoreJob) : Prop :=
  (getCore t n).fault = some { seq := seq, code := 6, trap := 0, fpc := pc, spc := spc, more := 0 } ∧
  (getCore t n).job = some { j with st := .faulted, endAt := t.clk }

/-- A fault takes no time, and leaves the domains, the transfers and the routing requests. -/
theorem takeFault_elsewhere (n seq code trap : Nat) (fpc : W64) (s : State) :
    (takeFault n seq code trap fpc s).clk = s.clk ∧ (takeFault n seq code trap fpc s).power = s.power ∧
    (takeFault n seq code trap fpc s).xfers = s.xfers ∧ (takeFault n seq code trap fpc s).routes = s.routes := by
  rcases takeFault_only n seq code trap fpc s with h | ⟨f, g, j, h⟩
  · rw [h]
    exact ⟨rfl, rfl, rfl, rfl⟩
  · rw [h]
    exact ⟨rfl, rfl, rfl, rfl⟩

/-- Without a descriptor: its core and the queues of what waits change alone. -/
theorem dropDesc_only (hwf : smapWf Core.reset s.cores = true) (seq sub : Nat) :
    ∃ sl w, dropDesc n seq sub s =
      { coreNow n (withoutDesc seq sub) s with bonded := { s.bonded with slices := sl }, waiters := w } := by
  obtain ⟨sl, hsl⟩ := leaveAll_only (n, seq, sub) (coreNow n (withoutDesc seq sub) s)
  refine ⟨sl, s.waiters.filter (fun w => ¬ (w.core = n ∧ w.seq = seq ∧ w.sub = sub)), ?_⟩
  simp only [dropDesc, releaseDesc, modCore_eq, coreNow_coreNow hwf]
  exact congrArg (fun u : State => { u with waiters := u.waiters.filter (fun w => ¬ (w.core = n ∧ w.seq = seq ∧ w.sub = sub)) }) hsl

/-- The end of what a transfer had waiting changes the peer edge alone. -/
theorem edge_endWaits (x : Xfer) (s : State) : EdgeOnly s (endWaits x s) := by
  unfold endWaits withdraw
  split
  · split
    · exact edge_modPort ..
    · exact .refl s
  · exact .refl s

/-- ... and so does that of several transfers. -/
theorem edge_foldl_endWaits (xs : List Xfer) (s : State) : EdgeOnly s (xs.foldl (fun s x => endWaits x s) s) :=
  edge_foldl _ (fun s x => edge_endWaits x s) xs s

/-- The job runs on core n and has taken no fault. -/
structure Running (s : State) (n : Nat) (j : CoreJob) : Prop where
  wf      : smapWf Core.reset s.cores = true
  job     : (getCore s n).job = some j
  sound   : (getCore s n).fault = none
  running : j.st = .running

theorem Running.timesOut (h : Running s n j) (seq : Nat) (pc : W64) :
    let t := takeFault n seq cTIMEOUT 0 pc s
    TimedOut t n seq pc (getCore s n).pc j ∧ (getCore t n).descs = (getCore s n).descs := by
  have hcan : canFault j.st = true := by rw [h.running]; rfl
  have hfirst := takeFault_first seq cTIMEOUT 0 pc h.job h.sound hcan
  rw [if_neg (by decide)] at hfirst
  have hcore := (congrArg (getCore · n) hfirst).trans ((getCore_setCore h.wf n n _).trans (if_pos rfl))
  obtain ⟨hclk, -⟩ := takeFault_elsewhere n seq cTIMEOUT 0 pc s
  refine ⟨⟨congrArg Core.fault hcore, ?_⟩, by rw [hcore]⟩
  rw [hclk]
  exact congrArg Core.job hcore

/-- A descriptor is late: its job takes TIMEOUT, and it leaves the core with its transfers (08 R220). -/
theorem Running.failDesc_timesOut (h : Running s n j) (d : Desc) :
    let t := failDesc n d cTIMEOUT s
    TimedOut t n d.seq d.pc (getCore s n).pc j ∧
    (getCore t n).descs = (getCore s n).descs.filter (fun x => ¬ (x.seq = d.seq ∧ x.sub = d.sub)) ∧
    t.clk = s.clk ∧ t.power = s.power ∧ t.xfers = s.xfers.filter fun x => !ownedBy n d.seq d.sub x := by
  obtain ⟨sl, w, hdrop⟩ := dropDesc_only (n := n) h.wf d.seq d.sub
  have hedge := edge_foldl_endWaits ((dropDesc n d.seq d.sub s).xfers.filter (ownedBy n d.seq d.sub)) (dropDesc n d.seq d.sub s)
  simp only [failDesc]
  generalize List.foldl (fun s x => endWaits x s) _ _ = u at hedge ⊢
  rw [hdrop] at hedge
  have hcores : u.cores = (coreNow n (withoutDesc d.seq d.sub) s).cores := hedge.cores
  have hcore : getCore u n = withoutDesc d.seq d.sub (getCore s n) := by
    rw [getCore, hcores]
    exact getCore_coreNow_same h.wf n _
  have hrun : Running { u with xfers := u.xfers.filter fun x => !ownedBy n d.seq d.sub x } n j :=
    ⟨hcores ▸ wf_set _ _ h.wf, (congrArg Core.job hcore).trans h.job, (congrArg Core.fault hcore).trans h.sound, h.running⟩
  obtain ⟨hout, hdescs⟩ := hrun.timesOut d.seq d.pc
  obtain ⟨hclk, hpower, hxfers, -⟩ := takeFault_elsewhere n d.seq cTIMEOUT 0 d.pc
    { u with xfers := u.xfers.filter fun x => !ownedBy n d.seq d.sub x }
  have hpc : (getCore u n).pc = (getCore s n).pc := by rw [hcore]; rfl
  refine ⟨hpc ▸ hout, hdescs.trans (congrArg Core.descs hcore), hclk.trans hedge.clk, hpower.trans hedge.power, hxfers.trans ?_⟩
  exact congrArg _ hedge.xfers

/-- The time limit of a descriptor that moves, or of its request, has passed, and no slice holds its next access. -/
theorem timeoutSlot_moving {slot k : Nat} {d : Desc} (hd : (getCore s n).descs[slot]? = some d) (hst : d.st = .moving k)
    (hheld : descHeld s n d k = false) (net : Bool) (limit : Nat) : timeoutSlot n slot net limit s =
      failDesc n d cTIMEOUT (passTo ((if net then d.turnAt else d.startAt + d.heldFor) + us limit) s) := by
  simp only [timeoutSlot, hd, timeoutDesc, hst, hheld, Bool.false_eq_true, if_false]

theorem Running.after_passTo (h : Running s n j) (k : Nat) : Running (passTo k s) n j := ⟨h.wf, h.job, h.sound, h.running⟩

/-- A transfer over the torus of a core's descriptor, the only one under way, is late: the descriptor fails. -/
theorem Running.endFail_timesOut (h : Running s n j) {x : Xfer} {seq sub : Nat} {d : Desc} (hx : s.xfers = [x])
    (howner : x.owner = .desc n seq sub)
    (hd : (getCore s n).descs.find? (fun d => decide (d.seq = seq) && decide (d.sub = sub)) = some d)
    (hstay : ∀ q, q < 25 → (getQuad s q).wantOff = false) :
    let t := endFail x cTIMEOUT s
    TimedOut t n d.seq d.pc (getCore s n).pc j ∧ t.xfers = [] ∧ t.clk = s.clk ∧ t.power = s.power := by
  have hedge := edge_endWaits x (dropXfer x s)
  have hnone : (dropXfer x s).xfers = [] := by simp [dropXfer, hx]
  simp only [endFail]
  generalize endWaits x (dropXfer x s) = u at hedge ⊢
  have hcore : getCore u n = getCore s n := by rw [getCore, hedge.cores]; rfl
  have hrun : Running u n j := by
    refine ⟨?_, hcore ▸ h.job, hcore ▸ h.sound, h.running⟩
    rw [hedge.cores]
    exact h.wf
  have hfail : xferFail x cTIMEOUT u = failDesc n d cTIMEOUT u := by simp only [xferFail, howner, hcore, hd]
  obtain ⟨hout, -, hclk, hpower, hxfers⟩ := hrun.failDesc_timesOut d
  have hpower' := hpower.trans hedge.power
  have hsettle : settleQuads (failDesc n d cTIMEOUT u) = failDesc n d cTIMEOUT u :=
    settleQuads_of_none_wants_off fun q hq => by rw [getQuad, hpower']; exact hstay q hq
  rw [hfail, hsettle]
  refine ⟨hcore ▸ hout, ?_, hclk.trans hedge.clk, hpower'⟩
  rw [hxfers, hedge.xfers, hnone]
  rfl

end TimeLimits

/-- Settles O39: what is late is removed and its job takes TIMEOUT (`Running.failDesc_timesOut`, `Running.timesOut`). Where the times count
from is log 70. -/
theorem timeLimits : Obligations.TimeLimits := by
  intro s n slot j hn hj hf hst hwf htrip faulted net dma remote disp
  have hrun : Running s n j := ⟨hwf, hj, hf, hst⟩
  refine ⟨fun d k hd hmove hheld => ?_, fun x chip seq sub d hx hvia howner hd hstay hheld => ?_,
    fun i r hr hcore hphase hands hdue => ?_⟩
  · have hlate : ∀ net limit, ∃ t, unitRes (decide (n < 100)) (tripOff (timeoutSlot n slot net limit s)) = .next t ∧
        faulted t d.seq d.pc ∧ t.clk = max s.clk ((if net then d.turnAt else d.startAt + d.heldFor) + us limit) ∧
        (getCore t n).descs = (getCore s n).descs.filter (fun x => ¬ (x.seq = d.seq ∧ x.sub = d.sub)) := fun net limit => by
      obtain ⟨hout, hdescs, hclk, hpower, -⟩ :=
        (hrun.after_passTo ((if net then d.turnAt else d.startAt + d.heldFor) + us limit)).failDesc_timesOut d
      rw [timeoutSlot_moving hd hmove hheld, tripOff_of_not_tripped (by rw [hpower]; exact htrip)]
      exact ⟨_, unitRes_next (decide_eq_true hn), hout, hclk, hdescs⟩
    exact ⟨hlate false (tmoDma s), hlate true (tmoNet s)⟩
  · obtain ⟨hout, hnone, hclk, hpower⟩ :=
      (hrun.after_passTo (x.lastAt + x.heldFor + us (tmoRem s))).endFail_timesOut hx howner hd hstay
    have hfind : s.xfers.find? (fun y => decide (y.uid = x.uid)) = some x := by simp [hx]
    have hgo : Goes (.remoteCompletionTimeout x.uid) s (endFail x cTIMEOUT (passTo (x.lastAt + x.heldFor + us (tmoRem s)) s)) := by
      simp only [Goes, exec, execRemoteCompletionTimeout, hfind, hvia, hheld, Bool.false_eq_true, if_false]
      rw [tripOff_of_not_tripped (by rw [hpower]; exact htrip)]
    exact ⟨_, hgo, hout, hnone, hclk⟩
  · have hgo : Goes (.dispatchTimeout i) s (takeFault n r.seq cTIMEOUT 0 r.pc
        { passTo (r.issued + r.heldFor + us (tmoDisp s)) s with routes := s.routes.eraseIdx i }) := by
      simp only [Goes, exec, execDispatchTimeout, readAllHands_idle hands, hr, hcore]
      exact if_neg (not_or.mpr ⟨not_not.mpr hphase, Nat.not_le.mpr hdue⟩)
    have hlate : Running { passTo (r.issued + r.heldFor + us (tmoDisp s)) s with routes := s.routes.eraseIdx i } n j :=
      ⟨hwf, hj, hf, hst⟩
    obtain ⟨hclk, -, -, hroutes⟩ := takeFault_elsewhere n r.seq cTIMEOUT 0 r.pc
      { passTo (r.issued + r.heldFor + us (tmoDisp s)) s with routes := s.routes.eraseIdx i }
    exact ⟨_, hgo, (hlate.timesOut r.seq r.pc).1, hroutes, hclk⟩

end Sys2Proof.Proofs
